-- ==== Sys2Proof/Word.lean ====
section
/-!
DEFINITION. Word.lean: the plain types of the model. Registers are 64 bits wide (spec/00_scope.md R6), memory is made of bytes
and every structure in memory is little-endian (R5).
-/

namespace Sys2Proof

/-- One byte. -/
abbrev Byte := BitVec 8

/-- One register (R6: all registers are 64 bits wide). -/
abbrev Word := BitVec 64

/-- A string of bytes, lowest address first. -/
abbrev Bytes := List Byte

/-- A sparse table: (key, value) pairs with strictly rising keys. A key that is not listed has the table's default value,
and no listed value equals that default (the canonical form, so that equal tables are equal data). -/
abbrev Tbl (α : Type) := List (Nat × α)

end Sys2Proof
end

