-- ==== Sys2Proof/Syntax.lean ====
section
/-!
DEFINITION. Syntax.lean: the commands of the block (spec/opcode_table.json), one constructor of `Instr` per row, and the operand
structures they carry. What comes from outside the part (a host command's words and record, a fabric packet, a
measured temperature, the outcome of a media operation) is an operand; what the part itself holds is in State.
-/

namespace Sys2Proof

/-- A 64-byte command as the part fetched it from a command ring (R482), with the bytes its record read (`data`, empty where
`HLEN` is 0) and whether that read ended without an error (R484 check 6). Offsets 4 and 48 are the reserved words. -/
structure HostCmd where
  ring : Nat
  opcode : Nat
  cflags : Nat := 0
  tag : Nat := 0
  rsv4 : Nat := 0
  haddr : Nat := 0
  hlen : Nat := 0
  a0 : Nat := 0
  a1 : Nat := 0
  a2 : Nat := 0
  a3 : Nat := 0
  rsv48 : Nat := 0
  data : Bytes := []
  readOk : Bool := true
  deriving DecidableEq, Repr

/-- What one doorbell scan read (R491): the four summary words and the bitmap words the swaps returned (`none` where a swap
failed, R492), and the producer indices read for the rings found. -/
structure DbScan where
  summary : List (Option Nat)
  bitmap : Tbl (Option Nat)
  prod : Tbl Nat
  deriving DecidableEq, Repr

/-- The fields every role-work message carries (R31): its sender, the sender's map epoch, the target's role epoch as the sender
resolved it, and the paddock it names (none for a message that names no paddock). -/
structure RoleHdr where
  src : Nat
  epoch : Nat
  roleEpoch : Nat
  paddock : Option Nat := none
  deriving DecidableEq, Repr

/-- Which message of this device a bounce answers (R235): a park of an entry, a ship of a stall, a chunk's invocation, a pull request,
a shard query, an invocation of this device carried to another member, a mutation record (the command, the record's place in it, and the
record), or any other message. -/
inductive BouncedWhat where
  | park (stall page shard : Nat)
  | ship (stall : Nat)
  | chunk (stall : Nat)
  | pull (home stall pullId : Nat)
  | query (qid shard : Nat)
  | invocation (id : Nat)
  | mutation (cmd pos : Nat) (record : Bytes)
  | other
  deriving DecidableEq, Repr

/-- A bounce received (R234): the receiver that sent it, the bounce code, its epoch and role epoch, and the message it answers with the
epoch and role epoch that message carried. -/
structure BounceMsg where
  src : Nat
  code : Nat
  epoch : Nat
  roleEpoch : Nat
  what : BouncedWhat
  msgEpoch : Nat
  msgRoleEpoch : Nat
  deriving DecidableEq, Repr

/-- An intake request as it arrives (R177, R484, R486): from a command ring or from a device of the fabric, with its 64-byte
items. -/
structure IntakeReq where
  ring : Option Nat
  src : Nat := 0
  items : List Bytes
  deriving DecidableEq, Repr

/-- What the allocator reads of the bulk window (R180 row 5, R293, R494): the segments whose OWNER byte reads 0x02, and the bytes of the
request's query segment, if it has one. -/
structure AllocRead where
  handed : List Nat
  query : Bytes := []
  deriving DecidableEq, Repr

/-- A WORK descriptor as an executing member stored it into the home's page list (R197): its entry and its 16 bytes. -/
structure WorkDesc where
  page : Nat
  shard : Nat
  desc : Bytes
  deriving DecidableEq, Repr

/-- How a unit of work came to its end for a stall: it ended; its launch left the stall out because the deadline had passed (R165);
R18 refused it (R236); a fault or a switch stopped it (R109, R152). -/
inductive UnitKind where
  | ended | leftOut | refused | stopped
  deriving DecidableEq, Repr

/-- What reaches a home at the end of a unit of work for one of its stalls (R162, R214, R550): the executing device and map epoch,
the completion status, whether the stall's result was poisoned, the scheduled beat that is compared with the deadline (the
launch beat where the stall was left out), the WORK descriptors stored, and the tokens to commit in position order. -/
structure UnitEnd where
  stall : Nat
  exec : Nat
  epoch : Nat
  kind : UnitKind := .ended
  status : Nat := 0
  poison : Bool := false
  beat : Nat := 0
  works : List WorkDesc := []
  tokens : List Nat := []
  deriving DecidableEq, Repr

/-- A copy of a stall from its home to its shadow (R167, R168, R173): the 128-byte record, the token log entries and the PARK
descriptors stored before it, and the sampling copy and stop tokens. -/
structure ReplMsg where
  src : Nat
  stall : Nat
  record : Bytes
  toks : List (Nat × Nat) := []
  parks : List WorkDesc := []
  samp : Bytes := []
  deriving DecidableEq, Repr

/-- An operand of an engine operation as the core code names it: format code, the scratchpad offset of its element array (its slot
array where `hdr` gives the header array), its scale array likewise, the bytes of both, and the first block read. -/
structure EngOperand where
  fmt : Nat
  data : Nat
  hdr : Option Nat := none
  scale : Nat := 0
  scaleHdr : Option Nat := none
  dataLen : Nat
  scaleLen : Nat := 0
  first : Nat := 0
  deriving DecidableEq, Repr

/-- The lane operations of the vector unit (R100) on FP32 and INT32 lanes, and the conversions between formats. -/
inductive VecOp where
  | add | sub | mul | fma | abs | neg | min | max | div | sqrt | rcp | rsqrt | exp2 | log2
  | eq | ne | lt | le | sel
  | conv (src dst : Nat)
  | iadd | isub | imul | shl | shr | sar | and | or | xor | imin | imax | popcount
  deriving DecidableEq, Repr

/-- One operation of core code (R77 to R104), as the core code that Septip built asks for it; offsets are in the core's own
scratchpad. `mx`: n block pairs into a long accumulator; `bf16`: k products into an FP32 accumulator; `drain`: an accumulator to
memory, with C; `dot`: R95; `combine`: two long partials; `vec`: n lanes; `reduce`: n lanes to one; `move`: a lane permutation;
`quant`: one MX block from 32 FP32 values, stochastic with a domain, a key and the first element's index; `attend`: the
attention of R202 of one query head; `copy`: one copy descriptor issued by index. -/
inductive CoreOp where
  | mx (eng row lane : Nat) (a b : EngOperand) (n : Nat)
  | bf16 (eng row lane a b k : Nat)
  | drain (eng row lane : Nat) (long : Bool) (fmt dst : Nat) (c : Option Nat)
  | dot (a b k : Nat) (c : Option Nat) (dst : Nat)
  | combine (x y dst : Nat)
  | vec (o : VecOp) (a b c dst n : Nat)
  | reduce (o : VecOp) (src n dst : Nat)
  | move (src dst : Nat) (idx : List Nat)
  | quant (fmt src dst sdst : Nat) (stoch : Option (Nat × Nat × Nat))
  | attend (kvFmt dim : Nat) (scaleLog2 q : Nat) (qpos : Nat) (window : Option Nat) (keys vals dst stats : Nat)
  | copy (idx : Nat)
  deriving DecidableEq, Repr

/-- One bind slot of an invocation: the stall by home * 2^17 + stall, and its step record's values (R204). -/
structure Bind where
  key : Nat
  posFirst : Nat
  posCount : Nat
  lenCommit : Nat
  kvEnd : Nat
  ndraft : Nat := 0
  bucket : Nat := 0xFF
  rebuild : Bool := false
  windowed : Bool := false
  tokLog : Nat := 0
  ring : Nat := 0
  opens : Nat := 0
  deriving DecidableEq, Repr

/-- How an invocation message came about (R145, R205, R240): from the member that received it, with its number there and its bind slots; or from a home,
for a chunk or a tail rebuild of a stall. -/
inductive InvFrom where
  | member (id : Nat) (binds : List Bind)
  | chunk (stall posFirst posCount lenCommit kvEnd tokLog : Nat)
  | rebuild (stall posFirst posCount lenCommit kvEnd tokLog : Nat)
  deriving DecidableEq, Repr

/-- An invocation as a member receives it (R144, R145): the role header, where it comes from, and the 64-byte record. -/
structure InvMsg where
  h : RoleHdr
  kind : InvFrom
  record : Bytes
  deriving DecidableEq, Repr

/-- What a member reports of an invocation (R145): its rank, its refusal or the records of its entries (status, launch slip and end
beat), and for a stall-bound invocation the WORK descriptors and, per bind slot, whether its rows were poisoned; for a mirrored one the comparison
of digests (R470, R471): 0 they match, 1 they differ and neither side is marked, 2 this side is marked, 3 the other is. -/
structure InvReport where
  rank : Nat
  refused : Option Nat := none
  empty : Bool := false
  ents : List (Nat × Nat × Nat)
  works : List WorkDesc := []
  poisoned : List Nat := []
  mismatch : Nat := 0
  deriving DecidableEq, Repr

/-- The logit rows of a bind slot as the SAMPLE entry reads them (R260): one row of FP32 scores per position, none where poisoned. -/
structure LogitRows where
  key : Nat
  rows : List (Option (List Nat))
  deriving DecidableEq, Repr

/-- One page region of a pannier (R220): its page entry and its bytes as they land; `blocksOk`: every block passed R125;
`plainCrc`: the CRC-32C of its plain bytes. -/
structure PanRegion where
  page : Nat
  shard : Nat
  fill : Nat
  cmp : Bool
  crc : Nat
  size : Nat
  blocksOk : Bool
  plainCrc : Nat
  body : Bytes
  deriving DecidableEq, Repr

/-- A pannier as it arrives (R219, R220): its 64 header bytes, whether its page entries' reserved bytes are zero, its regions, and the
open buffers by shard. -/
structure Pannier where
  hdr : Bytes
  entriesOk : Bool := true
  regions : List PanRegion
  opens : List (Nat × Bytes)
  deriving DecidableEq, Repr

/-- A ship notice (R228): what the home tells a receiving member: the stall's record, what it pulls, the PARK descriptors below
KV_END, the sampling copy, the stop tokens and the token log; `pre`: a pre-pull of R236. -/
structure ShipNotice where
  h : RoleHdr
  stall : Nat
  home : Nat
  paddock : Nat
  record : Bytes
  kvEnd : Nat
  pageFirst : Nat
  prev : Option Nat
  parks : List WorkDesc
  samp : Bytes := []
  stops : List Nat := []
  toks : List Nat := []
  penFrom : Nat := 0
  pre : Bool := false
  deriving DecidableEq, Repr

/-- A pull request (R229). -/
structure PullRequest where
  h : RoleHdr
  stall : Nat
  home : Nat
  pullId : Nat
  pageFirst : Nat
  pageN : Nat
  shardFirst : Nat
  shardN : Nat
  eager : Bool
  fromWork : Bool
  deriving DecidableEq, Repr

/-- A park acknowledgement (R223): its 32 bytes, with the header R31 reads. -/
structure ParkAck where
  h : RoleHdr
  body : Bytes
  deriving DecidableEq, Repr

/-- A refusal of a pull request (R229): the code, the PULL_ID, and the first region not held. -/
structure PullNo where
  h : RoleHdr
  home : Nat
  stall : Nat
  pullId : Nat
  status : Nat
  page : Nat
  shard : Nat
  deriving DecidableEq, Repr

/-- A member's report to the home (R230, R232): its pull is complete, or its failure, with the regions it found lost. -/
structure PullDone where
  h : RoleHdr
  stall : Nat
  member : Nat
  status : Nat
  works : List WorkDesc := []
  lost : List (Nat × Nat) := []
  deriving DecidableEq, Repr

/-- A release notice (R230, R199, R201, R242): to a previous paddock (its WORK copies and open buffers; `parked` empty) or to a
holder (the parked regions named). -/
structure ReleaseMsg where
  h : RoleHdr
  home : Nat
  stall : Nat
  work : Bool
  parked : List (Nat × Nat)
  deriving DecidableEq, Repr

/-- A re-park notice (R238): the region, and the holder it leaves. -/
structure ReparkMsg where
  h : RoleHdr
  home : Nat
  stall : Nat
  page : Nat
  shard : Nat
  model : Nat
  size : Nat
  departing : Nat
  deriving DecidableEq, Repr

/-- A shard query (R290): the issuer's number for the query, the fields of the descriptor the owner uses, the query vector widened to
FP32, the query code, the tenant, and the beat after which no answer is wanted. -/
structure ShardQuery where
  h : RoleHdr
  qid : Nat
  index : Nat
  shard : Nat
  k : Nat
  ef : Nat
  rerank : Nat
  maxExpand : Nat
  filtA : Nat
  filtB : Nat
  dim : Nat
  vec : List Nat
  code : Bytes
  qbeat : Nat
  tenant : Nat
  expires : Nat
  deriving DecidableEq, Repr

/-- A shard's answer (R285): its status, the listed (score, global ID) pairs in rank order, TIE_OUT, and the walk's counts. -/
structure ShardAns where
  status : Nat
  entries : List (Nat × Nat) := []
  tieOut : Nat := 0
  scored : Nat := 0
  expanded : Nat := 0
  deriving DecidableEq, Repr

/-- A mutation record as it reaches a sequencer, or, forwarded, the shard's ALT (R296): the issuing device, the number of its command and
of the record there, the record's 48 bytes, and the vector and code it names. -/
structure MutMsg where
  h : RoleHdr
  issuer : Nat
  cmd : Nat
  pos : Nat
  record : Bytes
  vec : Bytes := []
  code : Bytes := []
  forwarded : Bool := false
  deriving DecidableEq, Repr

/-- What ends a mutation (R296): at the sequencer, that ALT has applied a forwarded record; at the issuer, the answer of one. -/
inductive MutAnswer where
  | applied (index shard issuer : Nat) (mtag : Nat)
  | answer (cmd pos : Nat) (body : Bytes)
  deriving DecidableEq, Repr

/-- What a read of a passage from its owner returned (R294): nothing where the slot is neither live nor a tombstone. -/
structure PassageRead where
  global : Nat
  toks : Option (List Nat)
  deriving DecidableEq, Repr

/-- A copy that has ended (R314, R315, R224): of a unit, with the number of restarts its last pass followed; or of a parked region that
goes to the hayloft, with its first block there. -/
inductive MoveDone where
  | unit (u pass : Nat)
  | parked (home stall page shard lba : Nat)
  deriving DecidableEq, Repr

/-- What a scrub read found (R328, R329): nothing, a corrected line, an uncorrectable one. -/
inductive ScrubRes where
  | clean | corrected | bad
  deriving DecidableEq, Repr

/-- What the parameter page of a target reports (R334): target number (8 * channel + target), data and spare bytes of a page, LUNs, planes,
pages per plane block, blocks per plane, cell type (1 TLC, 2 QLC), and whether it has an SLC mode. -/
structure TargetReport where
  target : Nat
  dataBytes : Nat
  spareBytes : Nat
  luns : Nat
  planes : Nat
  pages : Nat
  blocks : Nat
  cell : Nat
  slc : Bool
  deriving DecidableEq, Repr

/-- How a flash read ended (R361): at once, after retries or soft decoding, or not at all. -/
inductive FlashRead where
  | clean | retried | bad
  deriving DecidableEq, Repr

/-- A fabric packet: the fields of its 48-byte header (R380) and its payload. `rsv`: some reserved field of the header is set. `re`: of a
response, the SSN of the request it answers. -/
structure Packet where
  op : Nat
  cls : Nat := 0
  release : Bool := false
  arrival : Bool := false
  poison : Bool := false
  sync : Bool := false
  pform : Bool := false
  src : Nat
  dst : Nat
  job : Nat := 0
  ssn : Nat := 0
  rkey : Nat := 0
  addr : Nat := 0
  issue : Nat := 0
  len : Nat := 0
  status : Nat := 0
  ord : Nat := 0xFFFFFF00
  epoch : Nat := 0
  paddock : Nat := 0
  hops : Nat := 0
  rsv : Bool := false
  re : Nat := 0
  body : Bytes := []
  deriving DecidableEq, Repr

/-- What a stream NAK carries (R374, R377): the expected SSN, "unknown", or "full". -/
inductive NakKind where
  | expected (e : Nat)
  | unknown
  | full
  deriving DecidableEq, Repr

/-- A vote message (R453): its fields, and whether its reserved fields are zero and its CRC right. -/
structure VoteMsg where
  vmsg : Nat
  vkind : Nat
  subject : Nat
  sender : Nat
  ballot : Nat := 0
  callBeat : Nat
  castBeat : Nat := 0
  score : Nat := 0
  caller : Nat
  epoch : Nat := 0
  ok : Bool := true
  deriving DecidableEq, Repr

/-- A decision as devices keep it (R456): its tally beat, VKIND, subject, the spare claimed, the vote's CALL_BEAT, and the subject's
role. -/
structure Decision where
  tally : Nat
  vkind : Nat
  subject : Nat
  spare : Option Nat
  callBeat : Nat
  role : Nat
  deriving DecidableEq, Repr

/-- A fabric control message (R370): a stream's ACK, with the status of each operation it covers that failed, or NAK; a round's question
or answer, with the SSN of the last packet sent per class; a vote message; a neighbour's decisions (R456). -/
inductive CtlMsg where
  | ack (src dst cls ssn : Nat) (fails : List (Nat × Nat))
  | nak (src dst cls : Nat) (kind : NakKind)
  | roundAsk (src dst paddock issue : Nat)
  | roundDone (src dst paddock issue : Nat) (last : List (Option Nat))
  | vote (v : VoteMsg)
  | decisions (dst : Nat) (l : List Decision)
  deriving DecidableEq, Repr

/-- A heartbeat (R450). -/
structure Heartbeat where
  num : Nat
  state : Nat
  score : Nat
  ports : Nat
  epoch : Nat
  deriving DecidableEq, Repr

/-- A link control flit (R370): its sender, its link sequence number and acknowledgement (R369), a replay asked for from a flit, the pause
vector, the cadence field (CAD_VALUE, CAD_STRATUM), the map announcement (epoch, CRC of the pending map; `cur`: of the current one, R467), the heartbeat, whether its sender
has HLT_TANDEM.EN set (R467), and its control messages. -/
structure CtlFlit where
  src : Nat
  port : Nat := 0
  seq : Nat := 0
  ack : Nat := 0
  replay : Option Nat := none
  pauses : List Nat := []
  cad : Option (Nat × Nat) := none
  map : Option (Nat × Nat) := none
  cur : Nat × Nat := (0, 0)
  hb : Option Heartbeat := none
  tandem : Bool := false
  msgs : List CtlMsg := []
  deriving DecidableEq, Repr

/-- What a core asks of the fabric (R378, R381): an operation at an address (a paddock address, or, with `dst`, an address of that device
under `rkey`), with its width or bytes, the scratchpad offset its result goes to, and the completion counter it names; or a wait for
a counter. -/
inductive RemoteOp where
  | load (addr : Nat) (dst : Option Nat) (rkey ctr len result : Nat)
  | store (addr : Nat) (dst : Option Nat) (rkey ctr : Nat) (data : Bytes) (poison arrival release : Bool)
  | add (addr : Nat) (dst : Option Nat) (rkey ctr width value : Nat)
  | fetchAdd (addr : Nat) (dst : Option Nat) (rkey ctr width value result : Nat)
  | cas (addr : Nat) (dst : Option Nat) (rkey ctr width compare swap result : Nat)
  | fadd (addr : Nat) (dst : Option Nat) (rkey ctr value : Nat)
  | await (ctr : Nat)
  deriving DecidableEq, Repr

/-- A message of another chapter that a MSG completes, where it has no row of its own: a fragment of one that does; an STL_SPILL asked of a
holder (R224); a home's request to an executing member to park an entry with a holder (R223), with the entry's fields; a shard's passages as the
partner's home sends them (R295); a request accepted on the other plane, its given tokens, the partner's answer, and a delivery notice (R468);
`qp`: none, the packet is one of a queue pair (R412). -/
inductive FabMsg where
  | fragment
  | spillAsk (h : RoleHdr) (home stall page shard : Nat)
  | parkAsk (h : RoleHdr) (stall page shard holder paddock holderEpoch model pageLog2 shards kvEnd fill : Nat) (cmp : Bool) (crc : Nat)
  | mirrorTokens (stall : Nat) (toks : List Nat)
  | mirrorIntake (stall : Nat) (items : List Bytes)
  | mirrorGiven (stall : Nat) (samp : Bytes) (toks : List Nat)
  | mirrorAnswer (stall : Nat) (ok : Bool)
  | delivered (stall lenDeliv : Nat) (final : Bool)
  | qp
  deriving DecidableEq, Repr
/-- A parked region in a load (R462): its home, stall, page and shard, its descriptor (R195), its bytes, and whether they are poisoned. -/
structure LoadHeld where
  home : Nat
  stall : Nat
  page : Nat
  shard : Nat
  desc : Bytes
  body : Bytes
  poison : Bool
  deriving DecidableEq, Repr

/-- What a load copies from its source (R462), as it stands on the target at cutover: bytes of memory by the key of the first (memKey),
each with whether it is poisoned; model and paddock records; heap regions in use (paddock, base, size, home * 2^17 + stall, page, shard, and what
they hold: 0 a page, 1 an open buffer, 2 a ring, 3 a page a park took); stalls that decode (with the paddock of each); program images
(paddock, slot, base, image); prefetch tables (paddock, slot, entries); parked regions; and headers of search shards. -/
structure LoadImage where
  mem : List (Nat × Bytes × Bool) := []
  models : List Bytes := []
  pads : List Bytes := []
  regions : List (List Nat) := []
  stalls : List ShipNotice := []
  slots : List (Nat × Nat × Nat × Bytes) := []
  prefetch : List (Nat × Nat × List Bytes) := []
  held : List LoadHeld := []
  shards : List Bytes := []
  deriving DecidableEq, Repr

/-- What the boot ROM's engines measured over an image (R527): the SHA-384 of PUBKEY, the SHA-384 of the body, whether SIGNATURE
verifies under PUBKEY as ECDSA with P-384 and SHA-384, and whether the read ended without an error. -/
structure Measured where
  keyHash : Bytes := []
  bodyHash : Bytes := []
  sigOk : Bool := false
  readOk : Bool := true
  deriving DecidableEq, Repr

/-- A NOR slot as the boot ROM read it: its 512-byte header, and what was measured. -/
structure SlotRead where
  hdr : Bytes
  m : Measured
  deriving DecidableEq, Repr

/-- What start-up has found so far (R529): which parts of it have ended, the cores and channels that failed, and the ports that
trained: port, lanes, neighbour and round-trip time in 1/16 beat. -/
structure StartUp where
  eng : Bool := false
  hbm : Bool := false
  azf : Bool := false
  failedCores : List Nat := []
  failedChannels : List Nat := []
  ports : List (Nat × Nat × Nat × Nat) := []
  deriving DecidableEq, Repr

/-- The role-work and state messages R31 and R233 govern, as a receiver may have to hold them until its own switch. -/
inductive RoleMsg where
  | park (p : Pannier)
  | ack (a : ParkAck)
  | ship (n : ShipNotice)
  | pull (q : PullRequest)
  | reply (p : Pannier)
  | refusal (r : PullNo)
  | done (r : PullDone)
  | release (r : ReleaseMsg)
  | repark (r : ReparkMsg)
  | invoke (m : InvMsg)
  | hostInvoke (c : HostCmd)
  | query (q : ShardQuery)
  | mutation (m : MutMsg)
  deriving DecidableEq, Repr

/-- The commands and events of the part: one constructor per row of the opcode table, with what the sender, or the hardware
around the part, brings with it. -/
inductive Instr where
  /-- POR (R524). -/
  | por (slotId bootMode : Nat) (testEn : Bool)
  /-- POWER_LOSS (R522). -/
  | powerLoss
  /-- WRST_N_LOW (R524). -/
  | wrstNLow
  /-- PWR_RESET_WARM (R524). -/
  | pwrResetWarm
  /-- FIRMWARE_WATCHDOG (R524). -/
  | firmwareWatchdog
  /-- FIRMWARE_VERIFY (R527). -/
  | firmwareVerify (a b : SlotRead) (retained : Bool)
  /-- PWR_BOOT_GO (R528). -/
  | pwrBootGo (m : Measured)
  /-- PWR_BOOT_PROGRAM (R528). -/
  | pwrBootProgram (m : Measured) (norOk : Bool)
  /-- FIRMWARE_READY (R529). -/
  | firmwareReady
  /-- READY_FOR_COMPOSITION (R529). -/
  | readyForComposition (u : StartUp)
  /-- TARGET_STABLED (R520). -/
  | targetStabled (value : Nat)
  /-- TARGET_RUN (R522). -/
  | targetRun
  /-- STABLED_ENTRY_COMPLETE (R522). -/
  | stabledEntryComplete
  /-- WAKE_COMPLETE (R523). -/
  | wakeComplete
  /-- WAKE_TIMEOUT (R522). -/
  | wakeTimeout (parts : List (Nat × Nat))
  /-- STABLED_RING0_SCAN (R521). -/
  | stabledRing0Scan (prod : Option Nat) (c : Option HostCmd)
  /-- DIE_GATE (R519). -/
  | dieGate (die : Nat)
  /-- DIE_UNGATE (R519). -/
  | dieUngate (die : Nat)
  /-- SENSOR_READ (R509). -/
  | sensorRead (sensors : List (List (Option Nat)))
  /-- PROCHOT_N_LOW (R509). -/
  | prochotNLow
  /-- POWER_CAP_CHECK (R509). -/
  | powerCapCheck (avg : Nat)
  /-- AVS_TRANSACTION (R506). -/
  | avsTransaction (rail : Nat) (ok : Bool) (step : Nat)
  /-- SMBUS_BLOCK_READ (R516). -/
  | smbusBlockRead (cmd : Nat)
  /-- EXTEST (R531). -/
  | extest
  /-- SAMPLE_PRELOAD (R531). -/
  | samplePreload
  /-- IDCODE (R531). -/
  | idcode
  /-- CLAMP (R531). -/
  | clamp
  /-- HIGHZ (R531). -/
  | highz
  /-- EXTEST_PULSE (R531). -/
  | extestPulse
  /-- EXTEST_TRAIN (R531). -/
  | extestTrain
  /-- DBG_ACCESS (R539). -/
  | dbgAccess (write : Bool) (off value : Nat)
  /-- SCAN (R531). -/
  | scan
  /-- BYPASS (R531). -/
  | bypass (code : Nat)
  /-- TRST_N_RESET (R525). -/
  | trstNReset
  /-- HOST_LINK_EVENT (R498). -/
  | hostLinkEvent
  /-- DB_SCAN (R491). -/
  | dbScan (d : DbScan)
  /-- HIF_EN_SET (R481). -/
  | hifEnSet (value : Nat)
  /-- INTAKE_PARTIAL_TIMEOUT (R486). -/
  | intakePartialTimeout (ring : Nat)
  /-- CPL_CONS_POLL (R488). -/
  | cplConsPoll (ring cons : Nat)
  /-- HIF_DMA_RETRY (R492). -/
  | hifDmaRetry (ok : Bool)
  /-- MSIX_SIGNAL (R496). -/
  | msixSignal (ring : Nat)
  /-- REGISTER_WRITE (R537). -/
  | registerWrite (off value : Nat)
  /-- NARROW_ACCESS (R6). -/
  | narrowAccess (off : Nat) (write : Bool)
  /-- UNMAPPED_ACCESS (R536). -/
  | unmappedAccess (off : Nat) (write : Bool)
  /-- RC_READ (R10). -/
  | rcRead (off : Nat)
  /-- CAD_LOAD_ARM (R49). -/
  | cadLoadArm (value : Nat)
  /-- INTK_CMD_NEXT (R183). -/
  | intkCmdNext
  /-- INTK_CMD_DROP_REST (R175). -/
  | intkCmdDropRest
  /-- SHP_CMD_APPLY (R437). -/
  | shpCmdApply
  /-- SHP_CMD_READ (R437). -/
  | shpCmdRead
  /-- DETM_REQ_WRITE (R62). -/
  | detmReqWrite (req : Bool)
  /-- HAY_EN_SET (R348). -/
  | hayEnSet (value : Nat)
  /-- HAY_EN_CLEAR (R348). -/
  | hayEnClear (value : Nat)
  /-- HLT_TANDEM_EN (R467). -/
  | hltTandemEn (value : Nat)
  /-- HLT_ASK_RELEASE (R449). -/
  | hltAskRelease
  /-- NEW (R179). -/
  | newItem (q : IntakeReq)
  /-- CONTINUE (R179). -/
  | continueItem (q : IntakeReq)
  /-- ALLOCATOR_READ (R180). -/
  | allocatorRead (r : AllocRead)
  /-- SHADOW_ENTRY_CREATE (R167). -/
  | shadowEntryCreate (m : ReplMsg)
  /-- INTAKE_ACKNOWLEDGEMENT (R182). -/
  | intakeAcknowledgement (stall status : Nat)
  /-- SAMPLING_RECORD_CHECK (R259). -/
  | samplingRecordCheck (stall : Nat) (record : Bytes)
  /-- END_OF_INTAKE (R162). -/
  | endOfIntake (stall : Nat) (tokens : List Nat)
  /-- CHUNK_DISPATCH (R205). -/
  | chunkDispatch (stall base period : Nat) (works : Option (List WorkDesc))
  /-- CHUNK_END (R162). -/
  | chunkEnd (u : UnitEnd)
  /-- STEP_END (R165). -/
  | stepEnd (u : UnitEnd)
  /-- STALL_RETIRE (R162). -/
  | stallRetire (stall : Nat)
  /-- PARK_EXPIRY (R162). -/
  | parkExpiry (stall : Nat)
  /-- REPLICATION (R170). -/
  | replication (m : ReplMsg)
  /-- REPLICATION_ACK (R169). -/
  | replicationAck (stall version : Nat)
  /-- REPLICATION_REFUSED (R173). -/
  | replicationRefused (stall code : Nat)
  /-- PELOTON_STEP_LAUNCH (R209). -/
  | pelotonStepLaunch (paddock entry : Nat)
  /-- DRAFT_LAUNCH (R209). -/
  | draftLaunch (paddock entry : Nat)
  /-- GATE_NOTICE (R225). -/
  | gateNotice (home stall lenParked : Nat) (start : Bool)
  /-- PELOTON_MASK (R551). -/
  | pelotonMask (paddock mask : Nat)
  /-- ENTRY_LAUNCH (R53). -/
  | entryLaunch (inv entry : Nat) (work : List (Nat × CoreOp))
  /-- POOL_TASK_PLACE (R146). -/
  | poolTaskPlace (core : Nat) (work : List CoreOp)
  /-- ENTRY_COMPLETE (R145). -/
  | entryComplete (inv entry status : Nat) (poison : Bool) (work : List (Nat × CoreOp)) (rows : List LogitRows)
  /-- INVOCATION_MESSAGE (R145). -/
  | invocationMessage (m : InvMsg)
  /-- INVOCATION_COMPLETE (R145). -/
  | invocationComplete (inv : Nat) (reports : List InvReport)
  /-- PRIME_COPIES_COMPLETE (R152). -/
  | primeCopiesComplete (inv : Nat)
  /-- CHEAP_POINT (R150). -/
  | cheapPoint (core pc : Nat) (context : Bytes)
  /-- SAVE_COMPLETE (R149). -/
  | saveComplete (core : Nat)
  /-- COPY_COMPLETE (R103). -/
  | copyComplete (inv desc : Nat) (remote : Tbl Bytes)
  /-- CORE_FAULT (R106). -/
  | coreFault (core : Nat)
  /-- CORE_WATCHDOG (R105). -/
  | coreWatchdog (core : Nat)
  /-- SPARE_RESTORE_COMPLETE (R106). -/
  | spareRestoreComplete (core : Nat)
  /-- SPARE_SELF_TEST (R106). -/
  | spareSelfTest (core : Nat) (pass : Bool)
  /-- ENG_RETEST (R106). -/
  | engRetest (c : HostCmd) (pass : Bool)
  /-- CORE_REMOTE_ISSUE (R381). -/
  | coreRemoteIssue (core : Nat) (o : RemoteOp)
  /-- FENCE (R394). -/
  | fence (core : Nat) (dst : Option Nat)
  /-- SELECT (R246). -/
  | select (inv entry desc : Nat) (remote : Tbl Bytes)
  /-- MERGE (R254). -/
  | merge (inv entry desc : Nat) (remote : Tbl Bytes)
  /-- HIF_RING (R481). -/
  | hifRing (c : HostCmd)
  /-- HIF_RING_DISABLE (R481). -/
  | hifRingDisable (c : HostCmd)
  /-- COMP_STAGE (R28). -/
  | compStage (c : HostCmd)
  /-- CMP_TABLE_LOAD (R118). -/
  | cmpTableLoad (c : HostCmd)
  /-- SEP_LOAD (R137). -/
  | sepLoad (c : HostCmd)
  /-- SEP_UNLOAD (R137). -/
  | sepUnload (c : HostCmd)
  /-- SEP_INVOKE (R145). -/
  | sepInvoke (c : HostCmd)
  /-- KV_MODEL (R189). -/
  | kvModel (c : HostCmd)
  /-- KV_PADDOCK (R207). -/
  | kvPaddock (c : HostCmd)
  /-- STL_CANCEL (R162). -/
  | stlCancel (c : HostCmd)
  /-- STL_RELEASE (R162). -/
  | stlRelease (c : HostCmd)
  /-- STL_SPILL (R224). -/
  | stlSpill (c : HostCmd)
  /-- SRCH_ATTACH (R278). -/
  | srchAttach (c : HostCmd)
  /-- SRCH_DETACH (R274). -/
  | srchDetach (c : HostCmd)
  /-- SRCH_DIR (R273). -/
  | srchDir (c : HostCmd)
  /-- SRCH_QUERY (R289). -/
  | srchQuery (c : HostCmd)
  /-- SRCH_MUTATE (R296). -/
  | srchMutate (c : HostCmd)
  /-- MEM_REGION (R308). -/
  | memRegion (c : HostCmd)
  /-- MEM_REGION_REMOVE (R310). -/
  | memRegionRemove (c : HostCmd)
  /-- MEM_FLUSH (R320). -/
  | memFlush (c : HostCmd)
  /-- MEM_PF_LOAD (R322). -/
  | memPfLoad (c : HostCmd)
  /-- HAY_FORMAT (R337). -/
  | hayFormat (c : HostCmd) (marks : List Nat)
  /-- AZF_ROUTE (R373). -/
  | azfRoute (c : HostCmd)
  /-- AZF_REGION (R386). -/
  | azfRegion (c : HostCmd)
  /-- AZF_REGION_REMOVE (R386). -/
  | azfRegionRemove (c : HostCmd)
  /-- AZF_JOB (R386). -/
  | azfJob (c : HostCmd)
  /-- AZF_JOB_REMOVE (R386). -/
  | azfJobRemove (c : HostCmd)
  /-- AZF_TEARDOWN (R398). -/
  | azfTeardown (c : HostCmd)
  /-- QP_PD (R403). -/
  | qpPd (c : HostCmd)
  /-- QP_CREATE (R405). -/
  | qpCreate (c : HostCmd)
  /-- QP_MODIFY (R406). -/
  | qpModify (c : HostCmd)
  /-- QP_DESTROY (R406). -/
  | qpDestroy (c : HostCmd)
  /-- QP_POST (R408). -/
  | qpPost (c : HostCmd) (bulk : Option Bytes)
  /-- QP_RECV (R411). -/
  | qpRecv (c : HostCmd) (descs : List (Bytes × Bool))
  /-- HLT_CKPT (R463). -/
  | hltCkpt (c : HostCmd) (regions : List Bytes)
  /-- HLT_RESTORE (R465). -/
  | hltRestore (c : HostCmd) (image header : Bytes)
  /-- HLT_DECLARE (R458). -/
  | hltDeclare (c : HostCmd)
  /-- EVG_SYNC_PULSE (R49). -/
  | evgSyncPulse
  /-- SYNC_PULSE_ABSENT (R49). -/
  | syncPulseAbsent
  /-- EVG_REF_LOST (R49). -/
  | evgRefLost
  /-- BEAT_CLOCK_LOCKED (R49). -/
  | beatClockLocked
  /-- FOLLOW_TIMEOUT (R49). -/
  | followTimeout
  /-- SLEW_CORRECTION (R50). -/
  | slewCorrection
  /-- HBM_REFRESH (R55). -/
  | hbmRefresh (channel : Nat)
  /-- EFFECTIVE_BEAT (R30). -/
  | effectiveBeat
  /-- GRACE_END (R30). -/
  | graceEnd
  /-- BOUNCE (R235). -/
  | bounce (b : BounceMsg)
  /-- BOUNCE_RETRY (R235). -/
  | bounceRetry
  /-- LANE_LOCK_LOSS (R367). -/
  | laneLockLoss (port lane : Nat)
  /-- LANE_RETRAIN (R367). -/
  | laneRetrain (port lane : Nat) (pass : Bool)
  /-- PORT_DOWN (R368). -/
  | portDown (port : Nat)
  /-- PORT_UP (R368). -/
  | portUp (port lanes neighbour rtt : Nat)
  /-- CONTROL_FLIT_SEND (R370). -/
  | controlFlitSend (port : Nat)
  /-- CONTROL_FLIT_RECEIVE (R370). -/
  | controlFlitReceive (port : Nat) (f : CtlFlit)
  /-- FLIT_CRC_FAIL (R369). -/
  | flitCrcFail (port seq : Nat)
  /-- PACKET_FORWARD (R373). -/
  | packetForward (port : Nat) (p : Packet)
  /-- PACKET_AGED (R372). -/
  | packetAged
  /-- EGRESS_SEND (R425). -/
  | egressSend (port : Nat)
  /-- LOAD (R378). -/
  | load (port : Nat) (p : Packet)
  /-- STORE (R378). -/
  | store (port : Nat) (p : Packet)
  /-- ADD (R378). -/
  | add (port : Nat) (p : Packet)
  /-- FETCH_ADD (R378). -/
  | fetchAdd (port : Nat) (p : Packet)
  /-- CAS (R378). -/
  | cas (port : Nat) (p : Packet)
  /-- FADD (R378). -/
  | fadd (port : Nat) (p : Packet)
  /-- COPY_WRITE (R379). -/
  | copyWrite (port : Nat) (p : Packet)
  /-- COPY_WRITE_CODED (R379). -/
  | copyWriteCoded (port : Nat) (p : Packet)
  /-- MSG (R378). -/
  | msg (port : Nat) (p : Packet) (m : FabMsg)
  /-- LOAD_RSP (R381). -/
  | loadRsp (port : Nat) (p : Packet)
  /-- ADD_RSP (R381). -/
  | addRsp (port : Nat) (p : Packet)
  /-- CAS_RSP (R381). -/
  | casRsp (port : Nat) (p : Packet)
  /-- ACK (R375). -/
  | ack (src cls ssn : Nat) (fails : List (Nat × Nat))
  /-- NAK (R375). -/
  | nak (src cls : Nat) (kind : NakKind)
  /-- STREAM_TIMER (R375). -/
  | streamTimer (dst cls : Nat)
  /-- STREAM_CONTEXT_RETIRE (R376). -/
  | streamContextRetire (device cls : Nat) (sending : Bool)
  /-- ROUND_ASK (R389). -/
  | roundAsk (src paddock issue : Nat)
  /-- ROUND_DONE (R389). -/
  | roundDone (src paddock issue : Nat) (last : List (Option Nat))
  /-- ROUND_CLOSE (R388). -/
  | roundClose (paddock issue : Nat)
  /-- DEAD_POISON_TIMER (R397). -/
  | deadPoisonTimer (dst : Nat)
  /-- QP_REQUEST_PACKET (R414). -/
  | qpRequestPacket (port : Nat) (p : Packet)
  /-- QP_ACK (R415). -/
  | qpAck (port : Nat) (p : Packet)
  /-- QP_NAK (R415). -/
  | qpNak (port : Nat) (p : Packet)
  /-- READ_RSP (R415). -/
  | readRsp (port : Nat) (p : Packet)
  /-- ATOMIC_RSP (R415). -/
  | atomicRsp (port : Nat) (p : Packet)
  /-- QP_TIMER (R415). -/
  | qpTimer (qpn : Nat)
  /-- RNR_WAIT_EXPIRY (R415). -/
  | rnrWaitExpiry (qpn : Nat)
  /-- CONTEXT_EVICT (R416). -/
  | contextEvict
  /-- CONTEXT_WRITE_COMPLETE (R417). -/
  | contextWriteComplete (qpn : Nat)
  /-- CONTEXT_FETCH_COMPLETE (R417). -/
  | contextFetchComplete (qpn : Nat) (ok : Bool)
  /-- CONTEXT_FETCH_TIMEOUT (R417). -/
  | contextFetchTimeout (qpn : Nat)
  /-- WAIT_SATISFIED (R419). -/
  | waitSatisfied (qpn : Nat)
  /-- SHP_HELD_LONG (R429). -/
  | shpHeldLong (index : Nat)
  /-- POLICER_METER (R434). -/
  | policerMeter (port cls : Nat)
  /-- PARK_PANNIER (R223). -/
  | parkPannier (p : Pannier)
  /-- PARK_ACK (R223). -/
  | parkAck (a : ParkAck)
  /-- PARK_RETRY (R226). -/
  | parkRetry (stall page shard : Nat)
  /-- SHIP_NOTICE (R232). -/
  | shipNotice (n : ShipNotice)
  /-- PULL_REQUEST (R229). -/
  | pullRequest (q : PullRequest)
  /-- PULL_REPLY (R221). -/
  | pullReply (p : Pannier)
  /-- PULL_REFUSAL (R232). -/
  | pullRefusal (r : PullNo)
  /-- PULL_TIMEOUT (R232). -/
  | pullTimeout (home stall pullId : Nat)
  /-- PULL_COMPLETE (R230). -/
  | pullComplete (r : PullDone)
  /-- RELEASE_NOTICE (R230). -/
  | releaseNotice (r : ReleaseMsg)
  /-- REPARK_NOTICE (R238). -/
  | reparkNotice (r : ReparkMsg)
  /-- LOSS_PARK_WAIT_END (R239). -/
  | lossParkWaitEnd (device : Nat)
  /-- TAIL_REBUILD_COMPLETE (R240). -/
  | tailRebuildComplete (home stall status : Nat)
  /-- SHARD_QUERY (R289). -/
  | shardQuery (q : ShardQuery)
  /-- WALK_ADMIT (R282). -/
  | walkAdmit
  /-- WALK_END (R285). -/
  | walkEnd (walk : Nat)
  /-- SHARD_ANSWER (R291). -/
  | shardAnswer (qid shard : Nat) (a : ShardAns)
  /-- ALT_RESEND (R290). -/
  | altResend (qid : Nat)
  /-- QUERY_TIMEOUT (R291). -/
  | queryTimeout (qid : Nat)
  /-- OWNER_CONTEXT_EXPIRY (R290). -/
  | ownerContextExpiry (walk : Nat)
  /-- PASSAGE_READ (R294). -/
  | passageRead (stall : Nat) (reads : List PassageRead)
  /-- MUTATION_RECORD (R296). -/
  | mutationRecord (m : MutMsg)
  /-- INSERT_WALK_END (R297). -/
  | insertWalkEnd (walk : Nat)
  /-- MUTATION_ANSWER (R296). -/
  | mutationAnswer (a : MutAnswer)
  /-- GROOM_SWEEP_ROWS (R301). -/
  | groomSweepRows
  /-- SPACE4_READ (R314). -/
  | space4Read (who addr len : Nat)
  /-- SPACE4_WRITE (R314). -/
  | space4Write (who addr : Nat) (data : Bytes) (sharp poison : Bool)
  /-- MOVE_COMPLETE (R315). -/
  | moveComplete (m : MoveDone)
  /-- HEAT_DECAY (R316). -/
  | heatDecay
  /-- WATERMARK_DEMOTION (R317). -/
  | watermarkDemotion
  /-- FRAME_WAIT_TIMEOUT (R318). -/
  | frameWaitTimeout (who : Nat)
  /-- WRITE_BACK_DURABLE (R319). -/
  | writeBackDurable (unit : Nat)
  /-- FLUSH_AGE (R320). -/
  | flushAge (unit : Nat)
  /-- PREFETCH_START (R323). -/
  | prefetchStart (inv e : Nat)
  /-- EVICT_DEMOTION (R323). -/
  | evictDemotion (inv e : Nat)
  /-- SCRUB_READ (R328). -/
  | scrubRead (channel row : Nat) (found : ScrubRes)
  /-- CHANNEL_FAIL (R330). -/
  | channelFail (channel : Nat)
  /-- HOST_TIER_LOST (R324). -/
  | hostTierLost
  /-- HMAP_PAGE_FAIL (R326). -/
  | hmapPageFail (page : Nat)
  /-- STACK_TEMP_READ (R327). -/
  | stackTempRead (temps : List Nat)
  /-- MEDIA_PROBE_COMPLETE (R334). -/
  | mediaProbeComplete (targets : List TargetReport) (anchorOk : Bool)
  /-- REBUILD_COMPLETE (R347). -/
  | rebuildComplete (ok : Bool)
  /-- HAY_READ (R361). -/
  | hayRead (lba : Nat) (how : FlashRead)
  /-- HAY_WRITE (R341). -/
  | hayWrite (w : Nat)
  /-- PROGRAM_COMPLETE (R341). -/
  | programComplete (w n : Nat)
  /-- PROGRAM_FAIL (R356). -/
  | programFail (w plane : Nat)
  /-- JOURNAL_FLUSH (R343). -/
  | journalFlush
  /-- JOURNAL_FLUSH_DURABLE (R345). -/
  | journalFlushDurable
  /-- CHECKPOINT_ROUND (R346). -/
  | checkpointRound
  /-- COPY_VERIFY (R355). -/
  | copyVerify (n : Nat) (fail : Option Nat)
  /-- ERASE_COMPLETE (R356). -/
  | eraseComplete (block : Nat) (fail : Option Nat)
  /-- GC_START (R353). -/
  | gcStart
  /-- FOLD (R351). -/
  | fold
  /-- WEAR_LEVEL (R360). -/
  | wearLevel
  /-- HEALTH_DECAY (R443). -/
  | healthDecay
  /-- HEARTBEAT_SEND (R450). -/
  | heartbeatSend
  /-- NEIGHBOUR_SILENT (R451). -/
  | neighbourSilent (device : Nat) (idle : Bool)
  /-- VOTE_CALL (R453). -/
  | voteCall (v : VoteMsg)
  /-- VOTE_BALLOT (R453). -/
  | voteBallot (v : VoteMsg)
  /-- VOTE_DECLARE (R458). -/
  | voteDeclare (v : VoteMsg)
  /-- VOTE_TALLY (R455). -/
  | voteTally
  /-- EXPEL_CALL (R454). -/
  | expelCall
  /-- SUBST_CALL (R454). -/
  | substCall
  /-- SPARE_SELF_TEST_DONE (R459). -/
  | spareSelfTestDone (pass : Bool)
  /-- LOAD_CUTOVER (R462). -/
  | loadCutover (subject spare : Nat) (image : LoadImage)
  /-- DIGEST (R470). -/
  | digest (src : Nat) (body : Bytes)
  /-- HLT_LAG (R470). -/
  | hltLag
  /-- HLT_TANDEM_BAD (R467). -/
  | hltTandemBad
  /-- MSIX_VECTOR_UNMASK (R496). -/
  | msixVectorUnmask (vector : Nat)
  /-- PROCHOT_N_HIGH (R509). -/
  | prochotNHigh
  deriving DecidableEq, Repr

end Sys2Proof
end

