-- ==== Sys2Proof/Config.lean ====
section
/-! DEFINITION. Config.lean: what an implementation fixes and the values the spec leaves open, as constants without a body. -/

namespace Sys2Proof.Config

/-- The space-4 address of a stall's sampling copy (R259): the spec does not say where the home puts it. -/
opaque sampAddr : Nat → Nat

/-- The code a NaN converts to in a saturating format other than INT32 (R100 states none), by format code. -/
opaque nanConv : Nat → Nat

/-- The result of a vector shift by 32 or more (R100 states none), by the two operands. -/
opaque shiftOver : Nat → Nat → Nat

/-- Whether an OP_ID names an operator of the library version (R141): the library is outside the spec. -/
opaque opKnown : Nat → Nat → Bool

/-- Whether the library marks an operator as a multi-core operator (R141). -/
opaque opMulti : Nat → Nat → Bool

/-- The blocks HAY_FORMAT reserves for two checkpoints (R346 does not give the checkpoint's size), by the logical blocks and the good
blocks. -/
opaque ckptBlocks : Nat → Nat → Nat

/-- What STL_DATA shows of a free stall beside its number and its state (R159, R186: the spec does not say what a free entry holds), by
draw, stall and word. -/
opaque freeStall : Nat → Nat → Nat → Nat

/-- The shadow entry, by home * 2^17 + stall, that lies in a slot of the shadow table (R186: the spec does not say which slot an entry
takes), by the entries held and the slot. -/
opaque shadowAt : List Nat → Nat → Option Nat

end Sys2Proof.Config
end

