-- ==== Sys2Proof/Machine/RegMap.lean ====
section
/-!
DEFINITION. Machine/RegMap.lean: the register map of BAR0 (spec/19_register_reference.md R535, R540 to R546, and the
register tables of the other chapters): every register with its offset and, for each of its fields that is not
reserved, the place, the access code of R10, the reset value, the values it reads as when written out of range, and
the enable bit of R537 that locks it.
-/

namespace Sys2Proof.Machine

/-- A field of a register: the BAR0 byte offset of its register, its lowest bit and its width. -/
structure Fld where
  off : Nat
  lo : Nat
  width : Nat
  deriving DecidableEq, Repr

/-- The access codes of R10. -/
inductive Acc where
  | ro | rw | w1c | w1s | wo | rc
  deriving DecidableEq, Repr

/-- What a field reads as after a write of a value outside its range, as its Meaning column says. -/
inductive Norm where
  | any
  | range (lo hi other : Nat)      -- values outside lo to hi read as `other`
  | above (lo width : Nat)         -- values at or below that field of the register read as that field + 1
  | below (lo width : Nat)         -- values at or above that field read as that field - 1
  | atLeast (lo width : Nat)       -- values below that field read as that field
  deriving DecidableEq, Repr

/-- One field of a register table. `lock` is the offset of the register whose bit 0 is the enable bit of R537. -/
structure FieldSpec where
  lo : Nat
  width : Nat
  acc : Acc
  reset : Nat := 0
  norm : Norm := .any
  lock : Option Nat := none
  deriving DecidableEq, Repr

/-- One register: its BAR0 byte offset and its fields (reserved bits are those no field covers, R7). -/
structure RegSpec where
  off : Nat
  fields : List FieldSpec
  deriving DecidableEq, Repr

/-- The registers of the GLB block (R2, R32, R71, R540). -/
def regsGLB : List RegSpec := [
  -- GLB_ID
  ⟨0x0, [⟨0, 16, .ro, 0x4416, .any, none⟩, ⟨16, 8, .ro, 0xb1, .any, none⟩, ⟨24, 8, .ro, 0xe, .any, none⟩]⟩,
  -- GLB_COMP_EPOCH
  ⟨0x200, [⟨0, 32, .ro, 0, .any, none⟩, ⟨32, 32, .ro, 0, .any, none⟩]⟩,
  -- GLB_COMP_STATE
  ⟨0x208, [⟨0, 2, .ro, 0, .any, none⟩, ⟨2, 2, .ro, 0, .any, none⟩, ⟨4, 2, .ro, 0, .any, none⟩, ⟨16, 7, .ro, 0, .any, none⟩, ⟨32, 32, .ro, 0x40000, .any, none⟩]⟩,
  -- GLB_COMP_BEAT
  ⟨0x210, [⟨0, 64, .ro, 0, .any, none⟩]⟩,
  -- GLB_COMP_EVT
  ⟨0x218, [⟨0, 1, .w1c, 0, .any, none⟩, ⟨1, 1, .w1c, 0, .any, none⟩]⟩,
  -- GLB_MODE
  ⟨0x100, [⟨0, 1, .ro, 0, .any, none⟩, ⟨1, 1, .rw, 0, .any, none⟩, ⟨2, 1, .ro, 0, .any, none⟩]⟩,
  -- GLB_CAP
  ⟨0x8, [⟨0, 10, .ro, 0, .any, none⟩, ⟨10, 6, .ro, 0, .any, none⟩, ⟨16, 6, .ro, 0, .any, none⟩, ⟨24, 5, .ro, 0, .any, none⟩]⟩,
  -- GLB_SCRATCH
  ⟨0x10, [⟨0, 64, .rw, 0, .any, none⟩]⟩,
  -- GLB_ACC_ERR
  ⟨0x18, [⟨0, 16, .rc, 0, .any, none⟩, ⟨16, 16, .rc, 0, .any, none⟩, ⟨32, 16, .rc, 0, .any, none⟩]⟩,
  -- GLB_ACC_LAST
  ⟨0x20, [⟨0, 26, .ro, 0, .any, none⟩, ⟨26, 1, .ro, 0, .any, none⟩, ⟨27, 2, .ro, 0, .any, none⟩]⟩]

/-- The registers of the CAD block (R70). -/
def regsCAD : List RegSpec := [
  -- CAD_COUNT
  ⟨0x100000, [⟨0, 64, .ro, 0, .any, none⟩]⟩,
  -- CAD_STATE
  ⟨0x100008, [⟨0, 3, .ro, 0, .any, none⟩, ⟨4, 4, .ro, 0xf, .any, none⟩, ⟨8, 4, .ro, 0, .any, none⟩, ⟨16, 16, .ro, 0, .any, none⟩]⟩,
  -- CAD_LOAD
  ⟨0x100010, [⟨0, 1, .w1s, 0, .any, none⟩, ⟨20, 44, .rw, 0, .any, none⟩]⟩,
  -- CAD_EVT
  ⟨0x100018, [⟨0, 1, .w1c, 0, .any, none⟩, ⟨1, 1, .w1c, 0, .any, none⟩, ⟨2, 1, .w1c, 0, .any, none⟩, ⟨3, 1, .w1c, 0, .any, none⟩, ⟨4, 1, .w1c, 0, .any, none⟩, ⟨5, 1, .w1c, 0, .any, none⟩]⟩,
  -- CAD_SLIP_LATE
  ⟨0x100020, [⟨0, 32, .rc, 0, .any, none⟩, ⟨32, 32, .rc, 0, .any, none⟩]⟩,
  -- CAD_SLIP_SUM
  ⟨0x100028, [⟨0, 64, .rc, 0, .any, none⟩]⟩,
  -- CAD_CTRL
  ⟨0x100030, [⟨0, 1, .rw, 1, .any, none⟩, ⟨1, 1, .rw, 1, .any, none⟩]⟩]

/-- The registers of the INTK block (R185). -/
def regsINTK : List RegSpec := [
  -- INTK_CTRL
  ⟨0x200000, [⟨0, 1, .rw, 0, .any, none⟩, ⟨1, 1, .rw, 0, .any, none⟩]⟩,
  -- INTK_STAT
  ⟨0x200008, [⟨0, 17, .ro, 0, .any, none⟩, ⟨20, 4, .ro, 0, .any, none⟩, ⟨24, 1, .ro, 0, .any, none⟩]⟩,
  -- INTK_WM[0]
  ⟨0x200010, [⟨0, 17, .rw, 0, .any, none⟩, ⟨32, 17, .rw, 0, .any, none⟩, ⟨56, 8, .rw, 0xff, .any, none⟩]⟩,
  -- INTK_WM[1]
  ⟨0x200018, [⟨0, 17, .rw, 0, .any, none⟩, ⟨32, 17, .rw, 0, .any, none⟩, ⟨56, 8, .rw, 0xff, .any, none⟩]⟩,
  -- INTK_WM[2]
  ⟨0x200020, [⟨0, 17, .rw, 0, .any, none⟩, ⟨32, 17, .rw, 0, .any, none⟩, ⟨56, 8, .rw, 0xff, .any, none⟩]⟩,
  -- INTK_WM[3]
  ⟨0x200028, [⟨0, 17, .rw, 0, .any, none⟩, ⟨32, 17, .rw, 0, .any, none⟩, ⟨56, 8, .rw, 0xff, .any, none⟩]⟩,
  -- INTK_LVL[0]
  ⟨0x200040, [⟨0, 17, .ro, 0, .any, none⟩]⟩,
  -- INTK_LVL[1]
  ⟨0x200048, [⟨0, 17, .ro, 0, .any, none⟩]⟩,
  -- INTK_LVL[2]
  ⟨0x200050, [⟨0, 17, .ro, 0, .any, none⟩]⟩,
  -- INTK_LVL[3]
  ⟨0x200058, [⟨0, 17, .ro, 0, .any, none⟩]⟩,
  -- INTK_LVL[4]
  ⟨0x200060, [⟨0, 17, .ro, 0, .any, none⟩]⟩,
  -- INTK_LVL[5]
  ⟨0x200068, [⟨0, 17, .ro, 0, .any, none⟩]⟩,
  -- INTK_LVL[6]
  ⟨0x200070, [⟨0, 17, .ro, 0, .any, none⟩]⟩,
  -- INTK_LVL[7]
  ⟨0x200078, [⟨0, 17, .ro, 0, .any, none⟩]⟩,
  -- INTK_POP[0]
  ⟨0x200080, [⟨0, 64, .ro, 0, .any, none⟩]⟩,
  -- INTK_POP[1]
  ⟨0x200088, [⟨0, 64, .ro, 0, .any, none⟩]⟩,
  -- INTK_POP[2]
  ⟨0x200090, [⟨0, 64, .ro, 0, .any, none⟩]⟩,
  -- INTK_POP[3]
  ⟨0x200098, [⟨0, 64, .ro, 0, .any, none⟩]⟩,
  -- INTK_POP[4]
  ⟨0x2000a0, [⟨0, 64, .ro, 0, .any, none⟩]⟩,
  -- INTK_POP[5]
  ⟨0x2000a8, [⟨0, 64, .ro, 0, .any, none⟩]⟩,
  -- INTK_POP[6]
  ⟨0x2000b0, [⟨0, 64, .ro, 0, .any, none⟩]⟩,
  -- INTK_POP[7]
  ⟨0x2000b8, [⟨0, 64, .ro, 0, .any, none⟩]⟩,
  -- INTK_CMD
  ⟨0x2000c0, [⟨0, 1, .wo, 0, .any, none⟩, ⟨1, 1, .wo, 0, .any, none⟩]⟩,
  -- INTK_EVT
  ⟨0x2000c8, [⟨0, 1, .w1c, 0, .any, none⟩, ⟨1, 1, .w1c, 0, .any, none⟩]⟩,
  -- INTK_REFUSE_CNT
  ⟨0x2000d0, [⟨0, 32, .rc, 0, .any, none⟩, ⟨32, 32, .rc, 0, .any, none⟩]⟩,
  -- INTK_DROP_CNT
  ⟨0x2000d8, [⟨0, 32, .rc, 0, .any, none⟩]⟩]

/-- The registers of the STL block (R186, R269). -/
def regsSTL : List RegSpec := [
  -- STL_CTRL
  ⟨0x300000, [⟨0, 1, .rw, 0, .any, none⟩, ⟨16, 17, .rw, 0x1000, .any, none⟩]⟩,
  -- STL_POOL_BASE
  ⟨0x300008, [⟨16, 32, .rw, 0, .any, some 0x300000⟩]⟩,
  -- STL_POOL_SIZE
  ⟨0x300010, [⟨16, 32, .rw, 0, .any, some 0x300000⟩]⟩,
  -- STL_PARK_TTL
  ⟨0x300018, [⟨0, 64, .rw, 0, .any, none⟩]⟩,
  -- STL_SHADOW
  ⟨0x300020, [⟨0, 18, .ro, 0, .any, none⟩]⟩,
  -- STL_EVT
  ⟨0x300028, [⟨0, 1, .w1c, 0, .any, none⟩, ⟨1, 1, .w1c, 0, .any, none⟩, ⟨2, 1, .w1c, 0, .any, none⟩, ⟨3, 1, .w1c, 0, .any, none⟩, ⟨4, 1, .w1c, 0, .any, none⟩]⟩,
  -- STL_RETIRE_CNT
  ⟨0x300030, [⟨0, 32, .rc, 0, .any, none⟩, ⟨32, 16, .rc, 0, .any, none⟩, ⟨48, 16, .rc, 0, .any, none⟩]⟩,
  -- STL_SEL
  ⟨0x300038, [⟨0, 17, .rw, 0, .any, none⟩, ⟨17, 1, .rw, 0, .any, none⟩]⟩,
  -- STL_STATE_CNT[0]
  ⟨0x300040, [⟨0, 18, .ro, 0x20000, .any, none⟩]⟩,
  -- STL_STATE_CNT[1]
  ⟨0x300048, [⟨0, 18, .ro, 0, .any, none⟩]⟩,
  -- STL_STATE_CNT[2]
  ⟨0x300050, [⟨0, 18, .ro, 0, .any, none⟩]⟩,
  -- STL_STATE_CNT[3]
  ⟨0x300058, [⟨0, 18, .ro, 0, .any, none⟩]⟩,
  -- STL_STATE_CNT[4]
  ⟨0x300060, [⟨0, 18, .ro, 0, .any, none⟩]⟩,
  -- STL_STATE_CNT[5]
  ⟨0x300068, [⟨0, 18, .ro, 0, .any, none⟩]⟩,
  -- STL_STATE_CNT[6]
  ⟨0x300070, [⟨0, 18, .ro, 0, .any, none⟩]⟩,
  -- STL_STATE_CNT[7]
  ⟨0x300078, [⟨0, 18, .ro, 0, .any, none⟩]⟩,
  -- STL_STATE_CNT[8]
  ⟨0x300080, [⟨0, 18, .ro, 0, .any, none⟩]⟩,
  -- STL_STATE_CNT[9]
  ⟨0x300088, [⟨0, 18, .ro, 0, .any, none⟩]⟩,
  -- STL_DATA[0]
  ⟨0x300100, [⟨0, 64, .ro, 0, .any, none⟩]⟩,
  -- STL_DATA[1]
  ⟨0x300108, [⟨0, 64, .ro, 0, .any, none⟩]⟩,
  -- STL_DATA[2]
  ⟨0x300110, [⟨0, 64, .ro, 0, .any, none⟩]⟩,
  -- STL_DATA[3]
  ⟨0x300118, [⟨0, 64, .ro, 0, .any, none⟩]⟩,
  -- STL_DATA[4]
  ⟨0x300120, [⟨0, 64, .ro, 0, .any, none⟩]⟩,
  -- STL_DATA[5]
  ⟨0x300128, [⟨0, 64, .ro, 0, .any, none⟩]⟩,
  -- STL_DATA[6]
  ⟨0x300130, [⟨0, 64, .ro, 0, .any, none⟩]⟩,
  -- STL_DATA[7]
  ⟨0x300138, [⟨0, 64, .ro, 0, .any, none⟩]⟩,
  -- STL_DATA[8]
  ⟨0x300140, [⟨0, 64, .ro, 0, .any, none⟩]⟩,
  -- STL_DATA[9]
  ⟨0x300148, [⟨0, 64, .ro, 0, .any, none⟩]⟩,
  -- STL_DATA[10]
  ⟨0x300150, [⟨0, 64, .ro, 0, .any, none⟩]⟩,
  -- STL_DATA[11]
  ⟨0x300158, [⟨0, 64, .ro, 0, .any, none⟩]⟩,
  -- STL_DATA[12]
  ⟨0x300160, [⟨0, 64, .ro, 0, .any, none⟩]⟩,
  -- STL_DATA[13]
  ⟨0x300168, [⟨0, 64, .ro, 0, .any, none⟩]⟩,
  -- STL_DATA[14]
  ⟨0x300170, [⟨0, 64, .ro, 0, .any, none⟩]⟩,
  -- STL_DATA[15]
  ⟨0x300178, [⟨0, 64, .ro, 0, .any, none⟩]⟩,
  -- STL_SMP_CNT
  ⟨0x300200, [⟨0, 32, .rc, 0, .any, none⟩, ⟨32, 16, .rc, 0, .any, none⟩, ⟨48, 16, .rc, 0, .any, none⟩]⟩,
  -- STL_SMP_DRAFT
  ⟨0x300208, [⟨0, 32, .rc, 0, .any, none⟩, ⟨32, 32, .rc, 0, .any, none⟩]⟩]

/-- The registers of the PAN block (R243). -/
def regsPAN : List RegSpec := [
  -- PAN_CTRL
  ⟨0x400000, [⟨0, 1, .rw, 0, .any, none⟩, ⟨8, 4, .rw, 7, .any, none⟩]⟩,
  -- PAN_RETRY
  ⟨0x400008, [⟨0, 5, .rw, 0xc, .range 8 24 12, none⟩, ⟨8, 5, .rw, 0xe, .range 8 24 14, none⟩, ⟨16, 8, .rw, 0xf, .any, none⟩]⟩,
  -- PAN_HELD
  ⟨0x400010, [⟨0, 40, .ro, 0, .any, none⟩]⟩,
  -- PAN_PULLS
  ⟨0x400018, [⟨0, 18, .ro, 0, .any, none⟩]⟩,
  -- PAN_PARK_CNT
  ⟨0x400020, [⟨0, 32, .rc, 0, .any, none⟩, ⟨32, 32, .rc, 0, .any, none⟩]⟩,
  -- PAN_PULL_CNT
  ⟨0x400028, [⟨0, 32, .rc, 0, .any, none⟩, ⟨32, 32, .rc, 0, .any, none⟩]⟩,
  -- PAN_PULL_BYTES
  ⟨0x400030, [⟨0, 64, .rc, 0, .any, none⟩]⟩,
  -- PAN_RECOVER_CNT
  ⟨0x400038, [⟨0, 16, .rc, 0, .any, none⟩, ⟨16, 16, .rc, 0, .any, none⟩, ⟨32, 16, .rc, 0, .any, none⟩, ⟨48, 16, .rc, 0, .any, none⟩]⟩,
  -- PAN_BOUNCE_CNT
  ⟨0x400040, [⟨0, 16, .rc, 0, .any, none⟩, ⟨16, 16, .rc, 0, .any, none⟩, ⟨32, 16, .rc, 0, .any, none⟩, ⟨48, 16, .rc, 0, .any, none⟩]⟩,
  -- PAN_EVT
  ⟨0x400048, [⟨0, 1, .w1c, 0, .any, none⟩, ⟨1, 1, .w1c, 0, .any, none⟩, ⟨2, 1, .w1c, 0, .any, none⟩, ⟨3, 1, .w1c, 0, .any, none⟩, ⟨4, 1, .w1c, 0, .any, none⟩, ⟨5, 1, .w1c, 0, .any, none⟩, ⟨6, 1, .w1c, 0, .any, none⟩]⟩]

/-- The registers of the SRCH block (R304). -/
def regsSRCH : List RegSpec := [
  -- SRCH_CTRL
  ⟨0x800000, [⟨0, 1, .rw, 0, .any, none⟩, ⟨1, 1, .rw, 1, .any, none⟩, ⟨8, 5, .rw, 0x14, .range 12 24 20, none⟩]⟩,
  -- SRCH_STAT
  ⟨0x800008, [⟨0, 15, .ro, 0, .any, none⟩, ⟨16, 7, .ro, 0, .any, none⟩, ⟨32, 19, .ro, 0x40000, .any, none⟩]⟩,
  -- SRCH_QUEUE
  ⟨0x800010, [⟨0, 13, .ro, 0, .any, none⟩]⟩,
  -- SRCH_GROOM
  ⟨0x800018, [⟨0, 13, .rw, 0x800, .range 1 4096 2048, none⟩]⟩,
  -- SRCH_DIR_N
  ⟨0x800020, [⟨0, 15, .ro, 0, .any, none⟩]⟩,
  -- SRCH_SEL
  ⟨0x800028, [⟨0, 8, .rw, 0, .any, none⟩, ⟨16, 16, .rw, 0, .any, none⟩]⟩,
  -- SRCH_SH_CNT
  ⟨0x800030, [⟨0, 32, .ro, 0, .any, none⟩, ⟨32, 32, .ro, 0, .any, none⟩]⟩,
  -- SRCH_SH_SWEEP
  ⟨0x800038, [⟨0, 32, .ro, 0, .any, none⟩, ⟨32, 32, .ro, 0, .any, none⟩]⟩,
  -- SRCH_SH_FREE
  ⟨0x800040, [⟨0, 32, .ro, 0, .any, none⟩, ⟨32, 17, .ro, 0, .any, none⟩]⟩,
  -- SRCH_Q_CNT
  ⟨0x800048, [⟨0, 32, .rc, 0, .any, none⟩, ⟨32, 16, .rc, 0, .any, none⟩, ⟨48, 16, .rc, 0, .any, none⟩]⟩,
  -- SRCH_M_CNT
  ⟨0x800050, [⟨0, 32, .rc, 0, .any, none⟩, ⟨32, 32, .rc, 0, .any, none⟩]⟩,
  -- SRCH_GROOM_CNT
  ⟨0x800058, [⟨0, 32, .rc, 0, .any, none⟩, ⟨32, 32, .rc, 0, .any, none⟩]⟩,
  -- SRCH_EVT
  ⟨0x800060, [⟨0, 1, .w1c, 0, .any, none⟩, ⟨1, 1, .w1c, 0, .any, none⟩, ⟨2, 1, .w1c, 0, .any, none⟩, ⟨3, 1, .w1c, 0, .any, none⟩]⟩]

/-- The registers of the MEM block (R331). -/
def regsMEM : List RegSpec := [
  -- MEM_CTRL
  ⟨0x900000, [⟨0, 1, .rw, 0, .any, none⟩, ⟨1, 1, .rw, 1, .any, none⟩, ⟨2, 1, .rw, 1, .any, none⟩, ⟨8, 5, .rw, 0x16, .range 16 30 22, none⟩, ⟨16, 8, .rw, 0x10, .range 1 255 16, none⟩]⟩,
  -- MEM_POOL
  ⟨0x900008, [⟨0, 32, .rw, 0, .any, none⟩, ⟨32, 25, .rw, 0, .any, none⟩]⟩,
  -- MEM_WM
  ⟨0x900010, [⟨0, 25, .rw, 0x4000, .any, none⟩, ⟨32, 25, .rw, 0x8000, .above 0 25, none⟩]⟩,
  -- MEM_HOST_BASE
  ⟨0x900018, [⟨16, 48, .rw, 0, .any, none⟩]⟩,
  -- MEM_HMAP_BASE
  ⟨0x900028, [⟨16, 48, .rw, 0, .any, none⟩]⟩,
  -- MEM_HOST_SIZE
  ⟨0x900020, [⟨16, 29, .rw, 0, .any, none⟩]⟩,
  -- MEM_HMAP_SIZE
  ⟨0x900030, [⟨16, 24, .rw, 0, .any, none⟩]⟩,
  -- MEM_FLUSH_AGE
  ⟨0x900038, [⟨0, 64, .rw, 0, .any, none⟩]⟩,
  -- MEM_PF_RATE
  ⟨0x900040, [⟨0, 16, .rw, 0x190, .range 1 65535 400, none⟩, ⟨16, 16, .rw, 0xc8, .range 1 65535 200, none⟩, ⟨32, 9, .rw, 0x40, .any, none⟩]⟩,
  -- MEM_SPILL_LBA
  ⟨0x900048, [⟨0, 48, .rw, 0, .any, none⟩]⟩,
  -- MEM_SPILL_N
  ⟨0x900050, [⟨0, 48, .rw, 0, .any, none⟩]⟩,
  -- MEM_STAT
  ⟨0x900058, [⟨0, 25, .ro, 0, .any, none⟩, ⟨32, 29, .ro, 0, .any, none⟩]⟩,
  -- MEM_STAT2
  ⟨0x900060, [⟨0, 13, .ro, 0, .any, none⟩, ⟨16, 11, .ro, 0, .any, none⟩, ⟨32, 9, .ro, 0, .any, none⟩]⟩,
  -- MEM_MIG_CNT
  ⟨0x900068, [⟨0, 32, .rc, 0, .any, none⟩, ⟨32, 32, .rc, 0, .any, none⟩]⟩,
  -- MEM_WB_CNT
  ⟨0x900070, [⟨0, 32, .rc, 0, .any, none⟩, ⟨32, 32, .rc, 0, .any, none⟩]⟩,
  -- MEM_LOOKUP
  ⟨0x900078, [⟨0, 48, .rw, 0, .any, none⟩]⟩,
  -- MEM_LOOKUP_DATA
  ⟨0x900080, [⟨0, 3, .ro, 0, .any, none⟩, ⟨3, 1, .ro, 0, .any, none⟩, ⟨4, 1, .ro, 0, .any, none⟩, ⟨8, 8, .ro, 0, .any, none⟩, ⟨16, 12, .ro, 0, .any, none⟩, ⟨32, 32, .ro, 0, .any, none⟩]⟩,
  -- MEM_ECC_SEL
  ⟨0x900088, [⟨0, 8, .rw, 0, .any, none⟩]⟩,
  -- MEM_ECC_CNT
  ⟨0x900090, [⟨0, 32, .rc, 0, .any, none⟩, ⟨32, 16, .rc, 0, .any, none⟩, ⟨48, 16, .rc, 0, .any, none⟩]⟩,
  -- MEM_CH_FAIL[0]
  ⟨0x900098, [⟨0, 64, .ro, 0, .any, none⟩]⟩,
  -- MEM_CH_FAIL[1]
  ⟨0x9000a0, [⟨0, 64, .ro, 0, .any, none⟩]⟩,
  -- MEM_CH_FAIL[2]
  ⟨0x9000a8, [⟨0, 64, .ro, 0, .any, none⟩]⟩,
  -- MEM_CH_FAIL[3]
  ⟨0x9000b0, [⟨0, 64, .ro, 0, .any, none⟩]⟩,
  -- MEM_THERM
  ⟨0x9000b8, [⟨0, 8, .ro, 0, .any, none⟩]⟩,
  -- MEM_EVT
  ⟨0x9000c0, [⟨0, 1, .w1c, 0, .any, none⟩, ⟨1, 1, .w1c, 0, .any, none⟩, ⟨2, 1, .w1c, 0, .any, none⟩, ⟨3, 1, .w1c, 0, .any, none⟩, ⟨4, 1, .w1c, 0, .any, none⟩, ⟨5, 1, .w1c, 0, .any, none⟩]⟩]

/-- The registers of the HAY block (R363). -/
def regsHAY : List RegSpec := [
  -- HAY_CTRL
  ⟨0xa00000, [⟨0, 1, .rw, 0, .any, none⟩, ⟨1, 1, .rw, 1, .any, none⟩, ⟨2, 1, .rw, 1, .any, none⟩]⟩,
  -- HAY_STATE
  ⟨0xa00008, [⟨0, 3, .ro, 0, .any, none⟩, ⟨32, 32, .ro, 0, .any, none⟩]⟩,
  -- HAY_GEOM
  ⟨0xa00010, [⟨0, 2, .ro, 0, .any, none⟩, ⟨3, 3, .ro, 0, .any, none⟩, ⟨6, 2, .ro, 0, .any, none⟩, ⟨8, 13, .ro, 0, .any, none⟩, ⟨24, 15, .ro, 0, .any, none⟩, ⟨40, 9, .ro, 0, .any, none⟩]⟩,
  -- HAY_CAP
  ⟨0xa00018, [⟨0, 37, .rw, 0, .any, none⟩]⟩,
  -- HAY_MAPC
  ⟨0xa00020, [⟨0, 7, .rw, 0, .range 0 64 64, some 0xa00000⟩]⟩,
  -- HAY_JRN
  ⟨0xa00028, [⟨0, 24, .rw, 0xf4240, .range 250000 4000000 1000000, none⟩, ⟨32, 10, .rw, 0x100, .any, none⟩]⟩,
  -- HAY_CKPT
  ⟨0xa00030, [⟨0, 6, .rw, 0x22, .range 30 38 34, none⟩, ⟨8, 8, .rw, 0x10, .range 1 16 16, none⟩]⟩,
  -- HAY_SLC
  ⟨0xa00038, [⟨0, 16, .rw, 0x100, .any, none⟩, ⟨16, 16, .rw, 0x8000, .atLeast 0 16, none⟩, ⟨32, 8, .rw, 0x40, .any, none⟩]⟩,
  -- HAY_RDREF
  ⟨0xa00040, [⟨0, 20, .rw, 0x186a0, .any, none⟩, ⟨20, 20, .rw, 0xc350, .any, none⟩, ⟨40, 20, .rw, 0x61a80, .any, none⟩]⟩,
  -- HAY_GC
  ⟨0xa00048, [⟨0, 23, .rw, 0x400, .any, none⟩, ⟨23, 23, .rw, 0x800, .above 0 23, none⟩, ⟨48, 8, .rw, 0x80, .any, none⟩, ⟨56, 8, .rw, 0x40, .any, none⟩]⟩,
  -- HAY_WEAR
  ⟨0xa00050, [⟨0, 16, .rw, 0x5dc, .range 1 65535 1500, none⟩, ⟨16, 12, .rw, 0x100, .any, none⟩, ⟨32, 5, .rw, 0x1a, .any, none⟩, ⟨40, 8, .rw, 0x20, .any, none⟩]⟩,
  -- HAY_STAT
  ⟨0xa00058, [⟨0, 23, .ro, 0, .any, none⟩, ⟨23, 23, .ro, 0, .any, none⟩, ⟨46, 6, .ro, 0, .any, none⟩]⟩,
  -- HAY_STAT2
  ⟨0xa00060, [⟨0, 37, .ro, 0, .any, none⟩, ⟨37, 23, .ro, 0, .any, none⟩]⟩,
  -- HAY_IO_CNT
  ⟨0xa00068, [⟨0, 32, .rc, 0, .any, none⟩, ⟨32, 32, .rc, 0, .any, none⟩]⟩,
  -- HAY_GC_CNT
  ⟨0xa00070, [⟨0, 32, .rc, 0, .any, none⟩, ⟨32, 16, .rc, 0, .any, none⟩, ⟨48, 16, .rc, 0, .any, none⟩]⟩,
  -- HAY_ERR_CNT
  ⟨0xa00078, [⟨0, 32, .rc, 0, .any, none⟩, ⟨32, 16, .rc, 0, .any, none⟩, ⟨48, 16, .rc, 0, .any, none⟩]⟩,
  -- HAY_REBUILD
  ⟨0xa00080, [⟨0, 32, .ro, 0, .any, none⟩, ⟨32, 32, .ro, 0, .any, none⟩]⟩,
  -- HAY_EVT
  ⟨0xa00088, [⟨0, 1, .w1c, 0, .any, none⟩, ⟨1, 1, .w1c, 0, .any, none⟩, ⟨2, 1, .w1c, 0, .any, none⟩, ⟨3, 1, .w1c, 0, .any, none⟩, ⟨4, 1, .w1c, 0, .any, none⟩, ⟨5, 1, .w1c, 0, .any, none⟩]⟩]

/-- The registers of the AZF block (R399). -/
def regsAZF : List RegSpec := [
  -- AZF_CTRL
  ⟨0xb00000, [⟨0, 1, .rw, 0, .any, none⟩, ⟨1, 1, .rw, 0, .any, some 0xb00000⟩, ⟨2, 2, .rw, 0, .range 0 2 0, none⟩, ⟨4, 4, .rw, 4, .range 1 8 4, none⟩]⟩,
  -- AZF_PORT[0]
  ⟨0xb00008, [⟨0, 2, .ro, 0, .any, none⟩, ⟨8, 8, .ro, 0, .any, none⟩, ⟨16, 15, .ro, 0, .any, none⟩, ⟨32, 16, .ro, 0, .any, none⟩]⟩,
  -- AZF_PORT[1]
  ⟨0xb00010, [⟨0, 2, .ro, 0, .any, none⟩, ⟨8, 8, .ro, 0, .any, none⟩, ⟨16, 15, .ro, 0, .any, none⟩, ⟨32, 16, .ro, 0, .any, none⟩]⟩,
  -- AZF_PORT[2]
  ⟨0xb00018, [⟨0, 2, .ro, 0, .any, none⟩, ⟨8, 8, .ro, 0, .any, none⟩, ⟨16, 15, .ro, 0, .any, none⟩, ⟨32, 16, .ro, 0, .any, none⟩]⟩,
  -- AZF_PORT[3]
  ⟨0xb00020, [⟨0, 2, .ro, 0, .any, none⟩, ⟨8, 8, .ro, 0, .any, none⟩, ⟨16, 15, .ro, 0, .any, none⟩, ⟨32, 16, .ro, 0, .any, none⟩]⟩,
  -- AZF_PORT[4]
  ⟨0xb00028, [⟨0, 2, .ro, 0, .any, none⟩, ⟨8, 8, .ro, 0, .any, none⟩, ⟨16, 15, .ro, 0, .any, none⟩, ⟨32, 16, .ro, 0, .any, none⟩]⟩,
  -- AZF_PORT[5]
  ⟨0xb00030, [⟨0, 2, .ro, 0, .any, none⟩, ⟨8, 8, .ro, 0, .any, none⟩, ⟨16, 15, .ro, 0, .any, none⟩, ⟨32, 16, .ro, 0, .any, none⟩]⟩,
  -- AZF_PORT[6]
  ⟨0xb00038, [⟨0, 2, .ro, 0, .any, none⟩, ⟨8, 8, .ro, 0, .any, none⟩, ⟨16, 15, .ro, 0, .any, none⟩, ⟨32, 16, .ro, 0, .any, none⟩]⟩,
  -- AZF_PORT[7]
  ⟨0xb00040, [⟨0, 2, .ro, 0, .any, none⟩, ⟨8, 8, .ro, 0, .any, none⟩, ⟨16, 15, .ro, 0, .any, none⟩, ⟨32, 16, .ro, 0, .any, none⟩]⟩,
  -- AZF_PORT[8]
  ⟨0xb00048, [⟨0, 2, .ro, 0, .any, none⟩, ⟨8, 8, .ro, 0, .any, none⟩, ⟨16, 15, .ro, 0, .any, none⟩, ⟨32, 16, .ro, 0, .any, none⟩]⟩,
  -- AZF_PORT[9]
  ⟨0xb00050, [⟨0, 2, .ro, 0, .any, none⟩, ⟨8, 8, .ro, 0, .any, none⟩, ⟨16, 15, .ro, 0, .any, none⟩, ⟨32, 16, .ro, 0, .any, none⟩]⟩,
  -- AZF_PORT[10]
  ⟨0xb00058, [⟨0, 2, .ro, 0, .any, none⟩, ⟨8, 8, .ro, 0, .any, none⟩, ⟨16, 15, .ro, 0, .any, none⟩, ⟨32, 16, .ro, 0, .any, none⟩]⟩,
  -- AZF_PORT[11]
  ⟨0xb00060, [⟨0, 2, .ro, 0, .any, none⟩, ⟨8, 8, .ro, 0, .any, none⟩, ⟨16, 15, .ro, 0, .any, none⟩, ⟨32, 16, .ro, 0, .any, none⟩]⟩,
  -- AZF_PORT[12]
  ⟨0xb00068, [⟨0, 2, .ro, 0, .any, none⟩, ⟨8, 8, .ro, 0, .any, none⟩, ⟨16, 15, .ro, 0, .any, none⟩, ⟨32, 16, .ro, 0, .any, none⟩]⟩,
  -- AZF_PORT[13]
  ⟨0xb00070, [⟨0, 2, .ro, 0, .any, none⟩, ⟨8, 8, .ro, 0, .any, none⟩, ⟨16, 15, .ro, 0, .any, none⟩, ⟨32, 16, .ro, 0, .any, none⟩]⟩,
  -- AZF_PORT[14]
  ⟨0xb00078, [⟨0, 2, .ro, 0, .any, none⟩, ⟨8, 8, .ro, 0, .any, none⟩, ⟨16, 15, .ro, 0, .any, none⟩, ⟨32, 16, .ro, 0, .any, none⟩]⟩,
  -- AZF_PORT[15]
  ⟨0xb00080, [⟨0, 2, .ro, 0, .any, none⟩, ⟨8, 8, .ro, 0, .any, none⟩, ⟨16, 15, .ro, 0, .any, none⟩, ⟨32, 16, .ro, 0, .any, none⟩]⟩,
  -- AZF_STREAM
  ⟨0xb00088, [⟨0, 5, .rw, 0xc, .range 8 20 12, none⟩, ⟨8, 4, .rw, 8, .range 1 15 8, none⟩, ⟨16, 8, .rw, 0xff, .any, none⟩]⟩,
  -- AZF_PAUSE
  ⟨0xb00090, [⟨0, 12, .rw, 0x100, .any, none⟩, ⟨16, 12, .rw, 0xc0, .below 0 12, none⟩, ⟨32, 5, .rw, 8, .range 4 12 8, none⟩]⟩,
  -- AZF_DEAD
  ⟨0xb00098, [⟨0, 16, .rw, 0xbb8, .range 1 65535 3000, none⟩]⟩,
  -- AZF_ORDER
  ⟨0xb000a0, [⟨0, 21, .ro, 0, .any, none⟩, ⟨32, 10, .ro, 0, .any, none⟩, ⟨48, 16, .ro, 0, .any, none⟩]⟩,
  -- AZF_LINK_CNT
  ⟨0xb000a8, [⟨0, 32, .rc, 0, .any, none⟩, ⟨32, 16, .rc, 0, .any, none⟩, ⟨48, 16, .rc, 0, .any, none⟩]⟩,
  -- AZF_STREAM_CNT
  ⟨0xb000b0, [⟨0, 32, .rc, 0, .any, none⟩, ⟨32, 32, .rc, 0, .any, none⟩]⟩,
  -- AZF_ORDER_CNT
  ⟨0xb000b8, [⟨0, 32, .rc, 0, .any, none⟩, ⟨32, 16, .rc, 0, .any, none⟩, ⟨48, 16, .rc, 0, .any, none⟩]⟩,
  -- AZF_PROT_CNT
  ⟨0xb000c0, [⟨0, 32, .rc, 0, .any, none⟩]⟩,
  -- AZF_EVT
  ⟨0xb000c8, [⟨0, 1, .w1c, 0, .any, none⟩, ⟨1, 1, .w1c, 0, .any, none⟩, ⟨2, 1, .w1c, 0, .any, none⟩, ⟨3, 1, .w1c, 0, .any, none⟩, ⟨4, 1, .w1c, 0, .any, none⟩, ⟨5, 1, .w1c, 0, .any, none⟩]⟩,
  -- AZF_CTX_CNT
  ⟨0xb000d0, [⟨0, 32, .rc, 0, .any, none⟩, ⟨32, 32, .rc, 0, .any, none⟩]⟩]

/-- The registers of the QPX block (R421). -/
def regsQPX : List RegSpec := [
  -- QPX_CTRL
  ⟨0xc00000, [⟨0, 1, .rw, 0, .any, none⟩]⟩,
  -- QPX_CTX_BASE
  ⟨0xc00008, [⟨16, 48, .rw, 0, .any, some 0xc00000⟩]⟩,
  -- QPX_STAT
  ⟨0xc00010, [⟨0, 13, .ro, 0, .any, none⟩, ⟨16, 10, .ro, 0, .any, none⟩, ⟨26, 1, .ro, 0, .any, none⟩, ⟨32, 14, .ro, 0, .any, none⟩]⟩,
  -- QPX_PKT_CNT
  ⟨0xc00018, [⟨0, 32, .rc, 0, .any, none⟩, ⟨32, 32, .rc, 0, .any, none⟩]⟩,
  -- QPX_DUP_CNT
  ⟨0xc00020, [⟨0, 32, .rc, 0, .any, none⟩, ⟨32, 32, .rc, 0, .any, none⟩]⟩,
  -- QPX_CACHE_CNT
  ⟨0xc00028, [⟨0, 32, .rc, 0, .any, none⟩, ⟨32, 32, .rc, 0, .any, none⟩]⟩,
  -- QPX_NAK_CNT
  ⟨0xc00030, [⟨0, 16, .rc, 0, .any, none⟩, ⟨16, 16, .rc, 0, .any, none⟩, ⟨32, 16, .rc, 0, .any, none⟩, ⟨48, 16, .rc, 0, .any, none⟩]⟩,
  -- QPX_SEL
  ⟨0xc00038, [⟨0, 16, .rw, 0, .any, none⟩]⟩,
  -- QPX_QP_STAT
  ⟨0xc00040, [⟨0, 2, .ro, 0, .any, none⟩, ⟨2, 2, .ro, 0, .any, none⟩, ⟨8, 24, .ro, 0, .any, none⟩, ⟨32, 24, .ro, 0, .any, none⟩]⟩,
  -- QPX_QP_CNT
  ⟨0xc00048, [⟨0, 32, .ro, 0, .any, none⟩, ⟨32, 32, .ro, 0, .any, none⟩]⟩,
  -- QPX_EVT
  ⟨0xc00050, [⟨0, 1, .w1c, 0, .any, none⟩, ⟨1, 1, .w1c, 0, .any, none⟩, ⟨2, 1, .w1c, 0, .any, none⟩]⟩]

/-- The registers of the SHP block (R439). -/
def regsSHP : List RegSpec := [
  -- SHP_CTRL
  ⟨0xd00000, [⟨0, 1, .rw, 0, .any, none⟩]⟩,
  -- SHP_KIND_MAP
  ⟨0xd00008, [⟨0, 3, .rw, 1, .any, none⟩, ⟨3, 3, .rw, 5, .any, none⟩, ⟨6, 3, .rw, 2, .any, none⟩, ⟨9, 3, .rw, 3, .any, none⟩, ⟨12, 3, .rw, 0, .any, none⟩, ⟨15, 3, .rw, 1, .any, none⟩, ⟨18, 3, .rw, 0, .any, none⟩, ⟨21, 3, .rw, 2, .any, none⟩, ⟨24, 3, .rw, 4, .any, none⟩, ⟨27, 3, .rw, 0, .any, none⟩, ⟨30, 3, .rw, 0, .any, none⟩, ⟨33, 3, .rw, 6, .any, none⟩]⟩,
  -- SHP_SEL
  ⟨0xd00010, [⟨0, 12, .rw, 0, .any, none⟩, ⟨12, 1, .rw, 0, .any, none⟩]⟩,
  -- SHP_CFG_RATE
  ⟨0xd00018, [⟨0, 32, .rw, 0, .any, none⟩, ⟨32, 32, .rw, 0, .any, none⟩]⟩,
  -- SHP_CFG_BURST
  ⟨0xd00020, [⟨0, 32, .rw, 0, .any, none⟩, ⟨32, 32, .rw, 0, .any, none⟩]⟩,
  -- SHP_CFG_BIND
  ⟨0xd00028, [⟨0, 3, .rw, 0, .any, none⟩, ⟨8, 3, .rw, 0, .any, none⟩, ⟨16, 32, .rw, 0, .any, none⟩, ⟨48, 8, .rw, 0, .any, none⟩, ⟨56, 1, .rw, 0, .any, none⟩, ⟨57, 1, .rw, 0, .any, none⟩, ⟨58, 1, .rw, 0, .any, none⟩, ⟨59, 1, .rw, 0, .any, none⟩]⟩,
  -- SHP_CMD
  ⟨0xd00030, [⟨0, 1, .wo, 0, .any, none⟩, ⟨1, 1, .wo, 0, .any, none⟩]⟩,
  -- SHP_CMD_STAT
  ⟨0xd00038, [⟨0, 16, .ro, 0, .any, none⟩]⟩,
  -- SHP_TOKENS
  ⟨0xd00040, [⟨0, 32, .ro, 0, .any, none⟩, ⟨32, 32, .ro, 0, .any, none⟩]⟩,
  -- SHP_HELD
  ⟨0xd00048, [⟨0, 20, .ro, 0, .any, none⟩]⟩,
  -- SHP_CNT[0]
  ⟨0xd00050, [⟨0, 64, .rc, 0, .any, none⟩]⟩,
  -- SHP_CNT[1]
  ⟨0xd00058, [⟨0, 64, .rc, 0, .any, none⟩]⟩,
  -- SHP_CNT[2]
  ⟨0xd00060, [⟨0, 64, .rc, 0, .any, none⟩]⟩,
  -- SHP_EVT
  ⟨0xd00068, [⟨0, 1, .w1c, 0, .any, none⟩, ⟨1, 1, .w1c, 0, .any, none⟩]⟩]

/-- The registers of the HLT block (R476). -/
def regsHLT : List RegSpec := [
  -- HLT_CTRL
  ⟨0xe00000, [⟨0, 1, .rw, 0, .any, none⟩, ⟨1, 1, .rw, 0, .any, none⟩, ⟨2, 1, .rw, 0, .any, none⟩, ⟨3, 1, .rw, 0, .any, none⟩, ⟨16, 14, .rw, 0, .any, none⟩]⟩,
  -- HLT_STAT
  ⟨0xe00008, [⟨0, 10, .ro, 0, .any, none⟩, ⟨10, 3, .ro, 0, .any, none⟩, ⟨13, 1, .ro, 0, .any, none⟩, ⟨16, 3, .ro, 0, .any, none⟩, ⟨32, 9, .ro, 0, .any, none⟩]⟩,
  -- HLT_ASK
  ⟨0xe00010, [⟨0, 1, .w1c, 0, .any, none⟩]⟩,
  -- HLT_THRESH
  ⟨0xe00018, [⟨0, 10, .rw, 0x200, .range 0 1022 1022, none⟩, ⟨16, 10, .rw, 0x300, .above 0 10, none⟩]⟩,
  -- HLT_WEIGHT
  ⟨0xe00020, [⟨0, 16, .rw, 1, .any, none⟩, ⟨16, 16, .rw, 2, .any, none⟩, ⟨32, 16, .rw, 0x400, .any, none⟩, ⟨48, 16, .rw, 0x1000, .any, none⟩]⟩,
  -- HLT_WEIGHT2
  ⟨0xe00028, [⟨0, 16, .rw, 0x4000, .any, none⟩, ⟨16, 5, .rw, 0x1e, .range 24 31 30, none⟩]⟩,
  -- HLT_EXPEL
  ⟨0xe00030, [⟨0, 16, .rw, 0xc8, .any, none⟩, ⟨16, 16, .ro, 0, .any, none⟩]⟩,
  -- HLT_EXPEL_WIN
  ⟨0xe00038, [⟨0, 48, .rw, 0x13a52453c000, .any, none⟩]⟩,
  -- HLT_SEL
  ⟨0xe00040, [⟨0, 3, .rw, 0, .any, none⟩, ⟨16, 10, .rw, 0, .any, none⟩]⟩,
  -- HLT_PART
  ⟨0xe00048, [⟨0, 10, .ro, 0, .any, none⟩, ⟨10, 1, .ro, 0, .any, none⟩, ⟨32, 24, .ro, 0, .any, none⟩]⟩,
  -- HLT_PART_CNT
  ⟨0xe00050, [⟨0, 16, .rc, 0, .any, none⟩, ⟨16, 16, .rc, 0, .any, none⟩, ⟨32, 16, .rc, 0, .any, none⟩, ⟨48, 16, .rc, 0, .any, none⟩]⟩,
  -- HLT_TANDEM
  ⟨0xe00058, [⟨0, 1, .rw, 0, .any, none⟩, ⟨1, 1, .ro, 0, .any, none⟩, ⟨8, 5, .rw, 0x14, .range 12 28 20, none⟩]⟩,
  -- HLT_MIRROR_CNT
  ⟨0xe00060, [⟨0, 32, .rc, 0, .any, none⟩, ⟨32, 12, .rc, 0, .any, none⟩, ⟨44, 12, .rc, 0, .any, none⟩, ⟨56, 8, .rc, 0, .any, none⟩]⟩,
  -- HLT_VOTE_CNT
  ⟨0xe00068, [⟨0, 16, .rc, 0, .any, none⟩, ⟨16, 16, .rc, 0, .any, none⟩, ⟨32, 16, .rc, 0, .any, none⟩, ⟨48, 16, .rc, 0, .any, none⟩]⟩,
  -- HLT_EVT
  ⟨0xe00070, [⟨0, 1, .w1c, 0, .any, none⟩, ⟨1, 1, .w1c, 0, .any, none⟩, ⟨2, 1, .w1c, 0, .any, none⟩, ⟨3, 1, .w1c, 0, .any, none⟩, ⟨4, 1, .w1c, 0, .any, none⟩, ⟨5, 1, .w1c, 0, .any, none⟩, ⟨6, 1, .w1c, 0, .any, none⟩, ⟨7, 1, .w1c, 0, .any, none⟩, ⟨8, 1, .w1c, 0, .any, none⟩, ⟨9, 1, .w1c, 0, .any, none⟩, ⟨10, 1, .w1c, 0, .any, none⟩, ⟨11, 1, .w1c, 0, .any, none⟩, ⟨12, 1, .w1c, 0, .any, none⟩, ⟨13, 1, .w1c, 0, .any, none⟩, ⟨14, 1, .w1c, 0, .any, none⟩]⟩,
  -- HLT_EVT_LOST
  ⟨0xe00078, [⟨0, 32, .rc, 0, .any, none⟩]⟩]

/-- The registers of the HIF block (R499). -/
def regsHIF : List RegSpec := [
  -- HIF_CTRL
  ⟨0xf00000, [⟨0, 1, .rw, 0, .any, none⟩, ⟨16, 16, .rw, 0x3e8, .range 250 65535 250, none⟩]⟩,
  -- HIF_DB_BASE
  ⟨0xf00008, [⟨12, 52, .rw, 0, .any, some 0xf00000⟩]⟩,
  -- HIF_BULK_BASE
  ⟨0xf00010, [⟨16, 48, .rw, 0, .any, some 0xf00000⟩]⟩,
  -- HIF_BULK_SEGS
  ⟨0xf00018, [⟨0, 17, .rw, 0, .range 0 65536 65536, none⟩]⟩,
  -- HIF_ADM_CMD
  ⟨0xf00020, [⟨12, 52, .rw, 0, .any, some 0xf00000⟩]⟩,
  -- HIF_ADM_CPL
  ⟨0xf00028, [⟨12, 52, .rw, 0, .any, some 0xf00000⟩]⟩,
  -- HIF_ADM_SIZE
  ⟨0xf00030, [⟨0, 5, .rw, 4, .range 4 16 4, none⟩, ⟨8, 5, .rw, 4, .range 4 20 4, none⟩, ⟨16, 11, .rw, 0, .any, none⟩, ⟨27, 1, .rw, 0, .any, none⟩, ⟨32, 16, .rw, 0, .any, none⟩]⟩,
  -- HIF_STAT
  ⟨0xf00038, [⟨0, 17, .ro, 0, .any, none⟩, ⟨32, 15, .ro, 0, .any, none⟩]⟩,
  -- HIF_CMD_CNT
  ⟨0xf00040, [⟨0, 32, .rc, 0, .any, none⟩, ⟨32, 32, .rc, 0, .any, none⟩]⟩,
  -- HIF_DB_CNT
  ⟨0xf00048, [⟨0, 32, .rc, 0, .any, none⟩, ⟨32, 32, .rc, 0, .any, none⟩]⟩,
  -- HIF_LAST_ERR
  ⟨0xf00050, [⟨0, 16, .ro, 0, .any, none⟩, ⟨16, 14, .ro, 0, .any, none⟩, ⟨32, 32, .ro, 0, .any, none⟩]⟩,
  -- HIF_ACK_LAT
  ⟨0xf00058, [⟨0, 32, .rc, 0, .any, none⟩, ⟨32, 32, .rc, 0, .any, none⟩]⟩,
  -- HIF_SEL
  ⟨0xf00060, [⟨0, 14, .rw, 0, .any, none⟩, ⟨14, 1, .rw, 0, .any, none⟩]⟩,
  -- HIF_RING_STAT
  ⟨0xf00068, [⟨0, 1, .ro, 0, .any, none⟩, ⟨1, 5, .ro, 0, .any, none⟩, ⟨6, 1, .ro, 0, .any, none⟩, ⟨7, 1, .ro, 0, .any, none⟩, ⟨8, 12, .ro, 0, .any, none⟩]⟩,
  -- HIF_RING_IDX
  ⟨0xf00070, [⟨0, 32, .ro, 0, .any, none⟩, ⟨32, 32, .ro, 0, .any, none⟩]⟩,
  -- HIF_DROP_CNT
  ⟨0xf00078, [⟨0, 32, .rc, 0, .any, none⟩, ⟨32, 32, .rc, 0, .any, none⟩]⟩,
  -- HIF_EVT
  ⟨0xf00080, [⟨0, 1, .w1c, 0, .any, none⟩, ⟨1, 1, .w1c, 0, .any, none⟩, ⟨2, 1, .w1c, 0, .any, none⟩, ⟨3, 1, .w1c, 0, .any, none⟩, ⟨4, 1, .w1c, 0, .any, none⟩]⟩]

/-- The registers of the DBG block (R533). -/
def regsDBG : List RegSpec := [
  -- DBG_CTRL
  ⟨0x1100000, [⟨0, 1, .rw, 0, .any, none⟩, ⟨1, 1, .rw, 0, .any, none⟩, ⟨2, 1, .ro, 0, .any, none⟩]⟩,
  -- DBG_OBS_SEL
  ⟨0x1100008, [⟨0, 8, .rw, 0, .any, none⟩, ⟨16, 16, .rw, 0, .any, none⟩]⟩,
  -- DBG_TRIG
  ⟨0x1100010, [⟨0, 16, .rw, 0, .any, none⟩, ⟨16, 1, .w1s, 0, .any, none⟩, ⟨17, 1, .w1c, 0, .any, none⟩]⟩,
  -- DBG_TRIG_BEAT
  ⟨0x1100018, [⟨0, 64, .ro, 0, .any, none⟩]⟩,
  -- DBG_TAP
  ⟨0x1100020, [⟨0, 8, .ro, 2, .any, none⟩, ⟨8, 4, .ro, 0, .any, none⟩, ⟨12, 1, .ro, 0, .any, none⟩]⟩,
  -- DBG_IDCODE
  ⟨0x1100028, [⟨0, 32, .ro, 0x14416b47, .any, none⟩]⟩]

/-- The registers of the ENG block (R541). -/
def regsENG : List RegSpec := [
  -- ENG_STAT
  ⟨0x500000, [⟨0, 10, .ro, 0, .any, none⟩, ⟨16, 6, .ro, 0, .any, none⟩, ⟨32, 10, .ro, 0, .any, none⟩, ⟨48, 4, .ro, 0, .any, none⟩]⟩,
  -- ENG_SPARE_MAP[0]
  ⟨0x500008, [⟨0, 64, .ro, 0x83008200810080, .any, none⟩]⟩,
  -- ENG_SPARE_MAP[1]
  ⟨0x500010, [⟨0, 64, .ro, 0x87008600850084, .any, none⟩]⟩,
  -- ENG_SPARE_MAP[2]
  ⟨0x500018, [⟨0, 64, .ro, 0x83008200810080, .any, none⟩]⟩,
  -- ENG_SPARE_MAP[3]
  ⟨0x500020, [⟨0, 64, .ro, 0x87008600850084, .any, none⟩]⟩,
  -- ENG_SPARE_MAP[4]
  ⟨0x500028, [⟨0, 64, .ro, 0x83008200810080, .any, none⟩]⟩,
  -- ENG_SPARE_MAP[5]
  ⟨0x500030, [⟨0, 64, .ro, 0x87008600850084, .any, none⟩]⟩,
  -- ENG_SPARE_MAP[6]
  ⟨0x500038, [⟨0, 64, .ro, 0x83008200810080, .any, none⟩]⟩,
  -- ENG_SPARE_MAP[7]
  ⟨0x500040, [⟨0, 64, .ro, 0x87008600850084, .any, none⟩]⟩,
  -- ENG_SEL
  ⟨0x500048, [⟨0, 8, .rw, 0, .range 0 135 0, none⟩, ⟨8, 2, .rw, 0, .any, none⟩]⟩,
  -- ENG_CORE_STAT
  ⟨0x500050, [⟨0, 2, .ro, 0, .any, none⟩, ⟨2, 1, .ro, 0, .any, none⟩, ⟨4, 1, .ro, 0, .any, none⟩, ⟨8, 23, .ro, 0, .any, none⟩, ⟨31, 1, .ro, 0, .any, none⟩, ⟨32, 16, .ro, 0, .any, none⟩]⟩,
  -- ENG_CORE_CNT
  ⟨0x500058, [⟨0, 32, .rc, 0, .any, none⟩]⟩,
  -- ENG_ROUNDED_SUM
  ⟨0x500060, [⟨0, 64, .rc, 0, .any, none⟩]⟩,
  -- ENG_EVT
  ⟨0x500068, [⟨0, 1, .w1c, 0, .any, none⟩, ⟨1, 1, .w1c, 0, .any, none⟩, ⟨2, 1, .w1c, 0, .any, none⟩]⟩]

/-- The registers of the CMP block (R542, R543). -/
def regsCMP : List RegSpec := [
  -- CMP_DEFAULT_LO
  ⟨0x600000, [⟨0, 8, .rw, 0, .any, none⟩, ⟨8, 8, .rw, 0, .any, none⟩, ⟨16, 8, .rw, 0, .any, none⟩, ⟨24, 8, .rw, 0, .any, none⟩, ⟨32, 8, .rw, 0, .any, none⟩, ⟨40, 8, .rw, 0, .any, none⟩, ⟨48, 8, .rw, 0, .any, none⟩, ⟨56, 8, .rw, 0, .any, none⟩]⟩,
  -- CMP_DEFAULT_HI
  ⟨0x600008, [⟨0, 8, .rw, 0, .any, none⟩, ⟨8, 8, .rw, 0, .any, none⟩, ⟨16, 8, .rw, 0, .any, none⟩, ⟨24, 8, .rw, 0, .any, none⟩, ⟨32, 8, .rw, 0, .any, none⟩, ⟨40, 8, .rw, 0, .any, none⟩, ⟨48, 8, .rw, 0, .any, none⟩, ⟨56, 8, .rw, 0, .any, none⟩]⟩,
  -- CMP_DEFAULT_SC
  ⟨0x600010, [⟨0, 8, .rw, 0, .any, none⟩, ⟨8, 8, .rw, 0, .any, none⟩, ⟨16, 8, .rw, 0, .any, none⟩, ⟨24, 8, .rw, 0, .any, none⟩, ⟨32, 8, .rw, 0, .any, none⟩]⟩,
  -- CMP_TABLE_MAP[0]
  ⟨0x600018, [⟨0, 64, .ro, 1, .any, none⟩]⟩,
  -- CMP_TABLE_MAP[1]
  ⟨0x600020, [⟨0, 64, .ro, 0, .any, none⟩]⟩,
  -- CMP_TABLE_MAP[2]
  ⟨0x600028, [⟨0, 64, .ro, 0, .any, none⟩]⟩,
  -- CMP_TABLE_MAP[3]
  ⟨0x600030, [⟨0, 64, .ro, 0, .any, none⟩]⟩,
  -- CMP_FAULT_CNT0
  ⟨0x600038, [⟨0, 16, .rc, 0, .any, none⟩, ⟨16, 16, .rc, 0, .any, none⟩, ⟨32, 16, .rc, 0, .any, none⟩, ⟨48, 16, .rc, 0, .any, none⟩]⟩,
  -- CMP_FAULT_CNT1
  ⟨0x600040, [⟨0, 16, .rc, 0, .any, none⟩, ⟨16, 16, .rc, 0, .any, none⟩]⟩,
  -- CMP_WIRE_LOG
  ⟨0x600048, [⟨0, 64, .rc, 0, .any, none⟩]⟩,
  -- CMP_WIRE_CODED
  ⟨0x600050, [⟨0, 64, .rc, 0, .any, none⟩]⟩,
  -- CMP_ENC_CNT
  ⟨0x600058, [⟨0, 32, .rc, 0, .any, none⟩, ⟨32, 32, .rc, 0, .any, none⟩]⟩,
  -- CMP_LAST
  ⟨0x600060, [⟨0, 16, .ro, 0, .any, none⟩, ⟨16, 8, .ro, 0, .any, none⟩]⟩,
  -- CMP_EVT
  ⟨0x600068, [⟨0, 1, .w1c, 0, .any, none⟩, ⟨1, 1, .w1c, 0, .any, none⟩, ⟨2, 1, .w1c, 0, .any, none⟩, ⟨3, 1, .w1c, 0, .any, none⟩, ⟨4, 1, .w1c, 0, .any, none⟩, ⟨5, 1, .w1c, 0, .any, none⟩]⟩]

/-- The registers of the SEP block (R544). -/
def regsSEP : List RegSpec := [
  -- SEP_SEL
  ⟨0x700000, [⟨0, 16, .rw, 0, .any, none⟩, ⟨16, 4, .rw, 0, .any, none⟩, ⟨24, 5, .rw, 0, .range 0 25 0, none⟩]⟩,
  -- SEP_PD_ENUM
  ⟨0x700008, [⟨0, 6, .rw, 0, .any, none⟩, ⟨16, 16, .ro, 0, .any, none⟩]⟩,
  -- SEP_MODE
  ⟨0x700010, [⟨0, 2, .rw, 0, .any, none⟩, ⟨2, 1, .ro, 0, .any, none⟩, ⟨3, 1, .ro, 0, .any, none⟩, ⟨4, 2, .ro, 0, .any, none⟩]⟩,
  -- SEP_SLOTS
  ⟨0x700018, [⟨0, 16, .ro, 0, .any, none⟩, ⟨16, 16, .ro, 0, .any, none⟩, ⟨32, 4, .ro, 0, .any, none⟩, ⟨36, 1, .ro, 0, .any, none⟩]⟩,
  -- SEP_SLOT_INFO
  ⟨0x700020, [⟨0, 32, .ro, 0, .any, none⟩, ⟨32, 24, .ro, 0, .any, none⟩, ⟨56, 8, .ro, 0, .any, none⟩]⟩,
  -- SEP_INV_CNT
  ⟨0x700028, [⟨0, 32, .rc, 0, .any, none⟩, ⟨32, 16, .rc, 0, .any, none⟩, ⟨48, 16, .rc, 0, .any, none⟩]⟩,
  -- SEP_PEL_STAT
  ⟨0x700030, [⟨0, 12, .ro, 0, .any, none⟩, ⟨12, 1, .ro, 0, .any, none⟩, ⟨32, 18, .ro, 0, .any, none⟩]⟩,
  -- SEP_PEL_CNT
  ⟨0x700038, [⟨0, 32, .rc, 0, .any, none⟩, ⟨32, 16, .rc, 0, .any, none⟩, ⟨48, 16, .rc, 0, .any, none⟩]⟩,
  -- SEP_PEL_NEXT
  ⟨0x700040, [⟨0, 64, .ro, 0, .any, none⟩]⟩]

/-- The registers of the PWR block (R545, R546). -/
def regsPWR : List RegSpec := [
  -- PWR_CTRL
  ⟨0x1000000, [⟨0, 3, .rw, 1, .any, none⟩]⟩,
  -- PWR_STAT
  ⟨0x1000008, [⟨0, 3, .ro, 0, .any, none⟩, ⟨3, 1, .ro, 0, .any, none⟩, ⟨4, 1, .ro, 0, .any, none⟩, ⟨8, 1, .ro, 0, .any, none⟩, ⟨9, 1, .ro, 0, .any, none⟩, ⟨10, 1, .ro, 0, .any, none⟩, ⟨11, 1, .ro, 0, .any, none⟩, ⟨16, 16, .ro, 0, .any, none⟩]⟩,
  -- PWR_RESET
  ⟨0x1000010, [⟨0, 1, .wo, 0, .any, none⟩]⟩,
  -- PWR_RST_CAUSE
  ⟨0x1000018, [⟨0, 1, .w1c, 1, .any, none⟩, ⟨1, 1, .w1c, 0, .any, none⟩, ⟨2, 1, .w1c, 0, .any, none⟩, ⟨3, 1, .w1c, 0, .any, none⟩, ⟨4, 1, .w1c, 0, .any, none⟩, ⟨5, 1, .w1c, 0, .any, none⟩]⟩,
  -- PWR_STRAP
  ⟨0x1000020, [⟨0, 15, .ro, 0, .any, none⟩, ⟨16, 2, .ro, 0, .any, none⟩, ⟨18, 1, .ro, 0, .any, none⟩]⟩,
  -- PWR_BOOT
  ⟨0x1000028, [⟨0, 1, .wo, 0, .any, none⟩, ⟨1, 1, .wo, 0, .any, none⟩, ⟨2, 1, .ro, 0, .any, none⟩, ⟨3, 1, .ro, 0, .any, none⟩, ⟨4, 1, .ro, 0, .any, none⟩, ⟨5, 1, .ro, 0, .any, none⟩, ⟨8, 4, .ro, 0, .any, none⟩, ⟨12, 4, .ro, 0, .any, none⟩, ⟨16, 4, .ro, 0, .any, none⟩]⟩,
  -- PWR_FW
  ⟨0x1000030, [⟨0, 32, .ro, 0, .any, none⟩, ⟨32, 7, .ro, 0, .any, none⟩, ⟨40, 7, .ro, 0, .any, none⟩, ⟨48, 2, .ro, 0, .any, none⟩, ⟨52, 4, .ro, 0, .any, none⟩]⟩,
  -- PWR_CAP
  ⟨0x1000038, [⟨0, 12, .rw, 0xe10, .range 1000 3600 3600, none⟩]⟩,
  -- PWR_POWER
  ⟨0x1000040, [⟨0, 12, .ro, 0, .any, none⟩, ⟨16, 12, .rc, 0, .any, none⟩]⟩,
  -- PWR_CLK
  ⟨0x1000048, [⟨0, 16, .ro, 0xcccc, .any, none⟩, ⟨16, 1, .ro, 0, .any, none⟩, ⟨17, 1, .ro, 0, .any, none⟩, ⟨18, 1, .ro, 0, .any, none⟩, ⟨19, 1, .ro, 0, .any, none⟩, ⟨20, 1, .ro, 0, .any, none⟩]⟩,
  -- PWR_TEMP
  ⟨0x1000050, [⟨0, 40, .ro, 0, .any, none⟩]⟩,
  -- PWR_TEMP_HBM
  ⟨0x1000058, [⟨0, 64, .ro, 0, .any, none⟩]⟩,
  -- PWR_EVT
  ⟨0x1000060, [⟨0, 1, .w1c, 0, .any, none⟩, ⟨1, 1, .w1c, 0, .any, none⟩, ⟨2, 1, .w1c, 0, .any, none⟩, ⟨3, 1, .w1c, 0, .any, none⟩, ⟨4, 1, .w1c, 0, .any, none⟩, ⟨5, 1, .w1c, 0, .any, none⟩, ⟨6, 1, .w1c, 0, .any, none⟩, ⟨7, 1, .w1c, 0, .any, none⟩, ⟨8, 1, .w1c, 0, .any, none⟩]⟩]

/-- Every register of BAR0. -/
def regTable : List RegSpec :=
  regsGLB ++ regsCAD ++ regsINTK ++ regsSTL ++ regsPAN ++ regsSRCH ++ regsMEM ++ regsHAY ++ regsAZF ++ regsQPX ++ regsSHP ++ regsHLT ++ regsHIF ++ regsDBG ++ regsENG ++ regsCMP ++ regsSEP ++ regsPWR

/-- The registers of the 1 MiB block window that holds an offset (R535). -/
def regBlock (off : Nat) : List RegSpec :=
  match off / 0x100000 with
  | 0 => regsGLB
  | 1 => regsCAD
  | 2 => regsINTK
  | 3 => regsSTL
  | 4 => regsPAN
  | 8 => regsSRCH
  | 9 => regsMEM
  | 10 => regsHAY
  | 11 => regsAZF
  | 12 => regsQPX
  | 13 => regsSHP
  | 14 => regsHLT
  | 15 => regsHIF
  | 17 => regsDBG
  | 5 => regsENG
  | 6 => regsCMP
  | 7 => regsSEP
  | 16 => regsPWR
  | _ => []

/-! The fields the model names, by the spec's own register and field names. -/

def F.GLB_ID_PART_NUM : Fld := ⟨0x0, 0, 16⟩
def F.GLB_COMP_EPOCH_MAP_EPOCH : Fld := ⟨0x200, 0, 32⟩
def F.GLB_COMP_EPOCH_ROLE_EPOCH : Fld := ⟨0x200, 32, 32⟩
def F.GLB_COMP_STATE_ROLE : Fld := ⟨0x208, 0, 2⟩
def F.GLB_COMP_STATE_STATE : Fld := ⟨0x208, 2, 2⟩
def F.GLB_COMP_STATE_PEND_ROLE : Fld := ⟨0x208, 4, 2⟩
def F.GLB_COMP_STATE_PADDOCKS : Fld := ⟨0x208, 16, 7⟩
def F.GLB_COMP_STATE_GRACE_BEATS : Fld := ⟨0x208, 32, 32⟩
def F.GLB_COMP_BEAT_EFF_BEAT : Fld := ⟨0x210, 0, 64⟩
def F.CAD_COUNT_COUNT : Fld := ⟨0x100000, 0, 64⟩
def F.CAD_STATE_STATE : Fld := ⟨0x100008, 0, 3⟩
def F.CAD_STATE_STRATUM : Fld := ⟨0x100008, 4, 4⟩
def F.CAD_STATE_SRC_PORT : Fld := ⟨0x100008, 8, 4⟩
def F.CAD_STATE_OFFSET : Fld := ⟨0x100008, 16, 16⟩
def F.CAD_LOAD_ARM : Fld := ⟨0x100010, 0, 1⟩
def F.CAD_LOAD_HI : Fld := ⟨0x100010, 20, 44⟩
def F.CAD_SLIP_LATE_LATE : Fld := ⟨0x100020, 0, 32⟩
def F.CAD_SLIP_LATE_MAX_SLIP : Fld := ⟨0x100020, 32, 32⟩
def F.CAD_SLIP_SUM_SUM : Fld := ⟨0x100028, 0, 64⟩
def F.CAD_CTRL_ACCEPT_FLIT : Fld := ⟨0x100030, 1, 1⟩
def F.GLB_MODE_DETM : Fld := ⟨0x100, 0, 1⟩
def F.GLB_MODE_DETM_REQ : Fld := ⟨0x100, 1, 1⟩
def F.GLB_MODE_DETM_PEND : Fld := ⟨0x100, 2, 1⟩
def F.INTK_CTRL_EN : Fld := ⟨0x200000, 0, 1⟩
def F.INTK_CTRL_MANUAL : Fld := ⟨0x200000, 1, 1⟩
def F.INTK_STAT_COUNT : Fld := ⟨0x200008, 0, 17⟩
def F.INTK_STAT_XOFF : Fld := ⟨0x200008, 20, 4⟩
def F.INTK_STAT_OPEN : Fld := ⟨0x200008, 24, 1⟩
def F.INTK_WM_HI (i : Nat) : Fld := ⟨0x200010 + 8 * i, 0, 17⟩
def F.INTK_WM_LO (i : Nat) : Fld := ⟨0x200010 + 8 * i, 32, 17⟩
def F.INTK_WM_LVL_MASK (i : Nat) : Fld := ⟨0x200010 + 8 * i, 56, 8⟩
def F.INTK_LVL_COUNT (i : Nat) : Fld := ⟨0x200040 + 8 * i, 0, 17⟩
def F.INTK_POP_ITEM (i : Nat) : Fld := ⟨0x200080 + 8 * i, 0, 64⟩
def F.INTK_CMD_NEXT : Fld := ⟨0x2000c0, 0, 1⟩
def F.INTK_CMD_DROP_REST : Fld := ⟨0x2000c0, 1, 1⟩
def F.INTK_EVT_FULL : Fld := ⟨0x2000c8, 0, 1⟩
def F.INTK_EVT_REFUSED : Fld := ⟨0x2000c8, 1, 1⟩
def F.INTK_REFUSE_CNT_FULL : Fld := ⟨0x2000d0, 0, 32⟩
def F.INTK_REFUSE_CNT_MALFORMED : Fld := ⟨0x2000d0, 32, 32⟩
def F.INTK_DROP_CNT_DROPPED : Fld := ⟨0x2000d8, 0, 32⟩
def F.STL_CTRL_EN : Fld := ⟨0x300000, 0, 1⟩
def F.STL_CTRL_PROMOTE_RSV : Fld := ⟨0x300000, 16, 17⟩
def F.STL_POOL_BASE_BASE : Fld := ⟨0x300008, 16, 32⟩
def F.STL_POOL_SIZE_SIZE : Fld := ⟨0x300010, 16, 32⟩
def F.STL_PARK_TTL_TTL : Fld := ⟨0x300018, 0, 64⟩
def F.STL_SHADOW_HELD : Fld := ⟨0x300020, 0, 18⟩
def F.STL_EVT_PROMOTED : Fld := ⟨0x300028, 2, 1⟩
def F.STL_EVT_PROMOTE_FULL : Fld := ⟨0x300028, 3, 1⟩
def F.STL_RETIRE_CNT_DEADLINE : Fld := ⟨0x300030, 0, 32⟩
def F.STL_RETIRE_CNT_FAIL : Fld := ⟨0x300030, 32, 16⟩
def F.STL_RETIRE_CNT_STALE : Fld := ⟨0x300030, 48, 16⟩
def F.STL_SEL_STALL : Fld := ⟨0x300038, 0, 17⟩
def F.STL_SEL_SHADOW : Fld := ⟨0x300038, 17, 1⟩
def F.STL_STATE_CNT_COUNT (i : Nat) : Fld := ⟨0x300040 + 8 * i, 0, 18⟩
def F.STL_DATA_WORD (i : Nat) : Fld := ⟨0x300100 + 8 * i, 0, 64⟩
def F.PAN_CTRL_EN : Fld := ⟨0x400000, 0, 1⟩
def F.PAN_CTRL_MAX_OUT_M1 : Fld := ⟨0x400000, 8, 4⟩
def F.PAN_RETRY_INTERVAL_LOG2 : Fld := ⟨0x400008, 0, 5⟩
def F.PAN_RETRY_TIMEOUT_LOG2 : Fld := ⟨0x400008, 8, 5⟩
def F.PAN_RETRY_MAX_M1 : Fld := ⟨0x400008, 16, 8⟩
def F.PAN_HELD_REGIONS : Fld := ⟨0x400010, 0, 40⟩
def F.PAN_PULLS_OPEN : Fld := ⟨0x400018, 0, 18⟩
def F.PAN_PARK_CNT_SENT : Fld := ⟨0x400020, 0, 32⟩
def F.PAN_PARK_CNT_REFUSED : Fld := ⟨0x400020, 32, 32⟩
def F.PAN_PULL_CNT_LANDED : Fld := ⟨0x400028, 0, 32⟩
def F.PAN_PULL_CNT_DUP : Fld := ⟨0x400028, 32, 32⟩
def F.PAN_PULL_BYTES_BYTES : Fld := ⟨0x400030, 0, 64⟩
def F.PAN_RECOVER_CNT_REBUILD : Fld := ⟨0x400038, 0, 16⟩
def F.PAN_RECOVER_CNT_REPREFILL : Fld := ⟨0x400038, 16, 16⟩
def F.PAN_RECOVER_CNT_REPARK : Fld := ⟨0x400038, 32, 16⟩
def F.PAN_RECOVER_CNT_GATE_WAIT : Fld := ⟨0x400038, 48, 16⟩
def F.PAN_BOUNCE_CNT_ROLE_SENT : Fld := ⟨0x400040, 0, 16⟩
def F.PAN_BOUNCE_CNT_EPOCH_SENT : Fld := ⟨0x400040, 16, 16⟩
def F.PAN_BOUNCE_CNT_ROLE_RCVD : Fld := ⟨0x400040, 32, 16⟩
def F.PAN_BOUNCE_CNT_EPOCH_RCVD : Fld := ⟨0x400040, 48, 16⟩
def F.STL_SMP_CNT_DRAFT_ACC : Fld := ⟨0x300200, 0, 32⟩
def F.STL_SMP_CNT_NUCLEUS_CAP : Fld := ⟨0x300200, 32, 16⟩
def F.STL_SMP_CNT_NO_TOKEN : Fld := ⟨0x300200, 48, 16⟩
def F.STL_SMP_DRAFT_DRAFT_TESTED : Fld := ⟨0x300208, 0, 32⟩
def F.STL_SMP_DRAFT_ROWS : Fld := ⟨0x300208, 32, 32⟩
def F.SRCH_CTRL_EN : Fld := ⟨0x800000, 0, 1⟩
def F.SRCH_CTRL_GROOM_EN : Fld := ⟨0x800000, 1, 1⟩
def F.SRCH_CTRL_TO_LOG2 : Fld := ⟨0x800000, 8, 5⟩
def F.SRCH_STAT_CTX_USED : Fld := ⟨0x800008, 0, 15⟩
def F.SRCH_STAT_SHARDS : Fld := ⟨0x800008, 16, 7⟩
def F.SRCH_STAT_POOL_FREE : Fld := ⟨0x800008, 32, 19⟩
def F.SRCH_QUEUE_WAITING : Fld := ⟨0x800010, 0, 13⟩
def F.SRCH_GROOM_ROWS : Fld := ⟨0x800018, 0, 13⟩
def F.SRCH_DIR_N_ENTRIES : Fld := ⟨0x800020, 0, 15⟩
def F.SRCH_SEL_INDEX : Fld := ⟨0x800028, 0, 8⟩
def F.SRCH_SEL_SHARD : Fld := ⟨0x800028, 16, 16⟩
def F.SRCH_SH_CNT_LIVE : Fld := ⟨0x800030, 0, 32⟩
def F.SRCH_SH_CNT_TOMB : Fld := ⟨0x800030, 32, 32⟩
def F.SRCH_SH_SWEEP_EPOCH : Fld := ⟨0x800038, 0, 32⟩
def F.SRCH_SH_SWEEP_ROW : Fld := ⟨0x800038, 32, 32⟩
def F.SRCH_SH_FREE_FREE : Fld := ⟨0x800040, 0, 32⟩
def F.SRCH_SH_FREE_MUT_Q : Fld := ⟨0x800040, 32, 17⟩
def F.SRCH_Q_CNT_DONE : Fld := ⟨0x800048, 0, 32⟩
def F.SRCH_Q_CNT_PARTIAL : Fld := ⟨0x800048, 32, 16⟩
def F.SRCH_Q_CNT_FAILED : Fld := ⟨0x800048, 48, 16⟩
def F.SRCH_M_CNT_INSERTS : Fld := ⟨0x800050, 0, 32⟩
def F.SRCH_M_CNT_DELETES : Fld := ⟨0x800050, 32, 32⟩
def F.SRCH_GROOM_CNT_FREED : Fld := ⟨0x800058, 0, 32⟩
def F.SRCH_GROOM_CNT_REWIRED : Fld := ⟨0x800058, 32, 32⟩
def F.SRCH_EVT_BUSY : Fld := ⟨0x800060, 0, 1⟩
def F.SRCH_EVT_TIMEOUT : Fld := ⟨0x800060, 1, 1⟩
def F.SRCH_EVT_FULL : Fld := ⟨0x800060, 3, 1⟩
def F.MEM_CTRL_EN : Fld := ⟨0x900000, 0, 1⟩
def F.MEM_CTRL_SCRUB_EN : Fld := ⟨0x900000, 1, 1⟩
def F.MEM_CTRL_MIGRATE_EN : Fld := ⟨0x900000, 2, 1⟩
def F.MEM_CTRL_PROMOTE_HEAT : Fld := ⟨0x900000, 16, 8⟩
def F.MEM_POOL_GRP_MASK : Fld := ⟨0x900008, 0, 32⟩
def F.MEM_POOL_TIER_MIN : Fld := ⟨0x900008, 32, 25⟩
def F.MEM_WM_LOW : Fld := ⟨0x900010, 0, 25⟩
def F.MEM_WM_HIGH : Fld := ⟨0x900010, 32, 25⟩
def F.MEM_HOST_BASE_BASE : Fld := ⟨0x900018, 16, 48⟩
def F.MEM_HMAP_BASE_BASE : Fld := ⟨0x900028, 16, 48⟩
def F.MEM_HOST_SIZE_SIZE : Fld := ⟨0x900020, 16, 29⟩
def F.MEM_HMAP_SIZE_SIZE : Fld := ⟨0x900030, 16, 24⟩
def F.MEM_FLUSH_AGE_AGE : Fld := ⟨0x900038, 0, 64⟩
def F.MEM_PF_RATE_HOST_BPB : Fld := ⟨0x900040, 0, 16⟩
def F.MEM_PF_RATE_HAY_BPB : Fld := ⟨0x900040, 16, 16⟩
def F.MEM_PF_RATE_HOST_LOW : Fld := ⟨0x900040, 32, 9⟩
def F.MEM_SPILL_LBA_LBA : Fld := ⟨0x900048, 0, 48⟩
def F.MEM_SPILL_N_LBA : Fld := ⟨0x900050, 0, 48⟩
def F.MEM_STAT_HBM_FREE : Fld := ⟨0x900058, 0, 25⟩
def F.MEM_STAT_HOST_FREE : Fld := ⟨0x900058, 32, 29⟩
def F.MEM_STAT2_REGIONS : Fld := ⟨0x900060, 0, 13⟩
def F.MEM_STAT2_MOVES : Fld := ⟨0x900060, 16, 11⟩
def F.MEM_STAT2_WB : Fld := ⟨0x900060, 32, 9⟩
def F.MEM_MIG_CNT_PROMOTE : Fld := ⟨0x900068, 0, 32⟩
def F.MEM_MIG_CNT_DEMOTE : Fld := ⟨0x900068, 32, 32⟩
def F.MEM_WB_CNT_WB : Fld := ⟨0x900070, 0, 32⟩
def F.MEM_WB_CNT_HAY_FETCH : Fld := ⟨0x900070, 32, 32⟩
def F.MEM_LOOKUP_ADDR : Fld := ⟨0x900078, 0, 48⟩
def F.MEM_LOOKUP_DATA_STATE : Fld := ⟨0x900080, 0, 3⟩
def F.MEM_LOOKUP_DATA_DIRTY : Fld := ⟨0x900080, 3, 1⟩
def F.MEM_LOOKUP_DATA_HAY_VALID : Fld := ⟨0x900080, 4, 1⟩
def F.MEM_LOOKUP_DATA_HEAT : Fld := ⟨0x900080, 8, 8⟩
def F.MEM_LOOKUP_DATA_REGION : Fld := ⟨0x900080, 16, 12⟩
def F.MEM_LOOKUP_DATA_FRAME : Fld := ⟨0x900080, 32, 32⟩
def F.MEM_ECC_SEL_CHANNEL : Fld := ⟨0x900088, 0, 8⟩
def F.MEM_ECC_CNT_CE : Fld := ⟨0x900090, 0, 32⟩
def F.MEM_ECC_CNT_UE : Fld := ⟨0x900090, 32, 16⟩
def F.MEM_ECC_CNT_REPAIRED : Fld := ⟨0x900090, 48, 16⟩
def F.MEM_CH_FAIL_FAILED (i : Nat) : Fld := ⟨0x900098 + 8 * i, 0, 64⟩
def F.MEM_THERM_HOT : Fld := ⟨0x9000b8, 0, 8⟩
def F.HAY_CTRL_EN : Fld := ⟨0xa00000, 0, 1⟩
def F.HAY_CTRL_GROOM_EN : Fld := ⟨0xa00000, 1, 1⟩
def F.HAY_CTRL_WL_EN : Fld := ⟨0xa00000, 2, 1⟩
def F.HAY_STATE_STATE : Fld := ⟨0xa00008, 0, 3⟩
def F.HAY_STATE_CH_MASK : Fld := ⟨0xa00008, 32, 32⟩
def F.HAY_GEOM_LUNS_M1 : Fld := ⟨0xa00010, 0, 2⟩
def F.HAY_GEOM_PLANES_M1 : Fld := ⟨0xa00010, 3, 3⟩
def F.HAY_GEOM_CELL : Fld := ⟨0xa00010, 6, 2⟩
def F.HAY_GEOM_PAGES : Fld := ⟨0xa00010, 8, 13⟩
def F.HAY_GEOM_BLOCKS : Fld := ⟨0xa00010, 24, 15⟩
def F.HAY_GEOM_TARGETS : Fld := ⟨0xa00010, 40, 9⟩
def F.HAY_CAP_UNITS : Fld := ⟨0xa00018, 0, 37⟩
def F.HAY_MAPC_GIB : Fld := ⟨0xa00020, 0, 7⟩
def F.HAY_JRN_INTERVAL : Fld := ⟨0xa00028, 0, 24⟩
def F.HAY_JRN_BLOCKS : Fld := ⟨0xa00028, 32, 10⟩
def F.HAY_CKPT_ROUND_LOG2 : Fld := ⟨0xa00030, 0, 6⟩
def F.HAY_CKPT_JRN_MAX_GIB : Fld := ⟨0xa00030, 8, 8⟩
def F.HAY_SLC_SLC_MIN : Fld := ⟨0xa00038, 0, 16⟩
def F.HAY_SLC_SLC_MAX : Fld := ⟨0xa00038, 16, 16⟩
def F.HAY_SLC_SHARE : Fld := ⟨0xa00038, 32, 8⟩
def F.HAY_RDREF_TLC : Fld := ⟨0xa00040, 0, 20⟩
def F.HAY_RDREF_QLC : Fld := ⟨0xa00040, 20, 20⟩
def F.HAY_RDREF_SLC : Fld := ⟨0xa00040, 40, 20⟩
def F.HAY_GC_LOW : Fld := ⟨0xa00048, 0, 23⟩
def F.HAY_GC_HIGH : Fld := ⟨0xa00048, 23, 23⟩
def F.HAY_GC_W_INV : Fld := ⟨0xa00048, 48, 8⟩
def F.HAY_GC_W_AGE : Fld := ⟨0xa00048, 56, 8⟩
def F.HAY_WEAR_PE_LIMIT : Fld := ⟨0xa00050, 0, 16⟩
def F.HAY_WEAR_WEAR_GAP : Fld := ⟨0xa00050, 16, 12⟩
def F.HAY_WEAR_AGE_SHIFT : Fld := ⟨0xa00050, 32, 5⟩
def F.HAY_WEAR_W_WEAR : Fld := ⟨0xa00050, 40, 8⟩
def F.HAY_STAT_FREE : Fld := ⟨0xa00058, 0, 23⟩
def F.HAY_STAT_SLC : Fld := ⟨0xa00058, 23, 23⟩
def F.HAY_STAT_OPEN : Fld := ⟨0xa00058, 46, 6⟩
def F.HAY_STAT2_MAPPED : Fld := ⟨0xa00060, 0, 37⟩
def F.HAY_STAT2_BAD : Fld := ⟨0xa00060, 37, 23⟩
def F.HAY_IO_CNT_READS : Fld := ⟨0xa00068, 0, 32⟩
def F.HAY_IO_CNT_WRITES : Fld := ⟨0xa00068, 32, 32⟩
def F.HAY_GC_CNT_MOVED : Fld := ⟨0xa00070, 0, 32⟩
def F.HAY_GC_CNT_ERASED : Fld := ⟨0xa00070, 32, 16⟩
def F.HAY_GC_CNT_DISCARD : Fld := ⟨0xa00070, 48, 16⟩
def F.HAY_ERR_CNT_RETRY : Fld := ⟨0xa00078, 0, 32⟩
def F.HAY_ERR_CNT_UE : Fld := ⟨0xa00078, 32, 16⟩
def F.HAY_ERR_CNT_RETIRED : Fld := ⟨0xa00078, 48, 16⟩
def F.HAY_REBUILD_BEATS : Fld := ⟨0xa00080, 0, 32⟩
def F.HAY_REBUILD_TAGS : Fld := ⟨0xa00080, 32, 32⟩
def F.AZF_CTRL_EN : Fld := ⟨0xb00000, 0, 1⟩
def F.AZF_CTRL_PROT_MODE : Fld := ⟨0xb00000, 1, 1⟩
def F.AZF_CTRL_DEADMODE : Fld := ⟨0xb00000, 2, 2⟩
def F.AZF_CTRL_MIN_LANES : Fld := ⟨0xb00000, 4, 4⟩
def F.AZF_PORT_STATE (i : Nat) : Fld := ⟨0xb00008 + 8 * i, 0, 2⟩
def F.AZF_PORT_LANES (i : Nat) : Fld := ⟨0xb00008 + 8 * i, 8, 8⟩
def F.AZF_PORT_NEIGHBOUR (i : Nat) : Fld := ⟨0xb00008 + 8 * i, 16, 15⟩
def F.AZF_PORT_RTT (i : Nat) : Fld := ⟨0xb00008 + 8 * i, 32, 16⟩
def F.AZF_STREAM_TIMER_LOG2 : Fld := ⟨0xb00088, 0, 5⟩
def F.AZF_STREAM_RETRY_MAX : Fld := ⟨0xb00088, 8, 4⟩
def F.AZF_STREAM_WINDOW_M1 : Fld := ⟨0xb00088, 16, 8⟩
def F.AZF_PAUSE_XOFF_KIB : Fld := ⟨0xb00090, 0, 12⟩
def F.AZF_PAUSE_XON_KIB : Fld := ⟨0xb00090, 16, 12⟩
def F.AZF_PAUSE_PAUSE_LOG2 : Fld := ⟨0xb00090, 32, 5⟩
def F.AZF_DEAD_POISON_BEATS : Fld := ⟨0xb00098, 0, 16⟩
def F.AZF_ORDER_RECORDS : Fld := ⟨0xb000a0, 0, 21⟩
def F.AZF_ORDER_HOT : Fld := ⟨0xb000a0, 32, 10⟩
def F.AZF_ORDER_ROUNDS : Fld := ⟨0xb000a0, 48, 16⟩
def F.AZF_LINK_CNT_REPLAY : Fld := ⟨0xb000a8, 0, 32⟩
def F.AZF_LINK_CNT_LANE_DROP : Fld := ⟨0xb000a8, 32, 16⟩
def F.AZF_LINK_CNT_PORT_DOWN : Fld := ⟨0xb000a8, 48, 16⟩
def F.AZF_STREAM_CNT_RESENT : Fld := ⟨0xb000b0, 0, 32⟩
def F.AZF_STREAM_CNT_DUP : Fld := ⟨0xb000b0, 32, 32⟩
def F.AZF_ORDER_CNT_COMBINED : Fld := ⟨0xb000b8, 0, 32⟩
def F.AZF_ORDER_CNT_LATE : Fld := ⟨0xb000b8, 32, 16⟩
def F.AZF_ORDER_CNT_AGED : Fld := ⟨0xb000b8, 48, 16⟩
def F.AZF_PROT_CNT_REFUSED : Fld := ⟨0xb000c0, 0, 32⟩
def F.AZF_CTX_CNT_SEND_WAIT : Fld := ⟨0xb000d0, 0, 32⟩
def F.AZF_CTX_CNT_NAK_FULL : Fld := ⟨0xb000d0, 32, 32⟩
def F.QPX_CTRL_EN : Fld := ⟨0xc00000, 0, 1⟩
def F.QPX_CTX_BASE_BASE : Fld := ⟨0xc00008, 16, 48⟩
def F.QPX_STAT_RESIDENT : Fld := ⟨0xc00010, 0, 13⟩
def F.QPX_STAT_MISS : Fld := ⟨0xc00010, 16, 10⟩
def F.QPX_STAT_PAUSING : Fld := ⟨0xc00010, 26, 1⟩
def F.QPX_STAT_WATCHES : Fld := ⟨0xc00010, 32, 14⟩
def F.QPX_PKT_CNT_TX : Fld := ⟨0xc00018, 0, 32⟩
def F.QPX_PKT_CNT_RX : Fld := ⟨0xc00018, 32, 32⟩
def F.QPX_DUP_CNT_DUP : Fld := ⟨0xc00020, 0, 32⟩
def F.QPX_DUP_CNT_RESENT : Fld := ⟨0xc00020, 32, 32⟩
def F.QPX_CACHE_CNT_FETCH : Fld := ⟨0xc00028, 0, 32⟩
def F.QPX_CACHE_CNT_EVICT : Fld := ⟨0xc00028, 32, 32⟩
def F.QPX_NAK_CNT_SEQ : Fld := ⟨0xc00030, 0, 16⟩
def F.QPX_NAK_CNT_RNR : Fld := ⟨0xc00030, 16, 16⟩
def F.QPX_NAK_CNT_FATAL : Fld := ⟨0xc00030, 32, 16⟩
def F.QPX_NAK_CNT_PAUSE : Fld := ⟨0xc00030, 48, 16⟩
def F.QPX_SEL_QPN : Fld := ⟨0xc00038, 0, 16⟩
def F.QPX_QP_STAT_STATE : Fld := ⟨0xc00040, 0, 2⟩
def F.QPX_QP_STAT_CACHE : Fld := ⟨0xc00040, 2, 2⟩
def F.QPX_QP_STAT_SPSN : Fld := ⟨0xc00040, 8, 24⟩
def F.QPX_QP_STAT_EPSN : Fld := ⟨0xc00040, 32, 24⟩
def F.QPX_QP_CNT_SCNT : Fld := ⟨0xc00048, 0, 32⟩
def F.QPX_QP_CNT_RCNT : Fld := ⟨0xc00048, 32, 32⟩
def F.QPX_EVT_MISS_FULL : Fld := ⟨0xc00050, 2, 1⟩
def F.SHP_CTRL_EN : Fld := ⟨0xd00000, 0, 1⟩
def F.SHP_KIND_MAP_KIND0 : Fld := ⟨0xd00008, 0, 3⟩
def F.SHP_SEL_INDEX : Fld := ⟨0xd00010, 0, 12⟩
def F.SHP_SEL_PL : Fld := ⟨0xd00010, 12, 1⟩
def F.SHP_CFG_RATE_RATE : Fld := ⟨0xd00018, 0, 32⟩
def F.SHP_CFG_RATE_RATE2 : Fld := ⟨0xd00018, 32, 32⟩
def F.SHP_CFG_BURST_BURST : Fld := ⟨0xd00020, 0, 32⟩
def F.SHP_CFG_BURST_BURST2 : Fld := ⟨0xd00020, 32, 32⟩
def F.SHP_CFG_BIND_BKIND : Fld := ⟨0xd00028, 0, 3⟩
def F.SHP_CFG_BIND_CLASS : Fld := ⟨0xd00028, 8, 3⟩
def F.SHP_CFG_BIND_VALUE : Fld := ⟨0xd00028, 16, 32⟩
def F.SHP_CFG_BIND_OVERHEAD : Fld := ⟨0xd00028, 48, 8⟩
def F.SHP_CFG_BIND_MODE : Fld := ⟨0xd00028, 56, 1⟩
def F.SHP_CFG_BIND_AWARE : Fld := ⟨0xd00028, 57, 1⟩
def F.SHP_CFG_BIND_YEL_DEFER : Fld := ⟨0xd00028, 58, 1⟩
def F.SHP_CFG_BIND_RED_DEFER : Fld := ⟨0xd00028, 59, 1⟩
def F.SHP_CMD_APPLY : Fld := ⟨0xd00030, 0, 1⟩
def F.SHP_CMD_READ : Fld := ⟨0xd00030, 1, 1⟩
def F.SHP_CMD_STAT_STATUS : Fld := ⟨0xd00038, 0, 16⟩
def F.SHP_TOKENS_TC : Fld := ⟨0xd00040, 0, 32⟩
def F.SHP_TOKENS_TX : Fld := ⟨0xd00040, 32, 32⟩
def F.SHP_HELD_PKTS : Fld := ⟨0xd00048, 0, 20⟩
def F.SHP_CNT_BYTES (i : Nat) : Fld := ⟨0xd00050 + 8 * i, 0, 64⟩
def F.SHP_EVT_CFG_REFUSED : Fld := ⟨0xd00068, 0, 1⟩
def F.HLT_CTRL_EN : Fld := ⟨0xe00000, 0, 1⟩
def F.HLT_CTRL_COMPAT : Fld := ⟨0xe00000, 1, 1⟩
def F.HLT_CTRL_SPARE_EN : Fld := ⟨0xe00000, 2, 1⟩
def F.HLT_CTRL_EVT_EN : Fld := ⟨0xe00000, 3, 1⟩
def F.HLT_CTRL_EVT_RING : Fld := ⟨0xe00000, 16, 14⟩
def F.HLT_STAT_SCORE : Fld := ⟨0xe00008, 0, 10⟩
def F.HLT_STAT_HB_STATE : Fld := ⟨0xe00008, 10, 3⟩
def F.HLT_STAT_ASK_REPLACE : Fld := ⟨0xe00008, 13, 1⟩
def F.HLT_STAT_SPARE_STATE : Fld := ⟨0xe00008, 16, 3⟩
def F.HLT_STAT_ALIASES : Fld := ⟨0xe00008, 32, 9⟩
def F.HLT_ASK_ASK_REPLACE : Fld := ⟨0xe00010, 0, 1⟩
def F.HLT_THRESH_WARN : Fld := ⟨0xe00018, 0, 10⟩
def F.HLT_THRESH_REPLACE : Fld := ⟨0xe00018, 16, 10⟩
def F.HLT_WEIGHT_W_CE : Fld := ⟨0xe00020, 0, 16⟩
def F.HLT_WEIGHT_W_RETRY : Fld := ⟨0xe00020, 16, 16⟩
def F.HLT_WEIGHT_W_RETRAIN : Fld := ⟨0xe00020, 32, 16⟩
def F.HLT_WEIGHT_W_UE : Fld := ⟨0xe00020, 48, 16⟩
def F.HLT_WEIGHT2_W_MISMATCH : Fld := ⟨0xe00028, 0, 16⟩
def F.HLT_EXPEL_LIMIT_BP : Fld := ⟨0xe00030, 0, 16⟩
def F.HLT_EXPEL_COUNT : Fld := ⟨0xe00030, 16, 16⟩
def F.HLT_EXPEL_WIN_WINDOW : Fld := ⟨0xe00038, 0, 48⟩
def F.HLT_SEL_KIND : Fld := ⟨0xe00040, 0, 3⟩
def F.HLT_SEL_INDEX : Fld := ⟨0xe00040, 16, 10⟩
def F.HLT_PART_SCORE : Fld := ⟨0xe00048, 0, 10⟩
def F.HLT_PART_FAILED : Fld := ⟨0xe00048, 10, 1⟩
def F.HLT_PART_ACC : Fld := ⟨0xe00048, 32, 24⟩
def F.HLT_PART_CNT_CE : Fld := ⟨0xe00050, 0, 16⟩
def F.HLT_PART_CNT_RETRY : Fld := ⟨0xe00050, 16, 16⟩
def F.HLT_PART_CNT_RETRAIN : Fld := ⟨0xe00050, 32, 16⟩
def F.HLT_PART_CNT_UE : Fld := ⟨0xe00050, 48, 16⟩
def F.HLT_TANDEM_EN : Fld := ⟨0xe00058, 0, 1⟩
def F.HLT_TANDEM_ACTIVE : Fld := ⟨0xe00058, 1, 1⟩
def F.HLT_TANDEM_LAG_LOG2 : Fld := ⟨0xe00058, 8, 5⟩
def F.HLT_MIRROR_CNT_MATCHED : Fld := ⟨0xe00060, 0, 32⟩
def F.HLT_MIRROR_CNT_MISMATCH : Fld := ⟨0xe00060, 32, 12⟩
def F.HLT_MIRROR_CNT_SOLO_REL : Fld := ⟨0xe00060, 44, 12⟩
def F.HLT_MIRROR_CNT_STRAY : Fld := ⟨0xe00060, 56, 8⟩
def F.HLT_VOTE_CNT_CALLS : Fld := ⟨0xe00068, 0, 16⟩
def F.HLT_VOTE_CNT_LOST : Fld := ⟨0xe00068, 16, 16⟩
def F.HLT_VOTE_CNT_EXPELLED : Fld := ⟨0xe00068, 32, 16⟩
def F.HLT_VOTE_CNT_HELD : Fld := ⟨0xe00068, 48, 16⟩
def F.HLT_EVT_LOST_LOST : Fld := ⟨0xe00078, 0, 32⟩
def F.HIF_CTRL_EN : Fld := ⟨0xf00000, 0, 1⟩
def F.HIF_DB_BASE_BASE : Fld := ⟨0xf00008, 12, 52⟩
def F.HIF_BULK_BASE_BASE : Fld := ⟨0xf00010, 16, 48⟩
def F.HIF_BULK_SEGS_SEGS : Fld := ⟨0xf00018, 0, 17⟩
def F.HIF_ADM_CMD_BASE : Fld := ⟨0xf00020, 12, 52⟩
def F.HIF_ADM_CPL_BASE : Fld := ⟨0xf00028, 12, 52⟩
def F.HIF_ADM_SIZE_CMD_LOG2 : Fld := ⟨0xf00030, 0, 5⟩
def F.HIF_ADM_SIZE_CPL_LOG2 : Fld := ⟨0xf00030, 8, 5⟩
def F.HIF_ADM_SIZE_VECTOR : Fld := ⟨0xf00030, 16, 11⟩
def F.HIF_ADM_SIZE_INT_EN : Fld := ⟨0xf00030, 27, 1⟩
def F.HIF_ADM_SIZE_COAL_M1 : Fld := ⟨0xf00030, 32, 16⟩
def F.HIF_STAT_OUTSTANDING : Fld := ⟨0xf00038, 0, 17⟩
def F.HIF_STAT_RINGS : Fld := ⟨0xf00038, 32, 15⟩
def F.HIF_CMD_CNT_CONSUMED : Fld := ⟨0xf00040, 0, 32⟩
def F.HIF_CMD_CNT_REFUSED : Fld := ⟨0xf00040, 32, 32⟩
def F.HIF_DB_CNT_SCANS : Fld := ⟨0xf00048, 0, 32⟩
def F.HIF_DB_CNT_FOUND : Fld := ⟨0xf00048, 32, 32⟩
def F.HIF_LAST_ERR_STATUS : Fld := ⟨0xf00050, 0, 16⟩
def F.HIF_LAST_ERR_RING : Fld := ⟨0xf00050, 16, 14⟩
def F.HIF_LAST_ERR_INDEX : Fld := ⟨0xf00050, 32, 32⟩
def F.HIF_ACK_LAT_MAX : Fld := ⟨0xf00058, 0, 32⟩
def F.HIF_ACK_LAT_OVER : Fld := ⟨0xf00058, 32, 32⟩
def F.HIF_SEL_RING : Fld := ⟨0xf00060, 0, 14⟩
def F.HIF_SEL_CPL : Fld := ⟨0xf00060, 14, 1⟩
def F.HIF_RING_STAT_EN : Fld := ⟨0xf00068, 0, 1⟩
def F.HIF_RING_STAT_LOG2 : Fld := ⟨0xf00068, 1, 5⟩
def F.HIF_RING_STAT_ADMIN : Fld := ⟨0xf00068, 6, 1⟩
def F.HIF_RING_STAT_INTAKE : Fld := ⟨0xf00068, 7, 1⟩
def F.HIF_RING_STAT_TENANT : Fld := ⟨0xf00068, 8, 12⟩
def F.HIF_RING_IDX_PROD : Fld := ⟨0xf00070, 0, 32⟩
def F.HIF_RING_IDX_CONS : Fld := ⟨0xf00070, 32, 32⟩
def F.HIF_DROP_CNT_DROPPED : Fld := ⟨0xf00078, 0, 32⟩
def F.HIF_DROP_CNT_STRAY : Fld := ⟨0xf00078, 32, 32⟩
def F.DBG_CTRL_OBS_EN : Fld := ⟨0x1100000, 0, 1⟩
def F.DBG_CTRL_JTAG_RW : Fld := ⟨0x1100000, 1, 1⟩
def F.DBG_CTRL_TEST_EN : Fld := ⟨0x1100000, 2, 1⟩
def F.DBG_OBS_SEL_SRC : Fld := ⟨0x1100008, 0, 8⟩
def F.DBG_OBS_SEL_ARG : Fld := ⟨0x1100008, 16, 16⟩
def F.DBG_TRIG_CODE : Fld := ⟨0x1100010, 0, 16⟩
def F.DBG_TRIG_ARM : Fld := ⟨0x1100010, 16, 1⟩
def F.DBG_TRIG_FIRED : Fld := ⟨0x1100010, 17, 1⟩
def F.DBG_TRIG_BEAT_BEAT : Fld := ⟨0x1100018, 0, 64⟩
def F.DBG_TAP_IR : Fld := ⟨0x1100020, 0, 8⟩
def F.DBG_TAP_TAP_STATE : Fld := ⟨0x1100020, 8, 4⟩
def F.DBG_TAP_ACTIVE : Fld := ⟨0x1100020, 12, 1⟩
def F.GLB_CAP_CORES : Fld := ⟨0x8, 0, 10⟩
def F.GLB_CAP_SPARES : Fld := ⟨0x8, 10, 6⟩
def F.GLB_CAP_CH_GROUPS : Fld := ⟨0x8, 16, 6⟩
def F.GLB_CAP_PORTS : Fld := ⟨0x8, 24, 5⟩
def F.GLB_SCRATCH_VALUE : Fld := ⟨0x10, 0, 64⟩
def F.GLB_ACC_ERR_NARROW : Fld := ⟨0x18, 0, 16⟩
def F.GLB_ACC_ERR_UNMAPPED : Fld := ⟨0x18, 16, 16⟩
def F.GLB_ACC_ERR_LOCKED : Fld := ⟨0x18, 32, 16⟩
def F.GLB_ACC_LAST_OFFSET : Fld := ⟨0x20, 0, 26⟩
def F.GLB_ACC_LAST_WRITE : Fld := ⟨0x20, 26, 1⟩
def F.GLB_ACC_LAST_KIND : Fld := ⟨0x20, 27, 2⟩
def F.ENG_STAT_ACTIVE : Fld := ⟨0x500000, 0, 10⟩
def F.ENG_STAT_SPARES : Fld := ⟨0x500000, 16, 6⟩
def F.ENG_STAT_FAILED : Fld := ⟨0x500000, 32, 10⟩
def F.ENG_STAT_GATED : Fld := ⟨0x500000, 48, 4⟩
def F.ENG_SPARE_MAP_PAIRS (i : Nat) : Fld := ⟨0x500008 + 8 * i, 0, 64⟩
def F.ENG_SEL_CORE : Fld := ⟨0x500048, 0, 8⟩
def F.ENG_SEL_DIE : Fld := ⟨0x500048, 8, 2⟩
def F.ENG_CORE_STAT_STATE : Fld := ⟨0x500050, 0, 2⟩
def F.ENG_CORE_STAT_GATED : Fld := ⟨0x500050, 2, 1⟩
def F.ENG_CORE_STAT_SUBST : Fld := ⟨0x500050, 4, 1⟩
def F.ENG_CORE_STAT_L : Fld := ⟨0x500050, 8, 23⟩
def F.ENG_CORE_STAT_L_VALID : Fld := ⟨0x500050, 31, 1⟩
def F.ENG_CORE_STAT_PADDOCK_ID : Fld := ⟨0x500050, 32, 16⟩
def F.ENG_CORE_CNT_ROUNDED : Fld := ⟨0x500058, 0, 32⟩
def F.ENG_ROUNDED_SUM_ROUNDED : Fld := ⟨0x500060, 0, 64⟩
def F.CMP_DEFAULT_LO_TABLE0 : Fld := ⟨0x600000, 0, 8⟩
def F.CMP_DEFAULT_HI_TABLE0 : Fld := ⟨0x600008, 0, 8⟩
def F.CMP_TABLE_MAP_LOADED (i : Nat) : Fld := ⟨0x600018 + 8 * i, 0, 64⟩
def F.CMP_FAULT_CNT0_OVERRUN : Fld := ⟨0x600038, 0, 16⟩
def F.CMP_FAULT_CNT0_UNDERRUN : Fld := ⟨0x600038, 16, 16⟩
def F.CMP_FAULT_CNT0_CRC : Fld := ⟨0x600038, 32, 16⟩
def F.CMP_FAULT_CNT0_HEADER : Fld := ⟨0x600038, 48, 16⟩
def F.CMP_FAULT_CNT1_TABLE : Fld := ⟨0x600040, 0, 16⟩
def F.CMP_FAULT_CNT1_CODE : Fld := ⟨0x600040, 16, 16⟩
def F.CMP_WIRE_LOG_BYTES : Fld := ⟨0x600048, 0, 64⟩
def F.CMP_WIRE_CODED_BYTES : Fld := ⟨0x600050, 0, 64⟩
def F.CMP_ENC_CNT_CODED : Fld := ⟨0x600058, 0, 32⟩
def F.CMP_ENC_CNT_STORED : Fld := ⟨0x600058, 32, 32⟩
def F.CMP_LAST_CODE : Fld := ⟨0x600060, 0, 16⟩
def F.CMP_LAST_TABLE_ID : Fld := ⟨0x600060, 16, 8⟩
def F.SEP_SEL_PADDOCK_ID : Fld := ⟨0x700000, 0, 16⟩
def F.SEP_SEL_SLOT : Fld := ⟨0x700000, 16, 4⟩
def F.SEP_SEL_PEL : Fld := ⟨0x700000, 24, 5⟩
def F.SEP_PD_ENUM_INDEX : Fld := ⟨0x700008, 0, 6⟩
def F.SEP_PD_ENUM_PADDOCK_ID : Fld := ⟨0x700008, 16, 16⟩
def F.SEP_MODE_MODE : Fld := ⟨0x700010, 0, 2⟩
def F.SEP_MODE_PEND : Fld := ⟨0x700010, 2, 1⟩
def F.SEP_MODE_MEMBER : Fld := ⟨0x700010, 3, 1⟩
def F.SEP_MODE_CUR : Fld := ⟨0x700010, 4, 2⟩
def F.SEP_SLOTS_LOADED : Fld := ⟨0x700018, 0, 16⟩
def F.SEP_SLOTS_BUSY : Fld := ⟨0x700018, 16, 16⟩
def F.SEP_SLOTS_LAST : Fld := ⟨0x700018, 32, 4⟩
def F.SEP_SLOTS_LAST_VALID : Fld := ⟨0x700018, 36, 1⟩
def F.SEP_SLOT_INFO_IMAGE_CRC : Fld := ⟨0x700020, 0, 32⟩
def F.SEP_SLOT_INFO_P : Fld := ⟨0x700020, 32, 24⟩
def F.SEP_SLOT_INFO_ROLE_MASK : Fld := ⟨0x700020, 56, 8⟩
def F.SEP_INV_CNT_DONE : Fld := ⟨0x700028, 0, 32⟩
def F.SEP_INV_CNT_YIELDS : Fld := ⟨0x700028, 32, 16⟩
def F.SEP_INV_CNT_ABANDONED : Fld := ⟨0x700028, 48, 16⟩
def F.SEP_PEL_STAT_MEMBERS : Fld := ⟨0x700030, 0, 12⟩
def F.SEP_PEL_STAT_EN : Fld := ⟨0x700030, 12, 1⟩
def F.SEP_PEL_STAT_WAITING : Fld := ⟨0x700030, 32, 18⟩
def F.SEP_PEL_CNT_STEPS : Fld := ⟨0x700038, 0, 32⟩
def F.SEP_PEL_CNT_LEFT_OUT : Fld := ⟨0x700038, 32, 16⟩
def F.SEP_PEL_CNT_HELD : Fld := ⟨0x700038, 48, 16⟩
def F.SEP_PEL_NEXT_BASE_BEAT : Fld := ⟨0x700040, 0, 64⟩
def F.PWR_CTRL_TARGET : Fld := ⟨0x1000000, 0, 3⟩
def F.PWR_STAT_STATE : Fld := ⟨0x1000008, 0, 3⟩
def F.PWR_STAT_READY_FW : Fld := ⟨0x1000008, 3, 1⟩
def F.PWR_STAT_READY_COMP : Fld := ⟨0x1000008, 4, 1⟩
def F.PWR_STAT_ENG_OK : Fld := ⟨0x1000008, 8, 1⟩
def F.PWR_STAT_HBM_OK : Fld := ⟨0x1000008, 9, 1⟩
def F.PWR_STAT_AZF_OK : Fld := ⟨0x1000008, 10, 1⟩
def F.PWR_STAT_CAD_OK : Fld := ⟨0x1000008, 11, 1⟩
def F.PWR_STAT_STATUS : Fld := ⟨0x1000008, 16, 16⟩
def F.PWR_RESET_WARM : Fld := ⟨0x1000010, 0, 1⟩
def F.PWR_RST_CAUSE_POR : Fld := ⟨0x1000018, 0, 1⟩
def F.PWR_RST_CAUSE_TRIP : Fld := ⟨0x1000018, 1, 1⟩
def F.PWR_RST_CAUSE_WARM_PIN : Fld := ⟨0x1000018, 2, 1⟩
def F.PWR_RST_CAUSE_WARM_REG : Fld := ⟨0x1000018, 3, 1⟩
def F.PWR_RST_CAUSE_WATCHDOG : Fld := ⟨0x1000018, 4, 1⟩
def F.PWR_RST_CAUSE_RECOVERY : Fld := ⟨0x1000018, 5, 1⟩
def F.PWR_STRAP_SLOT_ID : Fld := ⟨0x1000020, 0, 15⟩
def F.PWR_STRAP_BOOT_MODE : Fld := ⟨0x1000020, 16, 2⟩
def F.PWR_STRAP_TEST_EN : Fld := ⟨0x1000020, 18, 1⟩
def F.PWR_BOOT_BUSY : Fld := ⟨0x1000028, 2, 1⟩
def F.PWR_BOOT_RECOVERY : Fld := ⟨0x1000028, 3, 1⟩
def F.PWR_BOOT_SLOT : Fld := ⟨0x1000028, 4, 1⟩
def F.PWR_BOOT_FROM_WINDOW : Fld := ⟨0x1000028, 5, 1⟩
def F.PWR_BOOT_RESULT_A : Fld := ⟨0x1000028, 8, 4⟩
def F.PWR_BOOT_RESULT_B : Fld := ⟨0x1000028, 12, 4⟩
def F.PWR_BOOT_RESULT_WIN : Fld := ⟨0x1000028, 16, 4⟩
def F.PWR_FW_FW_VERSION : Fld := ⟨0x1000030, 0, 32⟩
def F.PWR_FW_SEC_VER : Fld := ⟨0x1000030, 32, 7⟩
def F.PWR_FW_FUSED_SVN : Fld := ⟨0x1000030, 40, 7⟩
def F.PWR_FW_KEY_INDEX : Fld := ⟨0x1000030, 48, 2⟩
def F.PWR_FW_REVOKED : Fld := ⟨0x1000030, 52, 4⟩
def F.PWR_CAP_WATTS : Fld := ⟨0x1000038, 0, 12⟩
def F.PWR_POWER_AVG : Fld := ⟨0x1000040, 0, 12⟩
def F.PWR_POWER_PEAK : Fld := ⟨0x1000040, 16, 12⟩
def F.PWR_CLK_STEP : Fld := ⟨0x1000048, 0, 16⟩
def F.PWR_CLK_THROTTLE : Fld := ⟨0x1000048, 16, 1⟩
def F.PWR_CLK_PROCHOT : Fld := ⟨0x1000048, 17, 1⟩
def F.PWR_CLK_CAPPED : Fld := ⟨0x1000048, 18, 1⟩
def F.PWR_CLK_AVS_HOLD : Fld := ⟨0x1000048, 19, 1⟩
def F.PWR_CLK_HBM_HALF : Fld := ⟨0x1000048, 20, 1⟩
def F.PWR_TEMP_DIE : Fld := ⟨0x1000050, 0, 40⟩
def F.PWR_TEMP_HBM_STACK : Fld := ⟨0x1000058, 0, 64⟩

end Sys2Proof.Machine
end

