-- ==== Sys2Proof/Machine/Codes.lean ====
section
/-!
DEFINITION. Machine/Codes.lean: the status codes of the code tables of the spec's chapters (R11 gives the families), and the
fault events: the codes that have a bit of their own in a block's event register, with that bit.
-/

namespace Sys2Proof.Machine

/-- Plain success (R12). -/
abbrev C.OK : Nat := 0x0000

/-! Codes of spec/01_pools_and_roles.md. -/
abbrev C.MAP_INVALID : Nat := 0x0A10
abbrev C.MAP_EPOCH : Nat := 0x0A11
abbrev C.MAP_PENDING : Nat := 0x0A12
abbrev C.MAP_LATE : Nat := 0x0A13
abbrev C.MAP_TOO_SOON : Nat := 0x0A14
abbrev C.MAP_MISSED : Nat := 0x0A15
abbrev C.MAP_CONFLICT : Nat := 0x0A16
abbrev C.MAP_POOL_BUSY : Nat := 0x0A17

/-! Codes of spec/02_cadence_and_determinism.md. -/
abbrev C.FAB_DETM_FLOAT_ATOMIC : Nat := 0x0420
abbrev C.CAD_SYNC_LOSS : Nat := 0x0930
abbrev C.CAD_REF_LOSS : Nat := 0x0931
abbrev C.CAD_HOLDOVER : Nat := 0x0932
abbrev C.CAD_GLITCH : Nat := 0x0933
abbrev C.CAD_STEP : Nat := 0x0934
abbrev C.CAD_FLIT_MISMATCH : Nat := 0x0935

/-! Codes of spec/03_engines_and_formats.md. -/
abbrev C.ENG_CORE_FAULT : Nat := 0x0940
abbrev C.ENG_NO_SPARE : Nat := 0x0941
abbrev C.ENG_SPARE_FAULT : Nat := 0x0942
abbrev C.ENG_RETEST_FAIL : Nat := 0x0943
abbrev C.ENG_RETEST_BUSY : Nat := 0x0944

/-! Codes of spec/04_operand_compression.md. -/
abbrev C.CMP_OVERRUN : Nat := 0x0601
abbrev C.CMP_UNDERRUN : Nat := 0x0602
abbrev C.CMP_CRC : Nat := 0x0603
abbrev C.CMP_HEADER : Nat := 0x0604
abbrev C.CMP_TABLE : Nat := 0x0605
abbrev C.CMP_CODE : Nat := 0x0606
abbrev C.CMP_TABLE_BAD : Nat := 0x0610
abbrev C.CMP_TABLE_BUSY : Nat := 0x0611

/-! Codes of spec/05_septip_programs.md. -/
abbrev C.SEP_IMAGE_BAD : Nat := 0x0A30
abbrev C.SEP_NO_PADDOCK : Nat := 0x0A31
abbrev C.SEP_SHAPE : Nat := 0x0A32
abbrev C.SEP_MODEL : Nat := 0x0A33
abbrev C.SEP_OPERATOR : Nat := 0x0A34
abbrev C.SEP_ADDRESS : Nat := 0x0A35
abbrev C.SEP_TABLE : Nat := 0x0A36
abbrev C.SEP_CHEAP : Nat := 0x0A37
abbrev C.SEP_SLOT_BUSY : Nat := 0x0A38
abbrev C.SEP_NOT_LOADED : Nat := 0x0A39
abbrev C.SEP_ROLE : Nat := 0x0A3A
abbrev C.SEP_IMAGE_MISMATCH : Nat := 0x0A3B
abbrev C.SEP_ABANDONED : Nat := 0x0A3C

/-! Codes of spec/06_stalls_and_intake.md. -/
abbrev C.OK_LATE : Nat := 0x0001
abbrev C.OK_REPEAT : Nat := 0x0002
abbrev C.STL_BAD_OPCODE : Nat := 0x0201
abbrev C.STL_SEQ : Nat := 0x0202
abbrev C.STL_NO_MODEL : Nat := 0x0203
abbrev C.STL_BAD_LENGTH : Nat := 0x0204
abbrev C.STL_BAD_BULK : Nat := 0x0205
abbrev C.STL_BAD_RING : Nat := 0x0206
abbrev C.STL_INTK_FULL : Nat := 0x0207
abbrev C.STL_DEADLINE : Nat := 0x0208
abbrev C.STL_CANCELLED : Nat := 0x0209
abbrev C.STL_UNKNOWN : Nat := 0x020A
abbrev C.STL_STATE : Nat := 0x020B
abbrev C.STL_SHADOW_LOST : Nat := 0x020C
abbrev C.STL_SHADOW_FULL : Nat := 0x020D
abbrev C.STL_PROMOTED : Nat := 0x020E
abbrev C.STL_PROMOTE_FULL : Nat := 0x020F
abbrev C.STL_PARK_EXPIRED : Nat := 0x0210
abbrev C.STL_NO_SHADOW : Nat := 0x0211

/-! Codes of spec/07_kv_state_and_attention.md. -/
abbrev C.KV_MODEL_BAD : Nat := 0x0220
abbrev C.KV_MODEL_BUSY : Nat := 0x0221
abbrev C.KV_PADDOCK_BAD : Nat := 0x0222
abbrev C.KV_NO_MODEL : Nat := 0x0223
abbrev C.KV_HEAP_LOW : Nat := 0x0224

/-! Codes of spec/08_panniers.md. -/
abbrev C.PAN_HEADER : Nat := 0x0301
abbrev C.PAN_CRC : Nat := 0x0302
abbrev C.PAN_NOT_HELD : Nat := 0x0303
abbrev C.PAN_PARK_FULL : Nat := 0x0304
abbrev C.PAN_NO_CACHE : Nat := 0x0305
abbrev C.PAN_PULL_TIMEOUT : Nat := 0x0306
abbrev C.PAN_LOST : Nat := 0x0307
abbrev C.PAN_BOUNCE_LIMIT : Nat := 0x0308
abbrev C.NACK_ROLE : Nat := 0x0A01
abbrev C.NACK_EPOCH : Nat := 0x0A02

/-! Codes of spec/09_selection_and_sampling.md. -/
abbrev C.OK_FEWER : Nat := 0x0003
abbrev C.SMP_RECORD_BAD : Nat := 0x0230
abbrev C.SMP_VOCAB : Nat := 0x0231
abbrev C.SMP_NO_TOKEN : Nat := 0x0232
abbrev C.SEL_DESC_BAD : Nat := 0x0A40

/-! Codes of spec/10_retrieval.md. -/
abbrev C.OK_PARTIAL : Nat := 0x0004
abbrev C.SRCH_DESC_BAD : Nat := 0x0701
abbrev C.SRCH_NO_SHARD : Nat := 0x0702
abbrev C.SRCH_TENANT : Nat := 0x0703
abbrev C.SRCH_BUSY : Nat := 0x0704
abbrev C.SRCH_TIMEOUT : Nat := 0x0705
abbrev C.SRCH_SLOT_BUSY : Nat := 0x0706
abbrev C.SRCH_FULL : Nat := 0x0707
abbrev C.SRCH_NOT_FOUND : Nat := 0x0708
abbrev C.SRCH_SHARD_BAD : Nat := 0x0709
abbrev C.SRCH_SHARD_BUSY : Nat := 0x070A
abbrev C.SRCH_ROLE : Nat := 0x070B
abbrev C.SRCH_POISON : Nat := 0x070C

/-! Codes of spec/11_memory_tiers.md. -/
abbrev C.MEM_UE : Nat := 0x0950
abbrev C.MEM_CH_FAIL : Nat := 0x0951
abbrev C.MEM_HOST_LOST : Nat := 0x0952
abbrev C.MEM_HMAP_CRC : Nat := 0x0953
abbrev C.MEM_NO_FRAME : Nat := 0x0954
abbrev C.MEM_WB_FAIL : Nat := 0x0955
abbrev C.MEM_REGION_BAD : Nat := 0x0A50
abbrev C.MEM_REGION_BUSY : Nat := 0x0A51
abbrev C.MEM_REGION_FULL : Nat := 0x0A52
abbrev C.MEM_PF_BAD : Nat := 0x0A53
abbrev C.MEM_UNMAPPED : Nat := 0x0A54

/-! Codes of spec/12_hayloft.md. -/
abbrev C.HAY_NOT_READY : Nat := 0x0801
abbrev C.HAY_RANGE : Nat := 0x0802
abbrev C.HAY_READONLY : Nat := 0x0803
abbrev C.HAY_UE : Nat := 0x0804
abbrev C.HAY_BLOCK_RETIRED : Nat := 0x0805
abbrev C.HAY_MEDIA : Nat := 0x0806
abbrev C.HAY_REBUILD_FAIL : Nat := 0x0807
abbrev C.HAY_JRN_FULL : Nat := 0x0808
abbrev C.HAY_FORMAT_BAD : Nat := 0x0809

/-! Codes of spec/13_azrun_memory_fabric.md. -/
abbrev C.FAB_POISON : Nat := 0x0401
abbrev C.FAB_TORN_DOWN : Nat := 0x0402
abbrev C.FAB_PROT : Nat := 0x0403
abbrev C.FAB_PERM : Nat := 0x0404
abbrev C.FAB_RANGE : Nat := 0x0405
abbrev C.FAB_ALIGN : Nat := 0x0406
abbrev C.FAB_ORDER_WAIT : Nat := 0x0407
abbrev C.FAB_ORDER_STALL : Nat := 0x0408
abbrev C.FAB_ORDER_LATE : Nat := 0x0409
abbrev C.FAB_LANE_DOWN : Nat := 0x0410
abbrev C.FAB_PORT_DOWN : Nat := 0x0411
abbrev C.FAB_DEAD_TARGET : Nat := 0x0412
abbrev C.FAB_NO_ROUTE : Nat := 0x0413
abbrev C.FAB_AGED : Nat := 0x0414

/-! Codes of spec/14_queue_pairs.md. -/
abbrev C.QP_INVALID : Nat := 0x0501
abbrev C.QP_STATE : Nat := 0x0502
abbrev C.QP_CREATE_BAD : Nat := 0x0503
abbrev C.QP_BUSY : Nat := 0x0504
abbrev C.QP_WR_BAD : Nat := 0x0505
abbrev C.QP_SQ_FULL : Nat := 0x0506
abbrev C.QP_RING : Nat := 0x0507
abbrev C.QP_FLUSHED : Nat := 0x0508
abbrev C.QP_RETRY_EXC : Nat := 0x0509
abbrev C.QP_RNR_EXC : Nat := 0x050A
abbrev C.QP_RNR : Nat := 0x050B
abbrev C.QP_ACCESS : Nat := 0x050C
abbrev C.QP_PD : Nat := 0x050D
abbrev C.QP_LEN : Nat := 0x050E
abbrev C.QP_LOCAL_PROT : Nat := 0x050F
abbrev C.QP_CTX_FAIL : Nat := 0x0510
abbrev C.QP_PD_BAD : Nat := 0x0511
abbrev C.QP_REMOTE_ERR : Nat := 0x0512
abbrev C.QP_SEQ : Nat := 0x0513
abbrev C.QP_ERROR : Nat := 0x0514

/-! Codes of spec/15_shaping_and_policing.md. -/
abbrev C.SHP_HELD_LONG : Nat := 0x0960
abbrev C.SHP_CFG_BAD : Nat := 0x0A60
abbrev C.SHP_BIND_BUSY : Nat := 0x0A61

/-! Codes of spec/16_health_faults_tandem.md. -/
abbrev C.HLT_WARN : Nat := 0x0901
abbrev C.HLT_REPLACE : Nat := 0x0902
abbrev C.HLT_SUSPECT : Nat := 0x0903
abbrev C.HLT_LOST : Nat := 0x0904
abbrev C.HLT_SPLIT : Nat := 0x0905
abbrev C.HLT_EXPELLED : Nat := 0x0906
abbrev C.HLT_EXPEL_HELD : Nat := 0x0907
abbrev C.HLT_SUBST : Nat := 0x0908
abbrev C.HLT_REJOINED : Nat := 0x0909
abbrev C.HLT_MISMATCH : Nat := 0x090A
abbrev C.HLT_SOLO : Nat := 0x090B
abbrev C.DOUBLE_FAULT : Nat := 0x090C
abbrev C.HLT_LAG : Nat := 0x090D
abbrev C.HLT_TANDEM_BAD : Nat := 0x090E
abbrev C.HLT_MIRROR_FULL : Nat := 0x090F
abbrev C.HLT_CKPT_BAD : Nat := 0x0A70
abbrev C.HLT_CKPT_BUSY : Nat := 0x0A71
abbrev C.HLT_RESTORE_BAD : Nat := 0x0A72
abbrev C.HLT_DECLARE_BAD : Nat := 0x0A73

/-! Codes of spec/17_host_interface.md. -/
abbrev C.HIF_RESERVED : Nat := 0x0101
abbrev C.HIF_OPCODE : Nat := 0x0102
abbrev C.HIF_DENIED : Nat := 0x0103
abbrev C.HIF_TAG : Nat := 0x0104
abbrev C.HIF_LEN : Nat := 0x0105
abbrev C.HIF_HOST_READ : Nat := 0x0106
abbrev C.HIF_RING_BAD : Nat := 0x0107
abbrev C.HIF_RING_BUSY : Nat := 0x0108
abbrev C.HIF_ATOMIC : Nat := 0x0109
abbrev C.HIF_CPL_FULL : Nat := 0x010A
abbrev C.HIF_DMA : Nat := 0x010B
abbrev C.HIF_PROD_BAD : Nat := 0x010C
abbrev C.HIF_LINK_DOWN : Nat := 0x010D

/-! Codes of spec/18_package_power_startup.md. -/
abbrev C.PWR_THROTTLE : Nat := 0x0980
abbrev C.PWR_PROCHOT : Nat := 0x0981
abbrev C.PWR_CAPPED : Nat := 0x0982
abbrev C.PWR_THERM_TRIP : Nat := 0x0983
abbrev C.PWR_HBM_HOT : Nat := 0x0984
abbrev C.PWR_FW_SLOT : Nat := 0x0985
abbrev C.PWR_WAKE_FAIL : Nat := 0x0986
abbrev C.PWR_DUP_ID : Nat := 0x0987
abbrev C.PWR_AVS : Nat := 0x0988
abbrev C.PWR_STATE_BUSY : Nat := 0x0A80
abbrev C.PWR_STATE_BAD : Nat := 0x0A81

/-- A fault event (R446): its code and its W1C bit in its block's event register. -/
structure Evt where
  code : Nat
  bit : Fld
  deriving DecidableEq, Repr

/-! The fault events that have a code and an event bit of the same name. -/
def E.MAP_MISSED : Evt := ⟨C.MAP_MISSED, ⟨0x218, 0, 1⟩⟩
def E.MAP_CONFLICT : Evt := ⟨C.MAP_CONFLICT, ⟨0x218, 1, 1⟩⟩
def E.CAD_SYNC_LOSS : Evt := ⟨C.CAD_SYNC_LOSS, ⟨0x100018, 0, 1⟩⟩
def E.CAD_REF_LOSS : Evt := ⟨C.CAD_REF_LOSS, ⟨0x100018, 1, 1⟩⟩
def E.CAD_HOLDOVER : Evt := ⟨C.CAD_HOLDOVER, ⟨0x100018, 2, 1⟩⟩
def E.CAD_GLITCH : Evt := ⟨C.CAD_GLITCH, ⟨0x100018, 3, 1⟩⟩
def E.CAD_STEP : Evt := ⟨C.CAD_STEP, ⟨0x100018, 4, 1⟩⟩
def E.CAD_FLIT_MISMATCH : Evt := ⟨C.CAD_FLIT_MISMATCH, ⟨0x100018, 5, 1⟩⟩
def E.STL_INTK_FULL : Evt := ⟨C.STL_INTK_FULL, ⟨0x2000c8, 0, 1⟩⟩
def E.STL_SHADOW_LOST : Evt := ⟨C.STL_SHADOW_LOST, ⟨0x300028, 0, 1⟩⟩
def E.STL_SHADOW_FULL : Evt := ⟨C.STL_SHADOW_FULL, ⟨0x300028, 1, 1⟩⟩
def E.STL_NO_SHADOW : Evt := ⟨C.STL_NO_SHADOW, ⟨0x300028, 4, 1⟩⟩
def E.PAN_HEADER : Evt := ⟨C.PAN_HEADER, ⟨0x400048, 0, 1⟩⟩
def E.PAN_CRC : Evt := ⟨C.PAN_CRC, ⟨0x400048, 1, 1⟩⟩
def E.PAN_PARK_FULL : Evt := ⟨C.PAN_PARK_FULL, ⟨0x400048, 2, 1⟩⟩
def E.PAN_NO_CACHE : Evt := ⟨C.PAN_NO_CACHE, ⟨0x400048, 3, 1⟩⟩
def E.PAN_PULL_TIMEOUT : Evt := ⟨C.PAN_PULL_TIMEOUT, ⟨0x400048, 4, 1⟩⟩
def E.PAN_LOST : Evt := ⟨C.PAN_LOST, ⟨0x400048, 5, 1⟩⟩
def E.PAN_BOUNCE_LIMIT : Evt := ⟨C.PAN_BOUNCE_LIMIT, ⟨0x400048, 6, 1⟩⟩
def E.SRCH_BUSY : Evt := ⟨C.SRCH_BUSY, ⟨0x800060, 0, 1⟩⟩
def E.SRCH_TIMEOUT : Evt := ⟨C.SRCH_TIMEOUT, ⟨0x800060, 1, 1⟩⟩
def E.SRCH_POISON : Evt := ⟨C.SRCH_POISON, ⟨0x800060, 2, 1⟩⟩
def E.SRCH_FULL : Evt := ⟨C.SRCH_FULL, ⟨0x800060, 3, 1⟩⟩
def E.MEM_UE : Evt := ⟨C.MEM_UE, ⟨0x9000c0, 0, 1⟩⟩
def E.MEM_CH_FAIL : Evt := ⟨C.MEM_CH_FAIL, ⟨0x9000c0, 1, 1⟩⟩
def E.MEM_HOST_LOST : Evt := ⟨C.MEM_HOST_LOST, ⟨0x9000c0, 2, 1⟩⟩
def E.MEM_HMAP_CRC : Evt := ⟨C.MEM_HMAP_CRC, ⟨0x9000c0, 3, 1⟩⟩
def E.MEM_NO_FRAME : Evt := ⟨C.MEM_NO_FRAME, ⟨0x9000c0, 4, 1⟩⟩
def E.MEM_WB_FAIL : Evt := ⟨C.MEM_WB_FAIL, ⟨0x9000c0, 5, 1⟩⟩
def E.HAY_UE : Evt := ⟨C.HAY_UE, ⟨0xa00088, 0, 1⟩⟩
def E.HAY_BLOCK_RETIRED : Evt := ⟨C.HAY_BLOCK_RETIRED, ⟨0xa00088, 1, 1⟩⟩
def E.HAY_READONLY : Evt := ⟨C.HAY_READONLY, ⟨0xa00088, 2, 1⟩⟩
def E.HAY_MEDIA : Evt := ⟨C.HAY_MEDIA, ⟨0xa00088, 3, 1⟩⟩
def E.HAY_REBUILD_FAIL : Evt := ⟨C.HAY_REBUILD_FAIL, ⟨0xa00088, 4, 1⟩⟩
def E.HAY_JRN_FULL : Evt := ⟨C.HAY_JRN_FULL, ⟨0xa00088, 5, 1⟩⟩
def E.FAB_LANE_DOWN : Evt := ⟨C.FAB_LANE_DOWN, ⟨0xb000c8, 0, 1⟩⟩
def E.FAB_PORT_DOWN : Evt := ⟨C.FAB_PORT_DOWN, ⟨0xb000c8, 1, 1⟩⟩
def E.FAB_DEAD_TARGET : Evt := ⟨C.FAB_DEAD_TARGET, ⟨0xb000c8, 2, 1⟩⟩
def E.FAB_NO_ROUTE : Evt := ⟨C.FAB_NO_ROUTE, ⟨0xb000c8, 3, 1⟩⟩
def E.FAB_ORDER_LATE : Evt := ⟨C.FAB_ORDER_LATE, ⟨0xb000c8, 4, 1⟩⟩
def E.FAB_AGED : Evt := ⟨C.FAB_AGED, ⟨0xb000c8, 5, 1⟩⟩
def E.QP_ERROR : Evt := ⟨C.QP_ERROR, ⟨0xc00050, 0, 1⟩⟩
def E.QP_CTX_FAIL : Evt := ⟨C.QP_CTX_FAIL, ⟨0xc00050, 1, 1⟩⟩
def E.SHP_HELD_LONG : Evt := ⟨C.SHP_HELD_LONG, ⟨0xd00068, 1, 1⟩⟩
def E.HLT_WARN : Evt := ⟨C.HLT_WARN, ⟨0xe00070, 0, 1⟩⟩
def E.HLT_REPLACE : Evt := ⟨C.HLT_REPLACE, ⟨0xe00070, 1, 1⟩⟩
def E.HLT_SUSPECT : Evt := ⟨C.HLT_SUSPECT, ⟨0xe00070, 2, 1⟩⟩
def E.HLT_LOST : Evt := ⟨C.HLT_LOST, ⟨0xe00070, 3, 1⟩⟩
def E.HLT_SPLIT : Evt := ⟨C.HLT_SPLIT, ⟨0xe00070, 4, 1⟩⟩
def E.HLT_EXPELLED : Evt := ⟨C.HLT_EXPELLED, ⟨0xe00070, 5, 1⟩⟩
def E.HLT_EXPEL_HELD : Evt := ⟨C.HLT_EXPEL_HELD, ⟨0xe00070, 6, 1⟩⟩
def E.HLT_SUBST : Evt := ⟨C.HLT_SUBST, ⟨0xe00070, 7, 1⟩⟩
def E.HLT_REJOINED : Evt := ⟨C.HLT_REJOINED, ⟨0xe00070, 8, 1⟩⟩
def E.HLT_MISMATCH : Evt := ⟨C.HLT_MISMATCH, ⟨0xe00070, 9, 1⟩⟩
def E.HLT_SOLO : Evt := ⟨C.HLT_SOLO, ⟨0xe00070, 10, 1⟩⟩
def E.DOUBLE_FAULT : Evt := ⟨C.DOUBLE_FAULT, ⟨0xe00070, 11, 1⟩⟩
def E.HLT_LAG : Evt := ⟨C.HLT_LAG, ⟨0xe00070, 12, 1⟩⟩
def E.HLT_TANDEM_BAD : Evt := ⟨C.HLT_TANDEM_BAD, ⟨0xe00070, 13, 1⟩⟩
def E.HLT_MIRROR_FULL : Evt := ⟨C.HLT_MIRROR_FULL, ⟨0xe00070, 14, 1⟩⟩
def E.HIF_ATOMIC : Evt := ⟨C.HIF_ATOMIC, ⟨0xf00080, 0, 1⟩⟩
def E.HIF_CPL_FULL : Evt := ⟨C.HIF_CPL_FULL, ⟨0xf00080, 1, 1⟩⟩
def E.HIF_DMA : Evt := ⟨C.HIF_DMA, ⟨0xf00080, 2, 1⟩⟩
def E.HIF_PROD_BAD : Evt := ⟨C.HIF_PROD_BAD, ⟨0xf00080, 3, 1⟩⟩
def E.HIF_LINK_DOWN : Evt := ⟨C.HIF_LINK_DOWN, ⟨0xf00080, 4, 1⟩⟩
def E.ENG_CORE_FAULT : Evt := ⟨C.ENG_CORE_FAULT, ⟨0x500068, 0, 1⟩⟩
def E.ENG_NO_SPARE : Evt := ⟨C.ENG_NO_SPARE, ⟨0x500068, 1, 1⟩⟩
def E.ENG_SPARE_FAULT : Evt := ⟨C.ENG_SPARE_FAULT, ⟨0x500068, 2, 1⟩⟩
def E.CMP_OVERRUN : Evt := ⟨C.CMP_OVERRUN, ⟨0x600068, 0, 1⟩⟩
def E.CMP_UNDERRUN : Evt := ⟨C.CMP_UNDERRUN, ⟨0x600068, 1, 1⟩⟩
def E.CMP_CRC : Evt := ⟨C.CMP_CRC, ⟨0x600068, 2, 1⟩⟩
def E.CMP_HEADER : Evt := ⟨C.CMP_HEADER, ⟨0x600068, 3, 1⟩⟩
def E.CMP_TABLE : Evt := ⟨C.CMP_TABLE, ⟨0x600068, 4, 1⟩⟩
def E.CMP_CODE : Evt := ⟨C.CMP_CODE, ⟨0x600068, 5, 1⟩⟩
def E.PWR_THROTTLE : Evt := ⟨C.PWR_THROTTLE, ⟨0x1000060, 0, 1⟩⟩
def E.PWR_PROCHOT : Evt := ⟨C.PWR_PROCHOT, ⟨0x1000060, 1, 1⟩⟩
def E.PWR_CAPPED : Evt := ⟨C.PWR_CAPPED, ⟨0x1000060, 2, 1⟩⟩
def E.PWR_THERM_TRIP : Evt := ⟨C.PWR_THERM_TRIP, ⟨0x1000060, 3, 1⟩⟩
def E.PWR_HBM_HOT : Evt := ⟨C.PWR_HBM_HOT, ⟨0x1000060, 4, 1⟩⟩
def E.PWR_FW_SLOT : Evt := ⟨C.PWR_FW_SLOT, ⟨0x1000060, 5, 1⟩⟩
def E.PWR_WAKE_FAIL : Evt := ⟨C.PWR_WAKE_FAIL, ⟨0x1000060, 6, 1⟩⟩
def E.PWR_DUP_ID : Evt := ⟨C.PWR_DUP_ID, ⟨0x1000060, 7, 1⟩⟩
def E.PWR_AVS : Evt := ⟨C.PWR_AVS, ⟨0x1000060, 8, 1⟩⟩

end Sys2Proof.Machine
end

