-- ==== Sys2Proof/Machine/State.lean ====
section
/-!
DEFINITION. Machine/State.lean: everything the spec gives the part, as plain data: the registers, memory, and one record per block;
the queue of waiting commands; the outcomes other than a next state; and the state after reset.
-/

namespace Sys2Proof.Machine

/-- Messages the part sends to other devices of the fabric, by the rule that defines them. The list of numbers beside a kind
in `Put.msg` holds the message's fields in the order the sending operation's docstring gives. -/
inductive MsgKind where
  | bounceMsg | parkPannier | parkAck | shipNotice | pullRequest | pullReply | pullRefusal
  | pullComplete | releaseNotice | reparkNotice | gateNotice | pelotonMask | shadowCreate | replicate
  | replicateAck | replicateRefused | intakeAnswer | shadowAnswer | invoke | invokeReport | rebuild
  | unitResult | spillAsk | parkAsk | shardQuery | shardAnswer | mutation | mutationApplied
  | mutationAnswer | mirrorTokens | digest | mirrorIntake | mirrorGiven | mirrorAnswer | delivered
  deriving DecidableEq, Repr

/-- The output pins the model drives (R515). -/
inductive Pin where
  | intkXoff (i : Nat) | askReplace | thermTripN | engPwrEn | smbAlertN
  deriving DecidableEq, Repr

/-! ## The host interface (spec/17_host_interface.md) -/

/-- A completion (R487; a fault event has the layout of R446). -/
inductive Cpl where
  /-- CKIND 0: a command. -/
  | command (status tag opcode ring : Nat) (data : Bytes)
  /-- CKIND 1 to 4: an intake assignment or refusal, a token, a turn end, a stall notice. -/
  | stall (ckind status tag opcode ring stall home aux pos value beat : Nat)
  /-- CKIND 5: a queue-pair receive. -/
  | recv (status : Nat) (data : Bytes)
  /-- TAG 0xFFFF: a fault event. -/
  | fault (code seq subject kind index score beat detail : Nat)
  deriving DecidableEq, Repr

/-- What the part has put outside itself: writes to host memory (completions, indices, segment flags, data), interrupts,
messages and packets to the fabric, media and NOR operations, pins, the data of register reads, and the answers to accesses of the unified range. -/
inductive Put where
  | cpl (ring idx : Nat) (c : Cpl)
  | cplProd (ring prod : Nat)
  | cmdCons (ring cons : Nat)
  | owner (seg : Nat)
  | hostWrite (addr : Nat) (data : Bytes)
  | msix (vector : Nat)
  | msg (kind : MsgKind) (dst : Nat) (args : List Nat) (data : Bytes)
  | packet (port : Nat) (args : List Nat) (data : Bytes)
  | flit (port : Nat) (f : CtlFlit)
  | media (op : Nat) (args : List Nat) (data : Bytes)
  | norWrite (slot : Nat) (data : Bytes)
  | smbus (data : Bytes)
  | regData (off : Nat) (value : Word)
  | pin (p : Pin) (level : Bool)
  | mem (who status : Nat) (data : Bytes) (poison : Bool)
  deriving DecidableEq, Repr

/-- A command that is outstanding: consumed, its completion not yet written (R485). -/
structure CmdRef where
  ring : Nat
  opcode : Nat
  tag : Nat
  quiet : Bool
  deriving DecidableEq, Repr

/-- A command ring (R480, R481). `fenced`: its next command was offered with FENCE and waits (R482). -/
structure CmdRing where
  en : Bool := false
  base : Nat := 0
  log2 : Nat := 0
  cpl : Nat := 0
  admin : Bool := false
  intake : Bool := false
  tenant : Nat := 0
  prod : Nat := 0
  cons : Nat := 0
  fenced : Bool := false
  deriving DecidableEq, Repr

/-- A completion ring (R480, R481), with the completions that wait for room or for the ring (R488, each with the outstanding
command it completes), and what R496 counts: completions written since the last signal and the beat of the oldest. -/
structure CplRing where
  en : Bool := false
  base : Nat := 0
  log2 : Nat := 0
  vector : Nat := 0
  intEn : Bool := false
  intakeOk : Bool := false
  coalM1 : Nat := 0
  coalBeats : Nat := 0
  prod : Nat := 0
  cons : Nat := 0
  waiting : List (Cpl × Option CmdRef) := []
  unsignalled : Nat := 0
  oldest : Nat := 0
  lastFull : Option Nat := none
  deriving DecidableEq, Repr

/-- An intake request cut short by the producer index (R486): its items so far and the beat it began to wait. -/
structure PartialReq where
  items : List Bytes
  since : Nat
  deriving DecidableEq, Repr

/-- The state of the host interface. `turnRing` and `turnCount`: the ring whose turn it is and the commands taken in it (R485).
`segHeld`: the bulk segments held for requests (R494). `dmaFail` and `heldWrites`: a write to host memory failed, and what
is held behind it (R492). `msixPending`, `msixOpen`: the MSI-X vectors pending, and unmasked (R479, R496). -/
structure Hif where
  cmd : Tbl CmdRing := []
  cpl : Tbl CplRing := []
  outstanding : List CmdRef := []
  turnRing : Nat := 0
  turnCount : Nat := 0
  segHeld : List Nat := []
  partials : Tbl PartialReq := []
  dmaFail : Bool := false
  heldWrites : List Put := []
  msixPending : List Nat := []
  msixOpen : List Nat := []
  deriving DecidableEq, Repr

/-! ## Composition (spec/01_pools_and_roles.md) -/

/-- The composition states of R30, in the encoding of R32. -/
inductive CompState where
  | steady | staged | grace | graceStaged
  deriving DecidableEq, Repr

/-- A device entry of a map image (R26). -/
structure DevEntry where
  device : Nat
  role : Nat
  spare : Bool
  roleEpoch : Nat
  shadow : Nat
  deriving DecidableEq, Repr

/-- A member entry of a map image (R26). -/
structure Member where
  paddock : Nat
  device : Nat
  rank : Nat
  model : Nat
  clusters : Nat
  chgrps : Nat
  ports : Nat
  deriving DecidableEq, Repr

/-- A composition map (R26). -/
structure CompMap where
  epoch : Nat := 0
  effBeat : Nat := 0
  grace : Nat := 0x40000
  crc : Nat := 0
  devices : List DevEntry := []
  members : List Member := []
  deriving DecidableEq, Repr

/-- The composition of the device (R28, R30): the current map, the map before it while grace runs, the pending map, this
device's role and role epoch, the role-work messages held for the next epoch (R31 row 1), the role epochs of the devices a map has
listed so far (R17), the ports whose neighbour has announced a conflicting map (R29), and, where this device serves a replaced
device's place (R460), the current map as it was staged. -/
structure Comp where
  state : CompState := .steady
  cur : CompMap := {}
  old : Option CompMap := none
  pending : Option CompMap := none
  role : Nat := 0
  roleEpoch : Nat := 0
  held : List RoleMsg := []
  epochs : Tbl Nat := []
  conflicts : List Nat := []
  staged : Option CompMap := none
  deriving DecidableEq, Repr

/-! ## Compression (spec/04_operand_compression.md) -/

/-- A loaded coding table (R118): its FORMAT byte and the code length of each symbol. -/
structure CmpTable where
  format : Nat
  lengths : List Nat
  deriving DecidableEq, Repr

/-! ## Cadence (spec/02_cadence_and_determinism.md) -/

/-- The cadence states of R49, in the encoding of R70. -/
inductive CadState where
  | unset | acquire | locked | refonly | follow | slew | holdover
  deriving DecidableEq, Repr

/-- What a port last heard from its neighbour's cadence field (R47): whether it delivers a field that is usable (R48), the
neighbour's stratum, its compensated count less this device's, in 1/16 beat, and the beat of the field. -/
structure NbrCad where
  usable : Bool := false
  stratum : Nat := 15
  diff16 : Int := 0
  heard : Nat := 0
  deriving DecidableEq, Repr

/-- The cadence count and its state machine (R43, R48 to R51), and the determinism mode (R62, R71). `absent`: expected pulses
absent in a row; `glitch`: the offset of a pulse ignored by the glitch row, for the row of the second pulse; `slew`: the
correction still to make, in beats (R50); `nextSlew`: the beat of the next corrected increment; `skip`: the next increment is
omitted; `noSrc`: in follow, the
beat since which no usable neighbour is heard; `ref`: EVG_REF is present; `slipLast`: the slip of
the last launch (R532); `acquiredFrom`: the count came from a neighbour. -/
structure Cad where
  count : Nat := 0
  state : CadState := .unset
  stratum : Nat := 15
  srcPort : Nat := 0
  offset16 : Int := 0
  arm : Bool := false
  absent : Nat := 0
  glitch : Option Int := none
  slew : Int := 0
  nextSlew : Nat := 0
  skip : Bool := false
  noSrc : Option Nat := none
  ref : Bool := false
  nbrs : Tbl NbrCad := []
  detm : Bool := false
  detmReq : Bool := false
  slipLast : Nat := 0
  acquiredFrom : Bool := false
  deriving DecidableEq, Repr

/-! ## Septip programs, cores and copies (spec/03_engines_and_formats.md, spec/05_septip_programs.md) -/

/-- A program slot (R136): the image's bytes and the space-5 offset at which it is stored. -/
structure SepSlot where
  img : Bytes
  base : Nat
  deriving DecidableEq, Repr

/-- Who an invocation answers to: a host command; a home, for a chunk or a tail rebuild of a stall; this device's own scheduler, for
a peloton step or a step's drafts; or the member that received it, with its number there. -/
inductive InvTag where
  | host (c : CmdRef)
  | chunk (home stall : Nat)
  | rebuild (home stall : Nat)
  | step (entry : Nat)
  | draft (entry : Nat)
  | member (src id : Nat)
  deriving DecidableEq, Repr

/-- A schedule entry of an invocation on this member (R143, R145, R146): whether it has launched and ended, its record, the pool tasks
not yet started, the yielded jobs by task and the core that wrote each save, and the jobs running. -/
structure EntState where
  launched : Bool := false
  ended : Bool := false
  status : Nat := 0
  eflags : Nat := 0
  slip : Nat := 0
  endBeat : Nat := 0
  waiting : List Nat := []
  yielded : List (Nat × Nat) := []
  running : Nat := 0
  deriving DecidableEq, Repr

/-- An invocation (R144, R145). `level`: its priority (R35, R36); `primeLeft`: prime copies still to complete once its switch has begun
(R152); `stopping`: its work is abandoned at the next cheap point (R18, R152), `setAside`: its work yields there (recovery); `reported`: its outcome has been sent;
`digs`: the digests of R469 by entry * 2^20 + L, 0xFFFFF for the SAMPLE record; `errs0`: the errors this device had counted when it arrived (R470). -/
structure Inv where
  paddock : Nat
  slot : Nat
  cls : Nat := 0
  crc : Nat := 0
  base : Nat := 0
  bound : Bool := false
  binds : List Bind := []
  pstep : Nat := 0
  result : Nat := 0
  epoch : Nat := 0
  tag : InvTag
  level : Nat := 4
  order : Nat := 0
  refused : Option Nat := none
  refusedAt : Nat := 0
  ents : Tbl EntState := []
  primeLeft : Option Nat := none
  stopping : Bool := false
  setAside : Bool := false
  reported : Bool := false
  digs : Tbl Nat := []
  errs0 : Nat := 0
  deriving DecidableEq, Repr

/-- A paddock's Septip state on this device (R136, R152, R544): slots; the prefetch table of each slot (R322), as its 32-byte entries,
and its pool frames; the run mode requested and in effect; the slot last launched;
whether its schedule is halted (R109); the counts of SEP_INV_CNT. -/
structure SepPad where
  slots : Tbl SepSlot := []
  pf : Tbl (List Bytes) := []
  pfFrames : Tbl (List Nat) := []
  mode : Nat := 1
  cur : Nat := 1
  last : Option Nat := none
  halted : Bool := false
  done : Nat := 0
  yields : Nat := 0
  abandoned : Nat := 0
  deriving DecidableEq, Repr

/-- The core states of R106, in the encoding of ENG_CORE_STAT. -/
inductive CoreState where
  | active | spare | loading | failed
  deriving DecidableEq, Repr

/-- What a core runs: an entry of an invocation, with the task index of a pool entry (0 of a gang entry). -/
structure Job where
  inv : Nat
  entry : Nat
  task : Nat
  deriving DecidableEq, Repr

/-- A save (R148, R149): the save slot, whether it is a yield save, its job, its bytes, and which 64-byte lines of them are poisoned (`bad`). -/
structure Save where
  slot : Nat
  yields : Bool
  job : Job
  cheap : Nat
  body : Bytes
  ords : Nat := 0
  dig : Nat := 0
  bad : List Nat := []
  deriving DecidableEq, Repr

/-- A physical core (R105 to R107, R148, R149): its state; the core whose place a spare holds; its ROUNDED count (R93); its job; its 16
completion counters and the invocation they count for; a save under way; the current save; the yield slot's save; and what it
has issued to other devices since its cheap point, with the results recorded (R107); the ordered operations issued in its entry, and
until its cheap point (R380). -/
structure Core where
  state : CoreState := .active
  subst : Option Nat := none
  pairSpare : Bool := true
  rounded : Nat := 0
  job : Option Job := none
  ctrs : Tbl Nat := []
  ctrInv : Option Nat := none
  saving : Option Save := none
  current : Option Save := none
  yield : Option Save := none
  issued : List (Nat × List Nat) := []
  replay : List (Nat × List Nat) := []
  ords : Nat := 0
  ordsCheap : Nat := 0
  deriving DecidableEq, Repr

/-- A copy under way (R103, R142): its invocation and descriptor, and the cores whose counters it increments. -/
structure CopyRun where
  inv : Nat
  entry : Nat
  desc : Nat
  cores : List Nat
  prime : Bool
  deriving DecidableEq, Repr

/-- A long accumulator (R87). -/
structure LongAcc where
  acc : Int := 0
  anchor : Int := 0
  nan : Bool := false
  pos : Bool := false
  neg : Bool := false
  empty : Bool := true
  rounded : Bool := false
  nblk : Nat := 0
  poison : Bool := false
  deriving DecidableEq, Repr

/-- Programs, cores and copies of the device. Cores by die * 136 + number; accumulators (R79) by ((core * 4 + engine) * 32 + row) * 96
+ lane, in long form and in FP32; `roundedSum`: ENG_ROUNDED_SUM. -/
structure Sep where
  pads : Tbl SepPad := []
  invs : Tbl Inv := []
  nextInv : Nat := 0
  cores : Tbl Core := []
  copies : List CopyRun := []
  longs : Tbl LongAcc := []
  floats : Tbl Nat := []
  roundedSum : Nat := 0
  deriving DecidableEq, Repr

/-! ## Stalls and the intake queue (spec/06_stalls_and_intake.md, spec/07_kv_state_and_attention.md) -/

/-- The stall states of R161, in the order of their codes. -/
inductive StallState where
  | free | intake | prefill | ship | decode | park | spill | done | late | fail
  deriving DecidableEq, Repr

/-- A page descriptor (R195): region address in 4 KiB units, holder, tier (0 none, 1 HBM, 2 hayloft), compressed, fill, CRC. -/
structure Desc where
  addr : Nat := 0
  holder : Nat := 0
  tier : Nat := 0
  cmp : Bool := false
  fill : Nat := 0
  crc : Nat := 0
  deriving DecidableEq, Repr

/-- The states of a page-list entry (R199). -/
inductive PageState where
  | empty | tent | opened | full | parked | gone
  deriving DecidableEq, Repr

/-- A page-list entry (i, s) (R196, R199), with the ranks that have refused its region (R222) and the acknowledgement held for it
until it goes to full (R201). -/
structure PageEnt where
  state : PageState := .empty
  work : Desc := {}
  park : Desc := {}
  refused : List Nat := []
  heldAck : Option Desc := none
  deriving DecidableEq, Repr

/-- The page list of a stall (R196): its header, the open-buffer descriptors by shard, and entry (i, s) at key i * shards + s. -/
structure PageList where
  npage : Nat := 0
  kvEnd : Nat := 0
  model : Nat := 0
  shards : Nat := 0
  pageLog2 : Nat := 0
  opens : Tbl Desc := []
  ents : Tbl PageEnt := []
  deriving DecidableEq, Repr

/-- The stall record (R159). -/
structure StallRec where
  id : Nat := 0
  tenant : Nat := 0
  cls : Nat := 0
  state : StallState := .free
  dlDrop : Bool := false
  keep : Bool := false
  shadowOk : Bool := false
  promoted : Bool := false
  cont : Bool := false
  model : Nat := 0
  deadline : Nat := 0
  lenCommit : Nat := 0
  lenTent : Nat := 0
  lenPrompt : Nat := 0
  lenLimit : Nat := 0
  lenParked : Nat := 0
  lenDeliv : Nat := 0
  pageList : Nat := 0
  seed : Nat := 0
  penTable : Nat := 0
  tokLog : Nat := 0
  samp : Nat := 0
  mapEpoch : Nat := 0
  home : Nat := 0
  shadow : Nat := 0
  exec : Nat := 0
  execValid : Bool := false
  ring : Nat := 0
  altRing : Nat := 0
  tag : Nat := 0
  arrive : Nat := 0
  version : Nat := 0
  status : Nat := 0
  bulkSeg : Nat := 0
  deriving DecidableEq, Repr

/-- A token committed but not yet delivered (R169): its position, the token, its status, the scheduled end beat, and the VERSION whose
acknowledgement lets it be delivered. -/
structure OwedToken where
  pos : Nat
  token : Nat
  status : Nat
  beat : Nat
  version : Nat
  deriving DecidableEq, Repr

/-- What a home has under way for a stall (R162, R205, R228, R549). -/
inductive Phase where
  /-- Nothing under way. -/
  | none
  /-- Waiting for a prompt paddock (R549), for its pages (R205) or for the gate (R225). -/
  | waitPrompt
  /-- Waiting for a generation paddock (R549) or for the gate (R225). -/
  | waitGen
  /-- A chunk is dispatched: paddock, first position, positions, scheduled end. -/
  | chunk (paddock first count schedEnd : Nat)
  /-- Pages are pulled by a paddock, for a chunk or for decode; the members that still have to report. -/
  | ship (paddock : Nat) (waiting : List Nat)
  /-- The pull for a chunk is complete: the chunk waits for its dispatch. -/
  | pulled (paddock : Nat)
  /-- Decoding in a paddock. -/
  | decode (paddock : Nat)
  deriving DecidableEq, Repr

/-- One entry of the stall table: the record, and the working state the rules of chapters 06 to 09 give the home. `pages`: the page
list; `ring0`: the command ring whose default completion ring takes kind 1 completions, `fabric`: the device a fabric request
came from; `segs`: the bulk segments held; `given`, `turnBase`: the turn's given tokens and the position of the first;
`copying`: the given tokens are not yet in both token logs; `retrieve`: the query reference of a kind-2 EXT, `passages`: the
tokens to splice, `spliced`: they are all in; `query`, `found`: its query
and the global IDs found; `lenMax`: LEN_MAX; `greedy`, `sampSeg`, `sampDone`: the sampling record; `penDone`: the penalty table is allocated; `penFrom`:
PEN_FROM (R261); `sampCopy`, `stops`: the sampling copy's record, and its appended stop tokens; `cancel`: an STL_CANCEL waits
for the next boundary; `restBeat`: entry into park or spill; `owed`: tokens not yet delivered; `turnEnd`: the final completion
of the turn, not yet written: its status and beat; `acked`: the assignment completion is written; `reTo`: a re-prefill (R241)
runs up to there; `prev`: the paddock that holds the WORK copies; `prePull`: the target of R236; `parkEvt`, `lostEvt`: events
already raised; `refusals`: per entry key, the ranks that refused its region are in the entry; `spilling`: an STL_SPILL runs; in a tandem (R468)
`side`: 1 the delivering home, 2 the mirror home, `waitMirror`: the partner has not answered the intake, `mirrorToks`: the given tokens as the partner
forwards them, `heldV`: the version its shadow last acknowledged. -/
structure Stall where
  r : StallRec := {}
  pages : PageList := {}
  ring0 : Option Nat := none
  fabric : Nat := 0
  segs : List Nat := []
  given : Nat := 0
  turnBase : Nat := 0
  copying : Bool := false
  retrieve : Option Bytes := none
  passages : List Nat := []
  spliced : Bool := false
  query : Option Nat := none
  found : List Nat := []
  lenMax : Nat := 0
  promptWritten : Bool := false
  greedy : Bool := false
  sampSeg : Option Nat := none
  sampDone : Bool := false
  penDone : Bool := false
  penFrom : Nat := 0
  sampCopy : Bytes := []
  stops : List Nat := []
  cancel : Bool := false
  restBeat : Nat := 0
  owed : List OwedToken := []
  turnEnd : Option (Nat × Nat) := none
  acked : Bool := false
  phase : Phase := .none
  prev : Option Nat := none
  reTo : Option Nat := none
  prePull : Option Nat := none
  parkEvt : Option Nat := none
  lostEvt : Bool := false
  spilling : Option CmdRef := none
  promoBeat : Option Nat := none
  side : Nat := 0
  waitMirror : Bool := false
  mirrorToks : Option (List Nat) := none
  heldV : Option Nat := none
  deriving DecidableEq, Repr

/-- A shadow entry (R155, R167): the copy of a record, of its token log, of its PARK descriptors, and of its sampling copy. -/
structure ShadowEnt where
  r : StallRec := {}
  toks : Tbl Nat := []
  parks : List WorkDesc := []
  samp : Bytes := []
  deriving DecidableEq, Repr

/-- An item of the intake queue (R174, R177): its 64 bytes with STAMP written, and where its request came from: a command ring, or
(`fabric`) a device. -/
structure QItem where
  bytes : Bytes
  ring : Option Nat
  fabric : Nat
  deriving DecidableEq, Repr

/-- The intake queue and the stall and shadow tables. `levels`: the eight levels, each in order; `openLvl`: the level of the request
open to the reader (R175); `pop`: the item loaded by NEXT; `xoff`: the pins (R184, R515); `waiting`: the head request that has
been read and waits for a stall or pool ranges (R156); `pool`: the ranges allocated in the stall pool (base, bytes, stall);
`noShadowEvt`: the beat STL_NO_SHADOW was last raised; `dataCopy`: the record STL_DATA shows. -/
structure Stl where
  levels : Tbl (List QItem) := []
  openLvl : Option Nat := none
  pop : Bytes := []
  xoff : List Bool := [true, true, true, true]
  waiting : Option (List QItem) := none
  stalls : Tbl Stall := []
  shadow : Tbl ShadowEnt := []
  pool : List (Nat × Nat × Nat) := []
  noShadowEvt : Option Nat := none
  dataCopy : Bytes := []
  deriving DecidableEq, Repr

/-! ## Key-value state (spec/07_kv_state_and_attention.md) -/

/-- A model's key-value record (R188), and its 64 bytes for the identity test of R189. -/
structure KvModel where
  model : Nat := 0
  pageLog2 : Nat := 8
  fmt : Nat := 4
  layers : Nat := 1
  heads : Nat := 1
  dim : Nat := 32
  qPerKv : Nat := 1
  shards : Nat := 1
  windowed : Bool := false
  window : Nat := 0
  chunk : Nat := 0
  scale : Nat := 0
  raw : Bytes := []
  deriving DecidableEq, Repr

/-- A peloton entry (R206). -/
structure PelEntry where
  period : Nat := 0
  maxSeq : Nat := 0
  en : Bool := false
  phase : Nat := 0
  deriving DecidableEq, Repr

/-- A paddock's key-value record (R206). -/
structure KvPaddock where
  preSlot : Nat := 0
  decSlot : Nat := 0
  draftSlot : Nat := 0
  draftEn : Bool := false
  draftLead : Nat := 0
  heapBase : Nat := 0
  heapSize : Nat := 0
  pels : List PelEntry := []
  deriving DecidableEq, Repr

/-- What a region allocated from a heap holds: a page, a shard's open buffer, a shard's ring (R211), a page a park took (R223). -/
inductive RegionUse where
  | page | opens | ring | parked
  deriving DecidableEq, Repr

/-- A region allocated from a paddock's heap: its space-5 offset and bytes, the stall it belongs to by home * 2^17 + stall, and what it
holds (page and shard), with the descriptor's other fields. -/
structure Region where
  base : Nat
  size : Nat
  key : Nat
  use : RegionUse
  page : Nat
  shard : Nat
  cmp : Bool := false
  fill : Nat := 0
  crc : Nat := 0
  deriving DecidableEq, Repr

/-- A stall as the executing member of rank 0 keeps it while it decodes there (R198, R209, R225). `parkedNote`: LEN_PARKED of the
last gate notice; `started`: the home has begun the phase; `member`: it is in the peloton `pel`; `bound`: in the step now
running; `draftBuf`: the space-6 offset of its draft buffer. -/
structure ExecStall where
  record : StallRec := {}
  paddock : Nat := 0
  kvEnd : Nat := 0
  parkedNote : Nat := 0
  samp : Bytes := []
  stops : List Nat := []
  toks : List Nat := []
  penFrom : Nat := 0
  started : Bool := false
  member : Bool := false
  bound : Bool := false
  moved : Bool := false
  draftBuf : Option Nat := none
  deriving DecidableEq, Repr

/-- The state of a paddock's peloton on rank 0: the beat of its next step, the BASE_BEAT of the step last held behind a running one
(R210), and the counters of R544. -/
structure Peloton where
  next : Nat := 0
  heldAt : Option Nat := none
  steps : Nat := 0
  leftOut : Nat := 0
  held : Nat := 0
  members : Nat := 0
  deriving DecidableEq, Repr

/-- Key-value state of the device: model records by model, paddock records in effect and waiting for the next step boundary of each
peloton (R207), the regions allocated per paddock, the stalls decoding here by home * 2^17 + stall, the pelotons at
paddock * 32 + entry, the enable masks announced by paddocks (R551), and the beat KV_HEAP_LOW was last raised per paddock. -/
structure Kv where
  models : Tbl KvModel := []
  paddocks : Tbl KvPaddock := []
  pendingPad : Tbl KvPaddock := []
  regions : Tbl (List Region) := []
  execs : Tbl ExecStall := []
  pelotons : Tbl Peloton := []
  masks : Tbl Nat := []
  heapLowEvt : Tbl Nat := []
  deriving DecidableEq, Repr

/-! ## Panniers (spec/08_panniers.md) -/

/-- A region a holder keeps parked (R223): where it lies, its form and bytes, whether it came from a paddock's heap, and the pool
frames it took otherwise. -/
structure HeldRegion where
  home : Nat
  stall : Nat
  page : Nat
  shard : Nat
  desc : Desc
  size : Nat
  paddock : Option Nat
  frames : List Nat
  poison : Bool
  body : Bytes
  deriving DecidableEq, Repr

/-- The states of a member's pull logic (R232). -/
inductive PullState where
  | idle | eager | main | ready | rebuild
  deriving DecidableEq, Repr

/-- A pull request of a receiving member (R229, R230): which regions, from whom, the replies landed, the beat of the last arrival,
and whether it has been sent again; `retries`: the times a poisoned region of it was requested again (R231). -/
structure PullReq where
  pullId : Nat
  src : Nat
  pageFirst : Nat
  pageN : Nat
  shardFirst : Nat
  shardN : Nat
  eager : Bool
  fromWork : Bool
  seqs : List Nat
  lastSeen : Bool
  progress : Nat
  resent : Bool
  retries : Nat
  deriving DecidableEq, Repr

/-- A pull under way for a stall on a receiving member (R230, R232): what the ship notice said, the requests open and still to send,
the first position marked for rebuild, the regions landed, those found lost, and whether its requests wait for the heap. -/
structure Pull where
  state : PullState := .idle
  notice : Option ShipNotice := none
  reqs : List PullReq := []
  todo : List PullReq := []
  rebuildFrom : Option Nat := none
  landed : List WorkDesc := []
  lost : List (Nat × Nat) := []
  waitHeap : Bool := false
  deriving DecidableEq, Repr

/-- Why a bounced message of this device is kept (R235): until its next switch, until its epoch reaches a value, or to be sent again
from a beat on, so many times already. -/
inductive BounceHold where
  | nextSwitch
  | untilEpoch (epoch : Nat)
  | resend (beat count : Nat)
  deriving DecidableEq, Repr

/-- A bounced message that is kept. -/
structure BouncedMsg where
  what : BouncedWhat
  dst : Nat
  hold : BounceHold
  deriving DecidableEq, Repr

/-- A region a new holder pulls from a departing holder after a re-park notice (R238). -/
structure Repark where
  pullId : Nat
  msg : ReparkMsg
  deriving DecidableEq, Repr

/-- Pannier state: regions held for parked stalls, pulls by home * 2^17 + stall, the next PULL_ID, the park sequence toward each
holder, bounced messages held or resent, re-parks under way on this device as a new holder, and the re-parks its homes have
still to ask for. -/
structure Pan where
  held : List HeldRegion := []
  pulls : Tbl Pull := []
  nextPull : Nat := 0
  parkSeq : Tbl Nat := []
  bounced : List BouncedMsg := []
  reparks : List Repark := []
  moves : List (Nat × Nat × Nat × Nat) := []
  deriving DecidableEq, Repr

/-! ## The hayloft (spec/12_hayloft.md) -/

/-- The states of the hayloft, in the encoding of HAY_STATE (R348). -/
inductive HayState where
  | off | probe | blank | rebuild | ready | readonly | failed
  deriving DecidableEq, Repr

/-- The geometry every accepted target shares (R334): LUNs, planes, cell (1 TLC, 2 QLC), native pages, blocks per plane. -/
structure HayGeom where
  luns : Nat := 0
  planes : Nat := 0
  cell : Nat := 0
  pages : Nat := 0
  blocks : Nat := 0
  deriving DecidableEq, Repr

/-- The states of a block (R353). -/
inductive BlkState where
  | free | open | closed | victim | erasing | bad
  deriving DecidableEq, Repr

/-- A block (R335, R346, R353 to R359): its state and mode, units programmed, counts, the plane blocks marked bad (8 * LUN + plane), the
spare plane blocks substituted, whether it is reserved (R346), and whether it is queued for refresh (R352). -/
structure HBlk where
  state : BlkState := .free
  slc : Bool := false
  written : Nat := 0
  erases : Nat := 0
  reads : Nat := 0
  last : Nat := 0
  marks : List Nat := []
  subst : List Nat := []
  reserved : Bool := false
  refresh : Bool := false
  deriving DecidableEq, Repr

/-- The tag of a programmed unit (R336). -/
structure FlashTag where
  kind : Nat
  key : Nat
  seq : Nat
  src : Nat
  deriving DecidableEq, Repr

/-- A journal entry (R343). -/
structure JEntry where
  kind : Nat
  key : Nat
  value : Nat
  deriving DecidableEq, Repr

/-- A flush: its record (R344) and its entries. The scan set lists blocks, each with NEXT. -/
structure HFlush where
  seq : Nat
  lastSeq : Nat
  beat : Nat
  entries : List JEntry
  scan : List (Nat × Bool)
  deriving DecidableEq, Repr

/-- What the newest anchor names (R346): the checkpoint (directory, block table, REPLAY_FROM), the geometry, the accepted targets and
UNITS. -/
structure HAnchor where
  seq : Nat
  dir : Tbl Nat
  blocks : Tbl HBlk
  replay : Nat
  geom : HayGeom
  targets : List Nat
  units : Nat
  ring : Nat
  deriving DecidableEq, Repr

/-- What the flash itself holds, through power loss: the tag of every programmed unit by PPA, the content of each map page written by its
PPA, the journal's durable flushes, the newest anchor, the units that have failed all retries. The data of a unit lie at memory key
3, by 4,096 times its PPA. -/
structure Media where
  tags : Tbl FlashTag := []
  pages : Tbl (Tbl Nat) := []
  flushes : List HFlush := []
  anchor : Option HAnchor := none
  bad : List Nat := []
  deriving DecidableEq, Repr

/-- Who wrote an LBA: a write-back of a unit, a spill of a parked region, or a checkpoint image written to the hayloft (R463), by number. -/
inductive HayOwner where
  | unit (u : Nat)
  | spill (home stall page shard : Nat)
  | image (n : Nat)
  deriving DecidableEq, Repr

/-- A host write that waits for a write point: its LBA and its bytes that are not zero, by offset. -/
structure HayWrite where
  lba : Nat
  cells : List (Nat × Byte)
  owner : HayOwner
  deriving DecidableEq, Repr

/-- A unit being programmed: its place, its tag, and what it carries. -/
structure HayProg where
  ppa : Nat
  tag : FlashTag
  cells : List (Nat × Byte)
  owner : Option HayOwner
  deriving DecidableEq, Repr

/-- A write point (R341, R345): its open block, its reserved successor, the units being programmed, in order. -/
structure WPoint where
  block : Option Nat := none
  next : Option Nat := none
  progs : List HayProg := []
  deriving DecidableEq, Repr

/-- The hayloft. `noTarget`: in `failed`, no target was accepted; `from`: the beat EN was set; `accepted`: target numbers, 8 * channel +
target; `map` and `dir`: LBA and map page to PPA; `dirty`: dirty map pages; `queue`: host writes not yet programmed; `copyQ`: the places
of units to copy; `copies`: collection copies programmed and not yet verified; `jrn`: the journal buffer; `flushing`: the flush under
way; `flushSeq`, `lastFlush`: number and beat of the last
flush; `lastSeq`: the highest SEQ whose map update is journaled; `durable`: the scan set of the last durable flush; `force`: a flush is
forced; `jrnSince`: journal bytes since REPLAY_FROM; `jrnFull`: host writes wait for the round; `roundAt`: the beat of the last round;
`target`: SLC_TARGET; `spare`: spare plane blocks used, by (8 * target + LUN) * 8 + plane; `failedOwners`: writes refused; `erasable`: victims
whose last map change is in the flush under way; `collecting`: collection runs (R353); `frames`: pool frames of the map cache and the
directory (R312). -/
structure Hay where
  state : HayState := .off
  noTarget : Bool := false
  since : Nat := 0
  geom : HayGeom := {}
  accepted : List Nat := []
  map : Tbl Nat := []
  dir : Tbl Nat := []
  dirty : List Nat := []
  blocks : Tbl HBlk := []
  nextSeq : Nat := 1
  queue : List HayWrite := []
  points : Tbl WPoint := []
  copyQ : List Nat := []
  copies : List HayProg := []
  jrn : List JEntry := []
  flushing : Option HFlush := none
  flushSeq : Nat := 0
  lastSeq : Nat := 0
  lastFlush : Nat := 0
  durable : List (Nat × Bool) := []
  force : Bool := false
  jrnSince : Nat := 0
  jrnFull : Bool := false
  roundAt : Nat := 0
  target : Nat := 0
  spare : Tbl Nat := []
  failedOwners : List HayOwner := []
  erasable : List Nat := []
  collecting : Bool := false
  frames : List Nat := []
  media : Media := {}
  deriving DecidableEq, Repr

/-! ## Retrieval (spec/10_retrieval.md) -/

/-- An attached shard (R275): its 128 header bytes, its entry points as they are now, a detach under way, the sweep epoch and the next row
(R300), entry points replaced with the epoch of it (R299), pending deletes of slots being inserted, and what R296 keeps of applied
records: (issuer, MTAG), the beat and the answer, none until it is applied. -/
structure ShardRec where
  hdr : Bytes
  entries : List Nat
  detaching : Option CmdRef := none
  epoch : Nat := 0
  row : Nat := 0
  replaced : Tbl Nat := []
  delWait : List (Nat × MutMsg) := []
  applied : List ((Nat × Nat) × Nat × Option Bytes) := []
  deriving DecidableEq, Repr

/-- What a walk is for (R280): a shard query, or the insert of a slot. -/
inductive WalkWork where
  | query (q : ShardQuery)
  | insert (index shard slot : Nat) (m : MutMsg)
  deriving DecidableEq, Repr

/-- Who issued a query: a host command, with the host address of its result; or a home for a stall. -/
inductive QuerySrc where
  | host (c : CmdRef) (addr : Nat)
  | stall (id : Nat)
  deriving DecidableEq, Repr

/-- A shard query as its issuer keeps it (R290): the device asked, whether ALT has been asked, the first answer. -/
structure SubQuery where
  shard : Nat
  asked : Nat
  alt : Bool := false
  ans : Option ShardAns := none
  deriving DecidableEq, Repr

/-- A query under way at its issuer (R288 to R292). -/
structure Query where
  src : QuerySrc
  desc : Bytes
  tenant : Nat
  qbeat : Nat
  issued : Nat
  timeout : Nat
  vec : List Nat
  code : Bytes
  subs : List SubQuery
  deriving DecidableEq, Repr

/-- A mutation command at its issuer (R296): the host address of the answers and the answers still missing. -/
structure MutCmd where
  cmd : CmdRef
  addr : Nat
  count : Nat
  missing : List Nat
  deriving DecidableEq, Repr

/-- Retrieval: shards attached by index * 2^16 + shard, the directory (owner, ALT), queries and mutation commands issued here, walks
waiting and in contexts by number. -/
structure Srch where
  shards : Tbl ShardRec := []
  dir : Tbl (Nat × Nat) := []
  queries : Tbl Query := []
  muts : Tbl MutCmd := []
  nextId : Nat := 0
  waiting : List (Nat × WalkWork) := []
  contexts : Tbl WalkWork := []
  deriving DecidableEq, Repr

/-! ## Memory tiers (spec/11_memory_tiers.md) -/

/-- A region of the unified range (R307): its place, TIERS, the backing (none where it is not BACKED), whether units start from the
backing, the frames of a pinned region in unit order, the frames of its location table (R312), and a removal under way (R310), with DISCARD. -/
structure MemRegion where
  base : Nat
  size : Nat
  tiers : Nat
  lba : Option Nat := none
  adopt : Bool := false
  frames : List Nat := []
  table : List Nat := []
  removing : Option (CmdRef × Bool) := none
  deriving DecidableEq, Repr

/-- The states of a unit, in the encoding of MEM_LOOKUP_DATA. -/
inductive UnitState where
  | absent | hbm | hay | host | moving | lost
  deriving DecidableEq, Repr

/-- A unit of 64 KiB (R314 to R319). While `moving`: the source and target states, the target frame, and the restarts. `evict`: marked
by a prefetch EVICT; `still`: not moved before that beat. -/
structure MUnit where
  state : UnitState := .absent
  dirty : Bool := false
  hayValid : Bool := false
  heat : Nat := 0
  frame : Nat := 0
  since : Nat := 0
  evict : Bool := false
  still : Nat := 0
  src : UnitState := .absent
  dst : UnitState := .absent
  dstFrame : Nat := 0
  restarts : Nat := 0
  deriving DecidableEq, Repr

/-- An access that waits (R314, R318): who made it, the address, the bytes read or written, whether it is an atomic or hot-line store,
the beat it began to wait, and the pass of poison its data carry. -/
structure MemWait where
  who : Nat
  addr : Nat
  len : Nat
  write : Option Bytes
  sharp : Bool
  poison : Bool
  since : Nat
  deriving DecidableEq, Repr

/-- State of the memory-tier manager. `frames`: the pool frames in use, by group * 2^19 + frame, with the order of their user in
R312's table; `badGroups`: groups out of service until the next reset (R330). Units by address / 2^16 where they differ from what
their region starts with; `host`: host frames in use; `wbs`: units whose write-back is in flight; `wbWant`: units that wait for one; `flushes`: MEM_FLUSH commands with
the units not yet durable; `want`: units that wait for a move slot or a frame to be promoted; `noFrameEvt`: the beat MEM_NO_FRAME was
last raised; `ecc`: per channel the counters CE, UE and REPAIRED; `scrub`: per channel the next line and the pass; `ceRows`: the pass in
which a row was last corrected, by channel * 2^32 + row; `listed`: rows of paddock groups to repair; `ueLog`: beats of the last
uncorrectable lines of a channel; `failed`: channels that have failed; `hmapBad`: host map pages discarded; `pfStarted`: prefetch
entries started, by invocation and entry; `spills`: parked regions on their way to the hayloft, with their first block; `refresh`: the
beat of a channel's next refresh (R55). -/
structure MemT where
  frames : Tbl Nat := []
  badGroups : List Nat := []
  regions : Tbl MemRegion := []
  units : Tbl MUnit := []
  host : List Nat := []
  waits : List MemWait := []
  wbs : List Nat := []
  wbWant : List Nat := []
  flushes : List (CmdRef × List Nat) := []
  want : List Nat := []
  noFrameEvt : Option Nat := none
  ecc : Tbl (Nat × Nat × Nat) := []
  scrub : Tbl (Nat × Nat) := []
  ceRows : Tbl Nat := []
  listed : List Nat := []
  ueLog : Tbl (List Nat) := []
  failed : List Nat := []
  hmapBad : List Nat := []
  pfStarted : List (Nat × Nat) := []
  spills : List (Nat × Nat × Nat × Nat × Nat) := []
  refresh : Tbl Nat := []
  deriving DecidableEq, Repr

/-! ## Shaping and policing (spec/15_shaping_and_policing.md) -/

/-- The configuration of a shaper or policer (R437). -/
structure ShpCfg where
  rate : Nat := 0
  rate2 : Nat := 0
  burst : Nat := 0
  burst2 : Nat := 0
  bkind : Nat := 0
  cls : Nat := 0
  value : Nat := 0
  overhead : Nat := 0
  mode : Nat := 0
  aware : Bool := false
  yel : Bool := false
  red : Bool := false
  deriving DecidableEq, Repr

/-- A shaper or policer (R426, R432, R439): its configuration; its token counts in 1/4,096 byte (`tx`: a policer's second bucket) as they
were at beat `since`; its byte counters; the beat it last let a packet go or was found to hold none (R429), and the beat of its last
SHP_HELD_LONG. -/
structure Meter where
  cfg : ShpCfg := {}
  tc : Int := 0
  tx : Int := 0
  since : Nat := 0
  bytes : List Nat := [0, 0, 0]
  heldEvt : Option Nat := none
  deriving DecidableEq, Repr

/-- The shapers and policers by index (default: unbound). -/
structure Shp where
  shapers : Tbl Meter := []
  policers : Tbl Meter := []
  deriving DecidableEq, Repr

/-! ## The Azrun fabric (spec/13_azrun_memory_fabric.md) -/

/-- An operation of a core as the yard tracks it (R381, R107): its core and number there, its invocation and entry, the completion counter it
names, where its result goes, the width of an atomic. -/
structure OpRef where
  core : Nat
  id : Nat
  inv : Nat
  entry : Nat
  ctr : Nat
  result : Nat
  width : Nat
  deriving DecidableEq, Repr

/-- An operation not yet completed: its packet, the beat its packet first left (none while it has not), and whether it counts as
acknowledged for a fence. -/
structure OutOp where
  ref : OpRef
  p : Packet
  first : Option Nat := none
  acked : Bool := false
  deriving DecidableEq, Repr

/-- A packet that waits at an egress port: whether it starts here and has no SSN yet (`fresh`), the operation it carries, the shapers it is
charged to (R428), the beat it began to wait, and the beat it became eligible (R425). -/
structure EgPkt where
  p : Packet
  own : Bool := false
  fresh : Bool := false
  ref : Option OpRef := none
  flow : Option Nat := none
  agg : Option Nat := none
  since : Nat
  elig : Option Nat := none
  deriving DecidableEq, Repr

/-- A packet that waits in ingress (R434, R391, R418), with the message a MSG completes; `pol`: the policers that deferred it, if any did. -/
structure InPkt where
  p : Packet
  m : FabMsg
  since : Nat
  pol : Option (List Nat) := none
  deriving DecidableEq, Repr

/-- What waits in a port's replay buffer (R369). -/
inductive Sent where
  | packet (p : Packet)
  | control (f : CtlFlit)
  deriving DecidableEq, Repr

/-- An Azrun port (R365 to R371). `state`: 0 down, 1 training, 2 up, 3 wake lane only; `lanes`: mask; `rtt` in 1/16 beat; `queue`: packets
to send; `paused`: per class, the beat a pause ends; `ctl`: control messages to send; `tx`, `rx`: link sequence numbers of the next flit to
send and expected; `replay`: flits sent and not acknowledged; `fails`: replays failed in a row; `flits`: control flits sent; `hbAt`: the
last multiple of 256 for which a heartbeat left; `hbDue`: one is to leave; `ingress`: packets deferred; `xoff`: classes this port pauses, as
a mask; `laneFails`: retrainings a lane failed in a row; `trained`: the last
beat the port was up; `want`: the flit it asks to have replayed. -/
structure Port where
  state : Nat := 0
  lanes : Nat := 0
  neighbour : Nat := 0
  rtt : Nat := 0
  queue : List EgPkt := []
  paused : List Nat := []
  ctl : List CtlMsg := []
  tx : Nat := 0
  rx : Nat := 0
  replay : List (Nat × Sent) := []
  fails : Nat := 0
  flits : Nat := 0
  hbAt : Nat := 0
  hbDue : Bool := false
  ingress : List InPkt := []
  xoff : Nat := 0
  laneFails : Tbl Nat := []
  trained : Option Nat := none
  want : Option Nat := none
  deriving DecidableEq, Repr

/-- The states of a stream at its sender (R375). -/
inductive StreamState where
  | idle | opened | resend | dead
  deriving DecidableEq, Repr

/-- A stream at its sender (R374, R375): the next SSN, the packets not acknowledged in SSN order, the beat of the last progress, resends in
a row without progress, the beat a "full" wait ends, the port in use, the beat of the last packet sent. -/
structure SendStream where
  state : StreamState := .idle
  next : Nat := 0
  out : List Packet := []
  progress : Nat := 0
  retries : Nat := 0
  wait : Option Nat := none
  port : Nat := 0
  used : Nat := 0
  deriving DecidableEq, Repr

/-- A stream at its receiver (R374, R377, R381): e, the responses of the last accepted loads and atomics by SSN, the beat of the last
packet. -/
structure RecvStream where
  e : Nat
  rsps : List (Nat × Packet) := []
  used : Nat := 0
  deriving DecidableEq, Repr

/-- A protection region (R386). -/
structure FabRegion where
  base : Nat
  size : Nat
  key : Nat
  tenant : Nat
  perm : Nat
  jbase : Nat
  deriving DecidableEq, Repr

/-- An ordered operation a home holds (R387, R390): its packet, its source's rank, the line it touches first, and how many records it takes (0 where
it is combined in a hot entry). -/
structure HeldOp where
  p : Packet
  rank : Nat
  key : Nat
  records : Nat
  ref : Option OpRef := none
  deriving DecidableEq, Repr

/-- A round at its home (R388, R389): its members, those done with the last SSN per class, and its operations. -/
structure Round where
  paddock : Nat
  issue : Nat
  members : List Nat
  done : List (Nat × List (Option Nat)) := []
  lost : List Nat := []
  ops : List HeldOp := []
  deriving DecidableEq, Repr

/-- A fence that has not completed (R394, R395): its core, its destination (none: every one), the operations it waits for, and the first
failure among them. -/
structure FenceWait where
  core : Nat
  ops : List Nat
  code : Nat
  deriving DecidableEq, Repr

/-- The fabric. Routes by destination; regions and jobs (tenant, paddock) by number; `regFrames`: the pool frame that holds 2,048 region entries; streams by device * 8 + class; `ops`: operations of
cores not completed; `waitCtx`: packets that wait for a send context (R377); `noPort`: forwarded packets without a port; `releases`: release stores that wait (R394); `fences`, and `fenceCode`: the
last fence's code by core; `rounds`, open ones, and `closed`: the highest T closed by paddock; `asks`: questions of homes not answered
yet; `dead`: dead destinations with the beat they became so; `coded`: runs of coded copy writes not complete, by source, class and
address; `nextOp`: number of the next operation; `heard`, `heardAt`: the last heartbeat of
a neighbour and its beat; `naks`: the beat of the last NAK by stream (R374, R377); `loops`: operations of this device's cores on its own memory, on
their way. -/
structure Fab where
  ports : Tbl Port := []
  routes : Tbl (List Nat) := []
  regions : Tbl FabRegion := []
  jobs : Tbl (Nat × Nat) := []
  regFrames : Tbl (List Nat) := []
  sends : Tbl SendStream := []
  recvs : Tbl RecvStream := []
  ops : List OutOp := []
  waitCtx : List EgPkt := []
  noPort : List EgPkt := []
  releases : List (OpRef × Packet × List Nat × Nat) := []
  fences : List FenceWait := []
  fenceCode : Tbl Nat := []
  rounds : List Round := []
  closed : Tbl Nat := []
  asks : List (Nat × Nat × Nat) := []
  dead : Tbl Nat := []
  coded : List ((Nat × Nat) × Nat × Bytes × Bool) := []
  nextOp : Nat := 0
  heard : Tbl Heartbeat := []
  heardAt : Tbl Nat := []
  naks : Tbl Nat := []
  loops : List (OpRef × Packet) := []
  deriving DecidableEq, Repr

/-! ## Queue pairs (spec/14_queue_pairs.md) -/

/-- A protection domain (R403). -/
structure Pd where
  tenant : Nat
  job : Nat
  regs : List Nat
  deriving DecidableEq, Repr

/-- The states of a queue pair (R406), and of its context's residence (R417). -/
inductive QpState where
  | reset | ready | error
  deriving DecidableEq, Repr
inductive QpCache where
  | evicted | fetching | resident | writing
  deriving DecidableEq, Repr

/-- A work request posted and not completed (R407, R409): its command, its fields, the bytes of its LADDR range where that lies in the bulk
window (none where the range is not handed to the device), its first PSN and number of PSNs, the PSNs sent, the response packets of a READ landed,
an atomic's old value, whether it is done. -/
structure Wqe where
  cmd : CmdRef
  op : Nat
  flags : Nat
  len : Nat
  laddr : Nat
  raddr : Nat
  rkey : Nat
  imm : Nat
  opnd : Nat
  swap : Nat
  bulk : Option Bytes
  psn : Nat := 0
  n : Nat := 0
  sent : Nat := 0
  got : List Nat := []
  result : Nat := 0
  done : Bool := false
  deriving DecidableEq, Repr

/-- A command that waits for a context to be fetched (R417). -/
inductive QpCmd where
  | post (c : HostCmd) (bulk : Option Bytes)
  | recv (c : HostCmd) (descs : List (Bytes × Bool))
  | modify (c : HostCmd)
  deriving DecidableEq, Repr

/-- A queue-pair context (R405, R414 to R417). `epsn`: the PSN expected; `una`: the oldest unacknowledged; `scnt`, `rcnt`: send and receive
counts; `prod`, `cons`: the receive ring's indices, and `descs` the descriptors between them, each with whether its bulk range is handed
over; `cur`: the descriptor of the SEND arriving, with whether its range is handed over; `timer`: the beat the timer started; `retries`, `rnrs`: in a row; `rnrWait`: the beat an RNR wait began
and the PSN to resend from; `seqNak`: the beat of the last QP_SEQ NAK; `atomics`: the last 16 atomic responses by PSN; `used`: the beat of
last use; `fetchAt`: the beat its fetch began; `lost`: REMOTE was declared lost while it was evicted; `cmds`: commands that wait. -/
structure Qp where
  pd : Nat
  remote : Nat
  rqpn : Nat
  sqRing : Nat
  cqRing : Nat
  rcqRing : Nat
  cls : Nat
  rwEn : Bool
  rdEn : Bool
  atEn : Bool
  timerLog2 : Nat
  retryMax : Nat
  spsn0 : Nat
  epsn0 : Nat
  rqBase : Nat
  rqLog2 : Nat
  rnrMax : Nat
  rnrLog2 : Nat
  winLog2 : Nat
  maxAtomic : Nat
  sqDepth : Nat
  state : QpState := .reset
  cache : QpCache := .resident
  spsn : Nat := 0
  una : Nat := 0
  epsn : Nat := 0
  scnt : Nat := 0
  rcnt : Nat := 0
  prod : Nat := 0
  cons : Nat := 0
  descs : List (Bytes × Bool) := []
  cur : Option (Bytes × Bool) := none
  wlen : Nat := 0
  wqes : List Wqe := []
  timer : Option Nat := none
  retries : Nat := 0
  rnrs : Nat := 0
  rnrWait : Option (Nat × Nat) := none
  seqNak : Option Nat := none
  atomics : List (Nat × Nat) := []
  used : Nat := 0
  fetchAt : Nat := 0
  lost : Bool := false
  cmds : List QpCmd := []
  deriving DecidableEq, Repr

/-- Queue pairs: protection domains, pairs by QPN, the miss buffer (R418) and the classes it pauses, as a mask. -/
structure Qpx where
  pds : Tbl Pd := []
  qps : Tbl Qp := []
  miss : List (Nat × Packet) := []
  pausing : Nat := 0
  deriving DecidableEq, Repr

/-! ## Health (spec/16_health_faults_tandem.md) -/

/-- One part the monitor tracks (R441, R443): its accumulator A, the failed mark, its four counters and whether its WARN and
REPLACE crossings are armed (R445). -/
structure PartHealth where
  acc : Nat := 0
  failed : Bool := false
  ce : Nat := 0
  retry : Nat := 0
  retrain : Nat := 0
  ue : Nat := 0
  warnArmed : Bool := true
  replaceArmed : Bool := true
  deriving DecidableEq, Repr

/-- A ballot of a vote (R453). -/
structure Ballot where
  sender : Nat
  ballot : Nat
  cast : Nat
  deriving DecidableEq, Repr

/-- A vote (R453, R454): its kind, subject, lowest (CALL_BEAT, CALLER), the earliest call's SCORE, the ballots recorded, this device's own
ballot, and whether it is void (R475). -/
structure Vote where
  vkind : Nat
  subject : Nat
  callBeat : Nat
  caller : Nat
  score : Nat := 0
  ballots : List Ballot := []
  own : Option Nat := none
  void : Bool := false
  deriving DecidableEq, Repr

/-- The states of a spare (R459), in the encoding of HLT_STAT. -/
inductive SpareState where
  | none | unready | ready | loading | active
  deriving DecidableEq, Repr

/-- The states of a paddock in a tandem, on this plane (R472). -/
inductive PadTandem where
  | mirrored | solo | halted | loading
  deriving DecidableEq, Repr

/-- A paddock in a tandem: its state, the slots whose invocation mismatched once and is being recomputed (R471), and the beat it last became
mirrored again;
`double`: a double fault (R473). -/
structure TandemPad where
  state : PadTandem := .mirrored
  again : List Nat := []
  rejoin : Option Nat := none
  double : Bool := false
  deriving DecidableEq, Repr

/-- A digest message as received (R470). -/
structure DigestIn where
  src : Nat
  paddock : Nat
  rank : Nat
  base : Nat
  digest : Nat
  err : Bool
  score : Nat
  deriving DecidableEq, Repr

/-- An invocation of a mirrored paddock held at its end on this member (R470): its own digest message, the beat it ended, the outcome of the comparison
(none: the partner's digest has not arrived; else as InvReport has it), and whether HLT_LAG was raised. -/
structure HeldInv where
  inv : Nat
  paddock : Nat
  slot : Nat
  base : Nat
  digest : Nat
  err : Bool
  score : Nat
  ended : Nat
  outcome : Option Nat := none
  lagged : Bool := false
  deriving DecidableEq, Repr

/-- What a SAMPLE entry of a held invocation would have sent, and the stalls as they were before it (R470, R471). -/
structure Withheld where
  inv : Nat
  puts : List Put
  execs : List (Nat × ExecStall)
  deriving DecidableEq, Repr

/-- The monitor: every part by kind * 1024 + index (default: nothing counted), the fault events not yet written (R447), the number
of the next event, the last event's code, the ASK_REPLACE pin (R448), the devices declared lost (R452), each with whether a map
has been staged since, and the aliases of replaced devices (R461). `errs`: errors counted so far; `votes`, open ones; `seen`: vote messages
forwarded, with their call beats; `declares`: declares to apply; `decisions` (R456); `lossEnd`: by subject, the tally beat of the last LOSS vote on
it; `expelKept`: the tally beat of the last EXPEL of this device that ended in keep; `idle`: neighbours whose port shows electrical idle;
`stripped`: this device was declared lost or expelled and has role none. A spare: its state, the device it replaces, its source. The tandem: the beat
EN was set, whether HLT_TANDEM_BAD was raised, mirroring, the partner's EN, its map CRCs; its paddocks; what is held and received; the beat of the last SUBST call; checkpoints
written to the hayloft and not yet durable: number, command, image bytes, shard. -/
structure HltMon where
  parts : Tbl PartHealth := []
  events : List Cpl := []
  seq : Nat := 0
  lastCode : Nat := 0
  askReplace : Bool := false
  lost : Tbl Bool := []
  aliases : Tbl Nat := []
  errs : Nat := 0
  votes : List Vote := []
  seen : List (List Nat) := []
  declares : List VoteMsg := []
  decisions : List Decision := []
  lossEnd : Tbl Nat := []
  expelKept : Option Nat := none
  idle : List Nat := []
  stripped : Bool := false
  spare : SpareState := .none
  spareFor : Option Nat := none
  spareSrc : Option Nat := none
  loads : List (Nat × Nat) := []
  enAt : Option Nat := none
  tandemBad : Bool := false
  active : Bool := false
  partnerEn : Bool := false
  tpads : Tbl TandemPad := []
  heldInvs : List HeldInv := []
  digests : List DigestIn := []
  withheld : List Withheld := []
  substAt : Option Nat := none
  ckpts : List (Nat × CmdRef × Nat × Option Nat) := []
  nextCkpt : Nat := 0
  deriving DecidableEq, Repr

/-! ## Package, power, resets, firmware and test access (spec/18_package_power_startup.md) -/

/-- The power states of R518 and R522. -/
inductive PwrState where
  | start | run | idle | entering | stabled | waking | off | trip
  deriving DecidableEq, Repr

/-- One engine die's clocking (R506, R509, R519): F_d as the step (F_d - 500 MHz) / 125 MHz; the beats of the last step down and
up; whether it is clock-gated; the step its last acknowledged voltage allows, once its AVSBus transactions have failed. -/
structure DieClk where
  step : Nat := 12
  lastDown : Option Nat := none
  lastUp : Option Nat := none
  gated : Bool := false
  avsHold : Option Nat := none
  deriving DecidableEq, Repr

/-- What the fuses hold (R526): the SHA-384 of up to four public keys, the revocation bits, the security version. -/
structure Fuses where
  keyHash : List Bytes := []
  revoked : Nat := 0
  svn : Nat := 0
  deriving DecidableEq, Repr

/-- The power block, the boot ROM's results and the TAP. `fwSlotEvt` and `tripEvt`: events to raise at firmware-ready (R527, R510).
`stopped`: a boundary-scan instruction has stopped service until a reset (R531). -/
structure Pwr where
  state : PwrState := .start
  fuses : Fuses := {}
  slotId : Nat := 0
  bootMode : Nat := 0
  testEn : Bool := false
  target : Nat := 1
  status : Nat := 0
  fwRunning : Bool := false
  recovery : Bool := false
  readyFw : Bool := false
  readyComp : Bool := false
  engOk : Bool := false
  hbmOk : Bool := false
  azfOk : Bool := false
  warmRetained : Bool := false
  bootBusy : Bool := false
  bootSlot : Nat := 0
  fromWindow : Bool := false
  resultA : Nat := 0
  resultB : Nat := 0
  resultWin : Nat := 0
  fwVersion : Nat := 0
  secVer : Nat := 0
  keyIndex : Nat := 0
  fwSlotEvt : Bool := false
  tripEvt : Bool := false
  window : Tbl Word := []
  deriving DecidableEq, Repr

/-- Clocks, temperatures and the supply side of the power block (R506 to R510, R519, R522). -/
structure Therm where
  dies : Vector DieClk 4 := Vector.replicate 4 {}
  dieTemp : List Nat := [0, 0, 0, 0, 0]
  dieSensor : List Nat := [0, 0, 0, 0, 0]
  stackTemp : List Nat := [0, 0, 0, 0, 0, 0, 0, 0]
  hbmHalf : List Nat := []
  throttle : Bool := false
  prochotN : Bool := true
  capped : Bool := false
  lastThrottleEvt : Option Nat := none
  avsFails : List Nat := [0, 0, 0, 0, 0]
  power : Nat := 0
  engPwrEn : Bool := false
  vddYLow : Bool := false
  hbmSelfRefresh : Bool := false
  lanesSaved : Bool := false
  wakeBeat : Nat := 0
  deriving DecidableEq, Repr

/-- The TAP (R531): the instruction register, the IEEE 1149.1 controller state, a DBG_ACCESS transfer in progress, and whether a
boundary-scan instruction has stopped the part's service. -/
structure Tap where
  ir : Nat := 0x02
  tapState : Nat := 0
  active : Bool := false
  stopped : Bool := false
  deriving DecidableEq, Repr

/-! ## The part -/

/-- Everything the part holds, block by block. `regs`: the register fields with no home of their own in another block, by BAR0
offset, listed where they differ from the Reset column; `mem`: the bytes of its memories; `poison`: the 64-byte lines that
are poisoned (R127); `out`: what the part has put outside itself, oldest first; `fresh`: how many open values have been
drawn. -/
structure Dev where
  regs : Tbl Word := []
  mem : List Host.Cell := []
  poison : List Nat := []
  out : List Put := []
  fresh : Nat := 0
  pwr : Pwr := {}
  therm : Therm := {}
  tap : Tap := {}
  cad : Cad := {}
  comp : Comp := {}
  hif : Hif := {}
  hlt : HltMon := {}
  stl : Stl := {}
  kv : Kv := {}
  pan : Pan := {}
  srch : Srch := {}
  memt : MemT := {}
  hay : Hay := {}
  fab : Fab := {}
  shp : Shp := {}
  qpx : Qpx := {}
  cmp : Tbl CmpTable := []
  sep : Sep := {}
  deriving DecidableEq, Repr

/-- The state of the block: the part, and the commands that wait, first in, first out. -/
structure State where
  dev : Dev
  pending : List Instr
  deriving DecidableEq, Repr

/-- The reasons a step can stop with a fault. The part has none: every error of the spec is a status, an event or a poisoned result,
and the part goes on. -/
inductive Fault where
  deriving DecidableEq, Repr

/-- The reasons a step can be refused. -/
inductive Refusal where
  /-- Raised by the dispatch alone, for a row that has no meaning in this model yet. Safe: nothing is claimed of the row. -/
  | notModelled (mnemonic : String)
  deriving DecidableEq, Repr

/-- The part right after reset (R524, R547): every register at its Reset column, every block empty, the power state `start`. -/
def Dev.reset : Dev := {}

/-- The block right after reset: no command waits. -/
def State.reset : State := { dev := Dev.reset, pending := [] }

/-- The outcome of a command. -/
abbrev Out := Host.Outcome State Fault Refusal

end Sys2Proof.Machine
end

