-- ==== Sys2Proof/Machine/Tables.lean ====
section
/-!
DEFINITION. Machine/Tables.lean: sparse tables in canonical form (memory, register contents, the request table and every other
numbered collection of the part are one of these), and the bit and byte helpers of R5.
-/

namespace Sys2Proof

/-! ## Sparse tables -/

/-- The value listed for a key. -/
def Tbl.at? {α : Type} : Tbl α → Nat → Option α
  | [], _ => none
  | (j, v) :: t, k => if j = k then some v else Tbl.at? t k

/-- The table without a key. -/
def Tbl.del {α : Type} : Tbl α → Nat → Tbl α
  | [], _ => []
  | (j, v) :: t, k => if j = k then Tbl.del t k else (j, v) :: Tbl.del t k

/-- The table with a key's value replaced or entered, at its place in the rising order. -/
def Tbl.put {α : Type} : Tbl α → Nat → α → Tbl α
  | [], k, v => [(k, v)]
  | (j, u) :: t, k, v =>
    if k < j then (k, v) :: (j, u) :: t
    else if k = j then (k, v) :: t
    else (j, u) :: Tbl.put t k v

/-- What a key reads as: its listed value, or the default `d` of that key. -/
def Tbl.rd {α : Type} (d : Nat → α) (t : Tbl α) (k : Nat) : α := (Tbl.at? t k).getD (d k)

/-- Writing a key: a value equal to the key's default is not listed. -/
def Tbl.wr {α : Type} [DecidableEq α] (d : Nat → α) (t : Tbl α) (k : Nat) (v : α) : Tbl α :=
  if v = d k then Tbl.del t k else Tbl.put t k v

/-- Rewriting one listed entry in place (nothing where the key is not listed). -/
def Tbl.upd {α : Type} (t : Tbl α) (k : Nat) (f : α → α) : Tbl α :=
  t.map fun p => if p.1 = k then (p.1, f p.2) else p

/-- Rewriting every listed entry; entries that become the default are no longer listed. -/
def Tbl.mapv {α : Type} [DecidableEq α] (d : Nat → α) (f : Nat → α → α) (t : Tbl α) : Tbl α :=
  (t.map fun p => (p.1, f p.1 p.2)).filter fun p => !decide (p.2 = d p.1)

/-- The values listed. -/
def Tbl.vals {α : Type} (t : Tbl α) : List α := t.map Prod.snd

/-- The keys listed. -/
def Tbl.keys {α : Type} (t : Tbl α) : List Nat := t.map Prod.fst

/-- The keys rise strictly. -/
def Tbl.rising {α : Type} : Tbl α → Bool
  | [] => true
  | [_] => true
  | (j, _) :: (k, w) :: t => decide (j < k) && Tbl.rising ((k, w) :: t)

/-- The canonical form: rising keys, and no listed value equal to its default. -/
def Tbl.wf {α : Type} [DecidableEq α] (d : Nat → α) (t : Tbl α) : Bool :=
  Tbl.rising t && t.all fun p => !decide (p.2 = d p.1)

end Sys2Proof

namespace Sys2Proof.Machine

/-! ## Bits of a number -/

/-- Bits [hi:lo] of a number. -/
def bits (x hi lo : Nat) : Nat := x / 2 ^ lo % 2 ^ (hi + 1 - lo)

/-- Bit i of a number. -/
def bit (x i : Nat) : Bool := x / 2 ^ i % 2 == 1

/-- Bit i of a number set. -/
def bitSet (x i : Nat) : Nat := if bit x i then x else x + 2 ^ i

/-- Bit i of a number cleared. -/
def bitClear (x i : Nat) : Nat := if bit x i then x - 2 ^ i else x

/-- How many of the lowest n bits are set. -/
def popCount (x : Nat) : Nat → Nat
  | 0 => 0
  | n + 1 => popCount x n + if bit x n then 1 else 0

/-- Two's complement of w bits read as an integer. -/
def sext (w x : Nat) : Int := if x % 2 ^ w < 2 ^ (w - 1) then (x % 2 ^ w : Nat) else (x % 2 ^ w : Nat) - (2 ^ w : Nat)

/-- An integer as w bits of two's complement. -/
def toTwos (w : Nat) (x : Int) : Nat := (x % (2 ^ w : Nat)).toNat

/-- Division rounding up. -/
def ceilDiv (a b : Nat) : Nat := (a + b - 1) / b

/-! ## Bytes (R5: little-endian) -/

/-- The number a little-endian string of bytes spells. -/
def leNat : Bytes → Nat
  | [] => 0
  | b :: t => b.toNat + 256 * leNat t

/-- n bytes of a number, little-endian. -/
def leBytes : Nat → Nat → Bytes
  | 0, _ => []
  | n + 1, x => BitVec.ofNat 8 x :: leBytes n (x / 256)

/-- The field of `size` bytes at `off` in a structure. -/
def field (r : Bytes) (off size : Nat) : Nat := leNat ((r.drop off).take size)

/-- The bytes [off, off + size) of a structure. -/
def slice (r : Bytes) (off size : Nat) : Bytes := (r.drop off).take size

/-- A structure cut into pieces of `size` bytes, at most `n` of them. -/
def chunks (size : Nat) : Nat → Bytes → List Bytes
  | 0, _ => []
  | n + 1, r => if r.isEmpty then [] else r.take size :: chunks size n (r.drop size)

/-- Every byte is zero. -/
def allZero (r : Bytes) : Bool := r.all (· == 0)

/-! ## Lists -/

/-- The first element that a test accepts is replaced by f of it. -/
def updateFirst {α : Type} (p : α → Bool) (f : α → α) : List α → List α
  | [] => []
  | a :: t => if p a then f a :: t else a :: updateFirst p f t

/-- Insertion into a list kept in an order: before the first element that comes strictly after it. -/
def insertBy {α : Type} (lt : α → α → Bool) (a : α) : List α → List α
  | [] => [a]
  | b :: t => if lt a b then a :: b :: t else b :: insertBy lt a t

/-- A list sorted by insertion; equal elements keep their order. -/
def sortBy {α : Type} (lt : α → α → Bool) (l : List α) : List α := l.foldl (fun acc a => insertBy lt a acc) []

/-- A list with an element entered once (a set kept in order of entry). -/
def addOnce {α : Type} [DecidableEq α] (l : List α) (a : α) : List α := if a ∈ l then l else l ++ [a]

/-- Bits as numbers, lowest first, gathered into a number. -/
def natOfBits : List Bool → Nat
  | [] => 0
  | b :: t => (if b then 1 else 0) + 2 * natOfBits t

/-! ## Checksums -/

/-- One bit step of a reflected CRC with the given reflected polynomial. -/
def crcBit (poly c : Nat) : Nat := if c % 2 = 1 then Nat.xor (c / 2) poly else c / 2

/-- One byte into a reflected CRC. -/
def crcByte (poly c : Nat) (b : Byte) : Nat :=
  (fun x => crcBit poly (crcBit poly (crcBit poly (crcBit poly (crcBit poly (crcBit poly (crcBit poly (crcBit poly x))))))))
    (Nat.xor c b.toNat)

/-- CRC-32C as RFC 3720 defines it: reflected polynomial 0x82F63B78, all-ones start and final inversion. -/
def crc32c (r : Bytes) : Nat := Nat.xor (r.foldl (crcByte 0x82F63B78) 0xFFFFFFFF) 0xFFFFFFFF

end Sys2Proof.Machine
end

