-- ==== Sys2Proof/Machine/Ops.lean ====
section
/-!
DEFINITION. Machine/Ops.lean: the named operations every block uses: register fields (R5 to R10), memory and poison, open values,
what the part puts outside itself, and completion rings (R487, R488).
-/

namespace Sys2Proof.Machine

/-! ## Lifting an effect on the part to the block -/

/-- Whether the part is in service at all: powered, not tripped (R510, R522), and not stopped by a boundary-scan instruction
(R531). -/
def Dev.alive (d : Dev) : Bool := d.pwr.state != .off && d.pwr.state != .trip && !d.tap.stopped

/-- What a byte of memory that nothing has written reads as: zero (DESIGN CHOICE, log entry 3). -/
def memDefault (_ : Nat) : Byte := 0

/-- Whether memory is in its canonical form: addresses rise strictly, and no entry is the byte an unlisted address reads as. -/
def Memory.wf (m : List Host.Cell) : Bool := Tbl.wf memDefault m

/-- Memory in its canonical form: itself where it is canonical; else with each address listed once, in rising order, with what it reads
as. -/
def Dev.tidy (d : Dev) : Dev :=
  if Memory.wf d.mem then d else { d with mem := d.mem.foldr (fun c m => Tbl.wr memDefault m c.1 c.2) [] }

/-- A command whose whole effect is on the part, not on the queue, and that acts in every condition of the part. It leaves memory in
its canonical form. -/
def State.always (s : State) (f : Dev → Dev) : Out := .next { s with dev := (f s.dev).tidy }

/-- A command whose whole effect is on the part; it has none while the part is out of service. -/
def State.onDev (s : State) (f : Dev → Dev) : Out := s.always fun d => if d.alive then f d else d

/-- This device's index, in the DEVICE layout. -/
def Dev.me (d : Dev) : Nat := d.pwr.slotId

/-- The cadence count now (R43). -/
def Dev.now (d : Dev) : Nat := d.cad.count

/-! ## Register fields -/

/-- The Reset column of the register at an offset (0 where no register lies). -/
def regReset (off : Nat) : Word :=
  match (regBlock off).find? (·.off == off) with
  | none => 0
  | some r => BitVec.ofNat 64 (r.fields.foldl (fun a f => a + f.reset * 2 ^ f.lo) 0)

/-- The register at an offset, as stored. -/
def Dev.reg (d : Dev) (off : Nat) : Word := Tbl.rd regReset d.regs off

/-- Writing a register, as stored. -/
def Dev.setReg (d : Dev) (off : Nat) (v : Word) : Dev := { d with regs := Tbl.wr regReset d.regs off v }

/-- A field's value. -/
def Dev.fld (d : Dev) (f : Fld) : Nat := bits (d.reg f.off).toNat (f.lo + f.width - 1) f.lo

/-- A word with one field replaced (the value taken modulo the field's width). -/
def Fld.put (f : Fld) (w : Word) (v : Nat) : Word :=
  BitVec.ofNat 64 (w.toNat - bits w.toNat (f.lo + f.width - 1) f.lo * 2 ^ f.lo + v % 2 ^ f.width * 2 ^ f.lo)

/-- Setting a field. -/
def Dev.setFld (d : Dev) (f : Fld) (v : Nat) : Dev := d.setReg f.off (f.put (d.reg f.off) v)

/-- A one-bit field as a truth value. -/
def Dev.flag (d : Dev) (f : Fld) : Bool := d.fld f == 1

/-- Counting n into a field that saturates. -/
def Dev.count (d : Dev) (f : Fld) (n : Nat := 1) : Dev := d.setFld f (min (d.fld f + n) (2 ^ f.width - 1))

/-- Raising a field to a larger value (a MAX field). -/
def Dev.raiseTo (d : Dev) (f : Fld) (v : Nat) : Dev := d.setFld f (max (d.fld f) (min v (2 ^ f.width - 1)))

/-- Adding to a 64-bit total (R70 SUM, and the byte totals): modulo the field's width. -/
def Dev.total (d : Dev) (f : Fld) (n : Nat) : Dev := d.setFld f (d.fld f + n)

/-! ## Memory, poison, open values, outputs -/

/-- Reading one byte. -/
def Dev.byte (d : Dev) (a : Nat) : Byte := Tbl.rd memDefault d.mem a

/-- Writing one byte. -/
def Dev.setByte (d : Dev) (a : Nat) (b : Byte) : Dev := { d with mem := Tbl.wr memDefault d.mem a b }

/-- Reading n bytes, lowest address first. -/
def Dev.load (d : Dev) (a : Nat) : Nat → Bytes
  | 0 => []
  | n + 1 => d.byte a :: d.load (a + 1) n

/-- Writing bytes, lowest address first (R5). -/
def Dev.store (d : Dev) (a : Nat) : Bytes → Dev
  | [] => d
  | b :: t => (d.setByte a b).store (a + 1) t

/-- The memories of the model, one range of keys each: an address is a space number times 2^64 plus the offset. 0: scratchpads (core * 2^21
+ offset); 1: HBM (channel group * 32 GiB + offset); 2: yard grants (paddock * 2^29 + offset); 3: flash data (4,096 * PPA + offset); 4: the
unified range. -/
def memKey (space a : Nat) : Nat := space * 2 ^ 64 + a

/-- Marking the 64-byte lines of a range poisoned or clean (R127). -/
def Dev.setPoison (d : Dev) (a n : Nat) (p : Bool) : Dev :=
  let lines := (List.range (ceilDiv (a % 64 + n) 64)).map (a / 64 + ·)
  if p then { d with poison := sortBy (· < ·) (d.poison.filter (fun l => !lines.contains l) ++ lines) }
  else { d with poison := d.poison.filter fun l => !lines.contains l }

/-- Whether any line of a range is poisoned. -/
def Dev.poisoned (d : Dev) (a n : Nat) : Bool :=
  d.poison.any fun l => decide (a / 64 ≤ l) && decide (l * 64 < a + n)

/-- Drawing the next open value: its index, for the opaque constants of Config. -/
def Dev.draw (d : Dev) : Nat × Dev := (d.fresh, { d with fresh := d.fresh + 1 })

/-- Whether a write goes to host memory, and so is held behind a failed one (R492). -/
def Put.toHost : Put → Bool
  | .cpl .. | .cplProd .. | .cmdCons .. | .owner .. | .hostWrite .. | .msix .. => true
  | _ => false

/-- Putting something outside the part. While a write to host memory fails, everything ordered behind it is held (R492). -/
def Dev.put (d : Dev) (p : Put) : Dev :=
  if d.hif.dmaFail && p.toHost then { d with hif.heldWrites := d.hif.heldWrites ++ [p] }
  else { d with out := d.out ++ [p] }

/-- Sending a message to a device. -/
def Dev.send (d : Dev) (k : MsgKind) (dst : Nat) (args : List Nat) (data : Bytes := []) : Dev :=
  d.put (.msg k dst args data)

/-! ## Completion rings (R487, R488, R496) -/

/-- A command ring (one never configured is disabled). -/
def Dev.cmdRing (d : Dev) (r : Nat) : CmdRing := Tbl.rd (fun _ => {}) d.hif.cmd r

/-- Changing a command ring. -/
def Dev.setCmdRing (d : Dev) (r : Nat) (c : CmdRing) : Dev :=
  { d with hif.cmd := Tbl.wr (fun _ => {}) d.hif.cmd r c }

/-- A completion ring. -/
def Dev.cplRing (d : Dev) (r : Nat) : CplRing := Tbl.rd (fun _ => {}) d.hif.cpl r

/-- Changing a completion ring. -/
def Dev.setCplRing (d : Dev) (r : Nat) (c : CplRing) : Dev :=
  { d with hif.cpl := Tbl.wr (fun _ => {}) d.hif.cpl r c }

/-- Whether a completion ring has room (R480, R488): indices are 32-bit free-running counts. -/
def CplRing.room (c : CplRing) : Bool := decide ((c.prod + 2 ^ 32 - c.cons) % 2 ^ 32 < 2 ^ c.log2)

/-- Removing the first outstanding command equal to a given one. -/
def Dev.retireCmd (d : Dev) (o : Option CmdRef) : Dev :=
  match o with
  | none => d
  | some r => { d with hif.outstanding := d.hif.outstanding.erase r }

/-- Writing a completion into a ring that has room, then the ring's producer index (R488); R496's count grows. -/
def Dev.landCpl (d : Dev) (ring : Nat) (c : Cpl) (o : Option CmdRef) : Dev :=
  let q := d.cplRing ring
  let q' := { q with prod := (q.prod + 1) % 2 ^ 32
                     unsignalled := q.unsignalled + 1
                     oldest := if q.unsignalled = 0 then d.now else q.oldest }
  (((d.setCplRing ring q').put (.cpl ring (q.prod % 2 ^ q.log2) c)).put (.cplProd ring q'.prod)).retireCmd o

end Sys2Proof.Machine
end

