-- ==== Sys2Proof/Machine/Flags.lean ====
section
/-!
DEFINITION. Machine/Flags.lean: the event bits, fault events and scores of the health monitor (spec/16_health_faults_tandem.md R441 to
R449), and the completions that report them (R487, R488).
-/

namespace Sys2Proof.Machine

/-! ## Health and fault events (R441 to R449) -/

/-- The key of a part of the health monitor. -/
def partKey (kind index : Nat) : Nat := kind * 1024 + index

/-- A part as the monitor holds it. -/
def Dev.part (d : Dev) (kind index : Nat) : PartHealth := Tbl.rd (fun _ => {}) d.hlt.parts (partKey kind index)

/-- Changing a part. -/
def Dev.setPart (d : Dev) (kind index : Nat) (p : PartHealth) : Dev :=
  { d with hlt.parts := Tbl.wr (fun _ => {}) d.hlt.parts (partKey kind index) p }

/-- A part's own score (R443). -/
def PartHealth.own (p : PartHealth) : Nat := min 1023 (p.acc / 64)

/-- The largest of some scores. -/
def maxOf (l : List Nat) : Nat := l.foldl max 0

/-- A part's score after roll-up (R444): lanes into ports by 1, cores into dies by 2, ports into the device by 2, dies and stacks
into it by 0 and flash targets by 3. -/
def Dev.score (d : Dev) (kind index : Nat) : Nat :=
  let port := fun p => max (d.part 4 p).own (maxOf ((List.range 8).map fun l => (d.part 5 (8 * p + l)).own / 2))
  let die := fun e => max (d.part 1 e).own
    (if e < 4 then maxOf ((List.range 136).map fun c => (d.part 2 (136 * e + c)).own / 4) else 0)
  match kind with
  | 0 => maxOf ([(d.part 0 0).own]
      ++ (List.range 5).map die
      ++ (List.range 16).map (fun p => port p / 4)
      ++ (List.range 8).map (fun k => (d.part 3 k).own)
      ++ (List.range 256).map (fun t => (d.part 6 t).own / 8))
  | 1 => die index
  | 4 => port index
  | k => (d.part k index).own

/-- Writing the fault events that wait, in SEQ order, while the event ring is enabled and has room (R446, R447). -/
def Dev.drainEvents (d : Dev) : List Cpl → Dev
  | [] => { d with hlt.events := [] }
  | e :: t =>
    let r := d.fld F.HLT_CTRL_EVT_RING
    if d.flag F.HLT_CTRL_EVT_EN && (d.cplRing r).en && (d.cplRing r).waiting.isEmpty && (d.cplRing r).room then
      (d.landCpl r e none).drainEvents t
    else { d with hlt.events := e :: t }

/-- Recording a fault event (R446): its bit is set in its block's event register; the debug trigger of R533 is tested; the record
joins the events not yet written, or is counted as lost when 1,024 wait (R447), when events are not written at all, or when it is
a host-interface event while the host link is down (R500). -/
def Dev.event (d : Dev) (e : Evt) (kind index detail : Nat) (subject : Option Nat) (lost : Bool) : Dev :=
  let d := if e.bit.width = 0 then d else d.setFld e.bit 1
  let d := if d.flag F.DBG_TRIG_ARM && d.fld F.DBG_TRIG_CODE == e.code then
      (((d.setFld F.DBG_TRIG_ARM 0).setFld F.DBG_TRIG_FIRED 1).setFld F.DBG_TRIG_BEAT_BEAT d.now) else d
  let d := { d with hlt.lastCode := e.code, hlt.seq := (d.hlt.seq + 1) % 2 ^ 32 }
  if lost || !d.flag F.HLT_CTRL_EVT_EN || d.hlt.events.length ≥ 1024 then d.count F.HLT_EVT_LOST_LOST
  else
    let c := Cpl.fault e.code d.hlt.seq (subject.getD d.pwr.slotId) kind index (d.score kind index) d.now detail
    d.drainEvents (d.hlt.events ++ [c])

/-- Raising a fault event of this device. -/
def Dev.raise (d : Dev) (e : Evt) (kind : Nat := 0) (index : Nat := 0) (detail : Nat := 0)
    (subject : Option Nat := none) : Dev := d.event e kind index detail subject false

/-- A fault event that has no bit in an event register. -/
def plainEvt (code : Nat) : Evt := ⟨code, ⟨0, 0, 0⟩⟩

/-- Raising an event at most once per 2^20 beats: whether it may be raised again, given the beat it was last raised. -/
def rateOk (last : Option Nat) (now : Nat) : Bool :=
  match last with
  | none => true
  | some b => decide (b + 2 ^ 20 ≤ now)

/-- Raising `HLT_WARN` and `HLT_REPLACE` for one part as its score crosses, and arming them again below the threshold less 64
(R445); the device score at REPLACE asks for replacement (R448). -/
def Dev.crossings (d : Dev) (kind index : Nat) : Dev :=
  let s := d.score kind index
  let warn := d.fld F.HLT_THRESH_WARN
  let repl := d.fld F.HLT_THRESH_REPLACE
  let p := d.part kind index
  let fireW := p.warnArmed && decide (warn ≤ s)
  let fireR := p.replaceArmed && decide (repl ≤ s)
  let p := { p with warnArmed := if fireW then false else p.warnArmed || decide (s + 64 < warn)
                    replaceArmed := if fireR then false else p.replaceArmed || decide (s + 64 < repl) }
  let d := d.setPart kind index p
  let d := if fireW then d.raise E.HLT_WARN kind index else d
  let d := if fireR then d.raise E.HLT_REPLACE kind index else d
  if kind = 0 && decide (repl ≤ s) && !d.hlt.askReplace then
    ({ d with hlt.askReplace := true }).put (.pin .askReplace true)
  else d

/-- The parts that contain a part, and the part itself, innermost first (R444). -/
def containers (kind index : Nat) : List (Nat × Nat) :=
  match kind with
  | 0 => [(0, 0)]
  | 2 => [(2, index), (1, index / 136), (0, 0)]
  | 5 => [(5, index), (4, index / 8), (0, 0)]
  | k => [(k, index), (0, 0)]

/-- The classes of R442. -/
inductive HltClass where
  | ce | retry | retrain | ue | mismatch | fail
  deriving DecidableEq, Repr

/-- The weight a class adds (R443). -/
def Dev.weight (d : Dev) : HltClass → Nat
  | .ce => d.fld F.HLT_WEIGHT_W_CE
  | .retry => d.fld F.HLT_WEIGHT_W_RETRY
  | .retrain => d.fld F.HLT_WEIGHT_W_RETRAIN
  | .ue => d.fld F.HLT_WEIGHT_W_UE
  | .mismatch => d.fld F.HLT_WEIGHT2_W_MISMATCH
  | .fail => 0

/-- A device's entry. -/
def CompMap.entry (m : CompMap) (dev : Nat) : Option DevEntry := m.devices.find? (·.device == dev)

/-- A device's role: none when it is absent (R27). -/
def CompMap.roleOf (m : CompMap) (dev : Nat) : Nat :=
  match m.entry dev with
  | some e => e.role
  | none => 0

/-- The current map as it was staged (R460). -/
def Comp.asStaged (c : Comp) : CompMap := c.staged.getD c.cur

/-- A load on this spare ends without a cutover (R459): the copy is discarded, and the spare gives the place back. -/
def Dev.dropLoad (d : Dev) (keepAlias : Bool) : Dev :=
  if d.hlt.spare != .loading then d
  else
    let dev := d.hlt.spareFor.getD 0
    { d with comp.cur := d.comp.asStaged, comp.staged := none, comp.role := d.comp.asStaged.roleOf d.me
             comp.roleEpoch := Tbl.rd (fun _ => 0) d.comp.epochs d.me
             hlt.spare := .unready, hlt.spareFor := none, hlt.spareSrc := none, hlt.aliases := if keepAlias then d.hlt.aliases else Tbl.del d.hlt.aliases dev
             hlt.loads := d.hlt.loads.filter fun (x : Nat × Nat) => x.2 != d.me }

/-- What a spare's score or a failed part does to its state (R459). -/
def Dev.spareCheck (d : Dev) : Dev :=
  let bad := decide (d.fld F.HLT_THRESH_WARN ≤ d.score 0 0)
  match d.hlt.spare with
  | .ready => if bad || !d.flag F.HLT_CTRL_SPARE_EN then { d with hlt.spare := .unready } else d
  | .loading => if bad || d.hlt.parts.any (fun (x : Nat × PartHealth) => x.2.failed) then d.dropLoad false else d
  | _ => d

/-- Counting one error against one part (R442, R443), with the crossings it causes (R445). -/
def Dev.charge (d : Dev) (c : HltClass) (kind index : Nat) : Dev :=
  let p := d.part kind index
  let sat := fun x => min (x + 1) 0xFFFF
  let acc := min (p.acc + d.weight c) 0xFFFFFF
  let p := match c with
    | .ce => { p with acc, ce := sat p.ce }
    | .retry => { p with acc, retry := sat p.retry }
    | .retrain => { p with acc, retrain := sat p.retrain }
    | .ue => { p with acc, ue := sat p.ue }
    | .mismatch => { p with acc }
    | .fail => { p with failed := true, acc := max p.acc (d.fld F.HLT_THRESH_REPLACE * 64) }
  ((containers kind index).foldl (fun (d : Dev) k => d.crossings k.1 k.2) ({ d.setPart kind index p with hlt.errs := d.hlt.errs + 1 })).spareCheck

/-! ## Writing completions -/

/-- Whether a completion belongs to a command (kinds 0 and 1), and so is dropped while its ring is disabled (R498). -/
def Cpl.ofCommand : Cpl → Bool
  | .command .. => true
  | .stall k .. => k == 1
  | _ => false

/-- Writing a completion to a ring (R487, R488): at once where the ring is enabled and has room and nothing waits before it; else
it waits, and a full ring raises HIF_CPL_FULL at most once per 2^20 beats. Command completions of a disabled ring are dropped
and counted (R498). -/
def Dev.complete (d : Dev) (ring : Nat) (c : Cpl) (o : Option CmdRef) : Dev :=
  let q := d.cplRing ring
  if q.en && q.waiting.isEmpty && q.room then d.landCpl ring c o
  else if !q.en && c.ofCommand then (d.count F.HIF_DROP_CNT_DROPPED).retireCmd o
  else
    let full := q.en && rateOk q.lastFull d.now
    let d := d.setCplRing ring { q with waiting := q.waiting ++ [(c, o)]
                                        lastFull := if full then some d.now else q.lastFull }
    if full then d.raise E.HIF_CPL_FULL 0 0 ring else d

/-- Writing the completions that wait on a ring while it has room. -/
def Dev.drainCpl (d : Dev) (ring : Nat) : List (Cpl × Option CmdRef) → Dev
  | [] => d.setCplRing ring { d.cplRing ring with waiting := [] }
  | (c, o) :: t =>
    if (d.cplRing ring).room then (d.landCpl ring c o).drainCpl ring t
    else d.setCplRing ring { d.cplRing ring with waiting := (c, o) :: t }

end Sys2Proof.Machine
end

