-- ==== Sys2Proof/Machine/Operands.lean ====
section
/-!
DEFINITION. Machine/Operands.lean: the operands of host commands, the checks of R484 on them, and the one operation that takes a host
command (spec/17_host_interface.md R482 to R485).
-/

namespace Sys2Proof.Machine

/-! ## Host commands (R482 to R485) -/

/-- What a command's own chapter answers: it completes now with a status and completion data, or it stays outstanding. -/
inductive CmdRes where
  | done (status : Nat) (data : Bytes)
  | wait
  deriving DecidableEq, Repr

/-- Success without data, and refusal with a code. -/
def CmdRes.ok : CmdRes := .done C.OK []

/-- The command as an outstanding one. -/
def cmdRef (c : HostCmd) : CmdRef := { ring := c.ring, opcode := c.opcode, tag := c.tag, quiet := bit c.cflags 1 }

/-- Completing a command (R484, R487): on the default completion ring of the ring that carried it; nothing is written on success
under QUIET. -/
def Dev.completeCmd (d : Dev) (r : CmdRef) (status : Nat) (data : Bytes) : Dev :=
  if r.quiet && status / 256 == 0 then d.retireCmd (some r)
  else d.complete (d.cmdRing r.ring).cpl (.command status r.tag r.opcode r.ring (data ++ List.replicate (24 - data.length) 0))
    (some r)

/-- Whether a ring has a command the part may take now (R485): enabled, its consumer index behind its producer index, and not held
by a fence whose earlier commands are outstanding. -/
def Dev.ringReady (d : Dev) (r : Nat) : Bool :=
  let q := d.cmdRing r
  q.en && q.prod != q.cons && !(q.fenced && d.hif.outstanding.any (·.ring == r))

/-- The ring the part takes from next (R485): ring 0 first, then ascending round robin, 16 commands per ring per turn. -/
def Dev.nextRing (d : Dev) : Option Nat :=
  if d.ringReady 0 then some 0
  else
    let t := d.hif.turnRing
    if t != 0 && d.hif.turnCount < 16 && d.ringReady t then some t
    else
      let rs := (Tbl.keys d.hif.cmd).filter fun r => r != 0 && d.ringReady r
      match rs.find? (fun r => decide (t < r)) with
      | some r => some r
      | none => rs.head?

/-- Whether the part consumes commands at all (R485, R520, R521): in `run` or `idle`, with fewer than 65,536 outstanding. -/
def Dev.consuming (d : Dev) : Bool :=
  (d.pwr.state == .run || d.pwr.state == .idle) && d.flag F.HIF_CTRL_EN && d.hif.outstanding.length < 65536

/-- Consuming n entries of a ring as one command (R485, R489): the consumer index advances and is written, the commands are
counted, and the command becomes outstanding. -/
def Dev.consume (d : Dev) (r : CmdRef) (n : Nat) : Dev :=
  let q := d.cmdRing r.ring
  let cons := (q.cons + n) % 2 ^ 32
  let d := d.setCmdRing r.ring { q with cons := cons, fenced := false }
  let turn := if r.ring = d.hif.turnRing then d.hif.turnCount + n else n
  let d := { d with hif.outstanding := d.hif.outstanding ++ [r]
                    hif.turnRing := if r.ring = 0 then d.hif.turnRing else r.ring
                    hif.turnCount := if r.ring = 0 then d.hif.turnCount else turn }
  (d.put (.cmdCons r.ring cons)).count F.HIF_CMD_CNT_CONSUMED n

/-- Whether an opcode is listed in R483. -/
def opcodeListed (o : Nat) : Bool :=
  [0x01, 0x02, 0x03, 0x10, 0x11, 0x12, 0x13, 0x14, 0x15, 0x16, 0x17, 0x18, 0x20, 0x21, 0x22, 0x30, 0x31, 0x32, 0x33, 0x34,
   0x38, 0x39, 0x3A, 0x3C, 0x40, 0x41, 0x42, 0x43, 0x48, 0x49, 0x4A, 0x4B, 0x4C, 0x4D, 0x50, 0x51, 0x52].contains o

/-- What R483 says of a command: whether any enabled ring may issue it, whether the reserved bits of its arguments are zero,
whether HLEN is the size or multiple it gives, and the further denial R484 check 3 knows for STL commands. -/
structure CmdSpec where
  shared : Bool := false
  rsvOk : HostCmd → Bool := fun _ => true
  lenOk : HostCmd → Bool := fun c => c.hlen == 0
  denied : Dev → HostCmd → Bool := fun _ _ => false

/-- The arguments a command uses, as masks: every other bit of its arguments is zero, and so is HADDR where it has no record or ring
(R482: unused arguments must be zero; DEDUCED, log entry 16: a violation is R484 check 4). -/
def argMask (rec : Bool) (m0 m1 m2 m3 : Nat) (c : HostCmd) : Bool :=
  (rec || c.haddr == 0) && Nat.lor c.a0 m0 == m0 && Nat.lor c.a1 m1 == m1 && Nat.lor c.a2 m2 == m2 && Nat.lor c.a3 m3 == m3

/-- A command whose record has one length, with its argument masks. -/
def recSpec (len m0 m1 : Nat) : CmdSpec := { rsvOk := argMask true m0 m1 0 0, lenOk := fun c => c.hlen == len }

/-- A command without a record, with its argument masks. -/
def argSpec (m0 m1 m2 : Nat) : CmdSpec := { rsvOk := argMask false m0 m1 m2 0 }

/-- The first failing check of R484, in its order. -/
def check484 (k : CmdSpec) (c : HostCmd) (d : Dev) : Option Nat :=
  if !opcodeListed c.opcode then some (if c.opcode < 0x10 then C.STL_BAD_OPCODE else C.HIF_OPCODE)
  else if c.tag == 0xFFFF then some C.HIF_TAG
  else if !(k.shared || (d.cmdRing c.ring).admin) || (!(d.cmdRing c.ring).admin && k.denied d c) then some C.HIF_DENIED
  else if c.rsv4 != 0 || c.rsv48 != 0 || decide (4 ≤ c.cflags) || !k.rsvOk c then some C.HIF_RESERVED
  else if !k.lenOk c then some C.HIF_LEN
  else if !c.readOk then some C.HIF_HOST_READ
  else none

/-- Recording a command that R484 refused (R484, HIF_LAST_ERR), and completing it even under QUIET. -/
def Dev.refuseCmd (d : Dev) (c : HostCmd) (status : Nat) : Dev :=
  let d := d.count F.HIF_CMD_CNT_REFUSED
  let d := ((d.setFld F.HIF_LAST_ERR_STATUS status).setFld F.HIF_LAST_ERR_RING c.ring).setFld F.HIF_LAST_ERR_INDEX
    (((d.cmdRing c.ring).cons + 2 ^ 32 - 1) % 2 ^ 32)
  d.completeCmd (cmdRef c) status []

/-- Refusing the gathered items of a request cut short on a ring (R486): one kind-1 completion with STL_SEQ. -/
def Dev.refusePartial (d : Dev) (ring : Nat) : Dev :=
  match Tbl.at? d.hif.partials ring with
  | none => d
  | some p =>
    let it := p.items.headD []
    let r : CmdRef := { ring := ring, opcode := field it 0 1, tag := field it 2 2, quiet := false }
    let d := { d with hif.partials := Tbl.del d.hif.partials ring }
    let d := (d.setFld F.INTK_EVT_REFUSED 1).count F.INTK_REFUSE_CNT_MALFORMED
    d.complete (d.cmdRing ring).cpl (.stall 1 C.STL_SEQ r.tag r.opcode ring 0xFFFFFFFF 0 0 0 0 0) (some r)

/-- A host command consumed: checked by R484 and then by its own chapter's `body`; its completion is written or it stays outstanding. A
command behind an unfinished intake request ends that request (R486). -/
def Dev.takeCmd (d : Dev) (k : CmdSpec) (c : HostCmd) (body : Dev → Dev × CmdRes) : Dev :=
  let d := (d.refusePartial c.ring).consume (cmdRef c) 1
  match check484 k c d with
  | some st => d.refuseCmd c st
  | none =>
    match body d with
    | (d, .done st data) => d.completeCmd (cmdRef c) st data
    | (d, .wait) => d

/-- Taking a host command: it is not taken where it is not its ring's turn (nothing happens), and a fenced one waits for every
earlier command of its ring (R482); otherwise it is taken. -/
def Dev.hostCmd (d : Dev) (k : CmdSpec) (c : HostCmd) (body : Dev → Dev × CmdRes) : Dev :=
  if !(d.consuming && d.nextRing == some c.ring) then d
  else if bit c.cflags 0 && d.hif.outstanding.any (·.ring == c.ring) then
    d.setCmdRing c.ring { d.cmdRing c.ring with fenced := true }
  else d.takeCmd k c body

end Sys2Proof.Machine
end

