-- ==== Sys2Proof/Machine/Registers.lean ====
section
/-!
DEFINITION. Machine/Registers.lean: storing a written register value field by field, by the access codes of R10, the locks of
R537 and the values a field reads as when written out of range.
-/

namespace Sys2Proof.Machine

/-- What a field holds after a value is written into it, given the whole written word (R10, and the field's Meaning column). -/
def FieldSpec.norm1 (f : FieldSpec) (word v : Nat) : Nat :=
  match f.norm with
  | .any => v
  | .range lo hi o => if lo ≤ v && v ≤ hi then v else o
  | .above lo w => if v ≤ bits word (lo + w - 1) lo then bits word (lo + w - 1) lo + 1 else v
  | .below lo w => if bits word (lo + w - 1) lo ≤ v then bits word (lo + w - 1) lo - 1 else v
  | .atLeast lo w => max v (bits word (lo + w - 1) lo)

/-- The field's value after a write of a word to its register, from its value before (R10); a field whose enable bit is set keeps
its value (R537). -/
def FieldSpec.written (f : FieldSpec) (locked : Bool) (old word : Nat) : Nat :=
  let v := bits word (f.lo + f.width - 1) f.lo
  let o := bits old (f.lo + f.width - 1) f.lo
  match f.acc with
  | .ro => o
  | .rc => o
  | .wo => o
  | .rw => if locked then o else f.norm1 word v % 2 ^ f.width
  | .w1c => natOfBits ((List.range f.width).map fun i => bit o i && !bit v i)
  | .w1s => natOfBits ((List.range f.width).map fun i => bit o i || bit v i)

/-- The register map entry at an offset. -/
def regAt (off : Nat) : Option RegSpec := (regBlock off).find? (·.off == off)

/-- Whether the enable bit that locks a field is set (R537). -/
def Dev.locked (d : Dev) (f : FieldSpec) : Bool :=
  match f.lock with
  | none => false
  | some o => bit (d.reg o).toNat 0

/-- Counting an access in GLB_ACC_ERR and recording it in GLB_ACC_LAST: kind 0 narrow or unaligned, 1 unmapped, 2 locked (R6, R536,
R537). -/
def Dev.accErr (d : Dev) (kind off : Nat) (write : Bool) : Dev :=
  let f := if kind = 0 then F.GLB_ACC_ERR_NARROW else if kind = 1 then F.GLB_ACC_ERR_UNMAPPED else F.GLB_ACC_ERR_LOCKED
  (((d.count f).setFld F.GLB_ACC_LAST_OFFSET off).setFld F.GLB_ACC_LAST_WRITE (if write then 1 else 0)).setFld
    F.GLB_ACC_LAST_KIND kind

/-- Storing a written word into the fields of a register whose access code is picked; the others keep their values. The truth
value says whether a lock kept a field from changing (R537). -/
def Dev.storeReg (d : Dev) (r : RegSpec) (word : Nat) (pick : Acc → Bool) : Bool × Dev :=
  let old := (d.reg r.off).toNat
  let kept := r.fields.any fun f => d.locked f && f.acc == .rw && pick f.acc &&
    bits word (f.lo + f.width - 1) f.lo != bits old (f.lo + f.width - 1) f.lo
  let keep := fun (f : FieldSpec) => bits old (f.lo + f.width - 1) f.lo
  let new := r.fields.foldl (fun a f => a + (if pick f.acc then f.written (d.locked f) old word else keep f) * 2 ^ f.lo) 0
  (kept, d.setReg r.off (BitVec.ofNat 64 new))

/-- Clearing the RC fields a register stores (R10). -/
def Dev.clearRc (d : Dev) (r : RegSpec) : Dev :=
  r.fields.foldl (fun (d : Dev) f => if f.acc == .rc then d.setFld ⟨r.off, f.lo, f.width⟩ 0 else d) d

end Sys2Proof.Machine
end

