-- ==== Sys2Proof/Machine/Cadence.lean ====
section
/-! DEFINITION. Machine/Cadence.lean: the cadence count, its state machine and the determinism mode
(spec/02_cadence_and_determinism.md). -/

namespace Sys2Proof.Machine

/-- Whether the count has been acquired since reset: until then it reads zero and does not advance, and no beat-driven function runs
(R43). -/
def Dev.counting (d : Dev) : Bool := d.cad.state != .unset && d.cad.state != .acquire

/-- One beat passes: the count advances by one, unless it has not been acquired (R43) or this increment is omitted (R50). -/
def beat (d : Dev) : Dev :=
  if !d.counting then d
  else if d.cad.skip then { d with cad.skip := false }
  else { d with cad.count := (d.cad.count + 1) % 2 ^ 64 }

/-! ## Offsets and corrections (R42, R50) -/

/-- The offset of a pulse, in beats: the nearest boundary of 2^20 beats less the local count (R42, R50). -/
def pulseOffset (count : Nat) : Int :=
  let l : Nat := count % 2 ^ 20
  if l ≤ 2 ^ 19 then - Int.ofNat l else Int.ofNat (2 ^ 20 - l)

/-- An offset in 1/16 beat as CAD_STATE.OFFSET holds it: saturating at plus and minus 32,767. -/
def satOffset (o : Int) : Int := max (-32767) (min 32767 o)

/-- The ports' compensated differences after the local count has moved by a number of beats against its own clock. -/
def Dev.shiftNbrs (d : Dev) (by_ : Int) : Dev :=
  { d with cad.nbrs := d.cad.nbrs.map fun p => (p.1, { p.2 with diff16 := p.2.diff16 - 16 * by_ }) }

/-- The ports' differences after the count has been set: none is known until the next field, so none asks for a correction. -/
def Dev.rebaseNbrs (d : Dev) : Dev := { d with cad.nbrs := d.cad.nbrs.map fun p => (p.1, { p.2 with diff16 := 0 }) }

/-- Correcting the count by R50: a step forward at once above +2 beats; otherwise the offset is left to SLEW_CORRECTION, one
increment per 2^12 beats within 2 beats and one per 256 below. A new measurement does not put off a correction already due. -/
def Dev.correct (d : Dev) (off : Int) : Dev :=
  if 2 < off then
    { d.shiftNbrs off with cad.count := (d.cad.count + off.toNat) % 2 ^ 64, cad.slew := 0, cad.skip := false }
  else
    let due := d.cad.count + if off < -2 then 256 else 4096
    { d with cad.slew := off, cad.nextSlew := if d.cad.slew = 0 then due else min due d.cad.nextSlew }

/-- Recording a measured offset, in 1/16 beat. -/
def Dev.measured (d : Dev) (off16 : Int) : Dev := { d with cad.offset16 := satOffset off16 }

/-! ## Sources (R46 to R48) -/

/-- The usable port R48 chooses: lowest stratum, then lowest port number. -/
def Dev.source (d : Dev) : Option (Nat × NbrCad) :=
  (d.cad.nbrs.filter (·.2.usable)).foldl (fun best p =>
    match best with
    | none => some p
    | some b => if p.2.stratum < b.2.stratum then some p else some b) none

/-- A compensated difference in 1/16 beat as whole beats, rounded to the nearest (halves upward). -/
def wholeBeats (x : Int) : Int := (x + 8) / 16

/-- Following a source: its port and the stratum after it (R48), and the correction of its offset (R50). -/
def Dev.followSource (d : Dev) (p : Nat × NbrCad) : Dev :=
  let d := { d with cad.state := .follow, cad.srcPort := p.1, cad.stratum := p.2.stratum + 1, cad.noSrc := none }
  (d.measured p.2.diff16).correct (wholeBeats p.2.diff16)

/-- A device in `follow` with no usable neighbour left (R48, R49): it reports stratum 15, corrects nothing, and the wait of
FOLLOW_TIMEOUT runs. -/
def Dev.sourceless (d : Dev) : Dev :=
  { d with cad.stratum := 15, cad.srcPort := 0, cad.slew := 0, cad.noSrc := some (d.cad.noSrc.getD d.now) }

/-- A neighbour's cadence field arrives on a port (R46 to R49, R52). `value16` is the neighbour's count in 1/16 beat with the one-way
link delay added. -/
def Dev.cadField (d : Dev) (port : Nat) (value16 : Nat) (stratum : Nat) : Dev :=
  let usable := decide (stratum ≤ 3) && d.flag F.CAD_CTRL_ACCEPT_FLIT
  let diff : Int := (value16 : Int) - 16 * (d.cad.count : Int)
  let n : NbrCad := { usable := usable, stratum := stratum, diff16 := diff, heard := d.now }
  let d := { d with cad.nbrs := Tbl.wr (fun _ => {}) d.cad.nbrs port n }
  match d.cad.state with
  | .unset =>
    if usable && !d.cad.ref then
      Dev.rebaseNbrs { d with cad.state := .follow, cad.count := (value16 + 8) / 16 % 2 ^ 64, cad.stratum := stratum + 1,
                              cad.srcPort := port, cad.noSrc := none, cad.acquiredFrom := true }
    else d
  | .acquire =>
    if usable then
      Dev.rebaseNbrs { d with cad.state := .refonly, cad.count := (value16 + 8) / 16 % 2 ^ 64, cad.stratum := stratum + 1,
                              cad.srcPort := port, cad.arm := false, cad.acquiredFrom := true }
    else d
  | .follow =>
    match d.source with
    | some p => if p.1 = port || d.cad.srcPort = port then d.followSource p else d
    | none => d.sourceless
  | .holdover =>
    match d.source with
    | some p => d.followSource p
    | none => d
  | .locked =>
    if stratum = 0 && (decide (32 < diff) || decide (diff < -32)) then d.raise E.CAD_FLIT_MISMATCH else d
  | _ => d

/-- A port no longer delivers a field (it went down): in `follow`, losing the source means another usable neighbour is taken, or the
wait of FOLLOW_TIMEOUT begins (R48, R49). -/
def Dev.cadPortLost (d : Dev) (port : Nat) : Dev :=
  let d := { d with cad.nbrs := Tbl.del d.cad.nbrs port }
  if d.cad.state == .follow && d.cad.srcPort == port then
    match d.source with
    | some p => d.followSource p
    | none => d.sourceless
  else d

/-! ## Events (R49) -/

/-- A pulse more than 2 beats from the boundary, in `locked` or `refonly` (R49): the second in a row with the same offset steps or
slews; in `locked` a second one that does not agree counts as the second absent pulse; otherwise it is a glitch. -/
def Dev.farPulse (d : Dev) (off : Int) : Dev :=
  if d.cad.glitch == some off then
    let d := { d with cad.glitch := none, cad.absent := 0, cad.stratum := 0, cad.srcPort := 0, cad.acquiredFrom := false
                      cad.state := (if 2 < off then CadState.locked else CadState.slew) }
    (d.correct off).raise E.CAD_STEP
  else if d.cad.state == .locked && decide (1 ≤ d.cad.absent) then
    ({ d with cad.state := .refonly, cad.stratum := 1, cad.absent := 0, cad.glitch := some off }).raise E.CAD_SYNC_LOSS
  else
    ({ d with cad.glitch := some off, cad.absent := if d.cad.state == CadState.locked then d.cad.absent + 1 else 0 }).raise E.CAD_GLITCH

/-- EVG_SYNC_PULSE (R42, R49). -/
def execEvgSyncPulse (s : State) : Out :=
  s.onDev fun d =>
    let off := pulseOffset d.cad.count
    match d.cad.state with
    | .acquire =>
      if d.cad.arm then
        Dev.rebaseNbrs { d with cad.state := .locked, cad.count := d.fld F.CAD_LOAD_HI * 2 ^ 20, cad.arm := false, cad.stratum := 0,
                                cad.absent := 0, cad.glitch := none, cad.srcPort := 0 }
      else d
    | .locked | .refonly =>
      let d := d.measured (16 * off)
      if -2 ≤ off ∧ off ≤ 2 then
        ({ d with cad.state := .locked, cad.stratum := 0, cad.absent := 0, cad.glitch := none, cad.srcPort := 0
                  cad.acquiredFrom := false }).correct off
      else d.farPulse off
    | _ => d

/-- SYNC_PULSE_ABSENT (R49): two expected pulses absent in a row lead from `locked` to `refonly`. -/
def execSyncPulseAbsent (s : State) : Out :=
  s.onDev fun d =>
    match d.cad.state with
    | .locked =>
      if 1 ≤ d.cad.absent then
        ({ d with cad.state := .refonly, cad.stratum := 1, cad.absent := 0, cad.glitch := none }).raise E.CAD_SYNC_LOSS
      else { d with cad.absent := d.cad.absent + 1, cad.glitch := none }
    | _ => { d with cad.glitch := none }

/-- EVG_REF_LOST (R49, R51). -/
def execEvgRefLost (s : State) : Out :=
  s.onDev fun d =>
    let d := { d with cad.ref := false }
    match d.cad.state with
    | .acquire => ({ d with cad.state := .unset }).raise E.CAD_REF_LOSS
    | .locked | .refonly | .slew =>
      match d.source with
      | some p =>
        ({ d with cad.absent := 0, cad.glitch := none }.followSource p).raise E.CAD_REF_LOSS
      | none =>
        (({ d with cad.state := .holdover, cad.stratum := 15, cad.srcPort := 0, cad.absent := 0, cad.slew := 0
                   cad.glitch := none }).raise E.CAD_REF_LOSS).raise E.CAD_HOLDOVER
    | _ => d

/-- BEAT_CLOCK_LOCKED (R41, R49): EVG_REF present and the beat clock locked. -/
def execBeatClockLocked (s : State) : Out :=
  s.onDev fun d =>
    let d := { d with cad.ref := true }
    match d.cad.state with
    | .unset => { d with cad.state := .acquire }
    | .follow => { d with cad.state := .refonly, cad.noSrc := none, cad.slew := 0, cad.srcPort := if d.cad.acquiredFrom then d.cad.srcPort else 0 }
    | .holdover => { d with cad.state := .refonly, cad.stratum := 15 }
    | _ => d

/-- FOLLOW_TIMEOUT (R49): no usable neighbour for 2^12 beats in `follow`. -/
def execFollowTimeout (s : State) : Out :=
  s.onDev fun d =>
    match d.cad.state, d.cad.noSrc, d.source with
    | .follow, some b, none =>
      if b + 2 ^ 12 ≤ d.now then
        ({ d with cad.state := .holdover, cad.stratum := 15, cad.srcPort := 0, cad.noSrc := none }).raise E.CAD_HOLDOVER
      else d
    | _, _, _ => d

/-- SLEW_CORRECTION (R50): one increment is doubled or omitted; `slew` ends in `locked` once the offset is within 2 beats (R49). -/
def execSlewCorrection (s : State) : Out :=
  s.onDev fun d =>
    if d.cad.slew = 0 || decide (d.cad.count < d.cad.nextSlew) then d
    else
      let rest := if 0 < d.cad.slew then d.cad.slew - 1 else d.cad.slew + 1
      let wait := if rest < -2 then 256 else 4096
      let d := if 0 < d.cad.slew then { d.shiftNbrs 1 with cad.count := (d.cad.count + 1) % 2 ^ 64, cad.nextSlew := d.cad.count + 1 + wait }
        else { d.shiftNbrs (-1) with cad.skip := true, cad.nextSlew := d.cad.count + wait - 1 }
      { d with cad.slew := rest
               cad.state := if d.cad.state == .slew && decide (-2 ≤ rest) then .locked else d.cad.state }

/-- What a write of CAD_LOAD does once its fields are stored (R49): ARM is held for the next pulse in `unset` and `acquire`, and has no
effect in any other state. -/
def Dev.cadLoadWritten (d : Dev) : Dev :=
  let arm := d.flag F.CAD_LOAD_ARM
  let d := d.setFld F.CAD_LOAD_ARM 0
  if arm && (d.cad.state == .unset || d.cad.state == .acquire) then { d with cad.arm := true } else d

/-! ## Determinism and slip (R54, R62) -/

/-- The paddocks this device belongs to under the current map, in ascending PADDOCK_ID. -/
def Dev.myMembers (d : Dev) : List Member :=
  sortBy (fun a b => decide (a.paddock < b.paddock)) (d.comp.cur.members.filter (·.device == d.pwr.slotId))

/-- A write of DETM_REQ (R62): with no paddock and no staged map it takes effect at once, otherwise at the next switch. -/
def Dev.detmWritten (d : Dev) (req : Bool) : Dev :=
  let d := { d with cad.detmReq := req }
  if d.myMembers.isEmpty && d.comp.pending == none then { d with cad.detm := req } else d

/-- Counting the slip of a launch (R54). -/
def Dev.slip (d : Dev) (n : Nat) : Dev :=
  let d := { d with cad.slipLast := n }
  if n = 0 then d
  else ((d.count F.CAD_SLIP_LATE_LATE).raiseTo F.CAD_SLIP_LATE_MAX_SLIP n).total F.CAD_SLIP_SUM_SUM n

/-! ## Random numbers (R67, R68) -/

/-- ROTL32. -/
def rotl32 (v n : Nat) : Nat := (v * 2 ^ n % 2 ^ 32) + v % 2 ^ 32 / 2 ^ (32 - n)

/-- One round of CAD_RAND on x0 to x3 and the keys. -/
def randRound (x : Nat × Nat × Nat × Nat × Nat × Nat) : Nat × Nat × Nat × Nat × Nat × Nat :=
  let (x0, x1, x2, x3, k0, k1) := x
  let x0 := (x0 + Nat.xor x1 k0) % 2 ^ 32
  let x3 := rotl32 (Nat.xor x3 x0) 16
  let x2 := (x2 + Nat.xor x3 k1) % 2 ^ 32
  let x1 := rotl32 (Nat.xor x1 x2) 12
  let x0 := (x0 + x1) % 2 ^ 32
  let x3 := rotl32 (Nat.xor x3 x0) 8
  let x2 := (x2 + x3) % 2 ^ 32
  let x1 := rotl32 (Nat.xor x1 x2) 7
  (x0, x1, x2, x3, (k0 + 0x6C8E9CF5) % 2 ^ 32, (k1 + 0x3D2B71A9) % 2 ^ 32)

/-- n rounds of CAD_RAND. -/
def randRounds : Nat → Nat × Nat × Nat × Nat × Nat × Nat → Nat × Nat × Nat × Nat × Nat × Nat
  | 0, x => x
  | n + 1, x => randRounds n (randRound x)

/-- CAD_RAND of R67. -/
def cadRand (key step draw domain : Nat) : Nat :=
  let x := randRounds 12 (step % 2 ^ 32, draw % 2 ^ 32, Nat.xor 0x6C8E9CF5 (domain % 256), 0x3D2B71A9,
    key % 2 ^ 32, key / 2 ^ 32 % 2 ^ 32)
  x.2.1 * 2 ^ 32 + x.1

/-- The uniform of R68 as its numerator over 2^24. -/
def uniform24 (r : Nat) : Nat := bits r 63 40

end Sys2Proof.Machine
end

