-- ==== Sys2Proof/Machine/Numbers.lean ====
section
/-!
DEFINITION. Machine/Numbers.lean: the number formats of spec/03_engines_and_formats.md (R83 to R86), rounding (R97, R98, R99), the
long accumulator (R87 to R91), the vector unit's operations (R100, R101) and the reduction tree of R59.
-/

namespace Sys2Proof.Machine

/-! ## Exact values -/

/-- A number exactly: NaN, an infinity, or ± m × 2^e. -/
inductive Num where
  | nan
  | inf (neg : Bool)
  | fin (neg : Bool) (m : Nat) (e : Int)
  deriving DecidableEq, Repr

/-- The sign bit of a value. -/
def Num.neg : Num → Bool
  | .nan => false
  | .inf n => n
  | .fin n _ _ => n

/-- A zero, of either sign. -/
def Num.isZero : Num → Bool
  | .fin _ 0 _ => true
  | _ => false

/-- Neither NaN nor an infinity. -/
def Num.isFinite : Num → Bool
  | .fin .. => true
  | _ => false

/-- A finite value as an integer multiple of 2^q, where q is at most its exponent. -/
def Num.units (q : Int) : Num → Int
  | .fin n m e => let x : Int := m * 2 ^ (e - q).toNat; if n then -x else x
  | _ => 0

/-- An integer multiple of 2^q as a value; `z` is the sign a zero gets. -/
def numOf (z : Bool) (x q : Int) : Num := .fin (if x = 0 then z else decide (x < 0)) x.natAbs q

/-- The value with its sign turned. -/
def Num.negate : Num → Num
  | .nan => .nan
  | .inf n => .inf (!n)
  | .fin n m e => .fin (!n) m e

/-- The exact sum under IEEE 754: opposite infinities give NaN, an exact zero sum of unlike signs is +0 (R96). -/
def Num.add : Num → Num → Num
  | .nan, _ => .nan
  | _, .nan => .nan
  | .inf a, .inf b => if a = b then .inf a else .nan
  | .inf a, _ => .inf a
  | _, .inf b => .inf b
  | .fin a m e, .fin b n f =>
    let q := min e f
    numOf (a && b) (Num.units q (.fin a m e) + Num.units q (.fin b n f)) q

/-- The exact product under IEEE 754. -/
def Num.mul : Num → Num → Num
  | .nan, _ => .nan
  | _, .nan => .nan
  | .inf a, .inf b => .inf (a != b)
  | .inf a, .fin b m _ => if m = 0 then .nan else .inf (a != b)
  | .fin a m _, .inf b => if m = 0 then .nan else .inf (a != b)
  | .fin a m e, .fin b n f => .fin (a != b) (m * n) (e + f)

/-- Whether a value is strictly less than another (false with NaN). -/
def Num.lt : Num → Num → Bool
  | .nan, _ => false
  | _, .nan => false
  | .inf a, .inf b => a && !b
  | .inf a, _ => a
  | _, .inf b => !b
  | .fin a m e, .fin b n f =>
    let q := min e f
    decide (Num.units q (.fin a m e) < Num.units q (.fin b n f))

/-- Whether two values are equal (false with NaN; −0 equals +0). -/
def Num.eqv (a b : Num) : Bool :=
  match a, b with
  | .nan, _ => false
  | _, .nan => false
  | a, b => !a.lt b && !b.lt a

/-! ## Rounding -/

/-- m / 2^s rounded to the nearest integer, ties to even; `sticky`: the true value lies a little above m. -/
def rneShift (m s : Nat) (sticky : Bool) : Nat :=
  let k := m / 2 ^ s
  let r := m % 2 ^ s
  if s = 0 then k
  else if 2 ^ (s - 1) < r || (r == 2 ^ (s - 1) && (sticky || k % 2 == 1)) then k + 1 else k

/-- x / 2^s rounded to the nearest integer, ties to even, with whether it was exact. -/
def rneInt (x : Int) (s : Nat) : Int × Bool :=
  let r : Int := rneShift x.natAbs s false
  (if x < 0 then -r else r, x.natAbs % 2 ^ s == 0)

/-- A binary format with gradual underflow: widths of the exponent and of the mantissa, and the bias (R84). -/
structure FloatFmt where
  ebits : Nat
  mbits : Nat
  bias : Nat
  deriving DecidableEq, Repr

def fp32 : FloatFmt := ⟨8, 23, 127⟩
def bf16 : FloatFmt := ⟨8, 7, 127⟩
def fp16 : FloatFmt := ⟨5, 10, 15⟩
def e4m3 : FloatFmt := ⟨4, 3, 7⟩
def e5m2 : FloatFmt := ⟨5, 2, 15⟩
def e2m1 : FloatFmt := ⟨2, 1, 1⟩

/-- The weight of the format's smallest subnormal, as an exponent. -/
def FloatFmt.qmin (f : FloatFmt) : Int := 1 - (f.bias : Int) - (f.mbits : Int)

/-- The magnitude bits of m × 2^e (a little more where `sticky`) rounded by RNE with gradual underflow, not yet limited (R97). -/
def FloatFmt.roundMag (f : FloatFmt) (m : Nat) (e : Int) (sticky : Bool) : Nat :=
  if m = 0 then 0
  else
    let q := max f.qmin (e + (Nat.log2 m : Int) - (f.mbits : Int))
    let k := if q ≤ e then m * 2 ^ (e - q).toNat else rneShift m (q - e).toNat sticky
    (q - f.qmin).toNat * 2 ^ f.mbits + k

/-- The bits of an IEEE infinity's magnitude. -/
def FloatFmt.infMag (f : FloatFmt) : Nat := (2 ^ f.ebits - 1) * 2 ^ f.mbits

/-- The sign bit's place. -/
def FloatFmt.signBit (f : FloatFmt) (neg : Bool) : Nat := if neg then 2 ^ (f.ebits + f.mbits) else 0

/-- The canonical NaN of an IEEE format (R86). -/
def FloatFmt.nan (f : FloatFmt) : Nat := f.infMag + 2 ^ (f.mbits - 1)

/-- m × 2^e in an IEEE format, overflow to the infinity (R97). -/
def FloatFmt.round (f : FloatFmt) (neg : Bool) (m : Nat) (e : Int) (sticky : Bool := false) : Nat :=
  min (f.roundMag m e sticky) f.infMag + f.signBit neg

/-- A value in an IEEE format. -/
def FloatFmt.enc (f : FloatFmt) : Num → Nat
  | .nan => f.nan
  | .inf n => f.infMag + f.signBit n
  | .fin n m e => f.round n m e

/-- The magnitude of a code without special encodings. -/
def FloatFmt.mag (f : FloatFmt) (neg : Bool) (x : Nat) : Num :=
  let ex := bits x (f.ebits + f.mbits - 1) f.mbits
  let m := x % 2 ^ f.mbits
  if ex = 0 then .fin neg m f.qmin else .fin neg (m + 2 ^ f.mbits) (f.qmin + (ex : Int) - 1)

/-- The value a code of an IEEE format spells (R84). -/
def FloatFmt.dec (f : FloatFmt) (x : Nat) : Num :=
  let neg := bit x (f.ebits + f.mbits)
  let ex := bits x (f.ebits + f.mbits - 1) f.mbits
  if ex = 2 ^ f.ebits - 1 then (if x % 2 ^ f.mbits = 0 then .inf neg else .nan) else f.mag neg x

/-! ## FP32 arithmetic (R94 to R96, R100, R101) -/

/-- An FP32 value's number. -/
abbrev f32 (x : Nat) : Num := fp32.dec x

def f32Add (a b : Nat) : Nat := fp32.enc ((f32 a).add (f32 b))
def f32Neg (a : Nat) : Nat := if f32 a = .nan then fp32.nan else Nat.xor a 0x80000000
def f32Abs (a : Nat) : Nat := if f32 a = .nan then fp32.nan else a % 0x80000000
def f32Sub (a b : Nat) : Nat := fp32.enc ((f32 a).add (f32 b).negate)
def f32Mul (a b : Nat) : Nat := fp32.enc ((f32 a).mul (f32 b))
def f32Fma (a b c : Nat) : Nat := fp32.enc (((f32 a).mul (f32 b)).add (f32 c))

/-- IEEE 754-2019 minimum and maximum: NaN propagates, −0 < +0. -/
def f32Min (a b : Nat) : Nat :=
  if f32 a = .nan || f32 b = .nan then fp32.nan
  else if (f32 a).lt (f32 b) || ((f32 a).eqv (f32 b) && (f32 a).neg) then a else b
def f32Max (a b : Nat) : Nat :=
  if f32 a = .nan || f32 b = .nan then fp32.nan
  else if (f32 a).lt (f32 b) || ((f32 a).eqv (f32 b) && (f32 a).neg) then b else a

/-- Division, correctly rounded. -/
def f32Div (a b : Nat) : Nat :=
  match f32 a, f32 b with
  | .nan, _ => fp32.nan
  | _, .nan => fp32.nan
  | .inf _, .inf _ => fp32.nan
  | .inf x, .fin y _ _ => fp32.enc (.inf (x != y))
  | .fin x _ _, .inf y => fp32.enc (.fin (x != y) 0 0)
  | .fin x m e, .fin y n f =>
    if n = 0 then (if m = 0 then fp32.nan else fp32.enc (.inf (x != y)))
    else fp32.round (x != y) (m * 2 ^ 64 / n) (e - f - 64) (m * 2 ^ 64 % n != 0)

/-- The integer square root from the k lowest bits down. -/
def isqrtFrom (n : Nat) : Nat → Nat → Nat
  | 0, r => r
  | k + 1, r => isqrtFrom n k (if (r + 2 ^ k) * (r + 2 ^ k) ≤ n then r + 2 ^ k else r)

/-- The integer square root, rounded down. -/
def isqrt (n : Nat) : Nat := isqrtFrom n (Nat.log2 n / 2 + 1) 0

/-- Square root, correctly rounded. -/
def f32Sqrt (a : Nat) : Nat :=
  match f32 a with
  | .nan => fp32.nan
  | .inf n => if n then fp32.nan else fp32.enc (.inf false)
  | .fin n m e =>
    if m = 0 then fp32.enc (.fin n 0 0)
    else if n then fp32.nan
    else
      let (m, e) := if e % 2 = 0 then (m, e) else (2 * m, e - 1)
      let r := isqrt (m * 2 ^ 64)
      fp32.round false r (e / 2 - 32) (r * r != m * 2 ^ 64)

/-- Reciprocal square root, correctly rounded. -/
def f32Rsqrt (a : Nat) : Nat :=
  match f32 a with
  | .nan => fp32.nan
  | .inf n => if n then fp32.nan else fp32.enc (.fin false 0 0)
  | .fin n m e =>
    if m = 0 then fp32.enc (.inf n)
    else if n then fp32.nan
    else
      let (m, e) := if e % 2 = 0 then (m, e) else (2 * m, e - 1)
      let r := isqrt (2 ^ 128 / m)
      fp32.round false r (-(e / 2) - 64) (r * r * m != 2 ^ 128)

/-- The binary fraction of a number at or above 1 under log2: n bits of it, by repeated squaring of a fixed-point number with 512
fraction bits in [1, 2). -/
def logBits : Nat → Nat → Nat
  | 0, _ => 0
  | n + 1, y =>
    let z := y * y / 2 ^ 512
    if 2 ^ 513 ≤ z then 2 ^ n + logBits n (z / 2) else logBits n z

/-- LOG2, correctly rounded. -/
def f32Log2 (a : Nat) : Nat :=
  match f32 a with
  | .nan => fp32.nan
  | .inf n => if n then fp32.nan else fp32.enc (.inf false)
  | .fin n m e =>
    if m = 0 then fp32.enc (.inf true)
    else if n then fp32.nan
    else
      let k := Nat.log2 m
      let top : Int := e + k
      if m = 2 ^ k then fp32.enc (numOf false top 0)
      else
        let v : Int := top * 2 ^ 160 + logBits 160 (m * 2 ^ 512 / 2 ^ k)
        if 0 ≤ v then fp32.round false v.toNat (-160) true else fp32.round true (v.natAbs - 1) (-160) true

/-- 2^(f / 2^k) with 256 fraction bits, the product of the square roots `c` of 2 that the bits of f select. -/
def expBits (f : Nat) : Nat → Nat → Nat → Nat
  | 0, _, y => y
  | k + 1, c, y => let c := isqrt (c * 2 ^ 256); expBits f k c (if bit f k then y * c / 2 ^ 256 else y)

/-- EXP2, correctly rounded. -/
def f32Exp2 (a : Nat) : Nat :=
  match f32 a with
  | .nan => fp32.nan
  | .inf n => if n then fp32.enc (.fin false 0 0) else fp32.enc (.inf false)
  | .fin n m e =>
    if Num.lt (.fin false 256 0) (.fin false m e) then fp32.enc (if n then .fin false 0 0 else .inf false)
    else
      let x : Int := Num.units (-200) (.fin n m e)
      let f := (x % 2 ^ 200).toNat
      let k : Int := x / 2 ^ 200
      if f = 0 then fp32.round false 1 k
      else fp32.round false (expBits f 200 (2 ^ 257) (2 ^ 256)) (k - 256) true

/-- RCP: the division of 1. -/
def f32Rcp (a : Nat) : Nat := f32Div 0x3F800000 a

/-- An integer, exact or rounded once, in FP32. -/
def f32OfNat (n : Nat) : Nat := fp32.round false n 0

/-! ## Element formats (R83 to R85) -/

/-- The element width in bits of a format code (R83; 0 for a reserved code). -/
def fmtBits : Nat → Nat
  | 0x0 => 32 | 0x1 => 16 | 0x2 => 16 | 0x4 => 8 | 0x5 => 8 | 0x6 => 8 | 0x8 => 4 | 0x9 => 4 | 0xC => 32 | 0xD => 8 | 0xF => 256
  | _ => 0

/-- Whether a format code is an MX format. -/
def fmtMx (f : Nat) : Bool := [4, 5, 6, 8, 9].contains f

/-- The value of an element of a format, before a block's scale (R84); negative zero decodes as zero in the MX formats. -/
def elemVal (fmt x : Nat) : Num :=
  let fin0 := fun (v : Num) => if v.isZero then Num.fin false 0 0 else v
  match fmt with
  | 0x0 => fp32.dec x
  | 0x1 => bf16.dec x
  | 0x2 => fp16.dec x
  | 0x4 => if x % 128 = 127 then .nan else fin0 (e4m3.mag (bit x 7) (x % 128))
  | 0x5 => fin0 (e5m2.dec x)
  | 0x6 => numOf false (sext 8 x) (-6)
  | 0x8 => fin0 (e2m1.mag (bit x 3) (x % 8))
  | 0x9 => numOf false (sext 4 x) (-2)
  | 0xC => numOf false (sext 32 x) 0
  | 0xD => numOf false (sext 8 x) 0
  | _ => .nan

/-- Element i of an array in a format, as bits (R85). -/
def elemBits (fmt : Nat) (data : Bytes) (i : Nat) : Nat :=
  match fmtBits fmt with
  | 4 => let b := field data (i / 2) 1; if i % 2 = 0 then b % 16 else b / 16
  | w => field data (i * (w / 8)) (w / 8)

/-- The bytes of elements in a format (R85). -/
def packElems (fmt : Nat) : List Nat → Bytes
  | [] => []
  | [a] => if fmtBits fmt = 4 then leBytes 1 (a % 16) else leBytes (fmtBits fmt / 8) a
  | a :: b :: t =>
    if fmtBits fmt = 4 then leBytes 1 (a % 16 + 16 * (b % 16)) ++ packElems fmt t
    else leBytes (fmtBits fmt / 8) a ++ packElems fmt (b :: t)

/-! ## The reduction tree (R59) -/

/-- One level of the tree: element 2i combined with element 2i + 1, an element without a partner unchanged. -/
def treeLevel {α : Type} (f : α → α → α) : List α → List α
  | a :: b :: t => f a b :: treeLevel f t
  | l => l

/-- Levels until one element is left. -/
def treeLevels {α : Type} (f : α → α → α) : Nat → List α → List α
  | 0, l => l
  | n + 1, l => treeLevels f n (treeLevel f l)

/-- The tree of R59 over a list; `z` for an empty list. -/
def tree {α : Type} (f : α → α → α) (z : α) (l : List α) : α := (treeLevels f (Nat.log2 l.length + 1) l).headD z

/-- The FP32 sum by the tree (+0 for no elements). -/
def f32Tree (l : List Nat) : Nat := tree f32Add 0 l

/-! ## The long accumulator (R87 to R91) -/

/-- Bringing the accumulator to a higher anchor (the re-anchoring step of R88). -/
def LongAcc.anchorTo (l : LongAcc) (a : Int) : LongAcc :=
  let r := rneInt l.acc (a - l.anchor).toNat
  { l with acc := r.1, anchor := a, rounded := l.rounded || !r.2 }

/-- One block pair into an accumulator (R88), with the scales and the decoded elements of the two operands. -/
def LongAcc.block (l : LongAcc) (xa xb : Nat) (as bs : List Num) : LongAcc :=
  let l := { l with nblk := l.nblk + 1 }
  if xa = 0xFF || xb = 0xFF || as.any (· == .nan) || bs.any (· == .nan) then { l with nan := true }
  else
    let ps := as.zip bs
    let infs := ps.filter fun p => !(p.1.isFinite && p.2.isFinite)
    let l := infs.foldl (fun (l : LongAcc) p =>
      match p.1.mul p.2 with
      | .inf n => if n then { l with neg := true } else { l with pos := true }
      | _ => { l with nan := true }) l
    let e : Int := (xa : Int) + xb - 254
    let sum : Int := ps.foldl (fun a p => a + (if p.1.isFinite && p.2.isFinite then (p.1.mul p.2).units (-32) else 0)) 0
    let l := if l.empty then { l with anchor := e, empty := false }
             else if l.anchor < e then l.anchorTo e else l
    let sh := e - l.anchor + 64
    if 0 ≤ sh then { l with acc := l.acc + sum * 2 ^ sh.toNat }
    else
      let r := rneInt sum (-sh).toNat
      { l with acc := l.acc + r.1, rounded := l.rounded || !r.2 }

/-- The 32-byte record of a long partial (R91). -/
def LongAcc.bytes (l : LongAcc) : Bytes :=
  leBytes 20 (toTwos 160 l.acc) ++ leBytes 2 (toTwos 16 l.anchor)
    ++ leBytes 1 (natOfBits [l.nan, l.pos, l.neg, l.empty, l.rounded]) ++ [0] ++ leBytes 4 l.nblk ++ leBytes 4 0

/-- Reading a long partial. -/
def readLong (r : Bytes) : LongAcc :=
  let f := field r 22 1
  { acc := sext 160 (field r 0 20), anchor := sext 16 (field r 20 2), nan := bit f 0, pos := bit f 1, neg := bit f 2
    empty := bit f 3, rounded := bit f 4, nblk := field r 24 4 }

/-- Combining two long partials, X of the lower L (R91). -/
def LongAcc.combine (x y : LongAcc) : LongAcc :=
  if x.empty then y
  else if y.empty then x
  else
    let a := max x.anchor y.anchor
    let x := x.anchorTo a
    let y := y.anchorTo a
    { acc := x.acc + y.acc, poison := x.poison || y.poison, anchor := a, nan := x.nan || y.nan, pos := x.pos || y.pos, neg := x.neg || y.neg, empty := false
      rounded := x.rounded || y.rounded, nblk := x.nblk + y.nblk }

/-- The exact value a long accumulator holds, with R96's rule for its flags. -/
def LongAcc.value (l : LongAcc) : Num :=
  if l.nan || (l.pos && l.neg) then .nan
  else if l.pos then .inf false
  else if l.neg then .inf true
  else if l.empty then .fin false 0 0
  else numOf false l.acc (l.anchor - 96)

/-- An accumulator drained to an output format in one rounding (R97): FP32, BF16 or FP16, or the record unchanged; with C, FP32 of
the exact sum. -/
def LongAcc.drain (l : LongAcc) (fmt : Nat) (c : Option Nat) : Bytes :=
  match fmt with
  | 0x1 => leBytes 2 (bf16.enc l.value)
  | 0x2 => leBytes 2 (fp16.enc l.value)
  | 0xF => l.bytes
  | _ =>
    match c with
    | some c => leBytes 4 (fp32.enc (l.value.add (f32 c)))
    | none => leBytes 4 (fp32.enc l.value)

/-! ## Dot products of BF16 and FP32 (R94, R95) -/

/-- A BF16 dot product into an FP32 accumulator: products rounded to FP32, groups of 16 by the tree, group sums in order. -/
def bf16Groups : Nat → Nat → List (Nat × Nat) → Nat
  | 0, acc, _ => acc
  | n + 1, acc, ps =>
    if ps.isEmpty then acc
    else
      let g := (ps.take 16).map fun p => fp32.enc ((bf16.dec p.1).mul (bf16.dec p.2))
      bf16Groups n (f32Add acc (f32Tree (g ++ List.replicate (16 - g.length) 0))) (ps.drop 16)

/-- A BF16 dot product. -/
def bf16Dot (acc : Nat) (ps : List (Nat × Nat)) : Nat := bf16Groups (ps.length / 16 + 1) acc ps

/-- An FP32 dot product: fused multiply-adds in ascending k (R95). -/
def fp32Dot (acc : Nat) (ps : List (Nat × Nat)) : Nat := ps.foldl (fun a p => f32Fma p.1 p.2 a) acc

/-! ## Quantisation and conversion (R98 to R100) -/

/-- The element format behind an MX code, as a float (the integer formats have none). -/
def mxFloat : Nat → Option FloatFmt
  | 0x4 => some e4m3
  | 0x5 => some e5m2
  | 0x8 => some e2m1
  | _ => none

/-- emax of R98. -/
def mxEmax : Nat → Int
  | 0x4 => 8
  | 0x5 => 15
  | 0x8 => 2
  | _ => 0

/-- The largest finite magnitude code of an element format, and the exponent of an integer format's unit. -/
def mxMaxMag : Nat → Nat
  | 0x4 => 0x7E
  | 0x5 => 0x7B
  | 0x8 => 7
  | 0x6 => 127
  | _ => 7

/-- The magnitude code nearest to m × 2^e by RNE (before saturation). -/
def mxNearest (fmt m : Nat) (e : Int) : Nat :=
  match mxFloat fmt with
  | some f => f.roundMag m e false
  | none =>
    let q : Int := if fmt = 0x6 then -6 else -2
    if q ≤ e then m * 2 ^ (e - q).toNat else rneShift m (q - e).toNat false

/-- The magnitude code of m × 2^e rounded toward zero, and the bits below its unit truncated to 24 bits: F of R99. -/
def mxTruncate (fmt m : Nat) (e : Int) : Nat × Nat :=
  if m = 0 then (0, 0)
  else
    let q : Int := match mxFloat fmt with
      | some f => max f.qmin (e + (Nat.log2 m : Int) - (f.mbits : Int))
      | none => if fmt = 0x6 then -6 else -2
    let base := match mxFloat fmt with
      | some f => (q - f.qmin).toNat * 2 ^ f.mbits
      | none => 0
    if q ≤ e then (base + m * 2 ^ (e - q).toNat, 0)
    else
      let s := (q - e).toNat
      (base + m / 2 ^ s, m % 2 ^ s * 2 ^ 24 / 2 ^ s)

/-- The code of an element with a sign and a magnitude code. -/
def mxCode (fmt : Nat) (neg : Bool) (mag : Nat) : Nat :=
  match mxFloat fmt with
  | some f => mag + f.signBit neg
  | none => toTwos (fmtBits fmt) (if neg then -(mag : Int) else mag)

/-- One element of a quantised block: v × 2^−x to the format, RNE (`draw` none) or stochastic by bits [63:40] of a draw (R98 step 4,
R99). -/
def quantElem (fmt : Nat) (x : Int) (v : Num) (draw : Option Nat) : Nat :=
  match v with
  | .fin n m e =>
    let mag := match draw with
      | none => mxNearest fmt m (e - x)
      | some r => let t := mxTruncate fmt m (e - x); if bits r 63 40 < t.2 then t.1 + 1 else t.1
    mxCode fmt n (min mag (mxMaxMag fmt))
  | _ => 0

/-- floor(log2) of the largest magnitude of some finite values (none where all are zero). -/
def topLog (vs : List Num) : Option Int :=
  vs.foldl (fun a v =>
    match v with
    | .fin _ m e => if m = 0 then a else
        let l := e + (Nat.log2 m : Int)
        some (match a with | none => l | some b => max b l)
    | _ => a) none

/-- Quantising 32 values into an MX block (R98): the scale byte and the element codes. -/
def quantBlock (fmt : Nat) (vs : List Num) (draws : List (Option Nat)) : Nat × List Nat :=
  if vs.any fun v => !v.isFinite then (0xFF, vs.map fun _ => 0)
  else
    match topLog vs with
    | none => (0, vs.map fun _ => 0)
    | some l =>
      let x := max (-127) (min 127 (l - mxEmax fmt))
      ((x + 127).toNat, (vs.zip draws).map fun p => quantElem fmt x p.1 p.2)

/-- A value converted to a format of R100's conversion class: RNE; saturating for the 8-bit and 4-bit floats and the integers; FP32 to
INT32 with NaN gives 0. What a NaN gives in the other saturating formats is not stated: an open value. -/
def convTo (fmt : Nat) (v : Num) : Nat :=
  let int := fun (w : Nat) =>
    match v with
    | .nan => if w = 32 then 0 else Config.nanConv fmt
    | .inf n => toTwos w (if n then -2 ^ (w - 1) else 2 ^ (w - 1) - 1)
    | .fin n m e =>
      let k : Nat := if 0 ≤ e then m * 2 ^ e.toNat else rneShift m (-e).toNat false
      let i : Int := if n then -(k : Int) else k
      toTwos w (max (-2 ^ (w - 1)) (min (2 ^ (w - 1) - 1) i))
  match fmt with
  | 0x0 => fp32.enc v
  | 0x1 => bf16.enc v
  | 0x2 => fp16.enc v
  | 0xC => int 32
  | 0xD => int 8
  | _ =>
    match mxFloat fmt, v with
    | some f, .inf n => mxMaxMag fmt + f.signBit n
    | some f, .fin n m e => min (f.roundMag m e false) (mxMaxMag fmt) + f.signBit n
    | _, _ => Config.nanConv fmt

/-! ## The vector unit (R100) -/

/-- One lane: the result of an operation on up to three inputs. A SEL gives b where a is not zero, else c; a shift by 32 or more has
no stated result. -/
def vecLane (o : VecOp) (a b c : Nat) : Nat :=
  let t := fun (p : Bool) => if p then 1 else 0
  let va := f32 a
  let vb := f32 b
  let sh := fun (r : Nat) => if b < 32 then r % 2 ^ 32 else Config.shiftOver a b
  match o with
  | .add => f32Add a b
  | .sub => f32Sub a b
  | .mul => f32Mul a b
  | .fma => f32Fma a b c
  | .abs => f32Abs a
  | .neg => f32Neg a
  | .min => f32Min a b
  | .max => f32Max a b
  | .div => f32Div a b
  | .sqrt => f32Sqrt a
  | .rcp => f32Rcp a
  | .rsqrt => f32Rsqrt a
  | .exp2 => f32Exp2 a
  | .log2 => f32Log2 a
  | .eq => t (va.eqv vb)
  | .ne => t (!va.eqv vb)
  | .lt => t (va.lt vb)
  | .le => t (va.lt vb || va.eqv vb)
  | .sel => if a ≠ 0 then b else c
  | .conv s d => convTo d (elemVal s a)
  | .iadd => (a + b) % 2 ^ 32
  | .isub => (a + 2 ^ 32 - b % 2 ^ 32) % 2 ^ 32
  | .imul => a * b % 2 ^ 32
  | .shl => sh (a * 2 ^ b)
  | .shr => sh (a / 2 ^ b)
  | .sar => sh (toTwos 32 (sext 32 a / 2 ^ b))
  | .and => Nat.land a b
  | .or => Nat.lor a b
  | .xor => Nat.xor a b
  | .imin => if sext 32 a ≤ sext 32 b then a else b
  | .imax => if sext 32 a ≤ sext 32 b then b else a
  | .popcount => popCount a 32

end Sys2Proof.Machine
end

