-- ==== Sys2Proof/Machine/Blocks.lean ====
section
/-!
DEFINITION. Machine/Blocks.lean: compressed blocks (spec/04_operand_compression.md): the header (R115, R116), symbols and raw bits
(R117), coding tables (R118), expansion with its checks (R120, R121, R125, R126, R129), encoding (R122), and CMP_TABLE_LOAD.
-/

namespace Sys2Proof.Machine

/-! ## Formats (R117) -/

/-- How an element splits: its bits, and the symbol field [hi:lo] (none where the combination is malformed or stored only). -/
def symSplit (format : Nat) : Option (Nat × Nat × Nat) :=
  match format with
  | 0x00 => some (32, 30, 23)
  | 0x01 => some (16, 14, 7)
  | 0x02 => some (16, 14, 10)
  | 0x04 => some (8, 6, 3)
  | 0x05 => some (8, 6, 2)
  | 0x06 => some (8, 7, 4)
  | 0x0D => some (8, 7, 4)
  | 0x08 => some (4, 2, 1)
  | 0x09 => some (4, 3, 2)
  | 0x0C => some (32, 31, 24)
  | 0x14 => some (8, 7, 0)
  | 0x15 => some (8, 7, 0)
  | 0x16 => some (8, 7, 0)
  | 0x18 => some (8, 7, 0)
  | 0x19 => some (8, 7, 0)
  | _ => none

/-- The bits of a symbol of a format (0 where it has none). -/
def symBits (format : Nat) : Nat :=
  match symSplit format with
  | some (_, hi, lo) => hi + 1 - lo
  | none => 0

/-- The raw value of an element: its bits outside the symbol field, in descending position (R117). -/
def rawOf (hi lo x : Nat) : Nat := x / 2 ^ (hi + 1) * 2 ^ lo + x % 2 ^ lo

/-- An element from its symbol and its raw value. -/
def joinSym (hi lo sym raw : Nat) : Nat := raw / 2 ^ lo * 2 ^ (hi + 1) + sym * 2 ^ lo + raw % 2 ^ lo

/-- Element i, of w bits, of an array (R85). -/
def wordAt (w : Nat) (data : Bytes) (i : Nat) : Nat :=
  if w = 4 then (if i % 2 = 0 then field data (i / 2) 1 % 16 else field data (i / 2) 1 / 16) else field data (i * (w / 8)) (w / 8)

/-- Elements of w bits as bytes. -/
def packWords (w : Nat) : List Nat → Bytes
  | [] => []
  | [a] => leBytes (max 1 (w / 8)) a
  | a :: b :: t => if w = 4 then leBytes 1 (a + 16 * b) ++ packWords w t else leBytes (w / 8) a ++ packWords w (b :: t)

/-! ## Headers (R115, R116) -/

/-- A block header. -/
structure BlockHdr where
  decl : Nat
  coded : Nat
  table : Nat
  format : Nat
  crc : Nat
  deriving DecidableEq, Repr

/-- Reading a header. -/
def readHdr (h : Bytes) : BlockHdr :=
  { decl := field h 0 2, coded := field h 2 2, table := field h 4 1, format := field h 5 1, crc := field h 8 4 }

/-- Writing a header, with HCHK. -/
def hdrBytes (b : BlockHdr) : Bytes :=
  let r := leBytes 2 b.decl ++ leBytes 2 b.coded ++ leBytes 1 b.table ++ leBytes 1 b.format ++ leBytes 2 0 ++ leBytes 4 b.crc
  r ++ leBytes 2 (crc32c r) ++ leBytes 2 0

/-- Whether a header is well-formed (R116, and the last sentence of R117's table). The reserved bits of the sizes are covered by the
limit of 4,096 together with the test of bits [15:13]. -/
def hdrOk (h : Bytes) : Bool :=
  let b := readHdr h
  let fmt := b.format % 16
  let elem := if fmtBits fmt = 32 && !bit b.format 4 then 4 else if fmtBits fmt = 16 && !bit b.format 4 then 2 else 1
  let formatOk := b.format < 32 && (if fmt = 0xF then b.format == 0xF && b.table == 0 else (symSplit b.format).isSome)
  field h 12 2 == crc32c (h.take 12) % 2 ^ 16 && field h 6 2 == 0 && field h 14 2 == 0
    && decide (b.decl ≤ 4096) && decide (b.coded ≤ 4096) && formatOk && b.decl % elem == 0
    && (b.table != 0 || fmt == 0xF || b.coded == b.decl)

/-! ## Canonical codes (R118) -/

/-- The first code of length n, and so on upward: DEFLATE's assignment over the counts of each length. -/
def firstCode (lengths : List Nat) : Nat → Nat
  | 0 => 0
  | n + 1 => (firstCode lengths n + (if n = 0 then 0 else lengths.count n)) * 2

/-- The code of a symbol, most significant bit first: its length and value (none where the symbol has no code). -/
def codeOf (lengths : List Nat) (sym : Nat) : Option (Nat × Nat) :=
  let n := lengths.getD sym 0
  if n = 0 then none else some (n, firstCode lengths n + (lengths.take sym).count n)

/-- The symbol a code of a length names. -/
def symOf (lengths : List Nat) (n code : Nat) : Option Nat :=
  (List.range lengths.length).find? fun s => codeOf lengths s == some (n, code)

/-- The completeness condition of R118. -/
def lengthsComplete (lengths : List Nat) : Bool :=
  let used := lengths.filter (· != 0)
  used == [1] || (used.foldl (fun a n => a + 2 ^ (15 - n)) 0 == 2 ^ 15)

/-! ## Expansion (R121, R125) -/

/-- Bit i of a string of bytes, bit 0 of the first byte first. -/
def bitAt (data : Bytes) (i : Nat) : Bool := bit (field data (i / 8) 1) (i % 8)

/-- Reading one code from bit position p of a section that ends at `lim`, with the bits read so far: the symbol and the next position,
or the failing check of R125 (6 or 7). -/
def readCode (lengths : List Nat) (data : Bytes) (lim : Nat) : Nat → Nat → Nat → Nat → Nat × Nat ⊕ Nat
  | 0, _, _, _ => .inr 6
  | k + 1, p, n, code =>
    if lim ≤ p then .inr 7
    else
      let code := 2 * code + (if bitAt data p then 1 else 0)
      match symOf lengths (n + 1) code with
      | some s => .inl (s, p + 1)
      | none => readCode lengths data lim k (p + 1) (n + 1) code

/-- Reading symbols: those read, the position after them, and the failing check. -/
def readSyms (lengths : List Nat) (data : Bytes) (lim : Nat) : Nat → Nat → List Nat × Nat × Option Nat
  | 0, p => ([], p, none)
  | k + 1, p =>
    match readCode lengths data lim 15 p 0 0 with
    | .inr c => ([], p, some c)
    | .inl (s, q) => let r := readSyms lengths data lim k q; (s :: r.1, r.2.1, r.2.2)

/-- A number read from bits [p, p + n), least significant first. -/
def bitsAt (data : Bytes) (p n : Nat) : Nat := natOfBits ((List.range n).map fun i => bitAt data (p + i))

/-- One sub-stream of n elements: the bytes decoded, and the failing check of rows 5 to 9 with its code. -/
def expandSub (format : Nat) (lengths : List Nat) (data : Bytes) (n : Nat) : Bytes × Option Nat :=
  match symSplit format with
  | none => ([], some C.CMP_HEADER)
  | some (w, hi, lo) =>
    let rb := w - (hi + 1 - lo)
    let rawLen := ceilDiv (n * rb) 8
    if data.length < rawLen then ([], some C.CMP_UNDERRUN)
    else
      let symLen := data.length - rawLen
      let raw := data.drop symLen
      let r := readSyms lengths data (8 * symLen) n 0
      let out := packWords w (r.1.zipIdx.map fun p => joinSym hi lo p.1 (bitsAt raw (p.2 * rb) rb))
      let zero := fun (d : Bytes) (p q : Nat) => (List.range (q - p)).all fun i => !bitAt d (p + i)
      let code :=
        match r.2.2 with
        | some 6 => some C.CMP_CODE
        | some _ => some C.CMP_UNDERRUN
        | none =>
          if r.2.1 + 8 ≤ 8 * symLen then some C.CMP_OVERRUN
          else if !(zero data r.2.1 (8 * symLen) && zero raw (n * rb) (8 * rawLen)) then some C.CMP_CODE
          else none
      (out, code)

/-- The eight sub-streams from the lowest: the bytes delivered, and the code of the lowest-numbered failing one. -/
def expandSubs (format decl : Nat) (lengths : List Nat) : Nat → Bytes → List Nat → Bytes × Option Nat
  | _, _, [] => ([], none)
  | i, data, len :: t =>
    let bytes := min 512 (decl - min decl (512 * i))
    let n := match symSplit format with
      | some (w, _, _) => bytes * 8 / w
      | none => 0
    let r := expandSub format lengths (data.take len) n
    let s := expandSubs format decl lengths (i + 1) (data.drop len) t
    (r.1 ++ s.1, match r.2 with | some c => some c | none => s.2)

/-- Expanding a block whose descriptor expects `expect` bytes: what is delivered (R126), and the code of the first failing check
(R125). -/
def expandBlock (tables : Tbl CmpTable) (hdr slot : Bytes) (expect : Nat) : Bytes × Option Nat :=
  let h := readHdr hdr
  if !hdrOk hdr then ([], some C.CMP_HEADER)
  else
    let empty := h.decl == 0 && h.coded == 0
    let tab := (Tbl.at? tables h.table).filter (·.format == h.format)
    if !empty && h.table != 0 && tab.isNone then ([], some C.CMP_TABLE)
    else
      let body :=
        if empty then ([], none)
        else if h.table = 0 then (slot.take h.decl, none)
        else
          let dir := (List.range 8).map fun i => field slot (2 * i) 2
          let r := expandSubs h.format h.decl ((tab.map (·.lengths)).getD []) 0 (slot.drop 16) dir
          let sum := 16 + dir.foldl (· + ·) 0
          (r.1, if sum < h.coded then some C.CMP_OVERRUN else if h.coded < sum then some C.CMP_UNDERRUN else r.2)
      let out := body.1.take expect
      if expect < h.decl then (out, some C.CMP_OVERRUN)
      else if h.decl < expect then (out, some C.CMP_UNDERRUN)
      else match body.2 with
        | some c => (out, some c)
        | none => if crc32c out == h.crc then (out, none) else (out, some C.CMP_CRC)

/-! ## Encoding (R121, R122) -/

/-- Bits packed into bytes, the first in bit 0 of the first byte, padded with zeros. -/
def packBits (l : List Bool) : Bytes := leBytes (ceilDiv l.length 8) (natOfBits l)

/-- One sub-stream's bytes (none where a symbol has no code). -/
def codeSub (format : Nat) (lengths : List Nat) (data : Bytes) : Option Bytes :=
  match symSplit format with
  | none => none
  | some (w, hi, lo) =>
    let es := (List.range (data.length * 8 / w)).map (wordAt w data)
    let codes := es.map fun e => codeOf lengths (bits e hi lo)
    if codes.any (·.isNone) then none
    else
      let syms := (codes.filterMap id).flatMap fun c => (List.range c.1).reverse.map (bit c.2)
      let rb := w - (hi + 1 - lo)
      let raws := es.flatMap fun e => (List.range rb).map (bit (rawOf hi lo e))
      some (packBits syms ++ packBits raws)

/-- Encoding a block of at most 4,096 logical bytes: its header and its coded bytes; the stored form where the coded one is not
smaller (R122), and table 0 with every size zero for an empty source (R129). -/
def encodeBlock (tables : Tbl CmpTable) (table format : Nat) (data : Bytes) : Bytes × Bytes :=
  let stored := (hdrBytes ⟨data.length, data.length, 0, format, crc32c data⟩, data)
  if data.isEmpty then stored
  else
    match (Tbl.at? tables table).filter (·.format == format) with
    | none => stored
    | some t =>
      let subs := (List.range 8).map fun i => codeSub format t.lengths (slice data (512 * i) 512)
      if format % 16 = 0xF || subs.any (·.isNone) then stored
      else
        let parts := subs.filterMap id
        let body := parts.flatMap (fun p => leBytes 2 p.length) ++ parts.flatten
        if body.length < data.length then (hdrBytes ⟨data.length, body.length, table, format, crc32c data⟩, body) else stored

/-- Logical data cut into blocks of 4,096 bytes (R114). -/
def blocksOf (data : Bytes) : List Bytes := chunks 4096 (data.length / 4096 + 1) data

/-! ## Counting and reporting a block (R126) -/

/-- The event of a block code. -/
def blockEvt (code : Nat) : Evt :=
  if code = C.CMP_OVERRUN then E.CMP_OVERRUN else if code = C.CMP_UNDERRUN then E.CMP_UNDERRUN
  else if code = C.CMP_CRC then E.CMP_CRC else if code = C.CMP_HEADER then E.CMP_HEADER
  else if code = C.CMP_TABLE then E.CMP_TABLE else E.CMP_CODE

/-- The counter of a block code. -/
def blockCnt (code : Nat) : Fld :=
  if code = C.CMP_OVERRUN then F.CMP_FAULT_CNT0_OVERRUN else if code = C.CMP_UNDERRUN then F.CMP_FAULT_CNT0_UNDERRUN
  else if code = C.CMP_CRC then F.CMP_FAULT_CNT0_CRC else if code = C.CMP_HEADER then F.CMP_FAULT_CNT0_HEADER
  else if code = C.CMP_TABLE then F.CMP_FAULT_CNT1_TABLE else F.CMP_FAULT_CNT1_CODE

/-- Recording the fault of a block (R126): counted, shown in CMP_LAST, and raised. -/
def Dev.blockFault (d : Dev) (code tableId : Nat) : Dev :=
  (((d.count (blockCnt code)).setFld F.CMP_LAST_CODE code).setFld F.CMP_LAST_TABLE_ID tableId).raise (blockEvt code)

/-- Expanding the blocks of a compressed tensor of `len` logical bytes, with the counting of R126: the bytes delivered, the code of
the first block that fails, and the part after it. Headers lie at `hdrs`, slots at `slots`. -/
def Dev.expandAll (d : Dev) (hdrs slots len : Nat) : Nat → Nat → Bytes × Option Nat × Dev
  | 0, _ => ([], none, d)
  | n + 1, i =>
    let expect := min 4096 (len - 4096 * i)
    let hdr := d.load (hdrs + 16 * i) 16
    let r := expandBlock d.cmp hdr (d.load (slots + 4096 * i) 4096) expect
    let d1 := match r.2 with
      | some c => d.blockFault c (readHdr hdr).table
      | none => d
    let t := d1.expandAll hdrs slots len n (i + 1)
    (r.1 ++ t.1, (match r.2 with | some c => some c | none => t.2.1), t.2.2)

/-- Counting a block an encoder emitted (R543). -/
def Dev.encoded (d : Dev) (hdr : Bytes) : Dev :=
  if (readHdr hdr).table = 0 then d.count F.CMP_ENC_CNT_STORED else d.count F.CMP_ENC_CNT_CODED

/-- The default table of a FORMAT byte (R542): by format code with SCALES clear, by the scale register with it set. -/
def Dev.defaultTable (d : Dev) (format : Nat) : Nat :=
  let byte := fun (off i : Nat) => bits (d.reg off).toNat (8 * i + 7) (8 * i)
  match format with
  | 0x14 => byte 0x600010 0
  | 0x15 => byte 0x600010 1
  | 0x16 => byte 0x600010 2
  | 0x18 => byte 0x600010 3
  | 0x19 => byte 0x600010 4
  | f => if f < 8 then byte 0x600000 f else if f < 16 then byte 0x600008 (f - 8) else 0

/-- Wire-coding one unit of at most 4,096 bytes (R131): its 16-byte header and coded bytes; `table` 0 selects the format default. -/
def Dev.wireUnit (d : Dev) (table format : Nat) (data : Bytes) : Bytes × Dev :=
  let e := encodeBlock d.cmp (if table = 0 then d.defaultTable format else table) format data
  let d := (d.encoded e.1).total F.CMP_WIRE_LOG_BYTES data.length
  (e.1 ++ e.2, d.total F.CMP_WIRE_CODED_BYTES (16 + e.2.length))

/-! ## CMP_TABLE_LOAD (R118) -/

/-- A table image's code lengths. -/
def imageLengths (r : Bytes) : List Nat := (List.range 256).map fun s => if s % 2 = 0 then field r (16 + s / 2) 1 % 16 else field r (16 + s / 2) 1 / 16

/-- Whether a table image passes R118. -/
def tableOk (r : Bytes) : Bool :=
  let ls := imageLengths r
  let nsym := field r 2 2
  field r 0 1 != 0 && symBits (field r 1 1) != 0 && nsym == 2 ^ symBits (field r 1 1) && allZero (slice r 8 8)
    && field r 4 4 == crc32c (r.take 4 ++ [0, 0, 0, 0] ++ r.drop 8) && allZero ((ls.drop nsym).map (BitVec.ofNat 8))
    && lengthsComplete (ls.take nsym)

/-- CMP_TABLE_LOAD: a coding table is checked and loaded once. -/
def execCmpTableLoad (c : HostCmd) (s : State) : Out := s.onDev fun d =>
  d.hostCmd (recSpec 144 0 0) c fun d =>
    let id := field c.data 0 1
    if !tableOk c.data then (d, .done C.CMP_TABLE_BAD [])
    else if (Tbl.at? d.cmp id).isSome then (d, .done C.CMP_TABLE_BUSY [])
    else
      let t : CmpTable := ⟨field c.data 1 1, (imageLengths c.data).take (field c.data 2 2)⟩
      ({ d with cmp := Tbl.put d.cmp id t }, .ok)

end Sys2Proof.Machine
end

