-- ==== Sys2Proof/Machine/Attend.lean ====
section
/-!
DEFINITION. Machine/Attend.lean: the attention of one query head (spec/07_kv_state_and_attention.md R202, R215) as a function of its
inputs.
-/

namespace Sys2Proof.Machine

/-- A block of 32 elements of an MX format: its scale byte and its element codes. -/
abbrev MxBlock := Nat × List Nat

/-- What the attention of a query head reads: the key-value format, SCALE_LOG2, the window (none without one), the query vector in
FP32; the key blocks of a position; the value block of a dimension for a group of 32 positions; and the BF16 value of a dimension at
a position. -/
structure AttnIn where
  fmt : Nat
  scaleLog2 : Nat
  window : Option Nat
  query : List Nat
  key : Nat → List MxBlock
  val : Nat → Nat → MxBlock
  bf : Nat → Nat → Nat

/-- A list cut into blocks of 32. -/
def blocks32 (l : List Nat) : List (List Nat) := (List.range (ceilDiv l.length 32)).map fun i => (l.drop (32 * i)).take 32

/-- 32 FP32 values quantised by RNE (R98). -/
def mxOf (fmt : Nat) (vs : List Nat) : MxBlock := quantBlock fmt (vs.map f32) (vs.map fun _ => none)

/-- The decoded elements of a block. -/
def MxBlock.nums (fmt : Nat) (b : MxBlock) : List Num := b.2.map (elemVal fmt)

/-- The format a query and the probabilities are quantised into: E4M3 for an 8-bit KV_FMT, E2M1 for E2M1. -/
def AttnIn.qfmt (a : AttnIn) : Nat := if a.fmt = 8 then 8 else 4

/-- The allowed positions of a query at q (R202 step 1). -/
def AttnIn.allowed (a : AttnIn) (q j : Nat) : Bool :=
  decide (j ≤ q) && (match a.window with | some w => decide (q < j + w) | none => true)

/-- The query's blocks. -/
def AttnIn.qblocks (a : AttnIn) : List MxBlock := (blocks32 a.query).map (mxOf a.qfmt)

/-- s_j (step 3). -/
def AttnIn.score (a : AttnIn) (j : Nat) : Nat :=
  let l := (a.qblocks.zip (a.key j)).foldl (fun (l : LongAcc) p =>
    l.block p.1.1 p.2.1 (MxBlock.nums a.qfmt p.1) (MxBlock.nums a.fmt p.2)) {}
  f32Mul (fp32.enc l.value) a.scaleLog2

/-- A partial result over tiles: the maximum, the sum and the output. -/
structure AttnPart where
  m : Nat
  l : Nat
  o : List Nat
  deriving DecidableEq, Repr

/-- One tile of 256 positions (steps 4 and 5). -/
def AttnIn.tile (a : AttnIn) (q t : Nat) : AttnPart :=
  let pos := (List.range 256).map (256 * t + ·)
  let s := pos.map fun j => if a.allowed q j then some (a.score j) else none
  let m := (s.filterMap id).foldl (fun b x => match b with | none => some x | some y => some (f32Max y x)) (none : Option Nat)
  let p := s.map fun x => match x with | some x => f32Exp2 (f32Sub x (m.getD 0)) | none => 0
  let gq := q / 32
  let groups := (List.range 8).filter fun g => decide (8 * t + g < gq)
  let dims := List.range a.query.length
  let last := if gq / 8 = t then some (gq % 8) else none
  let at_ := fun g => (p.drop (32 * g)).take 32
  let o := dims.map fun d =>
    let long := groups.foldl (fun (l : LongAcc) g =>
      let pb := mxOf a.qfmt (at_ g)
      let vb := a.val (8 * t + g) d
      l.block pb.1 vb.1 (MxBlock.nums a.qfmt pb) (MxBlock.nums a.fmt vb)) {}
    match last with
    | none => fp32.enc long.value
    | some g =>
      let ps := (at_ g).zipIdx.map fun x => (bf16.enc (f32 x.1), a.bf (32 * gq + x.2) d)
      fp32.enc (long.value.add (f32 (bf16Dot 0 ps)))
  { m := m.getD 0, l := f32Tree p, o := o }

/-- Combining two partial results, a of the lower tile (step 6). -/
def AttnPart.join (a b : AttnPart) : AttnPart :=
  let m := f32Max a.m b.m
  let fa := f32Exp2 (f32Sub a.m m)
  let fb := f32Exp2 (f32Sub b.m m)
  { m := m, l := f32Fma a.l fa (f32Mul b.l fb), o := (a.o.zip b.o).map fun x => f32Fma x.1 fa (f32Mul x.2 fb) }

/-- The attention of a query head at position q: the output in FP32 and the row statistics (steps 6 and 7). -/
def AttnIn.attend (a : AttnIn) (q : Nat) : List Nat × Nat × Nat :=
  let tiles := (List.range (q / 256 + 1)).filter fun t => (List.range 256).any fun k => a.allowed q (256 * t + k)
  let r := tree AttnPart.join { m := 0, l := 0, o := [] } (tiles.map (a.tile q))
  (r.o.map fun x => f32Div x r.l, r.m, r.l)

/-- The backward pass's probability of a key and its gradient term (R215 steps 2 and 3). -/
def attnProb (s m l : Nat) : Nat := f32Div (f32Exp2 (f32Sub s m)) l
def attnGrad (p dp delta : Nat) : Nat := f32Mul p (f32Sub dp delta)

end Sys2Proof.Machine
end

