-- ==== Sys2Proof/Machine/Composition.lean ====
section
/-!
DEFINITION. Machine/Composition.lean: the composition map: reading an image, its validity, who is where under a map, and the check
every role-work message passes (spec/01_pools_and_roles.md).
-/

namespace Sys2Proof.Machine

/-! ## Reading a map image (R26) -/

/-- A device entry. -/
def DevEntry.read (r : Bytes) : DevEntry :=
  { device := field r 0 2, role := field r 2 1, spare := bit (field r 3 1) 0, roleEpoch := field r 4 4, shadow := field r 8 2 }

/-- A device entry's reserved bits are zero. -/
def DevEntry.rsvOk (r : Bytes) : Bool :=
  decide (field r 0 2 < 2 ^ 15) && decide (field r 2 1 < 4) && decide (field r 3 1 < 2) && decide (field r 8 2 < 2 ^ 15)
    && allZero (slice r 10 6)

/-- A member entry. -/
def Member.read (r : Bytes) : Member :=
  { paddock := field r 0 2, device := field r 2 2, rank := field r 4 2, model := field r 6 2, clusters := field r 8 8
    chgrps := field r 16 4, ports := field r 20 2 }

/-- A member entry's reserved bits are zero. -/
def Member.rsvOk (r : Bytes) : Bool := decide (field r 2 2 < 2 ^ 15) && allZero (slice r 22 10)

/-- The map an image spells. -/
def CompMap.read (img : Bytes) : CompMap :=
  let nd := field img 20 2
  { epoch := field img 4 4, effBeat := field img 8 8, grace := field img 16 4, crc := field img 28 4
    devices := (chunks 16 nd (img.drop 64)).map DevEntry.read
    members := (chunks 32 (field img 24 4) (img.drop (64 + 16 * nd))).map Member.read }

/-- The bytes an image has by its counts (R483). -/
def mapImageLen (img : Bytes) : Nat := 64 + 16 * field img 20 2 + 32 * field img 24 4

/-- Nothing occurs twice. -/
def noDup : List Nat → Bool
  | [] => true
  | a :: t => !t.contains a && noDup t

/-! ## Who is where under a map -/

/-- The members of a paddock, in rank order. -/
def CompMap.paddock (m : CompMap) (pad : Nat) : List Member :=
  sortBy (fun a b => decide (a.rank < b.rank)) (m.members.filter (·.paddock == pad))

/-- The membership of a device in a paddock. -/
def CompMap.member (m : CompMap) (pad dev : Nat) : Option Member :=
  m.members.find? fun x => x.paddock == pad && x.device == dev

/-- The paddocks of a device, as its member entries. -/
def CompMap.memberships (m : CompMap) (dev : Nat) : List Member := m.members.filter (·.device == dev)

/-- The role epoch a device has when a map that keeps or changes its role takes effect (R17). -/
def Comp.nextRoleEpoch (c : Comp) (dev role : Nat) : Nat :=
  let e := Tbl.rd (fun _ => 0) c.epochs dev
  if c.asStaged.roleOf dev = role then e else (e + 1) % 2 ^ 32

/-! ## Validity (R22, R27) -/

/-- One paddock's members agree (R22): one plane, one model, one role, equal numbers of clusters and channel groups; ranks run densely
from 0; a device appears once. -/
def CompMap.paddockOk (m : CompMap) (pad : Nat) : Bool :=
  let ms := m.paddock pad
  match ms with
  | [] => true
  | a :: _ =>
    decide (ms.length ≤ 16384) && noDup (ms.map (·.device)) &&
    ms.zipIdx.all fun x =>
      x.1.rank == x.2 && x.1.model == a.model && x.1.device / 2 ^ 14 == a.device / 2 ^ 14
      && m.roleOf x.1.device == m.roleOf a.device
      && popCount x.1.clusters 64 == popCount a.clusters 64 && popCount x.1.chgrps 32 == popCount a.chgrps 32

/-- No two masks of a list share a bit. -/
def masksApart : List Nat → Bool
  | [] => true
  | a :: t => t.all (fun b => Nat.land a b == 0) && masksApart t

/-- A device's claims (R21, R22, R27): at most 64 paddocks, no cluster or channel group twice, and no membership of a spare. -/
def CompMap.claimsOk (m : CompMap) (e : DevEntry) : Bool :=
  let ms := m.memberships e.device
  decide (ms.length ≤ 64) && masksApart (ms.map (·.clusters)) && masksApart (ms.map (·.chgrps))
    && (!e.spare || (e.role == 0 && ms.isEmpty))

/-- The validity of an image (R26, R27), held against the current composition for R17. -/
def mapValid (c : Comp) (img : Bytes) : Bool :=
  let nd := field img 20 2
  let m := CompMap.read img
  field img 0 4 == 0x50414D43
  && decide (field img 16 4 ≤ 2 ^ 24) && decide (nd ≤ 16384) && decide (field img 24 4 ≤ 1048576)
  && field img 22 2 == 0 && allZero (slice img 32 32)
  && (chunks 16 nd (img.drop 64)).all DevEntry.rsvOk
  && (chunks 32 (field img 24 4) (img.drop (64 + 16 * nd))).all Member.rsvOk
  && crc32c (img.take 28 ++ [0, 0, 0, 0] ++ img.drop 32) == m.crc
  && noDup (m.devices.map (·.device))
  && m.members.all (fun x => x.paddock != 0 && (m.entry x.device).isSome && m.paddockOk x.paddock)
  && m.devices.all (fun e => m.claimsOk e && e.roleEpoch == c.nextRoleEpoch e.device e.role)

/-- The end of the current grace period (R28 check 5): B plus the grace of the current map while grace runs, else the past. -/
def Comp.graceEnd (c : Comp) : Nat :=
  match c.state with
  | .grace | .graceStaged => c.cur.effBeat + c.cur.grace
  | _ => 0

/-! ## This device -/

/-- Whether a device is treated as absent because it was declared lost (R452). -/
def Dev.isLost (d : Dev) (dev : Nat) : Bool := (Tbl.at? d.hlt.lost dev).isSome

/-- Where a message that resolves to a device goes: its alias where one is held (R461). -/
def Dev.resolve (d : Dev) (dev : Nat) : Nat := (Tbl.at? d.hlt.aliases dev).getD dev

/-- The role epoch of a device as this device resolves it (R31). -/
def Dev.roleEpochOf (d : Dev) (dev : Nat) : Nat :=
  if dev = d.me then d.comp.roleEpoch else Tbl.rd (fun _ => 0) d.comp.epochs dev

/-- Whether this device is a member of a paddock under the current map; its rank; the paddock's rank-0 device. -/
def Dev.inPaddock (d : Dev) (pad : Nat) : Bool := (d.comp.cur.member pad d.me).isSome
def Dev.rankIn (d : Dev) (pad : Nat) : Option Nat := (d.comp.cur.member pad d.me).map (·.rank)
def Dev.rank0Of (d : Dev) (pad : Nat) : Option Nat := (d.comp.cur.paddock pad).head?.map (·.device)

/-- This device's own membership of a paddock, in the current map or, where it has left it, in the map before while grace runs. -/
def Dev.ownMember (d : Dev) (pad : Nat) : Option Member :=
  match d.comp.cur.member pad d.me with
  | some x => some x
  | none => d.comp.old.bind fun m => m.member pad d.me

/-- The members of a paddock: those of the current map, or, of a paddock it no longer has, those of the map before while grace runs. -/
def Dev.lastMembers (d : Dev) (pad : Nat) : List Member :=
  match d.comp.cur.paddock pad, d.comp.old with
  | [], some m => m.paddock pad
  | l, _ => l

/-- The devices of a paddock, in rank order. -/
def Dev.paddockDevs (d : Dev) (pad : Nat) : List Nat := (d.lastMembers pad).map (·.device)

/-- Whether a paddock exists, none of its members (or the spares in their places, R461) is lost, and this plane runs it (R472). -/
def Dev.paddockUp (d : Dev) (pad : Nat) : Bool :=
  !(d.paddockDevs pad).isEmpty && (d.paddockDevs pad).all (fun x => !d.isLost (d.resolve x)) &&
    match Tbl.at? d.hlt.tpads pad with
    | some t => t.state == .mirrored || t.state == .solo
    | none => true

/-- The role a paddock's members hold under the current map. -/
def Dev.paddockRole (d : Dev) (pad : Nat) : Nat :=
  match d.rank0Of pad with
  | some x => d.comp.cur.roleOf x
  | none => 0

/-- The paddocks of the current map, each once, ascending. -/
def Dev.allPaddocks (d : Dev) : List Nat :=
  sortBy (· < ·) (d.comp.cur.members.foldl (fun l m => addOnce l m.paddock) [])

/-- Whether the pending map changes a device's role (R18). -/
def Dev.leaving (d : Dev) (dev : Nat) : Bool :=
  match d.comp.pending with
  | some m => m.roleOf dev != d.comp.cur.roleOf dev
  | none => false

/-- Whether a unit of role work with a scheduled completion beat may be admitted on a paddock (R18): once a map that changes a
member's role is staged, only a unit that ends before B. -/
def Dev.admits (d : Dev) (pad schedEnd : Nat) : Bool :=
  match d.comp.pending with
  | some m => !(d.paddockDevs pad).any d.leaving || decide (schedEnd < m.effBeat)
  | none => true

/-! ## The check of a message (R31, R233) -/

/-- What R31 says to do with a message. -/
inductive Verdict where
  | hold | process | nackEpoch | nackRole
  deriving DecidableEq, Repr

/-- The last two rows' target (R31 row 6): the membership of the paddock the message names, or this device's entry. -/
def Dev.targetExists (d : Dev) (paddock : Option Nat) : Bool :=
  match paddock with
  | some p => d.inPaddock p
  | none => (d.comp.cur.entry d.me).isSome

/-- R31's table. `state`: a state message of R233, whose role epoch is not compared. -/
def Dev.verdict (d : Dev) (h : RoleHdr) (state : Bool) : Verdict :=
  let diff := (h.epoch + 2 ^ 32 - d.comp.cur.epoch) % 2 ^ 32
  if diff = 1 ∧ d.comp.pending.isSome then .hold
  else if 1 ≤ diff ∧ diff < 2 ^ 31 then .nackEpoch
  else if !state && h.roleEpoch != d.comp.roleEpoch then .nackRole
  else if diff = 0 then .process
  else if diff = 2 ^ 32 - 1 then
    match d.comp.state with
    | .grace | .graceStaged => .process
    | _ => if d.targetExists h.paddock then .process else .nackEpoch
  else .nackEpoch

/-- Whether a bounce NACK_EPOCH also raises MAP_MISSED (R31 row 2): the message's epoch is newer. -/
def Dev.missed (d : Dev) (h : RoleHdr) : Bool :=
  let diff := (h.epoch + 2 ^ 32 - d.comp.cur.epoch) % 2 ^ 32
  decide (1 ≤ diff) && decide (diff < 2 ^ 31)

/-- Sending a bounce (R234): its code, this device's epoch and role epoch, and the message's own kind and fields. -/
def Dev.bounceTo (d : Dev) (h : RoleHdr) (code : Nat) (kind : Nat) : Dev :=
  (d.count (if code == C.NACK_ROLE then F.PAN_BOUNCE_CNT_ROLE_SENT else F.PAN_BOUNCE_CNT_EPOCH_SENT)).send .bounceMsg h.src [code, d.comp.cur.epoch, d.comp.roleEpoch, kind, h.epoch, h.roleEpoch]

/-- Receiving a message under R31: it is held, bounced, or processed by `f`. -/
def Dev.receive (d : Dev) (h : RoleHdr) (state : Bool) (kind : Nat) (hold : RoleMsg) (f : Dev → Dev) : Dev :=
  match d.verdict h state with
  | .hold => { d with comp.held := d.comp.held ++ [hold] }
  | .process => f d
  | .nackRole => d.bounceTo h C.NACK_ROLE kind
  | .nackEpoch =>
    let d := d.bounceTo h C.NACK_EPOCH kind
    if d.missed h then d.raise E.MAP_MISSED else d

/-- The partner of a device in a tandem (R466): the same index on the other plane. -/
def partnerOf (dev : Nat) : Nat := Nat.xor dev (2 ^ 14)

/-- The header this device writes into a role-work or state message to a device (R31, R461): itself, its epoch, the target's role
epoch, and the paddock named (0 for none). -/
def Dev.hdrFor (d : Dev) (dst : Nat) (paddock : Nat) : List Nat := [d.me, d.comp.cur.epoch, d.roleEpochOf dst, paddock]

/-- Sending a role-work or state message to a device. -/
def Dev.sendRole (d : Dev) (k : MsgKind) (dst paddock : Nat) (args : List Nat) (data : Bytes := []) : Dev :=
  d.send k (d.resolve dst) (d.hdrFor dst paddock ++ args) data

/-! ## Switching and the end of grace: the composition's own part (R17, R30) -/

/-- The role epochs after a map takes effect (R17): those the map gives; a device the map leaves out that held a role rises by one. -/
def Comp.epochsAfter (c : Comp) (m : CompMap) : Tbl Nat :=
  let gone := (c.asStaged.devices.filter fun e => e.role != 0 && (m.entry e.device).isNone).foldl
    (fun t e => Tbl.wr (fun _ => 0) t e.device ((Tbl.rd (fun _ => 0) t e.device + 1) % 2 ^ 32)) c.epochs
  m.devices.foldl (fun t e => Tbl.wr (fun _ => 0) t e.device e.roleEpoch) gone

/-- The switch to the pending map (R30): the epoch, role, role epoch and paddocks are adopted, and grace starts. -/
def Comp.switch (c : Comp) (m : CompMap) (me : Nat) : Comp :=
  let ep := c.epochsAfter m
  { c with state := .grace, old := some c.cur, cur := m, pending := none, role := m.roleOf me
           roleEpoch := Tbl.rd (fun _ => 0) ep me, epochs := ep, conflicts := [], staged := none }

/-- The end of grace (R30): the old map is discarded. -/
def Comp.graceOver (c : Comp) : Comp :=
  match c.state with
  | .grace => { c with state := .steady, old := none }
  | .graceStaged => { c with state := .staged, old := none }
  | _ => c

/-- Staging a map (R30). -/
def Comp.stage (c : Comp) (m : CompMap) : Comp :=
  { c with pending := some m, conflicts := [], state := if c.state == .steady then .staged else .graceStaged }

end Sys2Proof.Machine
end

