-- ==== Sys2Proof/Machine/FabBase.lean ====
section
/-!
DEFINITION. Machine/FabBase.lean: ports, routes, shapers, and streams at their sender (spec/13_azrun_memory_fabric.md R365 to R377;
spec/15_shaping_and_policing.md R423 to R430).
-/

namespace Sys2Proof.Machine

/-! ## Ports, routes and control messages -/

/-- An Azrun port, and changing it. -/
def Dev.azPort (d : Dev) (i : Nat) : Port := Tbl.rd (fun _ => {}) d.fab.ports i
def Dev.setAzPort (d : Dev) (i : Nat) (p : Port) : Dev := { d with fab.ports := Tbl.wr (fun _ => {}) d.fab.ports i p }
def Dev.onAzPort (d : Dev) (i : Nat) (f : Port → Port) : Dev := d.setAzPort i (f (d.azPort i))

/-- Whether a port is up for packets; whether it carries control flits (R368: the wake lane does). -/
def Port.up (p : Port) : Bool := p.state == 2
def Port.linked (p : Port) : Bool := p.state == 2 || p.state == 3

/-- The ports that are up. -/
def Dev.upPorts (d : Dev) : List Nat := (List.range 16).filter fun i => (d.azPort i).up

/-- The port toward a destination (R373): the first candidate whose port is up. -/
def Dev.routePort (d : Dev) (dst : Nat) : Option Nat := (Tbl.rd (fun _ => []) d.fab.routes dst).find? fun i => (d.azPort i).up

/-- Queueing a control message on a port; and toward a device along its route (R370). -/
def Dev.queueCtl (d : Dev) (port : Nat) (m : CtlMsg) : Dev := d.onAzPort port fun p => { p with ctl := p.ctl ++ [m] }
def Dev.sendCtl (d : Dev) (dst : Nat) (m : CtlMsg) : Dev :=
  match d.routePort dst with
  | some i => d.queueCtl i m
  | none => d

/-- The class of a kind of traffic (R424). -/
def Dev.kindClass (d : Dev) (k : Nat) : Nat := bits (d.reg F.SHP_KIND_MAP_KIND0.off).toNat (3 * k + 2) (3 * k)

/-- The fields of a packet in the order of its header (R380), AFLAGS as one number. -/
def packetFlags (p : Packet) : Nat :=
  let b := fun (x : Bool) => if x then 1 else 0
  p.cls + 8 * b p.release + 16 * b p.arrival + 32 * b p.poison + 64 * b p.sync + 128 * b p.pform
def packetArgs (p : Packet) : List Nat :=
  [p.op, packetFlags p, p.src, p.dst, p.job, p.ssn, p.rkey, p.addr, p.issue, p.len, p.status, p.ord, p.epoch, p.paddock, p.hops, p.re]

/-- Comparison of numbers of 32 bits over the half-space (R374): a at or before b. -/
def ssnLe (a b : Nat) : Bool := decide ((b + 2 ^ 32 - a) % 2 ^ 32 < 2 ^ 31)

/-! ## Shapers (R426 to R430) -/

/-- A shaper and a policer. -/
def Dev.shaper (d : Dev) (i : Nat) : Meter := Tbl.rd (fun _ => {}) d.shp.shapers i
def Dev.setShaper (d : Dev) (i : Nat) (m : Meter) : Dev := { d with shp.shapers := Tbl.wr (fun _ => {}) d.shp.shapers i m }

/-- A shaper's tokens now, in 1/4,096 byte: grown by RATE each beat and capped at BURST; a closed shaper holds none (R426, R429). -/
def Meter.tokens (m : Meter) (now : Nat) : Int :=
  if m.cfg.rate = 0 || m.cfg.burst = 0 then 0
  else min (4096 * m.cfg.burst : Nat) (m.tc + (m.cfg.rate * (now - m.since) : Nat))

/-- The counted length of a packet (R427). -/
def counted (p : Packet) (overhead : Nat) : Nat := 48 + p.body.length + overhead

/-- Whether a shaper lets a packet leave. -/
def Dev.shaperOpen (d : Dev) (i : Option Nat) : Bool :=
  match i with
  | none => true
  | some i => decide (0 < (d.shaper i).tokens d.now)

/-- Deducting a packet from a shaper it is charged to, and counting its bytes (R426, R439). -/
def Dev.debit (d : Dev) (i : Option Nat) (p : Packet) : Dev :=
  match i with
  | none => d
  | some i =>
    let m := d.shaper i
    let n := counted p m.cfg.overhead
    let b := match m.bytes with | x :: t => (x + n) % 2 ^ 64 :: t | [] => []
    d.setShaper i { m with tc := m.tokens d.now - (4096 * n : Nat), since := d.now, bytes := b }

/-- The shapers a packet is charged to (R428): flow and aggregate. -/
def Dev.boundShaper (d : Dev) (f : ShpCfg → Bool) : Option Nat := (d.shp.shapers.find? fun x => f x.2.cfg).map (·.1)
def Dev.flowShaper (d : Dev) (p : Packet) (qpn tenant : Option Nat) : Option Nat :=
  match d.boundShaper fun c => c.bkind == 1 && qpn == some c.value with
  | some i => some i
  | none => match d.boundShaper fun c => c.bkind == 2 && p.paddock != 0 && p.paddock == c.value with
    | some i => some i
    | none => d.boundShaper fun c => c.bkind == 3 && tenant == some c.value && c.cls == p.cls
def Dev.aggShaper (d : Dev) (p : Packet) (port : Nat) : Option Nat :=
  d.boundShaper fun c => c.bkind == 4 && c.value == port && c.cls == p.cls

/-! ## Streams at the sender (R374 to R377) -/

/-- The key of a stream. -/
def streamKey (dev cls : Nat) : Nat := 8 * dev + cls

/-- A stream, and changing it. -/
def Dev.stream (d : Dev) (k : Nat) : SendStream := (Tbl.at? d.fab.sends k).getD {}
def Dev.setStream (d : Dev) (k : Nat) (s : SendStream) : Dev := { d with fab.sends := Tbl.put d.fab.sends k s }

/-- Whether the plane tears down or poisons (R396). -/
def Dev.tearsDown (d : Dev) : Bool :=
  match d.fld F.AZF_CTRL_DEADMODE with
  | 1 => true
  | 2 => false
  | _ => decide (d.comp.cur.devices.length ≤ 4096) && !d.flag F.HLT_TANDEM_EN

/-- Whether a destination is dead for this source (R396). -/
def Dev.isDead (d : Dev) (dst : Nat) : Bool := (Tbl.at? d.fab.dead dst).isSome || d.isLost dst

/-- Taking a stream's packets out of the ports' queues: those not yet sent too where `all`. -/
def Dev.unqueue (d : Dev) (dst cls : Nat) (all : Bool) : Dev :=
  { d with fab.ports := Tbl.mapv (fun _ => {}) (fun _ (p : Port) => { p with queue := p.queue.filter fun (e : EgPkt) =>
      !(e.own && e.p.dst == dst && e.p.cls == cls && (all || !e.fresh)) }) d.fab.ports }

/-- Halting the schedules of the paddocks with operations to a destination (R398). -/
def Dev.haltFor (d : Dev) (dst : Nat) : Dev :=
  (d.fab.ops.filter fun (o : OutOp) => o.p.dst == dst && o.p.paddock != 0).foldl (fun d o =>
    let p := Tbl.rd (fun _ => ({} : SepPad)) d.sep.pads o.p.paddock
    { d with sep.pads := Tbl.wr (fun _ => ({} : SepPad)) d.sep.pads o.p.paddock { p with halted := true } }) d

/-- A destination becomes dead (R396 to R398): its streams enter `dead`, what they carried is no longer sent, FAB_DEAD_TARGET is raised once,
and in teardown mode the paddocks with operations to it halt. The operations themselves complete by DEAD_POISON_TIMER or AZF_TEARDOWN. -/
def Dev.markDead (d : Dev) (dst : Nat) : Dev :=
  if (Tbl.at? d.fab.dead dst).isSome then d
  else
    let d := ({ d with fab.dead := Tbl.put d.fab.dead dst d.now }).raise E.FAB_DEAD_TARGET 0 0 dst (some dst)
    let d := (List.range 8).foldl (fun d c => d.unqueue dst c true) d
    let d := { d with fab.sends := d.fab.sends.map (fun (x : Nat × SendStream) =>
                        if x.1 / 8 = dst then (x.1, { x.2 with state := .dead, out := [], wait := none }) else x)
                      fab.waitCtx := d.fab.waitCtx.filter fun (e : EgPkt) => e.p.dst != dst }
    if d.tearsDown then d.haltFor dst else d

/-- A destination without a route (R373). -/
def Dev.noRoute (d : Dev) (dst : Nat) : Dev := (d.raise E.FAB_NO_ROUTE 0 0 dst (some dst)).markDead dst

/-- Making room for a send context (R377): the least recently used idle stream that has sent nothing for 2^18 beats is retired. Answers
whether there is room. -/
def Dev.sendRoom (d : Dev) : Bool × Dev :=
  if d.fab.sends.length < 65536 then (true, d)
  else
    let idle := d.fab.sends.filter fun (x : Nat × SendStream) => x.2.state == .idle && decide (x.2.used + 2 ^ 18 ≤ d.now)
    match (sortBy (fun (a b : Nat × SendStream) => decide (a.2.used < b.2.used)) idle).head? with
    | some x => (true, { d with fab.sends := Tbl.del d.fab.sends x.1 })
    | none => (false, d)

/-- Putting a packet that starts here into its port's queue (R428, R430): it is charged to its shapers, and takes its SSN when it leaves.
A destination that is dead takes none; a stream without a context waits for one (R377). -/
def Dev.queueOut (d : Dev) (e : EgPkt) : Dev :=
  let p := e.p
  let k := streamKey p.dst p.cls
  if d.isDead p.dst then d
  else
    let (room, d) := if (Tbl.at? d.fab.sends k).isSome then (true, d) else d.sendRoom
    if !room then { d with fab.waitCtx := d.fab.waitCtx ++ [e] }
    else match d.routePort p.dst with
      | none => d.noRoute p.dst
      | some i =>
        let s := d.stream k
        (d.setStream k { s with port := i }).onAzPort i fun q => { q with queue := q.queue ++ [{ e with agg := d.aggShaper p i }] }
def Dev.egress (d : Dev) (p : Packet) (ref : Option OpRef := none) (qpn tenant : Option Nat := none) : Dev :=
  let n := d.fab.waitCtx.length
  let d := d.queueOut { p := p, own := true, fresh := true, ref := ref, flow := d.flowShaper p qpn tenant, since := d.now }
  if n < d.fab.waitCtx.length then d.count F.AZF_CTX_CNT_SEND_WAIT else d

/-- The operations that waited for a send context try again, in issue order (R377). -/
def Dev.retryCtx (d : Dev) : Dev :=
  let w := d.fab.waitCtx
  w.foldl (fun d e => d.queueOut e) { d with fab.waitCtx := [] }

/-- Resending a stream's packets from an SSN (R375): the first carries SYNC where `sync`; each counts in RESENT. -/
def Dev.resendFrom (d : Dev) (k from_ : Nat) (sync : Bool) : Dev :=
  let s := d.stream k
  let dst := k / 8
  let ps := s.out.filter fun (p : Packet) => ssnLe from_ p.ssn
  if ps.isEmpty then d
  else match d.routePort dst with
    | none => d.noRoute dst
    | some i =>
      let d := d.unqueue dst (k % 8) false
      let es := ps.zipIdx.map fun (x : Packet × Nat) => ({ p := { x.1 with sync := sync && x.2 == 0 }, own := true, since := d.now } : EgPkt)
      let d := d.setStream k { s with state := .resend, progress := d.now, wait := none, port := i }
      (d.onAzPort i fun q => { q with queue := q.queue ++ es }).count F.AZF_STREAM_CNT_RESENT ps.length

/-- Counting a resend in a row without progress; after RETRY_MAX the destination is dead (R375). Answers whether the stream may resend. -/
def Dev.retried (d : Dev) (k : Nat) : Bool × Dev :=
  let s := d.stream k
  if d.fld F.AZF_STREAM_RETRY_MAX ≤ s.retries then (false, d.markDead (k / 8))
  else (true, d.setStream k { s with retries := s.retries + 1 })

/-- Resending from the oldest unacknowledged packet, counted. -/
def Dev.resendAll (d : Dev) (k : Nat) (sync : Bool) : Dev :=
  let (ok, d) := d.retried k
  match ok, (d.stream k).out.head? with
  | true, some p => d.resendFrom k p.ssn sync
  | _, _ => d

/-- Streams and waiting packets move to the first candidate that is up now (R368, R373, R375). -/
def Dev.reroute (d : Dev) : Dev :=
  let d := (Tbl.keys d.fab.sends).foldl (fun d k =>
    let s := d.stream k
    if s.out.isEmpty || s.state == .dead || d.routePort (k / 8) == some s.port then d else d.resendAll k false) d
  let moved := (List.range 16).flatMap fun i => ((d.azPort i).queue.filter fun (e : EgPkt) => d.routePort e.p.dst != some i && (e.fresh || !e.own))
  let d := (List.range 16).foldl (fun d i => d.onAzPort i fun q =>
    { q with queue := q.queue.filter fun (e : EgPkt) => d.routePort e.p.dst == some i || (e.own && !e.fresh && q.up) }) d
  let stuck := d.fab.noPort
  let d := { d with fab.noPort := [] }
  (moved ++ stuck).foldl (fun d e =>
    match d.routePort e.p.dst with
    | some i => d.onAzPort i fun q => { q with queue := q.queue ++ [{ e with agg := if e.own then d.aggShaper e.p i else none, elig := none }] }
    | none => if e.own then d.noRoute e.p.dst else { d with fab.noPort := d.fab.noPort ++ [e] }) d

/-- Dead destinations that are reachable, in the current map and not lost become idle again (R375). -/
def Dev.revive (d : Dev) : Dev :=
  let back := (Tbl.keys d.fab.dead).filter fun x => (d.routePort x).isSome && (d.comp.cur.entry x).isSome && !d.isLost x
  { d with fab.dead := d.fab.dead.filter (fun (x : Nat × Nat) => !back.contains x.1)
           fab.sends := d.fab.sends.map fun (x : Nat × SendStream) =>
             if back.contains (x.1 / 8) then (x.1, { x.2 with state := .idle, retries := 0 }) else x }

/-! ## Sending (R371, R425, R430) -/

/-- Whether a queued packet may leave now: its class is not paused, and for one that starts here its shapers, its stream's window and its
stream's wait allow it. -/
def Dev.mayLeave (d : Dev) (q : Port) (e : EgPkt) : Bool :=
  decide ((q.paused[e.p.cls]?).getD 0 ≤ d.now) &&
  (!e.own ||
    let s := d.stream (streamKey e.p.dst e.p.cls)
    s.wait.isNone && s.state != .dead &&
    (!e.fresh || (s.state != .resend && decide (s.out.length ≤ min 255 (d.fld F.AZF_STREAM_WINDOW_M1)) &&
      (!d.flag F.SHP_CTRL_EN || (d.shaperOpen e.flow && d.shaperOpen e.agg)))))

/-- The packet to send next from a port's queue, with its place (R425): the lowest class that has an eligible packet, and within it the one
that became eligible first. -/
def nextOut (q : List EgPkt) : Option (EgPkt × Nat) :=
  (q.zipIdx.filter fun (x : EgPkt × Nat) => x.1.elig.isSome).foldl (fun (best : Option (EgPkt × Nat)) x =>
    match best with
    | none => some x
    | some b =>
      if x.1.p.cls < b.1.p.cls || (x.1.p.cls == b.1.p.cls && decide (x.1.elig.getD 0 < b.1.elig.getD 0)) then some x else best) none

/-- What a packet that starts here becomes when it leaves for the first time (R374, R375): it takes the next SSN, and SYNC where its stream
was idle. -/
def Dev.firstSend (d : Dev) (e : EgPkt) : Packet × Dev :=
  let k := streamKey e.p.dst e.p.cls
  let s := d.stream k
  let p := { e.p with ssn := s.next, sync := s.out.isEmpty }
  let s := { s with state := .opened, next := (s.next + 1) % 2 ^ 32, out := s.out ++ [{ p with sync := false }], used := d.now
                    progress := if s.out.isEmpty then d.now else s.progress }
  let d := d.setStream k s
  let d := if d.flag F.SHP_CTRL_EN then (d.debit e.flow p).debit e.agg p else d
  let d := match e.ref with
    | some r => { d with fab.ops := d.fab.ops.map fun (o : OutOp) =>
        if o.ref.id == r.id then { o with p := p, first := some d.now } else o }
    | none => d
  (p, d)

/-- Putting a packet on the link: it takes a link sequence number and stays in the replay buffer (R369). -/
def Dev.linkPacket (d : Dev) (port : Nat) (p : Packet) : Dev :=
  let q := d.azPort port
  (d.setAzPort port { q with tx := (q.tx + 1) % 4096, replay := q.replay ++ [(q.tx, .packet p)] }).put (.packet port (packetArgs p) p.body)

/-- EGRESS_SEND (R425): a port's flit slot. -/
def Dev.egressSlot (d : Dev) (port : Nat) : Dev :=
  let q := d.azPort port
  let q := { q with queue := q.queue.map fun (e : EgPkt) =>
    { e with elig := if d.mayLeave q e then some (e.elig.getD d.now) else none } }
  let d := d.setAzPort port q
  if !q.up || 4096 ≤ q.replay.length then d
  else match nextOut q.queue with
    | none => d
    | some (e, n) =>
      let d := d.setAzPort port { q with queue := q.queue.eraseIdx n }
      let (p, d) := if e.own && e.fresh then d.firstSend e else (e.p, d)
      let d := d.linkPacket port p
      let k := streamKey e.p.dst e.p.cls
      let s := d.stream k
      if e.own && !e.fresh && s.state == .resend
          && !(d.azPort port).queue.any (fun (x : EgPkt) => x.own && !x.fresh && x.p.dst == e.p.dst && x.p.cls == e.p.cls) then
        d.setStream k { s with state := .opened, used := d.now }
      else d

/-- EGRESS_SEND (R425). -/
def execEgressSend (port : Nat) (s : State) : Out := s.onDev fun d => if port < 16 then d.egressSlot port else d

/-! ## Copy writes (R379) -/

/-- Cutting bytes at the boundaries of 256-byte blocks: (offset, bytes). -/
def cut256 (addr : Nat) (data : Bytes) : Nat → List (Nat × Bytes)
  | 0 => []
  | n + 1 =>
    if data.isEmpty then []
    else
      let k := 256 - addr % 256
      (addr, data.take k) :: cut256 (addr + k) (data.drop k) n

/-- Sending data of a copy to a member of the paddock as copy writes. -/
def Dev.sendCopy (d : Dev) (dst pad addr issue : Nat) (data : Bytes) (poison : Bool) (cls : Nat) : Dev :=
  (cut256 addr data (data.length / 256 + 2)).foldl (fun d x => d.egress
    { op := 0x10, cls := cls, poison := poison, pform := true, src := d.me, dst := d.resolve dst, addr := x.1, issue := issue, len := x.2.length
      epoch := d.comp.cur.epoch, paddock := pad, body := x.2 }) d

/-- Sending one coded unit as its run of packets: every packet carries the address of the unit's first byte. -/
def Dev.sendCoded (d : Dev) (dst pad addr issue : Nat) (unit : Bytes) (poison : Bool) (cls : Nat) : Dev :=
  (chunks 256 (ceilDiv unit.length 256) unit).foldl (fun d x => d.egress
    { op := 0x11, cls := cls, poison := poison, pform := true, src := d.me, dst := d.resolve dst, addr := addr, issue := issue, len := x.length
      epoch := d.comp.cur.epoch, paddock := pad, body := x }) d

end Sys2Proof.Machine
end

