-- ==== Sys2Proof/Machine/HayBase.lean ====
section
/-!
DEFINITION. Machine/HayBase.lean: places and blocks of the flash, the map, the journal buffer, write points and the opening of blocks
(spec/12_hayloft.md R335 to R346, R350 to R354).
-/

namespace Sys2Proof.Machine

/-! ## Places (R335) -/

/-- Bits per cell. -/
def HayGeom.bpc (g : HayGeom) : Nat := if g.cell = 2 then 4 else 3

/-- Units of a block in native mode, and in a block's own mode. -/
def HayGeom.native (g : HayGeom) : Nat := g.pages * g.planes * g.luns * 4
def HayGeom.cap (g : HayGeom) (slc : Bool) : Nat := if slc then g.native / g.bpc else g.native

/-- The place of the i-th unit of a block, in ascending PPA. -/
def HayGeom.ppa (g : HayGeom) (blk i : Nat) : Nat :=
  let plane := i / 4 % max 1 g.planes
  let lun := i / (4 * max 1 g.planes) % max 1 g.luns
  let page := i / (4 * max 1 g.planes * max 1 g.luns)
  i % 4 + plane * 2 ^ 2 + lun * 2 ^ 5 + page * 2 ^ 7 + blk * 2 ^ 19

/-- The block of a place, its plane block (8 * LUN + plane), and its target number. -/
def ppaBlock (p : Nat) : Nat := p / 2 ^ 19
def ppaPlane (p : Nat) : Nat := bits p 6 5 * 8 + bits p 4 2
def blockTarget (b : Nat) : Nat := b / 2 ^ 14

/-- The bytes of a place. -/
def flashKey (ppa : Nat) : Nat := 3 * 2 ^ 64 + 4096 * ppa

/-- The spare range of a plane: the highest 2 % of its blocks (R359). -/
def HayGeom.spares (g : HayGeom) : Nat := g.blocks * 2 / 100

/-- Every block of the accepted targets outside the spare range, ascending. -/
def Hay.allBlocks (h : Hay) : List Nat :=
  (sortBy (· < ·) h.accepted).flatMap fun t => (List.range (h.geom.blocks - h.geom.spares)).map fun b => t * 2 ^ 14 + b

/-! ## Blocks -/

/-- A block, and changing it. -/
def Hay.blk (h : Hay) (b : Nat) : HBlk := Tbl.rd (fun _ => {}) h.blocks b
def Hay.setBlk (h : Hay) (b : Nat) (x : HBlk) : Hay := { h with blocks := Tbl.wr (fun _ => {}) h.blocks b x }

/-- A write point, and changing it. Points 0 to 29 take host data, 30 collection copies, 31 map pages (DESIGN CHOICE, log entry 50). -/
def Hay.point (h : Hay) (w : Nat) : WPoint := Tbl.rd (fun _ => {}) h.points w
def Hay.setPoint (h : Hay) (w : Nat) (x : WPoint) : Hay := { h with points := Tbl.wr (fun _ => {}) h.points w x }

/-- The blocks a write point holds open or has reserved. -/
def Hay.claimed (h : Hay) : List Nat := h.points.flatMap fun p => p.2.block.toList ++ p.2.next.toList

/-- Free blocks: in `free`, neither reserved nor claimed. -/
def Hay.isFree (h : Hay) (b : Nat) : Bool := (h.blk b).state == .free && !(h.blk b).reserved
def Hay.freeBlocks (h : Hay) : List Nat := h.allBlocks.filter h.isFree
def Hay.freeCount (h : Hay) : Nat := h.freeBlocks.length

/-- Good blocks: neither bad nor reserved (R350). -/
def Hay.good (h : Hay) : Nat := (h.allBlocks.filter fun b => (h.blk b).state != .bad && !(h.blk b).reserved).length

/-- The places in a block that hold valid units: mapped LBAs, and live map pages. -/
def Hay.validIn (h : Hay) (b : Nat) : List Nat :=
  sortBy (· < ·) (((h.map.filter fun e => ppaBlock e.2 == b) ++ h.dir.filter fun e => ppaBlock e.2 == b).map (·.2))

/-- SLC-mode blocks in use, open and closed. -/
def Hay.slcUsed (h : Hay) : Nat := (h.blocks.filter fun x => x.2.slc && !x.2.reserved && (x.2.state == .open || x.2.state == .closed)).length

/-- SLC_TARGET (R350). -/
def Dev.slcTarget (d : Dev) : Nat :=
  let h := d.hay
  let smin := d.fld F.HAY_SLC_SLC_MIN
  let room : Int := (h.good : Int) - ceilDiv h.map.length (max 1 h.geom.native) - d.fld F.HAY_GC_HIGH
  if room ≤ 0 then smin
  else min (max (room.toNat * d.fld F.HAY_SLC_SHARE / 256) smin) (d.fld F.HAY_SLC_SLC_MAX)

/-- GC_SCORE (R354). -/
def Dev.gcScore (d : Dev) (b : Nat) : Nat :=
  let h := d.hay
  let x := h.blk b
  if x.state != .closed then 0
  else
    let cap := max 1 (h.geom.cap x.slc)
    let inv := (cap - (h.validIn b).length) * 2 ^ 16 / cap
    let age := min ((d.now - x.last) / 2 ^ d.fld F.HAY_WEAR_AGE_SHIFT) 65536
    let wear := min (x.erases * 2 ^ 16 / max 1 (d.fld F.HAY_WEAR_PE_LIMIT)) 65536
    if inv = 0 then 0
    else (d.fld F.HAY_GC_W_INV * inv + d.fld F.HAY_GC_W_AGE * (age * inv / 2 ^ 16)
      + d.fld F.HAY_WEAR_W_WEAR * (65536 - wear)) % 2 ^ 32

/-! ## The map and the journal buffer (R339, R343) -/

/-- Appending to the journal buffer; at 32 MiB a flush is forced. -/
def Hay.journal (h : Hay) (e : JEntry) : Hay :=
  let h := { h with jrn := h.jrn ++ [e] }
  if 2 ^ 21 ≤ h.jrn.length then { h with force := true } else h

/-- A map entry's 8 bytes as a number. -/
def mapEntry (ppa : Nat) : Nat := 2 ^ 63 + ppa

/-- Setting the map entry of an LBA, and journaling it. -/
def Hay.setMap (h : Hay) (lba ppa : Nat) : Hay :=
  { h with map := Tbl.put h.map lba ppa, dirty := addOnce h.dirty (lba / 512) }.journal ⟨0, lba, mapEntry ppa⟩

/-- Deallocating LBAs (R338): what is mapped is unmapped. -/
def Hay.dealloc (h : Hay) (lba n : Nat) : Hay :=
  ((h.map.filter fun e => decide (lba ≤ e.1) && decide (e.1 < lba + n)).map (·.1)).foldl (fun h l =>
    { h with map := Tbl.del h.map l, dirty := addOnce h.dirty (l / 512) }.journal ⟨6, l, 0⟩) h

/-- The block state a journal entry of kind 7 carries. -/
def HBlk.value (x : HBlk) : Nat :=
  (match x.state with | .free => 0 | .open => 1 | .closed => 2 | .victim => 3 | .erasing => 4 | .bad => 5)
    + (if x.slc then 8 else 0) + x.erases % 2 ^ 32 * 16

/-- Changing a block and journaling its state. -/
def Hay.logBlk (h : Hay) (b : Nat) (x : HBlk) : Hay := (h.setBlk b x).journal ⟨7, b, x.value⟩

/-- Whether the hayloft serves reads, and takes writes. -/
def Hay.serves (h : Hay) : Bool := h.state == .ready || h.state == .readonly

/-- The code of a refused access (R337, R348, R362), if any. -/
def Dev.hayRefuses (d : Dev) (lba : Nat) (write : Bool) : Option Nat :=
  if !d.hay.serves then some C.HAY_NOT_READY
  else if d.fld F.HAY_CAP_UNITS ≤ lba then some C.HAY_RANGE
  else if write && d.hay.state == .readonly then some C.HAY_READONLY
  else none

/-- The listed bytes of a place, by offset. -/
def Dev.placeCells (d : Dev) (p : Nat) : List (Nat × Byte) :=
  (d.mem.filter fun c => decide (flashKey p ≤ c.1) && decide (c.1 < flashKey p + 4096)).map fun c => (c.1 - flashKey p, c.2)

/-- The listed bytes of an LBA, by offset: those of its place, none where it is not mapped (R338). -/
def Dev.hayCells (d : Dev) (lba : Nat) : List (Nat × Byte) :=
  match Tbl.at? d.hay.map lba with
  | none => []
  | some p => d.placeCells p

/-- What a place holds that is valid: the kind its copy is written with and its key. -/
def Hay.unitAt (h : Hay) (p : Nat) : Option (Nat × Nat) :=
  match h.map.find? (·.2 == p), h.dir.find? (·.2 == p) with
  | some e, _ => some (1, e.1)
  | none, some e => some (2, e.1)
  | none, none => none

/-- Whether an LBA's unit has failed all retries (R361). -/
def Dev.hayBad (d : Dev) (lba : Nat) : Bool := match Tbl.at? d.hay.map lba with
  | some p => d.hay.media.bad.contains p
  | none => false

/-! ## Write points (R341, R345, R356) -/

/-- Reserving a successor for every write point that has none, the lowest free blocks in turn (DESIGN CHOICE, log entry 50). -/
def Hay.reserveNext (h : Hay) : Hay :=
  (List.range 32).foldl (fun h w =>
    let p := h.point w
    if p.next.isSome then h
    else match h.allBlocks.find? fun b => h.isFree b && !h.claimed.contains b with
      | some b => h.setPoint w { p with next := some b }
      | none => h) h

/-- The scan set (R345): the open block and the successor of every point, and every closed block with a map update not yet durable. -/
def Hay.scanSet (h : Hay) : List (Nat × Bool) :=
  let own := h.points.flatMap fun p => (p.2.block.toList.map fun b => (b, false)) ++ p.2.next.toList.map fun b => (b, true)
  let late := (h.durable.filter fun x => !own.any (·.1 == x.1) && (h.blk x.1).state == .closed &&
    (h.jrn.any (fun e => e.kind == 0 && ppaBlock (e.value % 2 ^ 41) == x.1) || h.copies.any fun c => ppaBlock c.ppa == x.1)).map
    fun x => (x.1, false)
  own ++ late

/-- Opening a write point's successor where it has no open block (R345, R351, R356): only a block a durable flush lists; else a flush is
forced. The mode is chosen when the block opens. -/
def Dev.openPoint (d : Dev) (w : Nat) : Dev :=
  let h := d.hay
  let p := h.point w
  if p.block.isSome then d
  else match p.next with
    | none => { d with hay := { h.reserveNext with force := true } }
    | some b =>
      if !h.durable.any (·.1 == b) then { d with hay := { h with force := true } }
      else
        let slc := if w = 31 then true else if w = 30 then false else decide (h.slcUsed < h.target)
        let h := h.logBlk b { h.blk b with state := .open, slc := slc, written := 0, reads := 0 }
        { d with hay := h.setPoint w { p with block := some b, next := none } }

/-- Programming one unit through a write point: a place in its open block and the next SEQ are assigned (R342). A full block closes once
its last page is programmed; until then nothing more is issued to it. -/
def Dev.program (d : Dev) (w kind key src : Nat) (cells : List (Nat × Byte)) (owner : Option HayOwner) : Option Dev :=
  let d := d.openPoint w
  let h := d.hay
  let p := h.point w
  match p.block with
  | none => none
  | some b =>
    let x := h.blk b
    if h.geom.cap x.slc ≤ x.written then none
    else
      let ppa := h.geom.ppa b x.written
      let prog : HayProg := { ppa := ppa, tag := { kind := kind, key := key, seq := h.nextSeq, src := src }, cells := cells, owner := owner }
      let h := (h.setBlk b { x with written := x.written + 1 }).setPoint w { p with progs := p.progs ++ [prog] }
      some ({ d with hay := { h with nextSeq := h.nextSeq + 1 } }.put (.media 2 [w, ppa, kind, key, h.nextSeq] []))

/-- Issuing the copies that wait, in order, while the collection point has room (R355). -/
def Dev.pumpCopies (d : Dev) : List Nat → Dev
  | [] => d
  | p :: t =>
    let h := d.hay
    let skip := { d with hay := { h with copyQ := h.copyQ.erase p } }
    match h.unitAt p with
    | none => skip.pumpCopies t
    | some (kind, k) =>
      if h.media.bad.contains p then skip.pumpCopies t
      else
        match d.program 30 kind k p (d.placeCells p) none with
        | some d => { d with hay := { d.hay with copyQ := d.hay.copyQ.erase p } }.pumpCopies t
        | none => d.openPoint 30

/-- Making a block a victim: its valid units are queued for copying in ascending PPA (R355). -/
def Dev.makeVictim (d : Dev) (b : Nat) : Dev :=
  let h := d.hay
  let h := h.setBlk b { h.blk b with state := .victim, refresh := false }
  let d := { d with hay := { h with copyQ := h.copyQ ++ (h.validIn b).filter fun p => !h.copyQ.contains p } }
  d.pumpCopies d.hay.copyQ

/-- Marking a plane block bad (R356, R359, R361): counted against its target. -/
def Dev.markPlane (d : Dev) (b plane : Nat) : Dev :=
  let x := d.hay.blk b
  if x.marks.contains plane then d
  else ({ d with hay := d.hay.setBlk b { x with marks := x.marks ++ [plane] } }.count F.HAY_ERR_CNT_RETIRED).charge .ue 6 (blockTarget b)

end Sys2Proof.Machine
end

