-- ==== Sys2Proof/Machine/Records.lean ====
section
/-!
DEFINITION. Machine/Records.lean: the byte layouts of the stall record (R159), the page descriptor (R195), the sampling record (R258)
and the intake items (R177).
-/

namespace Sys2Proof.Machine

/-! ## The stall record (R159, R161) -/

/-- The state codes of R161. -/
def StallState.code : StallState → Nat
  | .free => 0 | .intake => 1 | .prefill => 2 | .ship => 3 | .decode => 4
  | .park => 5 | .spill => 6 | .done => 7 | .late => 8 | .fail => 9

/-- The state a code names; codes 10 to 15 never appear. -/
def StallState.ofCode : Nat → StallState
  | 1 => .intake | 2 => .prefill | 3 => .ship | 4 => .decode | 5 => .park
  | 6 => .spill | 7 => .done | 8 => .late | 9 => .fail | _ => .free

/-- A truth value as a bit. -/
def b2n (b : Bool) : Nat := if b then 1 else 0

/-- A stall record's 128 bytes but for the CRC field, which is zero. -/
def StallRec.plain (r : StallRec) : Bytes :=
  leBytes 4 (r.id % 2 ^ 17 + r.tenant % 2 ^ 12 * 2 ^ 17 + r.cls % 8 * 2 ^ 29)
  ++ leBytes 1 r.state.code
  ++ leBytes 1 (b2n r.dlDrop + 2 * b2n r.keep + 4 * b2n r.shadowOk + 8 * b2n r.promoted + 16 * b2n r.cont)
  ++ leBytes 2 r.model ++ leBytes 8 r.deadline
  ++ leBytes 4 r.lenCommit ++ leBytes 4 r.lenTent ++ leBytes 4 r.lenPrompt ++ leBytes 4 r.lenLimit
  ++ leBytes 4 r.lenParked ++ leBytes 4 r.lenDeliv
  ++ leBytes 8 r.pageList ++ leBytes 8 r.seed ++ leBytes 8 r.penTable ++ leBytes 8 r.tokLog ++ leBytes 8 r.samp
  ++ leBytes 4 r.mapEpoch ++ leBytes 2 r.home ++ leBytes 2 r.shadow
  ++ leBytes 2 (r.exec % 2 ^ 15 + 2 ^ 15 * b2n r.execValid)
  ++ leBytes 2 r.ring ++ leBytes 2 r.altRing ++ leBytes 2 r.tag
  ++ leBytes 8 r.arrive ++ leBytes 4 r.version ++ leBytes 2 r.status ++ leBytes 2 0
  ++ leBytes 4 (r.bulkSeg % 2 ^ 16) ++ leBytes 4 0 ++ leBytes 8 0

/-- A stall record's 128 bytes. -/
def StallRec.bytes (r : StallRec) : Bytes :=
  let p := r.plain
  p.take 116 ++ leBytes 4 (crc32c p) ++ p.drop 120

/-- The record 128 bytes spell. -/
def StallRec.read (b : Bytes) : StallRec :=
  let i := field b 0 4
  let f := field b 5 1
  { id := bits i 16 0, tenant := bits i 28 17, cls := bits i 31 29
    state := StallState.ofCode (field b 4 1 % 16)
    dlDrop := bit f 0, keep := bit f 1, shadowOk := bit f 2, promoted := bit f 3, cont := bit f 4
    model := field b 6 2, deadline := field b 8 8, lenCommit := field b 16 4, lenTent := field b 20 4
    lenPrompt := field b 24 4, lenLimit := field b 28 4, lenParked := field b 32 4, lenDeliv := field b 36 4
    pageList := field b 40 8, seed := field b 48 8, penTable := field b 56 8, tokLog := field b 64 8, samp := field b 72 8
    mapEpoch := field b 80 4, home := field b 84 2 % 2 ^ 15, shadow := field b 86 2 % 2 ^ 15
    exec := field b 88 2 % 2 ^ 15, execValid := bit (field b 88 2) 15
    ring := field b 90 2 % 2 ^ 14, altRing := field b 92 2 % 2 ^ 14, tag := field b 94 2
    arrive := field b 96 8, version := field b 104 4, status := field b 108 2, bulkSeg := field b 112 2 }

/-! ## Page descriptors (R195) -/

/-- A descriptor's 16 bytes. -/
def Desc.bytes (x : Desc) : Bytes :=
  leBytes 5 x.addr ++ leBytes 2 x.holder ++ leBytes 1 x.tier ++ leBytes 1 (b2n x.cmp) ++ leBytes 1 0
  ++ leBytes 2 (x.fill % 2 ^ 13) ++ leBytes 4 x.crc

/-- The descriptor 16 bytes spell. -/
def Desc.read (b : Bytes) : Desc :=
  { addr := field b 0 5, holder := field b 5 2 % 2 ^ 15, tier := field b 7 1 % 4, cmp := bit (field b 8 1) 0
    fill := field b 10 2 % 2 ^ 13, crc := field b 12 4 }

/-- The state a page-list entry shows outside the home: the 32 bytes of the entry (R196). -/
def PageEnt.bytes (e : PageEnt) : Bytes := e.work.bytes ++ e.park.bytes

/-! ## Intake items (R177) -/

/-- IFLAGS and its fields. -/
def iflags (it : Bytes) : Nat := field it 1 1
def itemPrio (it : Bytes) : Nat := bits (iflags it) 2 0
def itemMore (it : Bytes) : Bool := bit (iflags it) 3

/-- The opcode of an item. -/
def itemOp (it : Bytes) : Nat := field it 0 1

/-- Reserved fields and STAMP of an item are zero (R177, R179 row 3), by its opcode; a kind-2 EXT's body by R293. -/
def itemRsvOk (it : Bytes) : Bool :=
  !bit (iflags it) 7 && allZero (slice it 56 8) &&
  match itemOp it with
  | 1 => !bit (field it 4 2) 15 && decide (field it 26 2 < 2 ^ 14) && decide (field it 28 2 < 2 ^ 14)
         && (field it 30 2 == 0xFFFF || decide (field it 30 2 < 2 ^ 15)) && decide (field it 40 4 < 2 ^ 17)
         && allZero (slice it 44 12)
  | 3 => !bit (field it 4 2) 15 && decide (field it 26 2 < 2 ^ 14) && decide (field it 28 4 < 2 ^ 17)
         && allZero (slice it 32 12) && allZero (slice it 44 12)
  | 2 => allZero (slice it 52 4)
         && (field it 2 1 != 2 || (decide (field it 6 1 < 2) && field it 7 1 == 0 && allZero (slice it 20 32)))
  | _ => true

/-- The stop tokens of a kind-1 EXT. -/
def extStops (it : Bytes) : List Nat := (List.range (field it 3 1)).map fun i => field it (4 + 4 * i) 4

/-- The kind-2 EXT of a request, if any: its query reference (48 bytes). -/
def requestQuery (items : List Bytes) : Option Bytes :=
  (items.find? fun it => itemOp it == 2 && field it 2 1 == 2).map fun it => slice it 4 48

/-- The stop tokens of a request's kind-1 EXT items, in item order. -/
def requestStops (items : List Bytes) : List Nat :=
  (items.filter fun it => itemOp it == 2 && field it 2 1 == 1).flatMap extStops

/-- The structure of a request's items (R179 row 4). -/
def requestSeqOk (items : List Bytes) : Bool :=
  match items with
  | [] => false
  | a :: t =>
    let n := items.length
    let exts := t
    let q := (t.filter fun it => field it 2 1 == 2).length
    (itemOp a == 1 || itemOp a == 3) && t.all (fun it => itemOp it == 2)
    && (items.zipIdx.all fun x => itemMore x.1 == decide (x.2 + 1 < n)) && decide (n ≤ 8)
    && items.all (fun it => itemPrio it == itemPrio a)
    && bit (iflags a) 6 == decide (0 < q) && decide (q ≤ 1)
    && exts.all (fun it =>
      (field it 2 1 == 1 || field it 2 1 == 2) && bits (iflags it) 6 4 == 0
      && (if field it 2 1 == 1 then
            decide (field it 3 1 ≤ 12) && allZero (slice it (4 + 4 * field it 3 1) (48 - 4 * field it 3 1))
          else field it 3 1 == 0))
    && !(itemOp a == 3 && bit (iflags a) 6)

/-! ## The sampling record (R258, R259) -/

/-- Whether FP32 bits are finite. -/
def fpFinite (x : Nat) : Bool := bits x 30 23 != 255

/-- Whether FP32 bits are finite and above zero. -/
def fpPos (x : Nat) : Bool := fpFinite x && !bit x 31 && x % 2 ^ 31 != 0

/-- R259's check of a sampling record of 128 bytes. -/
def sampOk (r : Bytes) : Bool :=
  let vocab := field r 4 4
  let n := field r 11 1
  r.length == 128 && field r 0 4 == 0x504D4153 && crc32c (r.take 32 ++ [0, 0, 0, 0] ++ r.drop 36) == field r 32 4
  && decide (2 ≤ vocab) && decide (vocab ≤ 2 ^ 20) && decide (field r 8 1 ≤ 64) && decide (field r 9 1 ≤ 64)
  && decide (field r 10 1 < 4) && decide (n ≤ 8)
  && fpPos (field r 12 4) && fpPos (field r 16 4) && decide (field r 16 4 ≤ 0x3F800000)
  && fpPos (field r 20 4) && fpFinite (field r 24 4) && fpFinite (field r 28 4)
  && allZero (slice r 36 28) && allZero (slice r 96 32) && allZero (slice r (64 + 4 * n) (4 * (8 - n)))
  && ((List.range n).all fun i => decide (field r (64 + 4 * i) 4 < vocab))

/-- The stop tokens a record uses. -/
def sampStops (r : Bytes) : List Nat := (List.range (field r 11 1)).map fun i => field r (64 + 4 * i) 4

/-- The copy of a GREEDY request (R259): VOCAB 0, ARGMAX set, every penalty disabled. The fields an argmax never reads are written as a
record that cuts nothing. -/
def greedyRecord : Bytes :=
  leBytes 4 0x504D4153 ++ leBytes 4 0 ++ [0, 0, 2, 0] ++ leBytes 4 0x3F800000 ++ leBytes 4 0x3F800000
  ++ leBytes 4 0x3F800000 ++ leBytes 4 0 ++ leBytes 4 0 ++ List.replicate 96 0

end Sys2Proof.Machine
end

