-- ==== Sys2Proof/Machine/KvBase.lean ====
section
/-!
DEFINITION. Machine/KvBase.lean: model geometry, page sizes, page lists and heap allocation (spec/07_kv_state_and_attention.md R188 to
R200, R206 to R208), and pool frames (spec/11_memory_tiers.md R312).
-/

namespace Sys2Proof.Machine

/-! ## Model records (R188 to R190) -/

/-- The record 64 bytes spell. -/
def KvModel.read (b : Bytes) : KvModel :=
  { model := field b 0 2, pageLog2 := field b 2 1, fmt := field b 3 1, layers := field b 4 2, heads := field b 6 2
    dim := field b 8 2, qPerKv := field b 10 2, shards := field b 12 2, windowed := bit (field b 14 1) 0
    window := field b 16 4, chunk := field b 20 4, scale := field b 24 4, raw := b }

/-- Positions of a page. -/
def KvModel.np (m : KvModel) : Nat := 2 ^ m.pageLog2

/-- Layers of a shard. -/
def KvModel.ls (m : KvModel) : Nat := m.layers / m.shards

/-- A head block's bytes for n positions (R192, R211): 2 n D e + n D / 16, with e = 1/2 for E2M1. -/
def KvModel.headBlock (m : KvModel) (n : Nat) : Nat :=
  (if m.fmt = 8 then n * m.dim else 2 * n * m.dim) + n * m.dim / 16

/-- Page bytes of one shard (R192). -/
def KvModel.pageBytes (m : KvModel) : Nat := m.ls * m.heads * m.headBlock m.np

/-- A section's compression blocks: one per 4,096 bytes of its tensor (R113, R114). -/
def sectionBlocks (bytes : Nat) : Nat := ceilDiv bytes 4096

/-- Compression blocks of one shard's page: four sections per head block (R194). -/
def KvModel.pageBlocks (m : KvModel) : Nat :=
  let elem := if m.fmt = 8 then m.np * m.dim / 2 else m.np * m.dim
  let scale := m.np * m.dim / 32
  m.ls * m.heads * (2 * sectionBlocks elem + 2 * sectionBlocks scale)

/-- Rounding up to 4 KiB and to 64 KiB. -/
def up4k (n : Nat) : Nat := ceilDiv n 4096 * 4096
def up64k (n : Nat) : Nat := ceilDiv n 65536 * 65536

/-- A page region's bytes (R194). -/
def KvModel.regionBytes (m : KvModel) : Nat := up4k m.pageBytes + up4k (16 * m.pageBlocks)

/-- A shard's open buffer (R193). -/
def KvModel.openBytes (m : KvModel) : Nat := 192 * m.ls * m.heads * m.dim

/-- A shard's ring of W + 64 positions (R211). -/
def KvModel.ringBytes (m : KvModel) : Nat := up4k (m.ls * m.heads * m.headBlock (m.window + 64))

/-- R189's check of a model record of 64 bytes. -/
def kvModelOk (b : Bytes) : Bool :=
  let m := KvModel.read b
  decide (8 ≤ m.pageLog2) && decide (m.pageLog2 ≤ 12) && (m.fmt == 4 || m.fmt == 5 || m.fmt == 8)
  && decide (1 ≤ m.layers) && decide (m.layers ≤ 1024) && decide (1 ≤ m.heads) && decide (m.heads ≤ 256)
  && decide (32 ≤ m.dim) && decide (m.dim ≤ 512) && m.dim % 32 == 0 && decide (1 ≤ m.qPerKv) && decide (m.qPerKv ≤ 64)
  && decide (1 ≤ m.shards) && decide (m.shards ≤ m.layers) && m.layers % m.shards == 0
  && decide (field b 14 1 < 2) && field b 15 1 == 0
  && (if m.windowed then m.window % 64 == 0 && decide (64 ≤ m.window) && decide (m.window ≤ 2 ^ 20) else m.window == 0)
  && m.chunk % m.np == 0 && decide (m.np ≤ m.chunk) && decide (m.chunk ≤ 2 ^ 16)
  && fpPos m.scale && allZero (slice b 32 32)
  && crc32c (b.take 28 ++ [0, 0, 0, 0] ++ b.drop 32) == field b 28 4
  && decide (m.regionBytes ≤ 2 ^ 30) && decide (m.shards * m.regionBytes ≤ 2 ^ 34)

/-- The shards the member of rank r of n holds (R190). -/
def shardsOf (shards n r : Nat) : List Nat := (List.range shards).filter fun s => s * n / shards == r

/-- The rank that holds a shard (R190). -/
def shardRank (shards n s : Nat) : Nat := if shards = 0 then 0 else s * n / shards

/-- This device's shards of a model in a paddock. -/
def Dev.myShards (d : Dev) (pad shards : Nat) : List Nat :=
  match d.rankIn pad with
  | some r => shardsOf shards (d.paddockDevs pad).length r
  | none => []

/-- The member device of a paddock that holds a shard. -/
def Dev.shardDev (d : Dev) (pad shards s : Nat) : Option Nat :=
  let ds := d.paddockDevs pad
  ds[shardRank shards ds.length s]?

/-! ## Page lists (R196, R200) -/

/-- Bytes of a page list (R196). -/
def pageListBytes (m : KvModel) (limit : Nat) : Nat :=
  up64k (64 + 16 * m.shards + 32 * (ceilDiv limit m.np) * m.shards)

/-- Np of a list. -/
def PageList.np (p : PageList) : Nat := 2 ^ p.pageLog2

/-- An entry (i, s). -/
def PageList.ent (p : PageList) (i s : Nat) : PageEnt := Tbl.rd (fun _ => {}) p.ents (i * p.shards + s)

/-- Changing an entry. -/
def PageList.setEnt (p : PageList) (i s : Nat) (e : PageEnt) : PageList :=
  { p with ents := Tbl.wr (fun _ => {}) p.ents (i * p.shards + s) e }

/-- Whether every shard's entry of a page passes a test. -/
def PageList.pageAll (p : PageList) (i : Nat) (f : PageEnt → Bool) : Bool := (List.range p.shards).all fun s => f (p.ent i s)

/-- The longest run of page indices from 0 whose entries are all parked or gone, looking at most n pages on (R200). -/
def PageList.runFrom (p : PageList) : Nat → Nat → Nat
  | 0, i => i
  | n + 1, i =>
    if p.pageAll i (fun e => e.state == .parked || e.state == .gone) then p.runFrom n (i + 1) else i

/-- LEN_PARKED by R200. -/
def PageList.parkedLen (p : PageList) : Nat := if p.shards = 0 then 0 else p.np * p.runFrom p.npage 0

/-- The entries of a list, as ((i, s), entry). -/
def PageList.all (p : PageList) : List ((Nat × Nat) × PageEnt) :=
  p.ents.map fun x => ((x.1 / max 1 p.shards, x.1 % max 1 p.shards), x.2)

/-- Returning every entry of page index n or above to `empty` (R218, R239, R241). -/
def PageList.cutFrom (p : PageList) (n : Nat) : PageList :=
  { p with ents := p.ents.filter fun x => decide (x.1 / max 1 p.shards < n), opens := [] }

/-- The gate of R225. -/
def gateOpen (np lenParked kvEnd : Nat) : Bool := decide (np * (kvEnd / np) ≤ lenParked)

/-- The first page index a unit needs to pull (R228). -/
def firstPage (windowed : Bool) (window kvEnd np : Nat) : Nat := if windowed then (kvEnd - window) / np else 0

/-! ## Paddock records (R206, R207) -/

/-- A peloton entry's 16 bytes. -/
def PelEntry.read (b : Bytes) : PelEntry :=
  { period := field b 0 4, maxSeq := field b 4 2, en := bit (field b 6 1) 0, phase := field b 8 8 }

/-- A peloton entry is in range (R206). -/
def pelOk (b : Bytes) : Bool :=
  let e := PelEntry.read b
  decide (field b 6 1 < 2) && field b 7 1 == 0 &&
  if e.en then decide (500000 ≤ e.period) && decide (e.period ≤ 25000000) && decide (1 ≤ e.maxSeq) && decide (e.maxSeq ≤ 2048)
  else e.period == 0 && e.maxSeq == 0 && e.phase == 0

/-- The record 512 bytes spell. -/
def KvPaddock.read (b : Bytes) : KvPaddock :=
  { preSlot := field b 2 1 % 16, decSlot := field b 3 1 % 16, draftSlot := field b 4 1 % 16, draftEn := bit (field b 4 1) 7
    draftLead := field b 8 4, heapBase := field b 16 8, heapSize := field b 24 8
    pels := (chunks 16 26 (slice b 64 416)).map PelEntry.read }

/-- The fields of a paddock record are in range, its reserved fields zero and its CRC right (R207). -/
def kvPaddockFieldsOk (b : Bytes) : Bool :=
  decide (field b 2 1 < 16) && decide (field b 3 1 < 16) && bits (field b 4 1) 6 4 == 0 && allZero (slice b 5 3)
  && decide (field b 8 4 ≤ 2 ^ 24) && crc32c (b.take 12 ++ [0, 0, 0, 0] ++ b.drop 16) == field b 12 4
  && field b 0 2 != 0 && field b 16 8 % 4096 == 0 && field b 24 8 % 4096 == 0
  && allZero (slice b 32 32) && (chunks 16 26 (slice b 64 416)).all pelOk && allZero (slice b 480 32)

/-- The mask of a record's EN bits (R551). -/
def KvPaddock.mask (p : KvPaddock) : Nat := natOfBits (p.pels.map (·.en))

/-- The smallest n with x ≤ 2^n, trying up to `fuel`. -/
def clog2 : Nat → Nat → Nat
  | 0, n => n
  | f + 1, x => if x ≤ 1 then 0 else 1 + clog2 f (ceilDiv x 2)

/-- The length bucket of a stall (R208). -/
def bucketOf (lenCommit : Nat) : Nat := if lenCommit ≤ 1024 then 0 else min 12 (clog2 32 lenCommit - 10)

/-- The peloton entry of a stall: its bucket, and 13 more for the freewheel classes (R206, R208). -/
def pelOf (lenCommit cls : Nat) : Nat := bucketOf lenCommit + if cls ≤ 3 then 0 else 13

/-! ## Allocation -/

/-- The lowest start of n free bytes in [base, base + size), given the ranges in use: among the base and the ends of the ranges in
use, the lowest that fits (DESIGN CHOICE, log entry 22: which free range the part takes is not in the spec). -/
def lowestFit (base size align n : Nat) (used : List (Nat × Nat)) : Option Nat :=
  let up := fun x => ceilDiv x align * align
  let cands := (base :: used.map fun r => r.1 + r.2).map up
  let ok := cands.filter fun c => decide (base ≤ c) && decide (c + n ≤ base + size) &&
    used.all fun r => decide (c + n ≤ r.1) || decide (r.1 + r.2 ≤ c) || n == 0 || r.2 == 0
  match ok with
  | [] => none
  | a :: t => some (t.foldl min a)

/-- The regions allocated in a paddock's heap. -/
def Dev.heap (d : Dev) (pad : Nat) : List Region := Tbl.rd (fun _ => []) d.kv.regions pad

/-- Changing a heap. -/
def Dev.setHeap (d : Dev) (pad : Nat) (l : List Region) : Dev :=
  { d with kv.regions := Tbl.wr (fun _ => []) d.kv.regions pad l }

/-- Allocating one region in a paddock's heap; none where the heap cannot supply it or there is no record. -/
def Dev.alloc (d : Dev) (pad size key : Nat) (use : RegionUse) (page shard : Nat) : Option (Region × Dev) :=
  match Tbl.at? d.kv.paddocks pad with
  | none => none
  | some p =>
    match lowestFit p.heapBase p.heapSize 4096 size ((d.heap pad).map fun r => (r.base, r.size)) with
    | none => none
    | some b =>
      let r : Region := { base := b, size := size, key := key, use := use, page := page, shard := shard }
      some (r, d.setHeap pad (d.heap pad ++ [r]))

/-- Allocating several regions, all or none. -/
def Dev.allocAll (d : Dev) (pad key : Nat) : List (RegionUse × Nat × Nat × Nat) → Option Dev
  | [] => some d
  | (u, i, s, n) :: t =>
    match d.alloc pad n key u i s with
    | none => none
    | some (_, d) => d.allocAll pad key t

/-- The byte key of an offset in this device's channel groups of a paddock (spaces 1 and 5 of R139): groups in ascending number, 32 GiB
each; offsets past the last group fall in none. -/
def Dev.hbmKey (d : Dev) (pad off : Nat) : Nat :=
  let mask := ((d.ownMember pad).map (·.chgrps)).getD 0
  let gs := (List.range 32).filter fun g => bit mask g
  memKey 1 (gs.getD (off / 2 ^ 35) 32 * 2 ^ 35 + off % 2 ^ 35)

/-- Freeing the regions of a stall in a paddock's heap that a test names. -/
def Dev.freeRegions (d : Dev) (pad key : Nat) (f : Region → Bool) : Dev :=
  d.setHeap pad ((d.heap pad).filter fun r => !(r.key == key && r.use != .parked && f r))

/-- Raising KV_HEAP_LOW for a paddock, at most once per 2^20 beats (R216). -/
def Dev.heapLow (d : Dev) (pad : Nat) : Dev :=
  if rateOk (Tbl.at? d.kv.heapLowEvt pad) d.now then
    ({ d with kv.heapLowEvt := Tbl.put d.kv.heapLowEvt pad d.now }).raise (plainEvt C.KV_HEAP_LOW) 0 0 pad
  else d

/-- The key of a stall of a home. -/
def stallKey (home stall : Nat) : Nat := home * 2 ^ 17 + stall

/-! ## Pool frames (R312) -/

/-- The groups of the pool this device may take frames from: set in GRP_MASK, and not placed in a paddock by the pending map. -/
def Dev.poolGroups (d : Dev) : List Nat :=
  let claimed := match d.comp.pending with
    | some m => (m.memberships d.me).foldl (fun a x => Nat.lor a x.chgrps) 0
    | none => 0
  (List.range 32).filter fun g => bit (d.fld F.MEM_POOL_GRP_MASK) g && !bit claimed g && !d.memt.badGroups.contains g

/-- The lowest n free frames of a group (`fuel` frames are looked at from f on). -/
def freeFramesIn (used : Tbl Nat) (g : Nat) : Nat → Nat → Nat → List Nat
  | 0, _, _ => []
  | _, _, 0 => []
  | fuel + 1, f, n + 1 =>
    let k := g * 2 ^ 19 + f
    if (Tbl.at? used k).isNone then k :: freeFramesIn used g fuel (f + 1) n else freeFramesIn used g fuel (f + 1) (n + 1)

/-- Frames of the pool groups in use, and those used by tiered units. -/
def Dev.framesUsed (d : Dev) (gs : List Nat) : Nat := (d.memt.frames.filter fun x => gs.contains (x.1 / 2 ^ 19)).length
def Dev.framesTiered (d : Dev) (gs : List Nat) : Nat :=
  (d.memt.frames.filter fun x => gs.contains (x.1 / 2 ^ 19) && x.2 == 4).length

/-- Free frames of the pool. -/
def Dev.framesFree (d : Dev) : Nat := d.poolGroups.length * 2 ^ 19 - d.framesUsed d.poolGroups

/-- The lowest n free frames over some groups. -/
def pickFrames (used : Tbl Nat) : List Nat → Nat → List Nat
  | [], _ => []
  | g :: t, n =>
    let l := freeFramesIn used g (used.length + n) 0 n
    l ++ pickFrames used t (n - l.length)

/-- Taking n frames for a user of R312's order: users 1 to 3 leave TIER_MIN frames for tiered units. -/
def Dev.takeFrames (d : Dev) (n order : Nat) : Option (List Nat × Dev) :=
  let gs := d.poolGroups
  let floor := if order < 4 then d.fld F.MEM_POOL_TIER_MIN - d.framesTiered gs else 0
  if d.framesFree < n + floor then none
  else
    let l := (pickFrames d.memt.frames gs n).take n
    if l.length < n then none
    else some (l, { d with memt.frames := l.foldl (fun t k => Tbl.put t k order) d.memt.frames })

/-- Giving frames back. -/
def Dev.giveFrames (d : Dev) (l : List Nat) : Dev := { d with memt.frames := l.foldl (fun t k => Tbl.del t k) d.memt.frames }

end Sys2Proof.Machine
end

