-- ==== Sys2Proof/Machine/MemBase.lean ====
section
/-!
DEFINITION. Machine/MemBase.lean: regions of the unified range, the states of their units, frames, moves and write-backs
(spec/11_memory_tiers.md R306 to R319). The bytes at a space-4 address lie at memory key 4 whatever tier holds them: a move
changes no value.
-/

namespace Sys2Proof.Machine

/-! ## Ranges of memory -/

/-- Making a range of memory hold exactly the given bytes, by offset; every other byte of it reads as zero. -/
def Dev.fillRange (d : Dev) (a n : Nat) (cells : List (Nat × Byte)) : Dev :=
  { d with mem := d.mem.filter (fun c => decide (c.1 < a)) ++ cells.map (fun c => (a + c.1, c.2))
                  ++ d.mem.filter fun c => decide (a + n ≤ c.1) }

/-- The bytes of a range that are listed, by offset. -/
def Dev.cellsOf (d : Dev) (a n : Nat) : List (Nat × Byte) :=
  (d.mem.filter fun c => decide (a ≤ c.1) && decide (c.1 < a + n)).map fun c => (c.1 - a, c.2)

/-- The poisoned lines of a range of whole lines, by line from its start. -/
def Dev.badLines (d : Dev) (a n : Nat) : List Nat :=
  (d.poison.filter fun l => decide (a ≤ 64 * l) && decide (64 * l < a + n)).map (· - a / 64)

/-- Making exactly the given lines of a range of whole lines poisoned. -/
def Dev.fillPoison (d : Dev) (a n : Nat) (lines : List Nat) : Dev :=
  { d with poison := d.poison.filter (fun l => decide (64 * l < a)) ++ lines.map (· + a / 64)
                     ++ d.poison.filter fun l => decide (a + n ≤ 64 * l) }

/-- Copying a range, with its poison. -/
def Dev.copyRange (d : Dev) (src dst n : Nat) : Dev :=
  let cells := d.cellsOf src n
  let lines := d.badLines src n
  (d.fillRange dst n cells).fillPoison dst n lines

/-- The poison of the lines that a range covers whole is cleared, as a clean write of the range does (R127). -/
def Dev.cleanLines (d : Dev) (a n : Nat) : Dev :=
  let first := ceilDiv a 64
  let last := (a + n) / 64
  if first < last then d.setPoison (64 * first) (64 * (last - first)) false else d

/-- Writing bytes with or without poison (R127): a poisoned write poisons its lines; a clean write of a whole line clears it. -/
def Dev.storeP (d : Dev) (a : Nat) (data : Bytes) (poison : Bool) : Dev :=
  let d := d.store a data
  if data.isEmpty then d
  else if poison then d.setPoison a data.length true
  else d.cleanLines a data.length

/-- Writing elements of one width, each with or without poison, as one write (R127). -/
def Dev.storeElems (d : Dev) (a width : Nat) (es : List (Nat × Bool)) : Dev :=
  es.zipIdx.foldl (fun d x => if x.1.2 then d.setPoison (a + width * x.2) width true else d)
    (d.storeP a (es.flatMap fun x => leBytes width x.1) false)

/-! ## Regions and units (R306, R307, R314) -/

/-- Units of 64 KiB. -/
def memUnit : Nat := 65536
def unitKey (u : Nat) : Nat := memKey 4 (u * memUnit)

/-- Whether a region is pinned, and which tiers its units may occupy. -/
def MemRegion.pinned (r : MemRegion) : Bool := r.tiers == 1 || r.tiers == 2
def MemRegion.allowsHbm (r : MemRegion) : Bool := bit r.tiers 0
def MemRegion.allowsHost (r : MemRegion) : Bool := bit r.tiers 1
def MemRegion.allowsHay (r : MemRegion) : Bool := bit r.tiers 2

/-- The units of a region. -/
def MemRegion.unitCount (r : MemRegion) : Nat := r.size / memUnit
def MemRegion.holdsUnit (r : MemRegion) (u : Nat) : Bool := decide (r.base ≤ u * memUnit) && decide (u * memUnit < r.base + r.size)

/-- The region of a unit. -/
def Dev.regionOf (d : Dev) (u : Nat) : Option MemRegion := (d.memt.regions.find? fun x => x.2.holdsUnit u).map (·.2)

/-- The region of a unit that takes accesses: defined and not being removed (R306, R310). -/
def Dev.openRegion (d : Dev) (u : Nat) : Option MemRegion :=
  match d.regionOf u with
  | some r => if r.removing.isNone then some r else none
  | none => none

/-- The units a range touches. -/
def unitsOf (a n : Nat) : List Nat := if n = 0 then [] else (List.range ((a + n - 1) / memUnit + 1 - a / memUnit)).map (a / memUnit + ·)

/-- Whether every byte of a range of the unified range may be accessed (R306): MEM_CTRL.EN and a region at each unit. -/
def Dev.mapped (d : Dev) (a n : Nat) : Bool := d.flag F.MEM_CTRL_EN && (unitsOf a n).all fun u => (d.openRegion u).isSome

/-- Whether a range lies in regions pinned to HBM (R276, R307). -/
def Dev.pinnedHbm (d : Dev) (a n : Nat) : Bool := (unitsOf a n).all fun u =>
  match d.openRegion u with
  | some r => r.tiers == 1
  | none => false

/-- What a unit of a region starts as (R309). -/
def MemRegion.start (r : MemRegion) (u : Nat) : MUnit :=
  if r.pinned then
    { state := if r.tiers == 1 then .hbm else .host, frame := r.frames.getD (u - r.base / memUnit) 0, hayValid := r.adopt }
  else if r.adopt then { state := .hay, hayValid := true }
  else {}

/-- A unit, and changing it. -/
def Dev.unitDef (d : Dev) (u : Nat) : MUnit := match d.regionOf u with | some r => r.start u | none => {}
def Dev.unit (d : Dev) (u : Nat) : MUnit := Tbl.rd d.unitDef d.memt.units u
def Dev.setUnit (d : Dev) (u : Nat) (x : MUnit) : Dev := { d with memt.units := Tbl.wr d.unitDef d.memt.units u x }

/-- The first hayloft block of a unit's backing (R319). -/
def MemRegion.backing (r : MemRegion) (u : Nat) : Option Nat := r.lba.map fun l => l + 16 * (u - r.base / memUnit)

/-! ## Frames (R312, R313) -/

/-- The lowest number not in a list. -/
def lowestGap (used : List Nat) : Nat := ((List.range (used.length + 1)).find? fun k => !used.contains k).getD 0

/-- Free host frames. -/
def Dev.hostFree (d : Dev) : Nat := d.fld F.MEM_HOST_SIZE_SIZE - d.memt.host.length

/-- Taking an HBM frame for a tiered unit, or a host frame. -/
def Dev.takeHbm (d : Dev) : Option (Nat × Dev) :=
  match d.takeFrames 1 4 with
  | some (k :: _, d) => some (k, d)
  | _ => none
def Dev.takeHost (d : Dev) : Option (Nat × Dev) :=
  let k := lowestGap d.memt.host
  if k < d.fld F.MEM_HOST_SIZE_SIZE then some (k, { d with memt.host := d.memt.host ++ [k] }) else none

/-- Taking a frame where a region's units may lie: HBM first, otherwise host (R314). -/
def Dev.takeFrame (d : Dev) (r : MemRegion) : Option (UnitState × Nat × Dev) :=
  match (if r.allowsHbm then d.takeHbm else none) with
  | some (k, d) => some (.hbm, k, d)
  | none =>
    match (if r.allowsHost then d.takeHost else none) with
    | some (k, d) => some (.host, k, d)
    | none => none

/-- Giving back the frame a unit holds in a tier. -/
def Dev.giveFrame (d : Dev) (st : UnitState) (frame : Nat) : Dev :=
  match st with
  | .hbm => d.giveFrames [frame]
  | .host => { d with memt.host := d.memt.host.filter (· != frame) }
  | _ => d

/-! ## Write-backs (R319) -/

/-- Starting the write-back of a unit: the snapshot is taken as 16 hayloft writes and DIRTY clears. A unit with a poisoned line is not
written back: the write-back is abandoned and the unit stays resident, dirty and poisoned in that line (R324). -/
def Dev.startWb (d : Dev) (u lba : Nat) : Dev :=
  let d := { d with memt.wbWant := d.memt.wbWant.filter (· != u) }
  if d.poisoned (unitKey u) memUnit then d
  else
    let ws := (List.range 16).map fun k => ({ lba := lba + k, cells := d.cellsOf (unitKey u + 4096 * k) 4096, owner := .unit u } : HayWrite)
    let d := { d with memt.wbs := d.memt.wbs ++ [u], hay.queue := d.hay.queue ++ ws }
    d.setUnit u { d.unit u with dirty := false }

/-- Starting the write-backs that wait, at most 256 in flight; a unit with one in flight waits for it. -/
def Dev.pumpWb (d : Dev) : Dev :=
  d.memt.wbWant.foldl (fun d u =>
    match (d.regionOf u).bind (·.backing u) with
    | none => d
    | some lba => if d.memt.wbs.length < 256 && !d.memt.wbs.contains u then d.startWb u lba else d) d

/-- Asking for the write-back of a unit. -/
def Dev.wantWb (d : Dev) (u : Nat) : Dev := ({ d with memt.wbWant := addOnce d.memt.wbWant u }).pumpWb

/-! ## Moves (R314, R315) -/

/-- Moves in flight. -/
def Dev.moves (d : Dev) : Nat := (d.memt.units.filter fun x => x.2.state == .moving).length

/-- Beginning a move of a unit to a tier whose frame is taken, or to the hayloft. -/
def Dev.beginMove (d : Dev) (u : Nat) (dst : UnitState) (frame : Nat) : Dev :=
  let x := d.unit u
  d.setUnit u { x with state := .moving, src := x.state, dst := dst, dstFrame := frame, restarts := 0 }

/-- Abandoning a move: the unit returns to its source state. -/
def Dev.abandonMove (d : Dev) (u : Nat) : Dev :=
  let x := d.unit u
  let d := d.giveFrame x.dst x.dstFrame
  d.setUnit u { x with state := x.src, src := .absent, dst := .absent, dstFrame := 0, restarts := 0 }

/-- A demand fetch (R314): to HBM if allowed and a frame is free, otherwise to host; none where no slot or no frame is free. -/
def Dev.fetch (d : Dev) (u : Nat) (r : MemRegion) : Option Dev :=
  if 1024 ≤ d.moves then none
  else match d.takeFrame r with
    | some (st, k, d) => some (d.beginMove u st k)
    | none => none

/-- Promotion of a unit in `host` to HBM, given the slots it must leave (R315, R316). -/
def Dev.promoteUnit (d : Dev) (u slots : Nat) : Option Dev :=
  if slots ≤ d.moves || d.now < (d.unit u).still then none
  else match d.takeHbm with
    | some (k, d) => some (d.beginMove u .hbm k)
    | none => none

/-- What a store does to a unit that holds data: DIRTY where the region is backed (R319), and a copy under way starts again; the
fourth restart abandons the move (R314). -/
def Dev.storedTo (d : Dev) (u : Nat) (r : MemRegion) : Dev :=
  let x := d.unit u
  let x := if r.lba.isSome && !x.dirty then { x with dirty := true, since := d.now } else x
  let d := d.setUnit u x
  if x.state != .moving then d
  else if 3 ≤ x.restarts then
    let d := d.abandonMove u
    d.setUnit u { d.unit u with still := d.now + 2 ^ 16 }
  else
    let d := d.setUnit u { x with restarts := x.restarts + 1 }
    if x.dst == .hay then d.wantWb u else d

/-- Every access adds 1 to the heat of a tiered unit (R316). -/
def Dev.warmed (d : Dev) (u : Nat) (r : MemRegion) : Dev :=
  if r.pinned then d else d.setUnit u { d.unit u with heat := min 255 ((d.unit u).heat + 1) }

/-- A unit that takes a frame to be written: from `absent`, a frame of zeros. -/
def Dev.residentAs (d : Dev) (u : Nat) (st : UnitState) (k : Nat) : Dev :=
  d.setUnit u { d.unit u with state := st, frame := k }

/-- The effect on the tiers of an access that has already waited for its unit (a copy that has completed, the part's own reads and
writes): the unit is warmed; where it is not resident and has to be, it takes a frame at once if one is free; a write makes it
dirty. -/
def Dev.touchUnit (d : Dev) (write : Bool) (u : Nat) : Dev :=
  match d.openRegion u with
  | none => d
  | some r =>
    let d := d.warmed u r
    let x := d.unit u
    let needs := x.state == .hay || (write && (x.state == .absent || x.state == .lost))
    let d := if needs then
        match d.takeFrame r with
        | some (st, k, d) => d.residentAs u st k
        | none => d
      else d
    if write then d.storedTo u r else d
def Dev.touch (d : Dev) (a n : Nat) (write : Bool) : Dev := (unitsOf a n).foldl (fun d u => d.touchUnit write u) d

/-- The touch of a memory key: only the unified range has tiers. -/
def Dev.touchKey (d : Dev) (k n : Nat) (write : Bool) : Dev :=
  if k / 2 ^ 64 = 4 then d.touch (k % 2 ^ 64) n write else d

/-- A frame of a unit is lost (R314): a clean unit with a valid hayloft copy returns to `hay`; any other is `lost`, and its lines are
poisoned. Answers whether it was lost. -/
def Dev.frameLost (d : Dev) (u : Nat) : Dev :=
  let d := if (d.unit u).state == .moving then d.abandonMove u else d
  let x := d.unit u
  let d := d.giveFrame x.state x.frame
  if x.hayValid && !x.dirty then d.setUnit u { x with state := .hay, frame := 0 }
  else (d.setUnit u { x with state := .lost, frame := 0 }).setPoison (unitKey u) memUnit true

end Sys2Proof.Machine
end

