-- ==== Sys2Proof/Machine/StallBase.lean ====
section
/-!
DEFINITION. Machine/StallBase.lean: what a home does with a stall: completions, replication to the shadow, delivery, the ends of a
turn, placement and release (spec/06_stalls_and_intake.md R155 to R173, spec/08_panniers.md R217 to R228).
-/

namespace Sys2Proof.Machine

/-! ## Reading and changing a stall -/

/-- A stall of this home. -/
def Dev.stall? (d : Dev) (id : Nat) : Option Stall := Tbl.at? d.stl.stalls id

/-- Writing a stall back as it is. -/
def Dev.putStall (d : Dev) (id : Nat) (x : Stall) : Dev := { d with stl.stalls := Tbl.put d.stl.stalls id x }

/-- The states of an active stall's record that R168 replicates, so that a change of one is seen. -/
def StallRec.watched (r : StallRec) : List Nat :=
  [r.state.code, r.exec, b2n r.execValid, r.mapEpoch, r.deadline, r.tag, b2n r.dlDrop, b2n r.keep, b2n r.shadowOk,
   b2n r.promoted, b2n r.cont, r.lenParked, r.lenCommit, r.lenDeliv]

/-- The PARK descriptors of a list below LEN_PARKED, as R197 copies them to the shadow. -/
def Stall.parkDescs (x : Stall) : List WorkDesc :=
  (x.pages.all.filter fun e => decide (e.1.1 * x.pages.np < x.r.lenParked) && e.2.park.tier != 0).map
    fun e => { page := e.1.1, shard := e.1.2, desc := e.2.park.bytes }

/-- The token log of a stall in memory (R158), and reading it. -/
def tokKey (r : StallRec) (p : Nat) : Nat := memKey 4 (r.tokLog + 4 * p)
def Dev.tok (d : Dev) (r : StallRec) (p : Nat) : Nat := leNat (d.load (tokKey r p) 4)
def Dev.toks (d : Dev) (r : StallRec) (a b : Nat) : List Nat := (List.range (b - a)).map fun i => d.tok r (a + i)

/-- Writing tokens into the token log from a position. -/
def Dev.putToks (d : Dev) (r : StallRec) (p : Nat) : List Nat → Dev
  | [] => d
  | t :: ts => ((d.store (tokKey r p) (leBytes 4 t)).touchKey (tokKey r p) 4 true).putToks r (p + 1) ts

/-- Changing a stall and replicating it where R168 asks: VERSION rises by one, the token log entries from the old LEN_COMMIT and the
PARK descriptors are stored before the record. A stall with SHADOW_OK clear is not replicated (R169). -/
def Dev.setStall (d : Dev) (id : Nat) (old new : Stall) : Dev :=
  if new.r.shadowOk && old.r.watched != new.r.watched then
    let r := { new.r with version := (new.r.version + 1) % 2 ^ 32 }
    let toks := (d.toks r old.r.lenCommit new.r.lenCommit).flatMap (leBytes 4)
    let parks := if old.r.lenParked == new.r.lenParked then [] else (new.parkDescs).flatMap fun w => leBytes 4 w.page ++ leBytes 2 w.shard ++ w.desc
    (d.putStall id { new with r := r }).send .replicate r.shadow
      [id, r.version, old.r.lenCommit, new.r.lenCommit - old.r.lenCommit] (r.bytes ++ toks ++ parks)
  else d.putStall id new

/-- Changing a stall of this home by a function; nothing where it is not in use. -/
def Dev.onStall (d : Dev) (id : Nat) (f : Stall → Stall) : Dev :=
  match d.stall? id with
  | none => d
  | some x => d.setStall id x (f x)

/-! ## Completions of a stall (R487) -/

/-- The ring a stall's completions go to: ALT_RING once it is promoted (R171). -/
def StallRec.cplRing (r : StallRec) : Nat := if r.promoted then r.altRing else r.ring

/-- The opcode the completions of kinds 2 to 4 carry. -/
def StallRec.opcode (r : StallRec) : Nat := if r.cont then 3 else 1

/-- Writing a token completion (kind 2). -/
def Dev.tokenCpl (d : Dev) (r : StallRec) (o : OwedToken) : Dev :=
  d.complete r.cplRing (.stall 2 o.status r.tag r.opcode 0 r.id r.home 0 o.pos o.token o.beat) none

/-- Writing a turn-end completion (kind 3). -/
def Dev.turnCpl (d : Dev) (r : StallRec) (status beat : Nat) : Dev :=
  d.complete r.cplRing (.stall 3 status r.tag r.opcode 0 r.id r.home r.state.code r.lenCommit r.lenDeliv beat) none

/-- Version v has been acknowledged when the shadow holds it or a later one (R170). -/
def acked (held v : Nat) : Bool := decide ((held + 2 ^ 32 - v) % 2 ^ 32 < 2 ^ 31)

/-- The delivery notice to the mirror home after completions are written (R468). -/
def Dev.notice (d : Dev) (x : Stall) (wrote : Bool) (lenDeliv : Nat) (final : Bool) : Dev :=
  if x.side = 1 && wrote then d.send .delivered (partnerOf d.me) [x.r.id, lenDeliv, b2n final] else d

/-- Delivering the tokens whose commit the shadow has acknowledged, in position order, then the turn end that waits behind them
(R169). `held`: the version acknowledged; none for a stall without a shadow. A mirror home writes nothing (R468). -/
def Dev.deliver (d : Dev) (id : Nat) (held : Option Nat) : Dev :=
  match d.stall? id with
  | none => d
  | some x =>
    if x.side = 2 then d.putStall id { x with heldV := if held.isSome then held else x.heldV }
    else
    let ready := fun (o : OwedToken) => !x.r.shadowOk || (match held with | some v => acked v o.version | none => false)
    let now := x.owed.takeWhile ready
    let rest := x.owed.drop now.length
    let d := now.foldl (fun d o => d.tokenCpl x.r o) d
    let r := match now.getLast? with | some o => { x.r with lenDeliv := o.pos + 1 } | none => x.r
    let y := { x with r := r, owed := rest }
    match y.turnEnd with
    | some (st, b) =>
      let d := d.notice x (!now.isEmpty || rest.isEmpty) r.lenDeliv rest.isEmpty
      if rest.isEmpty then (d.turnCpl r st b).setStall id x { y with turnEnd := none } else d.setStall id x y
    | none => (d.notice x (!now.isEmpty) r.lenDeliv false).setStall id x y

/-! ## Bulk segments (R178, R494, R495) -/

/-- Returning segments to the host: OWNER is written 0x01 and the segments are no longer held. -/
def Dev.returnSegs (d : Dev) (segs : List Nat) : Dev :=
  segs.foldl (fun d s => { d with hif.segHeld := d.hif.segHeld.erase s }.put (.owner s)) d

/-! ## Releasing state (R218, R230, R199) -/

/-- Telling every member of a paddock to free the WORK copies and open buffers of a stall (R230, R218). -/
def Dev.releaseWork (d : Dev) (id pad : Nat) : Dev :=
  (d.paddockDevs pad).foldl (fun d m => d.sendRole .releaseNotice m pad [d.me, id, 1]) d

/-- Telling a holder to release a parked region (R199, R201). -/
def Dev.releaseParked (d : Dev) (id page shard : Nat) (x : Desc) : Dev :=
  if x.tier = 0 then d else d.sendRole .releaseNotice x.holder 0 [d.me, id, 0, page, shard]

/-- Releasing every parked region of a stall. -/
def Dev.releaseAllParked (d : Dev) (id : Nat) (p : PageList) : Dev :=
  p.all.foldl (fun d e => d.releaseParked id e.1.1 e.1.2 e.2.park) d

/-- The paddock that holds a stall's WORK copies, or is running its phase. -/
def Phase.paddock : Phase → Option Nat
  | .chunk p .. => some p
  | .ship p _ => some p
  | .pulled p => some p
  | .decode p => some p
  | _ => Option.none

/-- Cancelling a pull under way: its receiving members free what they allocated (R232). -/
def Dev.cancelPull (d : Dev) (id : Nat) (ph : Phase) : Dev :=
  match ph with
  | .ship p _ | .pulled p => (d.paddockDevs p).foldl (fun d m => d.sendRole .releaseNotice m p [d.me, id, 1]) d
  | _ => d

/-- Freeing what the paddocks hold of a stall: the previous paddock's WORK copies, and the current phase's. -/
def Dev.releaseExec (d : Dev) (id : Nat) (x : Stall) : Dev :=
  let d := d.cancelPull id x.phase
  let d := match x.prev with | some p => d.releaseWork id p | none => d
  match x.phase with
  | .decode p | .chunk p .. => if x.prev == some p then d else d.releaseWork id p
  | _ => d

/-! ## Ends of a turn (R162, R218) -/

/-- Retiring a stall to `done`, `late` or `fail` with its final status. -/
def Dev.retire (d : Dev) (id : Nat) (st : StallState) (status : Nat) : Dev :=
  match d.stall? id with
  | none => d
  | some x =>
    let d := d.releaseExec id x
    let d := match st with
      | .late => d.count F.STL_RETIRE_CNT_DEADLINE
      | .fail => d.count F.STL_RETIRE_CNT_FAIL
      | _ => d
    let y := { x with r := { x.r with state := st, status := status }, turnEnd := some (status, d.now), phase := .none
                      prev := none, cancel := false, reTo := none, prePull := none }
    (d.setStall id x y).deliver id none

/-- Resting after a turn (R162, R218): KV_END falls to LEN_PARKED, the entries above return to `empty`, every WORK copy is freed, and
the turn's final completion, OK, follows its tokens. -/
def Dev.rest (d : Dev) (id : Nat) : Dev :=
  match d.stall? id with
  | none => d
  | some x =>
    let d := d.releaseExec id x
    let cut := x.pages.cutFrom (x.r.lenParked / x.pages.np)
    let pages := { cut with kvEnd := x.r.lenParked
                            ents := cut.ents.map fun e => (e.1, { e.2 with work := {} }) }
    let y := { x with r := { x.r with state := .park, execValid := false, lenTent := x.r.lenCommit }
                      pages := pages, turnEnd := some (C.OK, d.now), phase := .none, prev := none, reTo := none
                      restBeat := d.now, cancel := false, prePull := none }
    (d.setStall id x y).deliver id none

/-- The end of a turn: `park` with KEEP set, else `done` (R162). -/
def Dev.endTurn (d : Dev) (id : Nat) : Dev :=
  match d.stall? id with
  | none => d
  | some x => if x.r.keep then d.rest id else d.retire id .done C.OK

/-! ## Placement (R205, R228, R549) -/

/-- The paddocks of a role that serve a model in the current map, none of whose members is lost, ascending. -/
def Dev.servers (d : Dev) (role model : Nat) : List Nat :=
  d.allPaddocks.filter fun p =>
    d.paddockRole p == role && ((d.comp.cur.paddock p).head?.map (·.model)) == some model && d.paddockUp p

/-- Whether a generation paddock's peloton entry is enabled, by the mask last announced (R551). -/
def Dev.pelEnabled (d : Dev) (pad entry : Nat) : Bool := bit (Tbl.rd (fun _ => 0) d.kv.masks pad) entry

/-- Stalls this home has placed in a paddock in `ship` or `decode`. -/
def Dev.placedIn (d : Dev) (pad : Nat) : Nat :=
  (d.stl.stalls.filter fun x => (x.2.r.state == .ship || x.2.r.state == .decode) && x.2.phase.paddock == some pad).length

/-- The generation paddock R228 chooses among some: the fewest stalls placed, then the lowest PADDOCK_ID. -/
def Dev.chooseGen (d : Dev) (cands : List Nat) (r : StallRec) : Option Nat :=
  (cands.filter fun p => d.pelEnabled p (pelOf r.lenCommit r.cls)).foldl (fun b p =>
    match b with
    | none => some p
    | some q => if d.placedIn p < d.placedIn q then some p else some q) none

/-- The model record a home holds (R205). -/
def Dev.model? (d : Dev) (m : Nat) : Option KvModel := Tbl.at? d.kv.models m

/-- The bytes of a PARK descriptor list in a notice. -/
def parkListBytes (l : List WorkDesc) : Bytes := l.flatMap fun w => leBytes 4 w.page ++ leBytes 2 w.shard ++ w.desc

/-- Sending a ship notice to every member of a paddock that holds shards (R228), a pre-pull where `pre` (R236); answers the members. -/
def Dev.sendShip (d : Dev) (id pad : Nat) (x : Stall) (m : KvModel) (prev : Option Nat) (pre : Bool) : Dev × List Nat :=
  let devs := d.paddockDevs pad
  let members := (devs.zipIdx.filter fun y => !(shardsOf m.shards devs.length y.2).isEmpty).map (·.1)
  let first := firstPage m.windowed m.window x.pages.kvEnd m.np
  let parks := (x.pages.all.filter fun e => e.2.park.tier != 0 && decide (first ≤ e.1.1)).map
    fun e => ({ page := e.1.1, shard := e.1.2, desc := e.2.park.bytes } : WorkDesc)
  let d := members.foldl (fun d y => d.sendRole .shipNotice y pad
    ([id, d.me, pad, x.pages.kvEnd, first, (match prev with | some p => p + 1 | none => 0), parks.length, x.penFrom, b2n pre] ++ x.stops)
    (x.r.bytes ++ parkListBytes parks ++ x.sampCopy ++ (d.toks x.r 0 x.r.lenCommit).flatMap (leBytes 4))) d
  (d, members)

/-- Starting a pull into a paddock (R228): the stall's phase becomes the ship. -/
def Dev.startPull (d : Dev) (id pad : Nat) (m : KvModel) : Dev :=
  match d.stall? id with
  | none => d
  | some x =>
    let prev := match x.prev with | some p => if d.paddockUp p then some p else none | none => none
    let (d, members) := d.sendShip id pad x m prev false
    d.setStall id x { x with phase := .ship pad members
                             r := { x.r with exec := (d.rank0Of pad).getD 0, execValid := true, mapEpoch := d.comp.cur.epoch } }

/-- Placing a stall in `ship` (R162, R228, R549): the chosen generation paddock pulls it; where none may take it, or the gate of R225 is
closed, it waits. -/
def Dev.placeGen (d : Dev) (id : Nat) : Dev :=
  match d.stall? id with
  | none => d
  | some x =>
    let d := d.onStall id fun y => { y with phase := .waitGen }
    match d.model? x.r.model with
    | none => d.retire id .fail C.KV_NO_MODEL
    | some m =>
      if !gateOpen m.np x.r.lenParked x.pages.kvEnd then d
      else
        let target := match x.prePull with
          | some p => if (d.servers 2 x.r.model).contains p then some p else d.chooseGen (d.servers 2 x.r.model) x.r
          | none => d.chooseGen (d.servers 2 x.r.model) x.r
        match target with
        | none => d
        | some p => d.startPull id p m

/-- A stall that is to move pulls ahead into its target (R236): the pages parked so far. -/
def Dev.prePullNow (d : Dev) (id : Nat) : Dev :=
  match d.stall? id with
  | none => d
  | some x =>
    match x.prePull, d.model? x.r.model with
    | some p, some m => if x.r.state == .decode then (d.sendShip id p x m none true).1 else d
    | _, _ => d

/-- The position a turn's prefill, or a re-prefill, runs up to (R191, R241). -/
def Stall.prefillEnd (x : Stall) : Nat :=
  match x.reTo with
  | some n => n
  | none => if x.r.lenPrompt < x.r.lenLimit then x.r.lenPrompt - 1 else x.r.lenPrompt

/-- After the last chunk (R162): on to generation, or the end of a prefill-only turn. -/
def Dev.prefillDone (d : Dev) (id : Nat) : Dev :=
  match d.stall? id with
  | none => d
  | some x =>
    if x.r.lenPrompt < x.r.lenLimit then
      (d.onStall id fun y => { y with r := { y.r with state := .ship }, reTo := none }).placeGen id
    else d.endTurn id

/-- Starting or continuing a prefill (R162, R205, R549): nothing is left to write, or the stall waits for a prompt paddock. -/
def Dev.placePrompt (d : Dev) (id : Nat) : Dev :=
  match d.stall? id with
  | none => d
  | some x =>
    if x.prefillEnd ≤ x.pages.kvEnd then d.prefillDone id
    else
      match d.model? x.r.model with
      | none => d.retire id .fail C.KV_NO_MODEL
      | some m =>
        let d := d.onStall id fun y => { y with phase := .waitPrompt }
        if !gateOpen m.np x.r.lenParked x.pages.kvEnd then d
        else match (d.servers 1 x.r.model).head? with
          | none => d
          | some p =>
            if x.prev == some p || x.pages.kvEnd = 0 then d.onStall id fun y => { y with phase := .pulled p }
            else d.startPull id p m

/-- Whether a deadline is passed at a beat (R164). -/
def StallRec.passed (r : StallRec) (beat : Nat) : Bool := r.deadline != 0 && decide (r.deadline ≤ beat)

/-- A boundary of a waiting stall (R549): a cancel retires it at once; a passed deadline retires it; otherwise the placement is tried
again. `beat`: the beat compared with the deadline, where this try is one that tests it. -/
def Dev.retry (d : Dev) (id : Nat) (beat : Option Nat) : Dev :=
  match d.stall? id with
  | none => d
  | some x =>
    let waits := match x.phase with | .waitPrompt | .waitGen => true | _ => false
    if !waits || x.copying then d
    else if x.cancel then d.retire id .late C.STL_CANCELLED
    else if (match beat with | some b => x.r.passed b | none => false) then d.retire id .late C.STL_DEADLINE
    else if x.phase == .waitGen then d.placeGen id else d.placePrompt id

/-- Every waiting stall of this home tries again (R549). -/
def Dev.retryAll (d : Dev) (beat : Option Nat) : Dev := (Tbl.keys d.stl.stalls).foldl (fun d id => d.retry id beat) d

/-! ## Parks as the home sees them (R199, R200, R222, R226) -/

/-- The cache paddock of a model: the lowest PADDOCK_ID serving it (R222). -/
def Dev.cachePaddock (d : Dev) (model : Nat) : Option Nat :=
  (d.allPaddocks.filter fun p => d.paddockRole p == 3 && ((d.comp.cur.paddock p).head?.map (·.model)) == some model).head?

/-- The holder R222 gives an entry: from its own rank on, the first that is not lost and has not refused the region. -/
def Dev.holderFor (d : Dev) (pad id i s shards : Nat) (refused : List Nat) : Option Nat :=
  let ds := d.paddockDevs pad
  let n := ds.length
  let start := (id + i * shards + s) % max 1 n
  ((List.range n).map fun k => (start + k) % n).findSome? fun rank =>
    match ds[rank]? with
    | some x => if d.isLost (d.resolve x) || refused.contains rank then none else some x
    | none => none

/-- Raising PAN_PARK_FULL or PAN_NO_CACHE at most once per 2^20 beats per stall (R226). -/
def Dev.parkEvent (d : Dev) (id : Nat) (e : Evt) : Dev :=
  match d.stall? id with
  | none => d
  | some x =>
    if rateOk x.parkEvt d.now then (d.putStall id { x with parkEvt := some d.now }).raise e 0 0 id else d

/-- The 64 header bytes of a pannier (R219): kind, flags, regions, page size, stall, home, sender, epoch, role epoch, PULL_ID, model,
shards, SEQ, KV_END, body length; with its CRC. -/
def panHeader (kind flags npage pageLog2 stall home sender epoch roleEpoch pullId model shards seq kvEnd len : Nat) : Bytes :=
  let h := leBytes 4 0x50414E4E ++ leBytes 1 kind ++ leBytes 1 flags ++ leBytes 1 npage ++ leBytes 1 pageLog2
    ++ leBytes 4 stall ++ leBytes 2 home ++ leBytes 2 sender ++ leBytes 4 epoch ++ leBytes 4 roleEpoch ++ leBytes 4 pullId
    ++ leBytes 2 model ++ leBytes 2 shards ++ leBytes 4 seq ++ leBytes 4 kvEnd ++ leBytes 8 len
  h ++ leBytes 4 (crc32c (h ++ List.replicate 16 0)) ++ List.replicate 12 0

/-- A page entry's 16 bytes (R220). -/
def pageEntry (page shard fill : Nat) (cmp : Bool) (crc : Nat) : Bytes :=
  leBytes 4 page ++ leBytes 2 shard ++ leBytes 2 fill ++ leBytes 1 (b2n cmp) ++ [0, 0, 0] ++ leBytes 4 crc

/-- Parking an entry with a holder (R223). Where this device holds the WORK copy it sends the park pannier; otherwise it asks the
device that holds it. -/
def Dev.sendPark (d : Dev) (id i s : Nat) (x : Stall) (h pad : Nat) : Dev :=
  let e := x.pages.ent i s
  if e.work.holder != d.me then d.sendRole .parkAsk e.work.holder 0
      [id, i, s, h, pad, d.roleEpochOf h, x.r.model, x.pages.pageLog2, x.pages.shards, x.pages.kvEnd, e.work.fill, b2n e.work.cmp, e.work.crc]
  else
    let seq := Tbl.rd (fun _ => 0) d.pan.parkSeq h
    let src := x.prev.getD ((x.phase.paddock).getD 0)
    let reg := (d.heap src).find? fun r => r.key == stallKey d.me id && r.use == .page && r.page == i && r.shard == s
    let body := match reg with
      | some r => d.load (d.hbmKey src r.base) r.size
      | none => match d.pan.held.find? fun r => r.home == d.me && r.stall == id && r.page == i && r.shard == s with
        | some r => r.body
        | none => []
    let hdr := panHeader 2 0 1 x.pages.pageLog2 id d.me d.me d.comp.cur.epoch (d.roleEpochOf h) 0 x.r.model x.pages.shards seq
      x.pages.kvEnd (16 + body.length)
    let d := (d.count F.PAN_PARK_CNT_SENT).sendRole .parkPannier h pad []
      (hdr ++ pageEntry i s e.work.fill e.work.cmp e.work.crc ++ body)
    { d with pan.parkSeq := Tbl.wr (fun _ => 0) d.pan.parkSeq h ((seq + 1) % 2 ^ 32) }

/-- Asking the device that holds an entry's WORK copy to park it (R222, R223): the request names the holder; where no rank remains or
there is no cache paddock, the entry stays `full` and the event is raised (R226). -/
def Dev.askPark (d : Dev) (id i s : Nat) : Dev :=
  match d.stall? id with
  | none => d
  | some x =>
    let e := x.pages.ent i s
    match d.cachePaddock x.r.model with
    | none => d.parkEvent id E.PAN_NO_CACHE
    | some pad =>
      match d.holderFor pad id i s x.pages.shards e.refused with
      | none => d.parkEvent id E.PAN_PARK_FULL
      | some h =>
        d.sendPark id i s x h pad

/-- Applying a park acknowledgement to an entry that is `full`: PARK is written, the entry is `parked`, LEN_PARKED follows R200. -/
def Stall.applyPark (x : Stall) (i s : Nat) (p : Desc) : Stall :=
  let e := x.pages.ent i s
  let pages := x.pages.setEnt i s { e with state := .parked, park := p, heldAck := none, refused := [] }
  { x with pages := pages, r := { x.r with lenParked := pages.parkedLen } }

/-- Pages of a windowed model wholly below LEN_PARKED - W go (R199): their WORK is freed and the holder releases its copy. -/
def Dev.dropGone (d : Dev) (id : Nat) (m : KvModel) : Dev :=
  match d.stall? id with
  | none => d
  | some x =>
    if !m.windowed then d
    else
      let lim := x.r.lenParked - m.window
      let goes := x.pages.all.filter fun e => e.2.state == .parked && decide ((e.1.1 + 1) * x.pages.np ≤ lim)
      let d := goes.foldl (fun d e => d.releaseParked id e.1.1 e.1.2 e.2.park) d
      let pages := goes.foldl (fun p e => p.setEnt e.1.1 e.1.2 { state := .gone }) x.pages
      d.putStall id { x with pages := pages }

/-- After LEN_PARKED has moved: the gate notice to the executing rank 0 (R225), the windowed model's pages, and a unit that waited at
the gate. -/
def Dev.parkedMoved (d : Dev) (id before : Nat) : Dev :=
  match d.stall? id with
  | none => d
  | some x =>
    if x.r.lenParked = before then d
    else
      let d := match x.phase with
        | .decode p => d.sendRole .gateNotice x.r.exec p [d.me, id, x.r.lenParked, 0]
        | _ => d
      let d := match d.model? x.r.model with | some m => d.dropGone id m | none => d
      d.retry id none

end Sys2Proof.Machine
end

