-- ==== Sys2Proof/Machine/Septip.lean ====
section
/-!
DEFINITION. Machine/Septip.lean: program images and slots (R134 to R138), paddock addresses (R139), operator descriptors (R140, R141),
copy and schedule descriptors (R142, R143), and invocations up to their launch and after their end (R144, R145)
(spec/05_septip_programs.md).
-/

namespace Sys2Proof.Machine

/-! ## A paddock under a map (R24, R58) -/

/-- The set bits of a mask below n, ascending. -/
def maskBits (mask n : Nat) : List Nat := (List.range n).filter (bit mask)

/-- Logical cores of a member: 8 per cluster. -/
def Member.cores (m : Member) : Nat := 8 * popCount m.clusters 64

/-- Bytes of a member's channel groups in a paddock: 32 GiB each (R139). -/
def Member.hbm (m : Member) : Nat := popCount m.chgrps 32 * 2 ^ 35

/-- What addresses and shapes are checked against under one map: P, the members, this member's bytes of HBM, its rank and its model. -/
structure PadShape where
  p : Nat
  n : Nat
  hbm : Nat
  rank : Nat
  own : Nat
  model : Nat
  deriving DecidableEq, Repr

/-- The shape of a paddock for this device under a map, where it is a member. -/
def Dev.shapeIn (d : Dev) (m : CompMap) (pad : Nat) : Option PadShape :=
  (m.member pad d.me).map fun x =>
    let n := (m.paddock pad).length
    { p := n * x.cores, n := n, hbm := x.hbm, rank := x.rank, own := x.cores, model := x.model }

/-- The shapes of a paddock in every map that includes this device in it: the current and the pending one. -/
def Dev.shapes (d : Dev) (pad : Nat) : List PadShape :=
  (d.comp.cur :: d.comp.pending.toList).filterMap fun m => d.shapeIn m pad

/-- The logical cores of this member: first, and how many (R24). -/
def Dev.ownCores (d : Dev) (pad : Nat) : Nat × Nat :=
  match d.comp.cur.member pad d.me with
  | some x => (x.rank * x.cores, x.cores)
  | none => (0, 0)

/-- A physical core by die * 136 + number. Cores 128 and above of a die are the spares (R75). -/
def coreDefault (k : Nat) : Core := if k % 136 < 128 then {} else { state := .spare }

/-- A core's state. -/
def Dev.core (d : Dev) (k : Nat) : Core := Tbl.rd coreDefault d.sep.cores k

/-- Changing a core. -/
def Dev.setCore (d : Dev) (k : Nat) (c : Core) : Dev := { d with sep.cores := Tbl.wr coreDefault d.sep.cores k c }

/-- The physical core at the logical position L of a paddock on this device, before substitution (R24, R75). -/
def Dev.homeCore (d : Dev) (pad l : Nat) : Option Nat :=
  match d.comp.cur.member pad d.me with
  | none => none
  | some x =>
    let first := x.rank * x.cores
    if l < first then none
    else match (maskBits x.clusters 64)[(l - first) / 8]? with
      | some b => some (b / 16 * 136 + 8 * (b % 16) + (l - first) % 8)
      | none => none

/-- The core that serves a physical position: the spare that holds its L (a spare that failed keeps the note of the place for R541's map but
serves nothing), or itself. -/
def Dev.servedBy (d : Dev) (k : Nat) : Nat :=
  match d.sep.cores.find? fun x => x.2.subst == some k && x.2.state != .failed with
  | some x => x.1
  | none => k

/-- The physical core that serves a logical core here (R65: a spare takes the failed core's L). -/
def Dev.coreOf (d : Dev) (pad l : Nat) : Option Nat := (d.homeCore pad l).map d.servedBy

/-- The paddock and logical index a physical core serves: its own position's, or the one it stands for. -/
def Dev.placeOf (d : Dev) (k : Nat) : Option (Nat × Nat) :=
  let h := (d.core k).subst.getD k
  (d.comp.cur.memberships d.me).findSome? fun m =>
    let (first, n) := d.ownCores m.paddock
    ((List.range n).find? fun i => d.homeCore m.paddock (first + i) == some h).map fun i => (m.paddock, first + i)

/-! ## Images (R134) -/

/-- The image's fields by their offsets. -/
abbrev imgN (img : Bytes) (off size : Nat) : Nat := field img off size
def imgP (img : Bytes) : Nat := imgN img 8 4
def imgModel (img : Bytes) : Nat := imgN img 12 2
def imgCrc (img : Bytes) : Nat := imgN img 20 4
def imgPeriod (img : Bytes) : Nat := imgN img 100 4
def imgSchedN (img : Bytes) : Nat := imgN img 36 4

/-- Schedule entry i, operator descriptor i, copy descriptor i, cheap-point record i, live range i, weight entry i. -/
def imgEntry (img : Bytes) (i : Nat) : Bytes := slice img (imgN img 32 4 + 48 * i) 48
def imgOp (img : Bytes) (i : Nat) : Bytes := slice img (imgN img 40 4 + 192 * i) 192
def imgCopy (img : Bytes) (i : Nat) : Bytes := slice img (imgN img 48 4 + 64 * i) 64
def imgCheap (img : Bytes) (i : Nat) : Bytes := slice img (imgN img 56 4 + 16 * i) 16
def imgLive (img : Bytes) (i : Nat) : Bytes := slice img (imgN img 64 4 + 8 * i) 8
def imgWeight (img : Bytes) (i : Nat) : Bytes := slice img (imgN img 80 4 + 16 * i) 16

/-- The sections: offset and bytes. -/
def imgSections (img : Bytes) : List (Nat × Nat) :=
  [(imgN img 32 4, 48 * imgN img 36 4), (imgN img 40 4, 192 * imgN img 44 4), (imgN img 48 4, 64 * imgN img 52 4),
   (imgN img 56 4, 16 * imgN img 60 4), (imgN img 64 4, 8 * imgN img 68 4), (imgN img 72 4, imgN img 76 4),
   (imgN img 80 4, 16 * imgN img 84 2), (imgN img 88 4, imgN img 86 2)]

/-- Two ranges of bytes share one. -/
def overlaps (a b : Nat × Nat) : Bool :=
  a.2 != 0 && b.2 != 0 && decide (a.1 < b.1 + b.2) && decide (b.1 < a.1 + a.2)

/-- No two of some ranges share a byte. -/
def apart : List (Nat × Nat) → Bool
  | [] => true
  | a :: t => t.all (fun b => !overlaps a b) && apart t

/-- The placement of an image's sections (R134). -/
def sectionsOk (img : Bytes) : Bool :=
  let ss := imgSections img
  ss.all (fun s => s.1 % 64 == 0 && decide (s.1 + s.2 ≤ imgN img 16 4)) && apart ((0, 128) :: ss)

/-- The entries' fields of R143, and their order. -/
def entryOk (img e : Bytes) : Bool :=
  let kind := field e 20 1
  decide (kind < 2) && decide (field e 21 1 < 16) && field e 22 2 == 0 && allZero (slice e 40 8)
    && decide (field e 28 4 + field e 32 4 ≤ imgP img) && (kind == 1 || field e 36 4 == 0)
    && (field e 8 4 == 0xFFFFFFFF || decide (field e 8 4 < imgN img 44 4))
    && decide (field e 16 4 ≤ 2 ^ 20) && decide (field e 12 4 + field e 16 4 ≤ imgN img 52 4)

/-- The largest OFFSET + DURATION of an image's entries. -/
def imgSpan (img : Bytes) : Nat :=
  maxOf ((List.range (imgSchedN img)).map fun i => field (imgEntry img i) 0 4 + field (imgEntry img i) 4 4)

/-- A list of numbers does not fall. -/
def ascending : List Nat → Bool
  | a :: b :: t => decide (a ≤ b) && ascending (b :: t)
  | _ => true

/-- R137 check 1. -/
def imageOk (img : Bytes) : Bool :=
  let n := imgN img 16 4
  let es := (List.range (imgSchedN img)).map (imgEntry img)
  imgN img 0 4 == 0x50545053 && imgN img 4 2 == 1 && decide (128 ≤ n) && decide (n ≤ 2 ^ 28) && n == img.length
    && imgCrc img == crc32c (img.take 20 ++ [0, 0, 0, 0] ++ img.drop 24)
    && (let r := imgN img 6 1; r % 2 == 0 && decide (r < 16) && r != 0)
    && imgN img 7 1 == 0 && imgN img 14 2 == 0 && allZero (slice img 104 24)
    && decide (8 ≤ imgP img) && decide (imgP img ≤ 2 ^ 23) && imgP img % 8 == 0
    && decide (imgSchedN img ≤ 65536) && decide (imgN img 44 4 ≤ 65536) && decide (imgN img 52 4 ≤ 2 ^ 20)
    && decide (imgN img 60 4 ≤ 65536) && decide (imgN img 68 4 ≤ 2 ^ 20) && decide (imgN img 84 2 ≤ 4096)
    && decide (imgN img 86 2 ≤ 255) && sectionsOk img
    && decide (imgN img 96 4 ≤ 4096) && decide (imgN img 92 4 + imgN img 96 4 ≤ imgN img 52 4)
    && decide (1 ≤ imgPeriod img) && decide (imgPeriod img ≤ 2 ^ 25)
    && (imgSchedN img == 0 || imgPeriod img == imgSpan img)
    && es.all (entryOk img) && ascending (es.map fun e => field e 0 4)
    && (List.range (imgN img 60 4)).all fun i =>
         decide (field (imgCheap img i) 8 4 + field (imgCheap img i) 12 4 ≤ imgN img 68 4)

/-! ## Operator descriptors (R140, R141) -/

/-- The engine width class of a format code: 2 for BF16, 1 for 8-bit MX, 0 for 4-bit MX (none for the others). -/
def engClass : Nat → Option Nat
  | 0x1 => some 2
  | 0x4 => some 1
  | 0x5 => some 1
  | 0x6 => some 1
  | 0x8 => some 0
  | 0x9 => some 0
  | _ => none

/-- Two operand formats may be paired (R80); the rule is about engine operands. -/
def pairOk (a b : Nat) : Bool :=
  match engClass a, engClass b with
  | some x, some y => x == y
  | _, _ => true

/-- An operand record's format and reserved bits. -/
def operandOk (r : Bytes) : Bool := fmtBits (field r 40 1) != 0 && decide (field r 41 1 < 4) && allZero (slice r 42 6)

/-- An operator descriptor is valid (R141). Which OP_IDs the library has is not in the spec (Config.opKnown). -/
def operatorOk (version : Nat) (o : Bytes) : Bool :=
  let flags := field o 2 2
  let tile := field o 20 4
  let stoch := bit flags 1
  let cfmt := field o 168 1
  Config.opKnown version (field o 0 2) && decide (flags < 16) && field o 6 2 == 0 && allZero (slice o 176 16)
    && fmtBits (field o 4 1) != 0 && operandOk (slice o 32 48) && operandOk (slice o 80 48) && operandOk (slice o 128 48)
    && pairOk (field o 72 1) (field o 120 1) && decide (field o 16 4 ≤ 2 ^ 31)
    && decide (1 ≤ tile % 65536) && decide (tile % 65536 ≤ 32) && tile / 65536 % 96 == 0
    && (if stoch then decide (0x80 ≤ field o 5 1) && fmtMx cfmt else field o 5 1 == 0 && field o 24 8 == 0)

/-! ## Addresses (R139) -/

/-- A paddock address is valid for a range of n bytes under a shape. Space 3 is checked at launch. The spec gives no size for a yard SRAM
grant: the whole of its offset field is taken. -/
def addrOk (p : PadShape) (a n : Nat) : Bool :=
  let n := max 1 n
  match a / 2 ^ 60 with
  | 0 => bits a 36 21 == 0 && decide (bits a 59 37 < p.p) && decide (a % 2 ^ 21 + n ≤ 2 ^ 21)
  | 1 => bits a 45 40 == 0 && decide (bits a 59 46 < p.n) && decide (a % 2 ^ 40 + n ≤ p.hbm)
  | 2 => bits a 45 29 == 0 && decide (bits a 59 46 < p.n) && decide (a % 2 ^ 29 + n ≤ 2 ^ 29)
  | 3 => true
  | 4 => bits a 59 48 == 0 && decide (a % 2 ^ 48 + n ≤ 2 ^ 48)
  | 5 => bits a 59 40 == 0 && decide (a % 2 ^ 40 + n ≤ p.hbm)
  | 6 => bits a 59 29 == 0 && decide (a % 2 ^ 29 + n ≤ 2 ^ 29)
  | _ => false

/-- The bytes a copy's source and destination span (R142): LEN for a contiguous side; for the strided shapes a row of LEN / ROWS bytes
at each stride. -/
def strideSpan (rows stride len : Nat) : Nat := if rows = 0 then 0 else (rows - 1) * stride + len / rows
def copySpans (c : Bytes) : Nat × Nat :=
  let len := field c 16 8
  let rows := field c 40 4
  match field c 24 1 with
  | 0 => (len, len)
  | 2 => (1, len)
  | 3 => (len, 1)
  | _ => (strideSpan rows (field c 48 8) len, strideSpan rows (field c 56 8) len)

/-- A copy descriptor's fields are in range and its reserved fields zero. -/
def copyFieldsOk (c : Bytes) : Bool :=
  decide (field c 16 8 ≤ 2 ^ 32) && decide (field c 24 1 < 6) && decide (field c 25 1 < 4) && decide (field c 28 1 < 16)
    && allZero (slice c 29 3) && allZero (slice c 44 4)

/-- The save area of a member (R149): three 1 MiB slots per logical core at the top of its space-5 range. -/
def PadShape.saveArea (p : PadShape) : Nat × Nat := (p.hbm - 3 * 2 ^ 20 * p.own, 3 * 2 ^ 20 * p.own)

/-- The ranges of an image in this member's HBM: its weight regions and, at `base`, itself. -/
def imageRanges (img : Bytes) (base : Nat) : List (Nat × Nat) :=
  (base % 2 ^ 40, imgN img 16 4) ::
    (List.range (imgN img 84 2)).map fun i => (field (imgWeight img i) 0 8 % 2 ^ 40, field (imgWeight img i) 8 8)

/-- A space-5 range is valid. -/
def ownHbmOk (p : PadShape) (a n : Nat) : Bool := a / 2 ^ 60 == 5 && addrOk p a n

/-- R137 check 6 under one shape, given the ranges of the paddock's other slots. -/
def addressesOk (p : PadShape) (img : Bytes) (base : Nat) (others : List (Nat × Nat)) : Bool :=
  let opOk := fun (o : Bytes) => [32, 80, 128].all fun k =>
    [0, 8, 16, 24].all fun j => addrOk p (field o (k + j) 8) 1
  ownHbmOk p base (imgN img 16 4)
    && (List.range (imgN img 84 2)).all (fun i => ownHbmOk p (field (imgWeight img i) 0 8) (field (imgWeight img i) 8 8))
    && (List.range (imgN img 44 4)).all (fun i => opOk (imgOp img i))
    && (List.range (imgN img 52 4)).all (fun i =>
        let c := imgCopy img i
        copyFieldsOk c && addrOk p (field c 0 8) (copySpans c).1 && addrOk p (field c 8 8) (copySpans c).2
          && addrOk p (field c 32 8) 1)
    && apart (p.saveArea :: imageRanges img base)
    && (imageRanges img base).all fun r => others.all fun o => !overlaps r o

/-- R137 check 8. -/
def cheapOk (img : Bytes) : Bool :=
  let gap := imgN img 24 4
  let save := imgN img 28 4
  decide (1 ≤ gap) && decide (gap ≤ 65536) && decide (256 ≤ save) && decide (save ≤ 1048576) &&
  (List.range (imgN img 60 4)).all fun i =>
    let c := imgCheap img i
    let ranges := (List.range (field c 12 4)).map fun j => imgLive img (field c 8 4 + j)
    decide (field c 4 4 ≤ save) && field c 4 4 == 256 + ranges.foldl (fun a r => a + field r 4 4) 0
      && ranges.all fun r => field r 0 4 % 64 == 0 && field r 4 4 % 64 == 0

/-! ## Slots (R136 to R138) -/

/-- A paddock's Septip state. -/
def Dev.sepPad (d : Dev) (pad : Nat) : SepPad := Tbl.rd (fun _ => {}) d.sep.pads pad
def Dev.setSepPad (d : Dev) (pad : Nat) (p : SepPad) : Dev :=
  { d with sep.pads := Tbl.wr (fun _ => {}) d.sep.pads pad p }

/-- The image in a slot. -/
def Dev.slotImg (d : Dev) (pad slot : Nat) : Option SepSlot := Tbl.at? (d.sepPad pad).slots slot

/-- The ranges of the weight regions and images of a paddock's slots, one slot left out. -/
def Dev.slotRanges (d : Dev) (pad : Nat) (but : Option Nat) : List (Nat × Nat) :=
  ((d.sepPad pad).slots.filter fun x => some x.1 != but).flatMap fun x => imageRanges x.2.img x.2.base

/-- The first failing check of R137, in its order; OK where the slot already holds the same image. -/
def Dev.sepCheck (d : Dev) (pad slot base : Nat) (img : Bytes) : Option Nat :=
  let ss := d.shapes pad
  if !imageOk img then some C.SEP_IMAGE_BAD
  else if ss.isEmpty then some C.SEP_NO_PADDOCK
  else if !ss.all (fun s => s.p == imgP img) then some C.SEP_SHAPE
  else if !ss.all (fun s => s.model == imgModel img) then some C.SEP_MODEL
  else if !(List.range (imgN img 44 4)).all (fun i => operatorOk (imgN img 4 2) (imgOp img i)
      && (!Config.opMulti (imgN img 4 2) (field (imgOp img i) 0 2) ||
          (List.range (imgSchedN img)).all fun e => field (imgEntry img e) 8 4 != i || field (imgEntry img e) 20 1 == 0))
    then some C.SEP_OPERATOR
  else if !ss.all (fun s => addressesOk s img base (d.slotRanges pad (some slot))) then some C.SEP_ADDRESS
  else if !(List.range (imgN img 86 2)).all (fun i =>
      let t := field img (imgN img 88 4 + i) 1
      t == 0 || (Tbl.at? d.cmp t).isSome) then some C.SEP_TABLE
  else if !cheapOk img then some C.SEP_CHEAP
  else match d.slotImg pad slot with
    | some x => if imgCrc x.img == imgCrc img then none else some C.SEP_SLOT_BUSY
    | none => none

/-- SEP_LOAD (R136, R137): the image is checked, stored at its space-5 address, and put into its slot. -/
def execSepLoad (c : HostCmd) (s : State) : Out := s.onDev fun d =>
  d.hostCmd { rsvOk := argMask true 0xFFFFF (2 ^ 64 - 1) 0 0, lenOk := fun c => c.hlen == field c.data 16 4 } c fun d =>
    let pad := c.a0 % 2 ^ 16
    let slot := bits c.a0 19 16
    match d.sepCheck pad slot c.a1 c.data with
    | some e => (d, .done e [])
    | none =>
      if (d.slotImg pad slot).isSome then (d, .ok)
      else
        let p := d.sepPad pad
        let d := d.storeP (d.hbmKey pad (c.a1 % 2 ^ 40)) c.data false
        (d.setSepPad pad { p with slots := Tbl.put p.slots slot { img := c.data, base := c.a1 } }, .ok)

/-- Whether a slot has an invocation pending or running (R137, SEP_SLOTS.BUSY). -/
def Dev.slotBusy (d : Dev) (pad slot : Nat) : Bool :=
  d.sep.invs.any fun x => x.2.paddock == pad && x.2.slot == slot && x.2.refused.isNone

/-- SEP_UNLOAD (R136, R137). -/
def execSepUnload (c : HostCmd) (s : State) : Out := s.onDev fun d =>
  d.hostCmd (argSpec 0xFFFFF 0 0) c fun d =>
    let pad := c.a0 % 2 ^ 16
    let slot := bits c.a0 19 16
    if d.slotBusy pad slot then (d, .done C.SEP_SLOT_BUSY [])
    else
      let p := d.sepPad pad
      (d.setSepPad pad { p with slots := Tbl.del p.slots slot }, .ok)

/-- Emptying every slot of a paddock (R138). -/
def Dev.emptySlots (d : Dev) (pad : Nat) : Dev := { d with sep.pads := Tbl.del d.sep.pads pad }

/-! ## Invocations (R144, R145) -/

/-- An invocation. -/
def Dev.inv? (d : Dev) (id : Nat) : Option Inv := Tbl.at? d.sep.invs id
def Dev.putInv (d : Dev) (id : Nat) (i : Inv) : Dev := { d with sep.invs := Tbl.put d.sep.invs id i }

/-- An entry's state. -/
def Inv.ent (i : Inv) (e : Nat) : EntState := Tbl.rd (fun _ => {}) i.ents e
def Inv.setEnt (i : Inv) (e : Nat) (x : EntState) : Inv := { i with ents := Tbl.wr (fun _ => {}) i.ents e x }

/-- The image an invocation runs. -/
def Dev.invImg (d : Dev) (i : Inv) : Option Bytes := (d.slotImg i.paddock i.slot).map (·.img)

/-- The entries an invocation runs: none of an invocation bound to no stall (R144). -/
def Dev.invEntries (d : Dev) (i : Inv) : Nat :=
  if i.bound && i.binds.isEmpty then 0 else match d.invImg i with | some img => imgSchedN img | none => 0

/-- The level of an invocation (R35, R36): on a generation device 1 for a step of classes 0 to 3, 2 for a tail rebuild, 3 for a freewheel
step, 4 for the rest; on a prompt device 1 and 2 for prefill of the two tiers and 3 for the rest; else 5. -/
def Dev.levelOf (d : Dev) (tag : InvTag) (cls : Nat) : Nat :=
  match d.comp.role, tag with
  | 2, .step e => if e < 13 then 1 else 3
  | 2, .draft e => if e < 13 then 1 else 3
  | 2, .rebuild .. => 2
  | 2, _ => 4
  | 1, .chunk .. => if cls ≤ 3 then 1 else 2
  | 1, .rebuild .. => if cls ≤ 3 then 1 else 2
  | 1, _ => 3
  | _, _ => 5

/-- The fields of an invocation record are right (R144, R145 check 5). -/
def invRecordOk (r : Bytes) : Bool :=
  decide (field r 2 1 < 16) && decide (field r 3 1 < 8) && decide (field r 26 1 < 4) && field r 27 1 == 0
    && allZero (slice r 44 20) && decide (field r 24 2 ≤ 4096)
    && (bit (field r 26 1) 0 || (field r 16 8 == 0 && field r 24 2 == 0))

/-- R145's checks on this member, in order. -/
def Dev.invCheck (d : Dev) (pad slot crc : Nat) (recOk : Bool) : Option Nat :=
  match d.slotImg pad slot with
  | none => some C.SEP_NOT_LOADED
  | some x =>
    if imgCrc x.img != crc then some C.SEP_IMAGE_MISMATCH
    else if !bit (imgN x.img 6 1) d.comp.role then some C.SEP_ROLE
    else match d.shapeIn d.comp.cur pad with
      | none => some C.SEP_SHAPE
      | some p =>
        if p.p != imgP x.img then some C.SEP_SHAPE
        else if p.model != imgModel x.img then some C.SEP_MODEL
        else if !recOk then some C.HIF_RESERVED
        else none

/-- The 16 bytes of an entry's completion record (R145). -/
def entryRecord (status eflags slip beat : Nat) : Bytes :=
  leBytes 2 status ++ leBytes 2 eflags ++ leBytes 4 (min slip 0xFFFFFFFF) ++ leBytes 8 beat

/-- Writing an entry's record at RESULT + 16 i. -/
def Dev.writeRecord (d : Dev) (i : Inv) (e status eflags slip beat : Nat) : Dev :=
  d.store (d.hbmKey i.paddock (i.result % 2 ^ 40 + 16 * e)) (entryRecord status eflags slip beat)

/-- Taking an invocation on this member: checked; refused, it launches nothing and, where the slot holds an image, writes every entry's
record (R145). -/
def Dev.addInv (d : Dev) (i : Inv) (more : Option Nat) (recOk : Bool) : Dev :=
  let code := match d.invCheck i.paddock i.slot i.crc recOk with | some c => some c | none => more
  let id := d.sep.nextInv
  let i := { i with refused := code, refusedAt := d.now, order := id, level := d.levelOf i.tag i.cls, errs0 := d.hlt.errs }
  let d := { d with sep.nextInv := id + 1, sep.invs := Tbl.put d.sep.invs id i }
  match code, d.invImg i with
  | some c, some img => (List.range (imgSchedN img)).foldl (fun d e => d.writeRecord i e c 0 0 d.now) d
  | _, _ => d

/-- Carrying an invocation to the other members of its paddock (R145). -/
def Dev.carryInv (d : Dev) (pad id : Nat) (record : Bytes) : Dev :=
  ((d.paddockDevs pad).filter (· != d.me)).foldl (fun d m => d.sendRole .invoke m pad [id] record) d

/-- The stalls a host's binding table names: stall IDs of this home, with their positions. -/
def Dev.hostBinds (d : Dev) (bind n : Nat) : List Bind :=
  (List.range n).map fun k =>
    let id := leNat (d.load (memKey 4 (bind % 2 ^ 48 + 4 * k)) 4)
    match d.stall? id with
    | some x => { key := stallKey d.me id, posFirst := x.pages.kvEnd, posCount := x.r.lenTent - x.pages.kvEnd
                  lenCommit := x.r.lenCommit, kvEnd := x.pages.kvEnd, tokLog := x.r.tokLog }
    | none => { key := stallKey d.me id, posFirst := 0, posCount := 0, lenCommit := 0, kvEnd := 0 }

/-- The invocation a record describes. -/
def Dev.invOf (d : Dev) (r : Bytes) (tag : InvTag) (binds : List Bind) : Inv :=
  { paddock := field r 0 2, slot := field r 2 1 % 16, cls := field r 3 1 % 8, crc := field r 4 4, base := field r 8 8
    bound := bit (field r 26 1) 0, binds := binds, pstep := field r 28 4, result := field r 32 8, epoch := field r 40 4, tag := tag
    level := d.levelOf tag (field r 3 1 % 8) }

/-- The record of a chunk, a rebuild or a step, as the yard die's scheduler writes it (R144, R205, R209). -/
def schedRecord (pad slot cls crc base nbind : Nat) (rebuild : Bool) (epoch : Nat) : Bytes :=
  leBytes 2 pad ++ leBytes 1 slot ++ leBytes 1 cls ++ leBytes 4 crc ++ leBytes 8 base ++ leBytes 8 0 ++ leBytes 2 nbind
    ++ leBytes 1 (if rebuild then 3 else 1) ++ [0] ++ leBytes 4 0 ++ leBytes 8 0 ++ leBytes 4 epoch ++ List.replicate 20 0

/-- A host invocation past the check of its map epoch. -/
def Dev.takeHostInv (d : Dev) (c : HostCmd) : Dev :=
  let r := c.data
  let bound := bit (field r 26 1) 0
  let binds := if bound then d.hostBinds (field r 16 8) (field r 24 2) else []
  let id := d.sep.nextInv
  (d.addInv (d.invOf r (.host (cmdRef c)) binds) none (invRecordOk r)).carryInv (field r 0 2) id r

/-- The header a host invocation is compared with under R31 (its role epoch is not compared). -/
def Dev.hostInvHdr (d : Dev) (c : HostCmd) : RoleHdr :=
  { src := d.me, epoch := field c.data 40 4, roleEpoch := d.comp.roleEpoch, paddock := some (field c.data 0 2) }

/-- SEP_INVOKE (R144, R145): R31 on its MAP_EPOCH, then the invocation is taken here and carried to the other members. -/
def execSepInvoke (c : HostCmd) (s : State) : Out := s.onDev fun d =>
  d.hostCmd { shared := true, rsvOk := argMask true 0 0 0 0, lenOk := fun c => c.hlen == 64 } c fun d =>
    match d.verdict (d.hostInvHdr c) true with
    | .hold => ({ d with comp.held := d.comp.held ++ [.hostInvoke c] }, .wait)
    | .process => (d.takeHostInv c, .wait)
    | _ => (d, .done C.NACK_EPOCH (leBytes 4 0 ++ leBytes 4 0xFFFFFFFF ++ leBytes 12 0))

/-- A member's further check of a unit of a stall (R205): its paddock record and the model's record. -/
def Dev.unitCheck (d : Dev) (pad model : Nat) : Option Nat :=
  if (Tbl.at? d.kv.paddocks pad).isNone then some C.SEP_NOT_LOADED
  else if (Tbl.at? d.kv.models model).isNone then some C.KV_NO_MODEL
  else none

/-- The bind slot of a chunk or rebuild. -/
def unitBind (key first count commit kvEnd log : Nat) (rebuild : Bool) : Bind :=
  { key := key, posFirst := first, posCount := count, lenCommit := commit, kvEnd := kvEnd, tokLog := log, rebuild := rebuild }

/-- The model record of a paddock's model, where this device holds it. -/
def Dev.padModel (d : Dev) (pad : Nat) : Option KvModel :=
  match (d.comp.cur.paddock pad).head? with
  | some m => d.model? m.model
  | none => none

/-- The pages a unit writes that this member's heap does not hold yet: every page of its shards from the first position to the last
(R199, R205, R210). -/
def Dev.missingPages (d : Dev) (pad : Nat) (m : KvModel) (key first count : Nat) : List (RegionUse × Nat × Nat × Nat) :=
  let pages := (List.range (ceilDiv (first + count) m.np - first / m.np)).map (first / m.np + ·)
  (pages.flatMap fun i => (d.myShards pad m.shards).map fun s => (i, s)).filterMap fun k =>
    if (d.heap pad).any fun r => r.key == key && r.use == .page && r.page == k.1 && r.shard == k.2 then none
    else some (.page, k.1, k.2, m.regionBytes)

/-- Allocating on this member the pages the bound stalls of a unit write; what the heap cannot supply raises KV_HEAP_LOW. -/
def Dev.openPages (d : Dev) (pad : Nat) (bs : List Bind) : Dev :=
  match d.padModel pad with
  | none => d
  | some m => bs.foldl (fun d b =>
      match d.allocAll pad b.key (d.missingPages pad m b.key b.posFirst b.posCount) with
      | some d => d
      | none => d.heapLow pad) d

/-- Taking an invocation message past R31: a member's copy is checked here; one from a home is taken and carried on. -/
def Dev.takeInvMsg (d : Dev) (m : InvMsg) : Dev :=
  let r := m.record
  let pad := field r 0 2
  let model := ((d.comp.cur.paddock pad).head?.map (·.model)).getD 0
  let unit := fun (tag : InvTag) (stall first count commit kvEnd log : Nat) (rb : Bool) =>
    let b := unitBind (stallKey m.h.src stall) first count commit kvEnd log rb
    let id := d.sep.nextInv
    (d.addInv (d.invOf r tag [b]) (d.unitCheck pad model) (invRecordOk r)).carryInv pad id r
  match m.kind with
  | .member id binds => (d.openPages pad binds).addInv (d.invOf r (.member m.h.src id) binds)
      (if bit (field r 26 1) 0 then d.unitCheck pad model else none) (invRecordOk r)
  | .chunk st f n c k l => unit (.chunk m.h.src st) st f n c k l false
  | .rebuild st f n c k l => unit (.rebuild m.h.src st) st f n c k l true

/-- INVOCATION_MESSAGE (R31, R145). -/
def execInvocationMessage (m : InvMsg) (s : State) : Out :=
  s.onDev fun d => d.receive m.h false 4 (.invoke m) fun d => d.takeInvMsg m

/-! ## The end of an invocation (R145) -/

/-- Whether every entry of an invocation has ended here, or it was refused. -/
def Dev.invEnded (d : Dev) (i : Inv) : Bool := i.refused.isSome || (List.range (d.invEntries i)).all fun e => (i.ent e).ended

/-- What this member has to report. -/
def Dev.ownReport (d : Dev) (i : Inv) : InvReport :=
  let rank := (d.rankIn i.paddock).getD 0
  match i.refused with
  | some c => { rank := rank, refused := some c, empty := (d.invImg i).isNone, ents := [] }
  | none => { rank := rank, ents := (List.range (d.invEntries i)).map fun e =>
      let x := i.ent e
      (x.status, x.slip, x.endBeat) }

/-- Reporting to the member that received the invocation, once everything has ended here. -/
def Dev.reportInv (d : Dev) (id : Nat) : Dev :=
  match d.inv? id with
  | some i =>
    match i.tag with
    | .member src rid =>
      if d.invEnded i && !i.reported && d.hlt.heldInvs.all (fun (h : HeldInv) => h.inv != id || h.outcome.isSome) then
        let r := d.ownReport i
        let bad := ((d.hlt.heldInvs.find? fun (h : HeldInv) => h.inv == id).bind fun (h : HeldInv) => h.outcome).getD 0
        let d := { d with hlt.heldInvs := d.hlt.heldInvs.filter fun (h : HeldInv) => h.inv != id }
        let d := { d with sep.invs := Tbl.del d.sep.invs id }
        let p := d.sepPad i.paddock
        let d := d.setSepPad i.paddock { p with done := min (p.done + 1) (2 ^ 32 - 1) }
        d.sendRole .invokeReport src i.paddock [rid, r.rank, r.refused.getD 0, bad] (r.ents.flatMap fun e =>
          leBytes 2 e.1 ++ leBytes 4 e.2.1 ++ leBytes 8 e.2.2)
      else d
    | _ => d
  | none => d

/-- A member's failure: its refusal, or the status of its first entry that failed. -/
def InvReport.failure (r : InvReport) : Option Nat :=
  match r.refused with
  | some c => some c
  | none => (r.ents.find? fun e => e.1 / 256 != 0).map (·.1)

/-- The outcome of an invocation from its members' reports in rank order: status, entries, first failing entry, end beat, largest
slip. -/
def invOutcome (rs : List InvReport) (entries at_ : Nat) : Nat × Nat × Nat × Nat × Nat :=
  let status := (rs.findSome? InvReport.failure).getD C.OK
  let slip := maxOf (rs.flatMap fun r => r.ents.map fun e => e.2.1)
  let last := maxOf (rs.flatMap fun r => r.ents.map fun e => e.2.2)
  if rs.any (·.refused.isSome) then
    let wrote := entries != 0 && rs.any fun r => !r.empty
    (status, 0, if wrote then 0 else 0xFFFFFFFF, max at_ last, 0)
  else
    let bad := (List.range entries).find? fun e => rs.any fun r => (r.ents.getD e (0, 0, 0)).1 / 256 != 0
    (status, entries, bad.getD 0xFFFFFFFF, last, slip)

/-- The WORK descriptors this member has for a stall's pages in a paddock (R195, R197). -/
def Dev.unitDescs (d : Dev) (pad key np kvEnd : Nat) : List WorkDesc :=
  ((d.heap pad).filter fun r => r.key == key && r.use == .page).map fun r =>
    let fill := min np (kvEnd - r.page * np)
    let desc : Desc := { addr := r.base / 4096, holder := d.me, tier := 1, cmp := r.cmp, fill := fill
                         crc := if fill = np then crc32c (d.load (d.hbmKey pad r.base) r.size) else 0 }
    { page := r.page, shard := r.shard, desc := desc.bytes }

/-- The end of a unit of a stall, told to its home (R197, R550): stall, status, poison, scheduled end beat, then the tokens; the WORK
descriptors follow. `kind`: 0 ended, 1 left out, 2 refused, 3 stopped. -/
def Dev.tellHome (d : Dev) (key pad kind status poison beat : Nat) (tokens : List Nat) (works : List WorkDesc) : Dev :=
  d.sendRole .unitResult (key / 2 ^ 17) pad ([key % 2 ^ 17, kind, status, poison, beat] ++ tokens) (parkListBytes works)

end Sys2Proof.Machine
end

