-- ==== Sys2Proof/Machine/Copies.lean ====
section
/-!
DEFINITION. Machine/Copies.lean: paddock addresses resolved on this member (R139, R198), poison in memory (R127), the copy engine (R103,
R142) and the operations of core code on scratchpad, accumulators and vector lanes (R77 to R104).
-/

namespace Sys2Proof.Machine

/-! ## Addresses on this member -/

/-- The scratchpad of a physical core. -/
def scratchKey (core off : Nat) : Nat := memKey 0 (core * 2 ^ 21 + off % 2 ^ 21)

/-- Where a byte offset falls in regions laid end to end. -/
def Dev.pageWalk (d : Dev) (pad : Nat) : List Region → Nat → Option Nat
  | [], _ => none
  | r :: t, o => if o < r.size then some (d.hbmKey pad (r.base + o)) else d.pageWalk pad t (o - r.size)

/-- A space-3 address (R198): the byte offset runs over the page regions of the shards held here, in ascending shard order. -/
def Dev.pageKey (d : Dev) (pad key page off : Nat) : Option Nat :=
  let rs := sortBy (fun a b => decide (a.shard < b.shard))
    ((d.heap pad).filter fun r => r.key == key && r.use == .page && r.page == page)
  d.pageWalk pad rs off

/-- The memory key of a paddock address on this member: none where it names another member, or nothing. -/
def Dev.localKey (d : Dev) (i : Inv) (a : Nat) : Option Nat :=
  let pad := i.paddock
  let own := d.rankIn pad == some (bits a 59 46)
  match a / 2 ^ 60 with
  | 0 => (d.coreOf pad (bits a 59 37)).map fun k => scratchKey k (a % 2 ^ 21)
  | 1 => if own then some (d.hbmKey pad (a % 2 ^ 40)) else none
  | 2 => if own then some (memKey 2 (pad * 2 ^ 29 + a % 2 ^ 29)) else none
  | 3 => match i.binds[bits a 59 48]? with
    | some b => d.pageKey pad b.key (bits a 47 34) (a % 2 ^ 34)
    | none => none
  | 4 => some (memKey 4 (a % 2 ^ 48))
  | 5 => some (d.hbmKey pad (a % 2 ^ 40))
  | 6 => some (memKey 2 (pad * 2 ^ 29 + a % 2 ^ 29))
  | _ => none

/-- The member device a paddock address lies on, where it is not this one. -/
def Dev.remoteOf (d : Dev) (i : Inv) (a : Nat) : Option Nat :=
  let ds := d.paddockDevs i.paddock
  let rank := match a / 2 ^ 60 with
    | 0 => let c := (d.ownCores i.paddock).2; if c = 0 then none else some (bits a 59 37 / c)
    | 1 => some (bits a 59 46)
    | 2 => some (bits a 59 46)
    | _ => none
  match rank with
  | some r => ds[r]?
  | none => none

/-! ## Copies (R103, R142) -/

/-- The pieces of a copy: (source offset, destination offset, bytes), and for gather and scatter the index list read. -/
def copyPieces (c : Bytes) (idx : List Nat) : List (Nat × Nat × Nat) :=
  let len := field c 16 8
  let rows := field c 40 4
  let ss := field c 48 8
  let ds := field c 56 8
  let e := len / max 1 rows
  match field c 24 1 with
  | 0 => if len = 0 then [] else [(0, 0, len)]
  | 1 => (List.range rows).map fun r => (r * ss, r * ds, e)
  | 2 => idx.zipIdx.map fun x => (x.1 * e, x.2 * e, e)
  | 3 => idx.zipIdx.map fun x => (x.2 * e, x.1 * e, e)
  | 4 => (List.range rows).flatMap fun r => (List.range (e / 2)).map fun k => (r * ss + 2 * k, k * ds + 2 * r, 2)
  | 5 => (List.range rows).flatMap fun r => (List.range (e / 4)).map fun k => (r * ss + 4 * k, k * ds + 4 * r, 4)
  | _ => []

/-- The index list of a gather or scatter (R142), from this member's memory or as it arrived. -/
def Dev.copyIndex (d : Dev) (i : Inv) (c : Bytes) (remote : Tbl Bytes) : List Nat :=
  let n := field c 40 4
  let a := field c 32 8
  let b := match d.localKey i a with
    | some k => d.load k (4 * n)
    | none => (Tbl.at? remote a).getD []
  (List.range n).map fun j => field b (4 * j) 4

/-- Reading a piece of a source: from this member's memory with its poison, or the bytes that arrived from another member. -/
def Dev.copyRead (d : Dev) (i : Inv) (src off n : Nat) (remote : Tbl Bytes) : Bytes × Bool :=
  match d.localKey i src with
  | some k => (d.load (k + off) n, d.poisoned (k + off) n)
  | none => (slice ((Tbl.at? remote src).getD []) off n, false)

/-- Writing a piece at a destination: here, or as a copy write to the member it lies on, coded where WIRE asks (R131, R379). -/
def Dev.copyWrite (d : Dev) (i : Inv) (c : Bytes) (off : Nat) (data : Bytes) (poison : Bool) : Dev :=
  let dst := field c 8 8
  match d.localKey i dst, d.remoteOf i dst with
  | some k, _ => (d.storeP (k + off) data poison).touchKey (k + off) data.length true
  | none, some dev =>
    if bit (field c 25 1) 1 then
      (blocksOf data).zipIdx.foldl (fun d x =>
        let r := d.wireUnit (field c 26 1) (field c 27 1) x.1
        r.2.sendCoded dev i.paddock (dst + off + 4096 * x.2) i.base r.1 poison (d.kindClass (if i.cls ≤ 3 then 0 else 1))) d
    else d.sendCopy dev i.paddock (dst + off) i.base data poison (d.kindClass (if i.cls ≤ 3 then 0 else 1))
  | none, none => d

/-- Writing an encoded destination (R142): the slot array at DST and the header array at AUX. -/
def Dev.copyEncode (d : Dev) (i : Inv) (c : Bytes) (data : Bytes) (poison : Bool) : Dev :=
  (blocksOf data).zipIdx.foldl (fun d x =>
    let e := encodeBlock d.cmp (field c 26 1) (field c 27 1) x.1
    let d := d.encoded e.1
    let d := d.copyWrite i c (4096 * x.2) e.2 poison
    match d.localKey i (field c 32 8) with
    | some k => (d.storeP (k + 16 * x.2) e.1 poison).touchKey (k + 16 * x.2) e.1.length true
    | none => d) d

/-- Moving a copy's data. -/
def Dev.copyMove (d : Dev) (i : Inv) (c : Bytes) (remote : Tbl Bytes) : Dev :=
  let pieces := copyPieces c (d.copyIndex i c remote)
  let d := match d.localKey i (field c 0 8) with
    | some k => pieces.foldl (fun d p => d.touchKey (k + p.1) p.2.2 false) d
    | none => d
  if bit (field c 25 1) 0 then
    let parts := pieces.map fun p => d.copyRead i (field c 0 8) p.1 p.2.2 remote
    d.copyEncode i c (parts.flatMap (·.1)) (parts.any (·.2))
  else
    pieces.foldl (fun d p =>
      let r := d.copyRead i (field c 0 8) p.1 p.2.2 remote
      d.copyWrite i c p.2.1 r.1 r.2) d

/-- Issuing a copy on some cores (R103: at most 64 outstanding per core is the engine's own limit; the program waits). A space-3 address
that does not resolve, or a space-4 address outside every region (R306), ends the entry with SEP_ADDRESS and nothing is copied (R139,
R198). -/
def Dev.issueCopy (d : Dev) (inv entry desc : Nat) (i : Inv) (img : Bytes) (cores : List Nat) (prime : Bool) : Dev × Option Nat :=
  let c := imgCopy img desc
  let bad := fun a n => (a / 2 ^ 60 == 3 && (d.localKey i a).isNone) || (a / 2 ^ 60 == 4 && !d.mapped (a % 2 ^ 48) n)
  let spans := copySpans c
  if bad (field c 0 8) spans.1 || bad (field c 8 8) spans.2 then (d, some C.SEP_ADDRESS)
  else ({ d with sep.copies := d.sep.copies ++ [⟨inv, entry, desc, cores, prime⟩] }, none)

/-- Incrementing a completion counter of a core (32 bits). -/
def Dev.bumpCtr (d : Dev) (core q : Nat) : Dev :=
  let c := d.core core
  d.setCore core { c with ctrs := Tbl.wr (fun _ => 0) c.ctrs q ((Tbl.rd (fun _ => 0) c.ctrs q + 1) % 2 ^ 32) }

/-! ## Operations of core code (R77 to R104) -/

/-- Reading scratchpad of a core, with its poison. -/
def Dev.sp (d : Dev) (core off n : Nat) : Bytes := d.load (scratchKey core off) n
def Dev.spPoison (d : Dev) (core off n : Nat) : Bool := d.poisoned (scratchKey core off) n
def Dev.putSp (d : Dev) (core off : Nat) (data : Bytes) (p : Bool) : Dev := d.storeP (scratchKey core off) data p

/-- One array of an engine operand through the port's decoders (R104, R125): its bytes, whether they are poisoned, and the code of a
failing block. -/
def Dev.port (d : Dev) (core off : Nat) (hdr : Option Nat) (len : Nat) : (Bytes × Bool × Option Nat) × Dev :=
  match hdr with
  | none => ((d.sp core off len, d.spPoison core off len, none), d)
  | some h =>
    let n := ceilDiv len 4096
    let r := d.expandAll (scratchKey core h) (scratchKey core off) len n 0
    ((r.1, r.2.1.isSome || d.spPoison core off (4096 * n) || d.spPoison core h (16 * n), r.2.1), r.2.2)

/-- The index of an accumulator of a core's engine (R79). -/
def accKey (core eng row lane : Nat) : Nat := ((core * 4 + eng) * 32 + row) * 96 + lane

/-- What an operation gives besides its writes: a code that ends the entry, whether an output was poisoned, copies to issue. -/
structure OpOut where
  code : Option Nat := none
  poison : Bool := false
  deriving DecidableEq, Repr

/-- n block pairs of two operands into a long accumulator (R88). -/
def Dev.opMx (d : Dev) (core eng row lane : Nat) (a b : EngOperand) (n : Nat) : Dev × OpOut :=
  let (da, d) := d.port core a.data a.hdr a.dataLen
  let (sa, d) := d.port core a.scale a.scaleHdr a.scaleLen
  let (db, d) := d.port core b.data b.hdr b.dataLen
  let (sb, d) := d.port core b.scale b.scaleHdr b.scaleLen
  let poison := da.2.1 || sa.2.1 || db.2.1 || sb.2.1
  let code := [da.2.2, sa.2.2, db.2.2, sb.2.2].findSome? id
  let elems := fun (fmt : Nat) (data : Bytes) (blk : Nat) => (List.range 32).map fun j => elemVal fmt (elemBits fmt data (32 * blk + j))
  let k := accKey core eng row lane
  let l := (List.range n).foldl (fun (l : LongAcc) j =>
    l.block (field sa.1 (a.first + j) 1) (field sb.1 (b.first + j) 1) (elems a.fmt da.1 (a.first + j)) (elems b.fmt db.1 (b.first + j)))
    (Tbl.rd (fun _ => {}) d.sep.longs k)
  let l := { l with poison := l.poison || poison }
  ({ d with sep.longs := Tbl.wr (fun _ => {}) d.sep.longs k l }, { code := code, poison := poison })

/-- Counting a long accumulator that drains with ROUNDED set (R93). -/
def Dev.countRounded (d : Dev) (core : Nat) : Dev :=
  let c := d.core core
  let d := d.setCore core { c with rounded := min (c.rounded + 1) (2 ^ 32 - 1) }
  { d with sep.roundedSum := (d.sep.roundedSum + 1) % 2 ^ 64 }

/-- The lanes of an array of 4-byte (or narrower) elements. -/
def lanesOf (size n : Nat) (b : Bytes) : List Nat := (List.range n).map fun j => field b (size * j) size

/-- Bytes of a lane of a format in the vector unit. -/
def laneSize (fmt : Nat) : Nat := max 1 (fmtBits fmt / 8)

/-- One operation of core code on a physical core (`copy` is issued by the caller). The STEP of a stochastic draw is the invocation's
PSTEP (R140). -/
def Dev.coreOp (d : Dev) (core pstep : Nat) (o : CoreOp) : Dev × OpOut :=
  match o with
  | .mx eng row lane a b n => d.opMx core eng row lane a b n
  | .bf16 eng row lane a b k =>
    let p := d.spPoison core a (2 * k) || d.spPoison core b (2 * k)
    let key := accKey core eng row lane
    let v := bf16Dot (Tbl.rd (fun _ => 0) d.sep.floats key) ((lanesOf 2 k (d.sp core a (2 * k))).zip (lanesOf 2 k (d.sp core b (2 * k))))
    let l := Tbl.rd (fun _ => ({} : LongAcc)) d.sep.longs key
    let d := { d with sep.floats := Tbl.wr (fun _ => 0) d.sep.floats key v
                      sep.longs := Tbl.wr (fun _ => ({} : LongAcc)) d.sep.longs key { l with poison := l.poison || p } }
    (d, { poison := p })
  | .drain eng row lane long fmt dst c =>
    let key := accKey core eng row lane
    let l := Tbl.rd (fun _ => ({} : LongAcc)) d.sep.longs key
    let cv := c.map fun a => field (d.sp core a 4) 0 4
    let p := l.poison || (match c with | some a => d.spPoison core a 4 | none => false)
    let f := Tbl.rd (fun _ => 0) d.sep.floats key
    let out := if long then l.drain fmt cv else if fmt = 1 then leBytes 2 (bf16.enc (f32 f)) else leBytes 4 f
    let d := if long && l.rounded then d.countRounded core else d
    let d := { d with sep.longs := Tbl.del d.sep.longs key, sep.floats := Tbl.del d.sep.floats key }
    (d.putSp core dst out p, { poison := p })
  | .dot a b k c dst =>
    let p := d.spPoison core a (4 * k) || d.spPoison core b (4 * k) || (match c with | some x => d.spPoison core x 4 | none => false)
    let acc := match c with | some x => field (d.sp core x 4) 0 4 | none => 0
    let v := fp32Dot acc ((lanesOf 4 k (d.sp core a (4 * k))).zip (lanesOf 4 k (d.sp core b (4 * k))))
    (d.putSp core dst (leBytes 4 v) p, { poison := p })
  | .combine x y dst =>
    let p := d.spPoison core x 32 || d.spPoison core y 32
    (d.putSp core dst ((readLong (d.sp core x 32)).combine (readLong (d.sp core y 32))).bytes p, { poison := p })
  | .vec o a b c dst n =>
    let (ws, wd) := match o with | .conv s t => (laneSize s, laneSize t) | _ => (4, 4)
    let la := lanesOf ws n (d.sp core a (ws * n))
    let lb := lanesOf 4 n (d.sp core b (4 * n))
    let lc := lanesOf 4 n (d.sp core c (4 * n))
    let pa := fun j => d.spPoison core (a + ws * j) ws || d.spPoison core (b + 4 * j) 4 || d.spPoison core (c + 4 * j) 4
    let unary := match o with | .conv .. | .abs | .neg | .sqrt | .rcp | .rsqrt | .exp2 | .log2 | .popcount => true | _ => false
    let ps := (List.range n).map fun j => if unary then d.spPoison core (a + ws * j) ws else pa j
    let out := (la.zip (lb.zip lc)).map fun x => vecLane o x.1 x.2.1 x.2.2
    (d.storeElems (scratchKey core dst) wd (out.zip ps), { poison := ps.any id })
  | .reduce o src n dst =>
    let p := d.spPoison core src (4 * n)
    let v := tree (fun a b => vecLane o a b 0) 0 (lanesOf 4 n (d.sp core src (4 * n)))
    (d.putSp core dst (leBytes 4 v) p, { poison := p })
  | .move src dst idx =>
    let vs := idx.map fun j => (field (d.sp core (src + 4 * j) 4) 0 4, d.spPoison core (src + 4 * j) 4)
    (d.storeElems (scratchKey core dst) 4 vs, { poison := vs.any (·.2) })
  | .quant fmt src dst sdst st =>
    let p := d.spPoison core src 128
    let vs := (lanesOf 4 32 (d.sp core src 128)).map f32
    let draws := (List.range 32).map fun j => st.map fun x => cadRand x.2.1 pstep (x.2.2 + j) x.1
    let (x, es) := quantBlock fmt vs draws
    ((d.putSp core dst (packElems fmt es) p).putSp core sdst (leBytes 1 x) p, { poison := p })
  | .attend kvFmt dim scale q qpos window keys vals dst stats =>
    let w := fmtBits kvFmt
    let kb := dim * w / 8 + dim / 32
    let vb := dim * 4 * w + dim
    let gq := qpos / 32
    let ins : AttnIn :=
      { fmt := kvFmt, scaleLog2 := scale, window := window, query := lanesOf 4 dim (d.sp core q (4 * dim))
        key := fun j =>
          let b := d.sp core (keys + kb * j) kb
          (List.range (dim / 32)).map fun g =>
            (field b (dim * w / 8 + g) 1, (List.range 32).map fun e => elemBits kvFmt b (32 * g + e))
        val := fun g t =>
          let b := d.sp core (vals + vb * g) vb
          (field b (dim * 4 * w + t) 1, (List.range 32).map fun e => elemBits kvFmt b (32 * t + e))
        bf := fun p t => field (d.sp core (vals + vb * gq + 2 * dim * (p % 32) + 2 * t) 2) 0 2 }
    let p := d.spPoison core q (4 * dim) || d.spPoison core keys (kb * (qpos + 1)) || d.spPoison core vals (vb * gq + 64 * dim)
    let (o, m, l) := ins.attend qpos
    ((d.putSp core dst (o.flatMap (leBytes 4)) p).putSp core stats (leBytes 4 m ++ leBytes 4 l) p, { poison := p })
  | .copy _ => (d, {})

/-- Operations in order on physical cores; a `copy` operation issues its descriptor on its own core. -/
def Dev.coreOps (d : Dev) (inv entry : Nat) (i : Inv) (img : Bytes) : List (Nat × CoreOp) → Dev × OpOut
  | [] => (d, {})
  | (core, o) :: t =>
    let (d, r) := match o with
      | .copy k => let (d, c) := d.issueCopy inv entry k i img [core] false; (d, ({ code := c } : OpOut))
      | o => d.coreOp core i.pstep o
    let (d, s) := d.coreOps inv entry i img t
    (d, { code := (match r.code with | some c => some c | none => s.code), poison := r.poison || s.poison })

end Sys2Proof.Machine
end

