-- ==== Sys2Proof/Machine/Mirror.lean ====
section
/-!
DEFINITION. Machine/Mirror.lean: digests of mirrored invocations and what is held until they agree (spec/16_health_faults_tandem.md R469,
R470, R472).
-/

namespace Sys2Proof.Machine

/-- The physical cores of an entry's range on this member, in ascending L. -/
def Dev.rangeCores (d : Dev) (i : Inv) (e : Bytes) : List Nat :=
  let (first, n) := d.ownCores i.paddock
  let lo := max first (field e 28 4)
  let hi := min (first + n) (field e 28 4 + field e 32 4)
  (List.range (hi - lo)).filterMap fun k => d.coreOf i.paddock (lo + k)

/-! ## Digests (R469) -/

/-- CRC-64 with the ECMA-182 polynomial, most significant bit first, continued from a value. -/
def crc64Byte (c b : Nat) : Nat :=
  (List.range 8).foldl (fun c _ => if 2 ^ 63 ≤ c then Nat.xor (c * 2 % 2 ^ 64) 0x42F0E1EBA9EA3693 else c * 2) (Nat.xor c (b * 2 ^ 56))
def crc64 (c : Nat) (b : Bytes) : Nat := b.foldl (fun c x => crc64Byte c x.toNat) c

/-- The key of a core's digest in its entry. -/
def Dev.digKey (d : Dev) (core entry : Nat) : Nat := entry * 2 ^ 20 + ((d.placeOf core).map (·.2)).getD 0xFFFFE

/-- The digest of a core's running entry; setting it; and adding bytes to it. -/
def Dev.digOf (d : Dev) (core : Nat) (j : Job) : Nat :=
  match d.inv? j.inv with
  | some i => Tbl.rd (fun _ => 0) i.digs (d.digKey core j.entry)
  | none => 0
def Dev.setDig (d : Dev) (core : Nat) (j : Job) (v : Nat) : Dev :=
  match d.inv? j.inv with
  | some i => d.putInv j.inv { i with digs := Tbl.wr (fun _ => 0) i.digs (d.digKey core j.entry) v }
  | none => d
def Dev.digest (d : Dev) (core : Nat) (j : Job) (b : Bytes) : Dev := d.setDig core j (crc64 (d.digOf core j) b)

/-- A member's invocation digest: over its core digests, entries in schedule order, cores in ascending L; the SAMPLE entry's record of the
yard die follows that entry's cores. -/
def Dev.invDigest (d : Dev) (i : Inv) : Nat :=
  match d.invImg i with
  | none => 0
  | some img =>
    let first := d.ownCores i.paddock
    (List.range (d.invEntries i)).foldl (fun c k =>
      let e := imgEntry img k
      let lo := max first.1 (field e 28 4)
      let hi := min (first.1 + first.2) (field e 28 4 + field e 32 4)
      let c := (List.range (hi - lo)).foldl (fun c n => crc64 c (leBytes 8 (Tbl.rd (fun _ => 0) i.digs (k * 2 ^ 20 + (lo + n))))) c
      match Tbl.at? i.digs (k * 2 ^ 20 + 0xFFFFF) with
      | some v => crc64 c (leBytes 8 v)
      | none => c) 0

/-! ## Holding (R470) -/

/-- A paddock's tandem state, where it has one. -/
def Dev.tpad (d : Dev) (pad : Nat) : Option TandemPad := Tbl.at? d.hlt.tpads pad
def Dev.setTpad (d : Dev) (pad : Nat) (t : TandemPad) : Dev := { d with hlt.tpads := Tbl.put d.hlt.tpads pad t }
def Dev.mirrored (d : Dev) (pad : Nat) : Bool := match d.tpad pad with | some t => t.state == .mirrored | none => false

/-- Comparing a held invocation with the partner's digest, once it is here. -/
def Dev.compareHeld (d : Dev) (inv : Nat) : Dev :=
  match d.hlt.heldInvs.find? (fun (h : HeldInv) => h.inv == inv && h.outcome.isNone) with
  | none => d
  | some h =>
    match d.hlt.digests.find? (fun (x : DigestIn) => x.paddock == h.paddock && x.base == h.base) with
    | none => d
    | some x =>
      let same := x.digest == h.digest
      let mark := if same then 0 else if h.err != x.err then (if h.err then 2 else 3) else if x.score < h.score then 2 else if h.score < x.score then 3 else 1
      let d := { d with hlt.digests := d.hlt.digests.erase x
                        hlt.heldInvs := d.hlt.heldInvs.map fun (y : HeldInv) => if y.inv == inv then { y with outcome := some mark } else y }
      if same then d
      else
        let d := (d.count F.HLT_MIRROR_CNT_MISMATCH).raise E.HLT_MISMATCH 0 0 h.paddock
        if mark = 2 then d.charge .mismatch 0 0 else d

/-- Holding an invocation of a mirrored paddock at its end on this member (R470): the digest message goes to the partner. -/
def Dev.holdInv (d : Dev) (inv : Nat) : Dev :=
  match d.inv? inv with
  | none => d
  | some i =>
    if !d.mirrored i.paddock || !d.invEnded i || d.hlt.heldInvs.any (fun (h : HeldInv) => h.inv == inv) then d
    else
      let h : HeldInv := { inv := inv, paddock := i.paddock, slot := i.slot, base := i.base, digest := d.invDigest i, err := d.hlt.errs != i.errs0
                           score := d.score 0 0, ended := d.now }
      let msg := leBytes 2 i.paddock ++ leBytes 2 ((d.rankIn i.paddock).getD 0) ++ leBytes 1 (b2n h.err) ++ [0, 0, 0] ++ leBytes 8 h.base
        ++ leBytes 8 h.digest ++ leBytes 2 h.score ++ List.replicate 6 0
      (({ d with hlt.heldInvs := d.hlt.heldInvs ++ [h] }).send .digest (partnerOf d.me) [d.me] msg).compareHeld inv

/-- Whether an invocation may be reported by this member: not held, or compared. -/
def Dev.mayReport (d : Dev) (inv : Nat) : Bool :=
  d.hlt.heldInvs.all fun (h : HeldInv) => h.inv != inv || h.outcome.isSome

/-- The tokens a SAMPLE entry's messages commit for a stall; 0xFFFFFFFF where none is sent for it (R469). -/
def sampleRecord (b : Bind) (puts : List Put) : Bytes :=
  let ts := puts.findSome? fun p => match p with
    | .msg .unitResult _ args _ => if args.getD 4 0 = b.key % 2 ^ 17 then some (args.drop 9) else none
    | _ => none
  leBytes 4 (b.key % 2 ^ 17) ++ match ts with
    | some [] | none => leBytes 4 0xFFFFFFFF
    | some l => l.flatMap (leBytes 4)

/-- Running the SAMPLE entry of a step; in a mirrored paddock what it would send is withheld with the stalls as they were, and its record
enters the digest (R469, R470). -/
def Dev.withholdStep (d : Dev) (inv : Nat) (i : Inv) (f : Dev → Dev) : Dev :=
  if !d.mirrored i.paddock then f d
  else
    let execs := d.kv.execs.filter fun (x : Nat × ExecStall) => i.binds.any fun (b : Bind) => b.key == x.1
    let after := f { d with out := [] }
    let puts := after.out
    let dig := crc64 0 (i.binds.flatMap fun (b : Bind) => sampleRecord b puts)
    let d2 := { after with out := d.out, hlt.withheld := after.hlt.withheld ++ [({ inv := inv, puts := puts, execs := execs } : Withheld)] }
    match d2.inv? inv with
    | some j => d2.putInv inv { j with digs := Tbl.wr (fun _ => 0) j.digs ((d.invEntries i - 1) * 2 ^ 20 + 0xFFFFF) dig }
    | none => d2

/-! ## Release (R470 to R472) -/

/-- What a member holds of an invocation. -/
def Dev.heldOf (d : Dev) (inv : Nat) : Option HeldInv := d.hlt.heldInvs.find? fun (h : HeldInv) => h.inv == inv

/-- Dropping what is held of an invocation; with `send` the withheld messages of its SAMPLE entry leave, otherwise its stalls are as they were,
bound to nothing. -/
def Dev.dropHeldInv (d : Dev) (inv : Nat) (send : Bool) : Dev :=
  let w := d.hlt.withheld.filter fun (x : Withheld) => x.inv == inv
  let d := { d with hlt.heldInvs := d.hlt.heldInvs.filter (fun (h : HeldInv) => h.inv != inv)
                    hlt.withheld := d.hlt.withheld.filter fun (x : Withheld) => x.inv != inv }
  if send then w.foldl (fun (d : Dev) (x : Withheld) => x.puts.foldl (fun (d : Dev) p => d.put p) d) d
  else w.foldl (fun (d : Dev) (x : Withheld) => x.execs.foldl (fun (d : Dev) (e : Nat × ExecStall) =>
    { d with kv.execs := Tbl.put d.kv.execs e.1 { e.2 with bound := false } }) d) d

/-- Asking for replacement (R448, R471). -/
def Dev.askForReplacement (d : Dev) : Dev :=
  if d.hlt.askReplace then d else ({ d with hlt.askReplace := true }).put (.pin .askReplace true)

/-- Discarding the held invocations of a paddock, and stopping its schedule here (R472). -/
def Dev.stopMirrored (d : Dev) (pad : Nat) : Dev :=
  let hs := d.hlt.heldInvs.filter fun (h : HeldInv) => h.paddock == pad
  let d := hs.foldl (fun (d : Dev) (h : HeldInv) => let d := d.dropHeldInv h.inv false; { d with sep.invs := Tbl.del d.sep.invs h.inv }) d
  d.setSepPad pad { d.sepPad pad with halted := true }

/-- This side halts a paddock after a second mismatch (R471): it reloads from its partner, unless it became mirrored within the last 2^30
beats: then it stays halted and the device asks for replacement. -/
def Dev.haltMirrored (d : Dev) (pad : Nat) (t : TandemPad) : Dev :=
  let d := (d.stopMirrored pad).raise E.HLT_SOLO 0 0 pad
  let soon := match t.rejoin with | some b => decide (d.now < b + 2 ^ 30) | none => false
  if soon then (d.setTpad pad { t with state := .halted, again := [] }).askForReplacement
  else d.setTpad pad { t with state := .loading, again := [] }

/-- The outcome of a held invocation at the member that received it (R470 to R472): released, or withheld to be computed again; the member of the lowest
rank whose digests differ decides which side is marked. Answers whether it is computed again. -/
def Dev.settleMirror (d : Dev) (inv : Nat) (i : Inv) (rs : List InvReport) : Dev × Bool :=
  match d.heldOf inv, d.tpad i.paddock with
  | some _, some t =>
    match rs.find? (fun (r : InvReport) => r.mismatch != 0) with
    | none =>
      let d := (d.dropHeldInv inv true).count (if t.state == .mirrored then F.HLT_MIRROR_CNT_MATCHED else F.HLT_MIRROR_CNT_SOLO_REL)
      (d.setTpad i.paddock { t with again := t.again.erase i.slot }, false)
    | some r =>
      if !t.again.contains i.slot then ((d.dropHeldInv inv false).setTpad i.paddock { t with again := i.slot :: t.again }, true)
      else if r.mismatch = 2 || (r.mismatch = 1 && d.me / 2 ^ 14 = 1) then ((d.dropHeldInv inv false).haltMirrored i.paddock t, true)
      else (((d.dropHeldInv inv true).count F.HLT_MIRROR_CNT_SOLO_REL).setTpad i.paddock { t with state := .solo, again := [] }, false)
  | _, _ => (d, false)

/-- INVOCATION_COMPLETE (R145): once every member has reported, the completion is formed and written: a command's on its ring, a
chunk's or a rebuild's to the stall's home. A step's results went to the homes at its SAMPLE entry; one that failed before it
is reported here. In a mirrored paddock it is released once every member has reported a match (R470, R471). -/
def execInvocationComplete (inv : Nat) (reports : List InvReport) (s : State) : Out :=
  s.onDev fun d =>
    match d.inv? inv with
    | none => d
    | some i =>
      let ranks := List.range (d.paddockDevs i.paddock).length
      let own := { d.ownReport i with mismatch := ((d.heldOf inv).bind fun (h : HeldInv) => h.outcome).getD 0 }
      let rs := sortBy (fun a b => decide (a.rank < b.rank)) (own :: reports.filter (·.rank != own.rank))
      let member := match i.tag with | .member .. => true | _ => false
      if member || !d.invEnded i || !d.mayReport inv || !ranks.all (fun k => rs.any (·.rank == k)) then d
      else
        let n := match d.invImg i with | some img => imgSchedN img | none => 0
        let (status, ents, bad, beat, slip) := invOutcome rs (if i.bound && i.binds.isEmpty then 0 else n) i.refusedAt
        let p := d.sepPad i.paddock
        let d := d.setSepPad i.paddock { p with done := min (p.done + 1) (2 ^ 32 - 1) }
        let d := { d with sep.invs := Tbl.del d.sep.invs inv }
        let (d, again) := d.settleMirror inv i rs
        let sched := i.base + (match d.invImg i with | some img => imgPeriod img | none => 0)
        let kind := if status = C.SEP_ABANDONED then 3 else 0
        let works := rs.flatMap (·.works)
        match i.tag with
        | .host r => d.completeCmd r (if again then C.HLT_MISMATCH else status) (leBytes 4 ents ++ leBytes 4 bad ++ leBytes 8 beat ++ leBytes 4 slip)
        | .chunk home st | .rebuild home st =>
          let key := stallKey home st
          let np := match (d.model? (((d.comp.cur.paddock i.paddock).head?.map (·.model)).getD 0)) with
            | some m => m.np
            | none => 1
          let upTo := match i.binds.head? with | some b => b.posFirst + b.posCount | none => 0
          let poison := if again || rs.any (fun r => r.poisoned.contains key) then 1 else 0
          d.tellHome key i.paddock kind status poison sched [] (d.unitDescs i.paddock key np upTo ++ works)
        | .step _ =>
          if again || status / 256 = 0 then d
          else i.binds.foldl (fun d b =>
            ({ d with kv.execs := Tbl.upd d.kv.execs b.key fun x => { x with bound := false } }).tellHome
              b.key i.paddock kind status 0 sched [] []) d
        | .draft _ => d
        | .member .. => d

end Sys2Proof.Machine
end

