-- ==== Sys2Proof/Machine/Select.lean ====
section
/-!
DEFINITION. Machine/Select.lean: selection and merging (R245 to R252, R254) and the sampling of a token from a logit row (R263 to R266)
as functions of their inputs (spec/09_selection_and_sampling.md).
-/

namespace Sys2Proof.Machine

/-! ## The order (R245, R248) -/

/-- An FP32 score as an integer in the order of its value (−0 and +0 equal). -/
def f32Key (x : Nat) : Int := if x < 2 ^ 31 then x else -((x : Int) - 2 ^ 31)

/-- How a selection reads its scores. -/
structure SelMode where
  asc : Bool
  int : Bool
  deriving DecidableEq, Repr

/-- A score in the order: smaller comes first. -/
def SelMode.key (m : SelMode) (s : Nat) : Int :=
  let k := if m.int then sext 32 s else f32Key s
  if m.asc then k else -k

/-- Entry a comes before entry b: by score, then by index. Entries are (score, index). -/
def SelMode.before (m : SelMode) (a b : Nat × Nat) : Bool :=
  decide (m.key a.1 < m.key b.1) || (m.key a.1 == m.key b.1 && decide (a.2 < b.2))

/-- The score of an unused slot (R248). -/
def SelMode.worst (m : SelMode) : Nat :=
  if m.int then (if m.asc then 0x7FFFFFFF else 0x80000000) else (if m.asc then 0x7F800000 else 0xFF800000)

/-- A selection's result (R251): the listed entries in rank order, TIE_OUT, the sums, and whether a merge removed duplicates. -/
structure SelRes where
  entries : List (Nat × Nat)
  tieOut : Nat := 0
  selSum : Nat := 0
  restSum : Nat := 0
  dup : Bool := false
  deriving DecidableEq, Repr

/-! ## One pass (R246, R247) -/

/-- The weight of a score against the best score m under SUM_MODE 2. -/
def selWeight (asc : Bool) (scale m s : Nat) : Nat :=
  let d := if asc then f32Sub m s else f32Sub s m
  if f32 d = .nan then 0x3F800000 else f32Exp2 (f32Mul d scale)

/-- A single-pass selection over elements (score or invalid) in index order, element 0 having the global index `base`. -/
def selectPass (m : SelMode) (mode scale base k : Nat) (row : List (Option Nat)) : SelRes :=
  let valid := row.zipIdx.filterMap fun p => p.1.map fun s => (s, base + p.2)
  let sorted := sortBy m.before valid
  let listed := sorted.take k
  let tie := if listed.length < k || k = 0 then 0 else
    match listed.getLast? with
    | some w => ((sorted.drop k).filter fun e => m.key e.1 == m.key w.1).length
    | none => 0
  let best := (sorted.head?.map (·.1)).getD 0
  let v := fun (s : Nat) => if mode = 1 then s else selWeight m.asc scale best s
  if mode = 0 then { entries := listed, tieOut := tie }
  else
    let rest := row.zipIdx.map fun p =>
      match p.1 with
      | some s => if listed.contains (s, base + p.2) then 0 else v s
      | none => 0
    { entries := listed, tieOut := tie, selSum := f32Tree (listed.map fun e => v e.1), restSum := f32Tree rest }

/-! ## Merging (R254) -/

/-- Dropping later entries of an index already seen: what is left, and whether any was dropped. -/
def dedup : List Nat → List (Nat × Nat) → List (Nat × Nat) × Bool
  | _, [] => ([], false)
  | seen, c :: t =>
    if seen.contains c.2 then ((dedup seen t).1, true)
    else
      let r := dedup (c.2 :: seen) t
      (c :: r.1, r.2)

/-- The merge of partial results. -/
def selMerge (m : SelMode) (mode k : Nat) (ins : List SelRes) : SelRes :=
  let c := sortBy m.before (ins.flatMap (·.entries))
  let (d, dup) := dedup [] c
  let out := d.take k
  let tie := if k = 0 || out.length < k then 0 else
    match out.getLast? with
    | none => 0
    | some kth =>
      ((d.drop k).filter fun e => m.key e.1 == m.key kth.1).length +
      (ins.filter fun r => r.entries.length == k &&
        (match r.entries.getLast? with | some w => m.key w.1 == m.key kth.1 | none => false)).foldl (fun a r => a + r.tieOut) 0
  if mode = 1 then
    { entries := out, tieOut := tie, dup := dup, selSum := f32Tree (out.map (·.1))
      restSum := f32Add (f32Tree (ins.map (·.restSum))) (f32Tree ((d.drop out.length).map (·.1))) }
  else { entries := out, tieOut := tie, dup := dup }

/-! ## Records (R249 to R252) -/

/-- The result's bytes for a K (R251). -/
def SelRes.bytes (r : SelRes) (m : SelMode) (k : Nat) : Bytes :=
  let v := r.entries.length
  leBytes 2 v ++ leBytes 1 k ++ leBytes 1 (natOfBits [decide (v < k), r.dup, m.asc, m.int]) ++ leBytes 4 r.tieOut
    ++ leBytes 4 r.selSum ++ leBytes 4 r.restSum ++ List.replicate 16 0
    ++ (r.entries.flatMap fun e => leBytes 8 e.2 ++ leBytes 4 e.1 ++ leBytes 4 0)
    ++ ((List.replicate (k - v) (leBytes 8 (2 ^ 64 - 1) ++ leBytes 4 m.worst ++ leBytes 4 0)).flatten)

/-- A partial result read back. -/
def SelRes.read (b : Bytes) : SelRes :=
  { entries := (List.range (field b 0 2)).map fun r => (field b (40 + 16 * r) 4, field b (32 + 16 * r) 8)
    tieOut := field b 4 4, selSum := field b 8 4, restSum := field b 12 4, dup := bit (field b 3 1) 1 }

/-- The order and form a descriptor asks for. -/
def selModeOf (desc : Bytes) : SelMode := { asc := bit (field desc 38 1) 0, int := field desc 37 1 == 0xC }

/-- A finite FP32 above zero. -/
def f32Pos (x : Nat) : Bool := decide (0 < x) && decide (x < 0x7F800000)

/-- The first failing check of a descriptor for a single pass or a merge (R249, R250): reserved fields first. -/
def selDescCheck (merging : Bool) (desc : Bytes) : Option Nat :=
  let opt := field desc 38 1
  let mode := bits opt 2 1
  let fmt := field desc 37 1
  let n := field desc 32 4
  if field desc 30 2 != 0 || decide (16 ≤ opt) || field desc 39 1 != 0 || !allZero (slice desc 44 20) then some C.HIF_RESERVED
  else if mode == 3 || !(fmt == 0 || fmt == 2 || fmt == 0xC) || decide (64 < field desc 36 1)
      || (fmt == 0xC && mode != 0) || (if mode = 2 then !f32Pos (field desc 40 4) else field desc 40 4 != 0)
      || bit opt 3 != merging
      || (if merging then decide (n = 0) || decide (4096 < n) || mode == 2 || field desc 8 8 != 0 || field desc 24 8 != 0
          else decide (2 ^ 20 < n))
    then some C.SEL_DESC_BAD
  else none

/-- A merge input agrees with its descriptor (R250). -/
def selInputOk (desc inp : Bytes) : Bool :=
  let f := field inp 3 1
  field inp 2 1 == field desc 36 1 && bit f 2 == (selModeOf desc).asc && bit f 3 == (selModeOf desc).int

/-- The scores of a row as FP32 or INT32 bits, NaN and filtered elements invalid (R245, R248). -/
def rowScores (fmt n : Nat) (data : Bytes) (filter : Option Bytes) : List (Option Nat) :=
  (List.range n).map fun i =>
    let s := if fmt = 2 then fp32.enc (fp16.dec (field data (2 * i) 2)) else field data (4 * i) 4
    let kept := match filter with | some b => bit (field b (i / 8) 1) (i % 8) | none => true
    if kept && (fmt = 0xC || f32 s != .nan) then some s else none

/-- The status of a selection (R252). -/
def selStatus (empty : Bool) (v k : Nat) : Nat := if empty || k ≤ v then C.OK else C.OK_FEWER

/-! ## From logits to a token (R263 to R266) -/

/-- The fields of a sampling copy the sampler reads. -/
structure Samp where
  vocab : Nat
  topK : Nat
  argmax : Bool
  invTemp : Nat
  topP : Nat
  repPen : Nat
  presPen : Nat
  freqPen : Nat
  deriving DecidableEq, Repr

/-- Reading a sampling copy (R258). -/
def Samp.read (b : Bytes) : Samp :=
  { vocab := field b 4 4, topK := field b 8 1, argmax := bit (field b 10 1) 1, invTemp := field b 12 4, topP := field b 16 4
    repPen := field b 20 4, presPen := field b 24 4, freqPen := field b 28 4 }

/-- R263 step 1: a NaN is invalid, plus infinity is the largest finite number. -/
def sanitize (z : Nat) : Option Nat := if f32 z = .nan then none else if z = 0x7F800000 then some 0x7F7FFFFF else some z

/-- R263 step 2 for one token with count c. -/
def penalise (p : Samp) (c z : Nat) : Option Nat :=
  let z := if p.repPen = 0x3F800000 then z
           else if f32Key z < 0 then f32Mul z p.repPen else f32Div z p.repPen
  sanitize (f32Sub (f32Sub z (f32Mul p.freqPen (f32OfNat c))) p.presPen)

/-- The penalised row, given the tokens counted so far. -/
def penRow (p : Samp) (counted : List Nat) (row : List Nat) : List (Option Nat) :=
  row.zipIdx.map fun x =>
    match sanitize x.1 with
    | none => none
    | some z =>
      let c := counted.count x.2
      if c = 0 then some z else penalise p c z

/-- What a row offers: its candidates in the order they are visited, with weights, the sum S, and whether the nucleus was capped. -/
structure RowCands where
  cands : List (Nat × Nat)
  sum : Nat
  capped : Bool := false
  deriving DecidableEq, Repr

/-- The shortest prefix whose running sum reaches h: the prefix, its sum, and whether it was reached. -/
def prefixTo (h : Nat) : Nat → List (Nat × Nat) → List (Nat × Nat) × Nat × Bool
  | acc, [] => ([], acc, false)
  | acc, c :: t =>
    let a := f32Add acc c.2
    if f32Key h ≤ f32Key a then ([c], a, true)
    else
      let r := prefixTo h a t
      (c :: r.1, r.2.1, r.2.2)

/-- Steps 4 to 7 of R263 and the walk of R265 over a penalised row. -/
def rowCands (p : Samp) (row : List (Option Nat)) : RowCands :=
  let k := if p.topK = 0 then 64 else p.topK
  let r := selectPass { asc := false, int := false } 2 p.invTemp 0 k row
  let best := (r.entries.head?.map (·.1)).getD 0
  let ws := r.entries.map fun e => (e.2, selWeight false p.invTemp best e.1)
  let total := if p.topK = 0 then f32Add r.selSum r.restSum else r.selSum
  if p.topP ≠ 0x3F800000 then
    let (l, s, hit) := prefixTo (f32Mul p.topP total) 0 ws
    { cands := l, sum := s, capped := !hit }
  else if p.topK ≠ 0 then { cands := ws, sum := ws.foldl (fun a w => f32Add a w.2) 0 }
  else
    let rest := (row.zipIdx.filterMap fun x => x.1.map fun s => (x.2, s)).filter fun x => !r.entries.any (·.2 == x.1)
    { cands := ws ++ rest.map fun x => (x.1, selWeight false p.invTemp best x.2), sum := total }

/-- The first candidate whose running sum exceeds t, else the last one of weight above zero (R263 step 9, R265). -/
def walkTo (t : Nat) : Nat → Option Nat → List (Nat × Nat) → Option Nat
  | _, last, [] => last
  | acc, last, c :: rest =>
    let a := f32Add acc c.2
    if f32Key t < f32Key a then some c.1 else walkTo t a (if 0 < f32Key c.2 then some c.1 else last) rest

/-- A uniform of R68 as FP32. -/
def uniform (key pos domain : Nat) : Nat := fp32.round false (uniform24 (cadRand key pos 0 domain)) (-24)

/-- The argmax of a penalised row. -/
def argmaxOf (row : List (Option Nat)) : Option Nat :=
  ((selectPass { asc := false, int := false } 0 0 0 1 row).entries.head?).map (·.2)

/-- The token of a penalised row at a position (R263 steps 3 to 9): none where the row has no valid element (R264), with whether the
nucleus was capped. -/
def rowToken (p : Samp) (seed pos : Nat) (row : List (Option Nat)) : Option Nat × Bool :=
  if p.argmax then (argmaxOf row, false)
  else if row.all (·.isNone) then (none, false)
  else
    let c := rowCands p row
    (walkTo (f32Mul (uniform seed pos 0) c.sum) 0 none c.cands, c.capped)

/-- Whether a draft is accepted against its row (R266). -/
def draftOk (p : Samp) (seed pos token qprob : Nat) (row : List (Option Nat)) : Bool :=
  if p.argmax then argmaxOf row == some token
  else
    let c := rowCands p row
    let prob := match c.cands.find? (·.1 == token) with
      | some x => f32Div x.2 c.sum
      | none => 0
    f32Pos qprob && decide (qprob ≤ 0x3F800000) && decide (f32Key (f32Mul (uniform seed pos 1) qprob) < f32Key prob)

/-- What a step gives a stall: the tokens in position order (the accepted drafts and the sampled one), the drafts tested and accepted,
the rows sampled, the rows capped, and whether a row had no valid element. -/
structure StepTokens where
  tokens : List Nat := []
  tested : Nat := 0
  accepted : Nat := 0
  rows : Nat := 0
  capped : Nat := 0
  noToken : Bool := false
  deriving DecidableEq, Repr

/-- The acceptance tests in order, then the sampled token (R266). `pos`: the position of the next row; `room`: positions left up to
LEN_LIMIT; `counted`: the tokens counted by the penalties. -/
def stepTokens (p : Samp) (seed : Nat) (stops : List Nat) : List (Nat × Nat) → List (List Nat) → Nat → Nat → List Nat → StepTokens
  | [], row :: _, pos, _, counted =>
    let (t, c) := rowToken p seed pos (penRow p counted row)
    let capped := if c then 1 else 0
    match t with
    | some t => { tokens := [t], rows := 1, capped := capped }
    | none => { rows := 1, capped := capped, noToken := true }
  | (tok, q) :: ds, row :: rows, pos, room, counted =>
    let r := penRow p counted row
    if r.all (·.isNone) then { rows := 1, noToken := true }
    else if draftOk p seed pos tok q r then
      if stops.contains tok || (ds.isEmpty && room = 1) then { tokens := [tok], tested := 1, accepted := 1 }
      else
        let s := stepTokens p seed stops ds rows (pos + 1) (room - 1) (counted ++ [tok])
        { s with tokens := if s.noToken then [] else tok :: s.tokens, tested := s.tested + 1, accepted := s.accepted + 1 }
    else
      let (t, c) := rowToken p seed pos r
      { tokens := t.toList, tested := 1, rows := 1, capped := if c then 1 else 0, noToken := t.isNone }
  | _, [], _, _, _ => { noToken := true }

end Sys2Proof.Machine
end

