-- ==== Sys2Proof/Machine/Sampling.lean ====
section
/-!
DEFINITION. Machine/Sampling.lean: the SAMPLE entry of a decode step on the executing member of rank 0 (R260 to R266), and what it
leaves of the stalls bound there (R208, R214).
-/

namespace Sys2Proof.Machine

/-- The draft buffer of a stall in this member's yard SRAM grant: d entries of a token and its probability (R204, R266). -/
def Dev.readDrafts (d : Dev) (pad off n : Nat) : List (Nat × Nat) :=
  let b := d.load (memKey 2 (pad * 2 ^ 29 + off)) (8 * n)
  (List.range n).map fun i => (field b (8 * i) 4, field b (8 * i + 4) 4)

/-- Freeing the pages of a stall whose first position is at or above LEN_COMMIT (R214). -/
def Dev.freeTents (d : Dev) (pad key np commit : Nat) : Dev :=
  d.freeRegions pad key fun r => r.use == .page && decide (commit ≤ r.page * np)

/-- The counters of a sampled step (R269). -/
def Dev.sampled (d : Dev) (t : StepTokens) : Dev :=
  let d := (d.count F.STL_SMP_CNT_DRAFT_ACC t.accepted).count F.STL_SMP_CNT_NUCLEUS_CAP t.capped
  let d := if t.noToken then d.count F.STL_SMP_CNT_NO_TOKEN else d
  (d.count F.STL_SMP_DRAFT_DRAFT_TESTED t.tested).count F.STL_SMP_DRAFT_ROWS t.rows

/-- The stall after its tokens, as the executing member keeps it: the log and lengths move; a turn that ends takes no further step. A
token that DL_DROP withholds moves nothing (R165, R268). -/
def ExecStall.after (x : ExecStall) (tokens : List Nat) (stops : List Nat) (sched : Nat) : ExecStall :=
  if x.record.dlDrop && x.record.passed sched then { x with started := false, bound := false }
  else
    let n := x.record.lenCommit + tokens.length
    let ends := tokens.any (stops.contains ·) || decide (x.record.lenLimit ≤ n) || x.record.passed sched
    { x with record := { x.record with lenCommit := n, lenTent := n }, kvEnd := n - 1, toks := x.toks ++ tokens
             bound := false, started := x.started && !ends }

/-- Sampling one bound stall: its rows become tokens, and its home is told (R260, R264, R127). `width`: the row length. -/
def Dev.sampleStall (d : Dev) (pad np sched width : Nat) (b : Bind) (rows : List (Option (List Nat))) : Dev :=
  match Tbl.at? d.kv.execs b.key with
  | none => d
  | some x =>
    let works := fun (d : Dev) (kvEnd : Nat) => d.unitDescs pad b.key np kvEnd
    let samp := Samp.read x.samp
    let put := fun (d : Dev) (y : ExecStall) => { d with kv.execs := Tbl.put d.kv.execs b.key y }
    if samp.vocab ≠ 0 ∧ samp.vocab ≠ width then
      (put d { x with started := false, bound := false }).tellHome b.key pad 0 C.SMP_VOCAB 0 sched [] []
    else if rows.any (·.isNone) then
      (put d { x with bound := false }).tellHome b.key pad 0 C.OK 1 sched [] []
    else
      let stops := sampStops x.samp ++ x.stops.take 84
      let drafts := match x.draftBuf with | some o => d.readDrafts pad o b.ndraft | none => []
      let t := stepTokens samp x.record.seed stops drafts (rows.filterMap id) x.record.lenCommit
        (x.record.lenLimit - x.record.lenCommit) (x.toks.drop x.penFrom)
      let d := d.sampled t
      if t.noToken then
        (put d { x with started := false, bound := false }).tellHome b.key pad 0 C.SMP_NO_TOKEN 0 sched [] []
      else
        let y := x.after t.tokens stops sched
        let d := (put d y).freeTents pad b.key np y.record.lenCommit
        d.tellHome b.key pad 0 C.OK 0 sched t.tokens (works d y.kvEnd)

/-- The SAMPLE entry of a step (R260): every bound stall in bind-slot order. -/
def Dev.sampleStep (d : Dev) (i : Inv) (sched : Nat) (rows : List LogitRows) : Dev :=
  let np := match d.padModel i.paddock with | some m => m.np | none => 1
  let width := ((rows.flatMap fun r => r.rows.filterMap id).head?.map (·.length)).getD 0
  i.binds.foldl (fun d b =>
    let rs := ((rows.find? (·.key == b.key)).map (·.rows)).getD []
    d.sampleStall i.paddock np sched width b rs) d

end Sys2Proof.Machine
end

