-- ==== Sys2Proof/Machine/Cores.lean ====
section
/-!
DEFINITION. Machine/Cores.lean: the launch and end of schedule entries, placement, saves, preemption, switches and spare cores
(spec/03_engines_and_formats.md R102 to R109; spec/05_septip_programs.md R143 to R152; spec/02 R53, R54).
-/

namespace Sys2Proof.Machine

/-! ## Ranges and readiness -/

/-- Whether a level's work never yields (R35, R150): the highest level. -/
def neverYields (level : Nat) : Bool := level == 1

/-- Whether a core can take new work of a level: active, without a job or a save under way, and its yield slot free unless the work
never yields (R146, R150). -/
def Core.free (c : Core) (level : Nat) : Bool :=
  c.state == .active && c.job.isNone && c.saving.isNone && (c.yield.isNone || neverYields level)

/-- The launch beat of an entry (R145). -/
def launchBeat (i : Inv) (e : Bytes) : Nat := i.base + field e 0 4

/-- The inputs of an entry are ready (R143): the counter of every core of its range has reached WAIT_VAL. -/
def Dev.inputsReady (d : Dev) (i : Inv) (e : Bytes) : Bool :=
  let v := field e 24 4
  let q := field e 21 1 % 16
  v == 0 || (d.rangeCores i e).all fun k => decide (v ≤ Tbl.rd (fun _ => 0) (d.core k).ctrs q)

/-- A step waits for its drafts (R209). -/
def Dev.draftsOut (d : Dev) (i : Inv) : Bool :=
  match i.tag with
  | .step e => d.sep.invs.any fun x => x.2.tag == .draft e && x.2.paddock == i.paddock && decide (x.2.base ≤ i.base)
  | _ => false

/-- Whether an engine die is clock-gated (R519): a launch on it waits until it is ungated. -/
def Dev.dieGated (d : Dev) (die : Nat) : Bool := ((d.therm.dies.toList)[die]?).any fun (c : DieClk) => c.gated

/-- Whether an entry could launch now, apart from switches and other invocations: due, ready, not launched, its cores free for a gang
entry, its paddock's schedule not halted (R53, R109, R146). -/
def Dev.canLaunch (d : Dev) (i : Inv) (k : Nat) (e : Bytes) : Bool :=
  i.refused.isNone && !i.stopping && !(i.ent k).launched && decide (launchBeat i e ≤ d.now) && d.inputsReady i e
    && !(d.sepPad i.paddock).halted && !d.draftsOut i
    && (d.rangeCores i e).all (fun c => !d.dieGated (c / 136))
    && (field e 20 1 == 1 || (d.rangeCores i e).all fun c => (d.core c).free i.level)

/-- Whether an invocation goes before another where both want a core (R151): level, class, then order of receipt. -/
def Inv.before (a b : Inv) : Bool :=
  decide (a.level < b.level) || (a.level == b.level && (decide (a.cls < b.cls) || (a.cls == b.cls && decide (a.order < b.order))))

/-- Whether an earlier-ranking invocation could launch an entry on one of these cores now (R151). -/
def Dev.outranked (d : Dev) (inv : Nat) (i : Inv) (cores : List Nat) : Bool :=
  d.sep.invs.any fun x =>
    x.1 != inv && x.2.before i &&
    match d.invImg x.2 with
    | none => false
    | some img => (List.range (d.invEntries x.2)).any fun k =>
        let e := imgEntry img k
        d.canLaunch x.2 k e && (d.rangeCores x.2 e).any cores.contains

/-! ## Switches (R152) -/

/-- Whether an invocation has work launched and not ended. -/
def Inv.running (i : Inv) : Bool := i.ents.any fun e => e.2.launched && !e.2.ended

/-- The other running invocations of a paddock that run another slot. -/
def Dev.otherRunning (d : Dev) (inv : Nat) (i : Inv) : List (Nat × Inv) :=
  d.sep.invs.filter fun x => x.1 != inv && x.2.paddock == i.paddock && x.2.slot != i.slot && x.2.running

/-- Issuing the prime copies of an image on this member's cores (R152). -/
def Dev.issuePrimes (d : Dev) (inv : Nat) (i : Inv) (img : Bytes) : Dev :=
  (List.range (imgN img 96 4)).foldl (fun d k => (d.issueCopy inv 0 (imgN img 92 4 + k) i img [] true).1) d

/-- The switch to an invocation's slot (R152): the requested mode takes effect; in `service` the outgoing invocation ends first unless
outranked, and the prime copies run; in `startup` and `test` the outgoing work is abandoned at its next cheap point, in `recovery`
set aside there. Answers whether the first entry may launch now. -/
def Dev.switchIn (d : Dev) (inv : Nat) (i : Inv) (img : Bytes) : Dev × Bool :=
  let p := d.sepPad i.paddock
  if p.last == some i.slot then (d, match i.primeLeft with | some n => n == 0 | none => true)
  else
    let out := d.otherRunning inv i
    let mark := fun (d : Dev) (f : Inv → Inv) => out.foldl (fun d x => d.putInv x.1 (f x.2)) d
    match p.mode with
    | 0 =>
      if out.any fun x => decide (x.2.level ≤ i.level) then (d, false)
      else
        let d := d.setSepPad i.paddock { p with cur := 0, last := some i.slot }
        let n := imgN img 96 4
        let d := d.putInv inv { i with primeLeft := some n }
        if n = 0 then (d, true) else (d.issuePrimes inv { i with primeLeft := some n } img, false)
    | 3 => (mark (d.setSepPad i.paddock { p with cur := 3, last := some i.slot }) fun x => { x with setAside := true }, true)
    | m => (mark (d.setSepPad i.paddock { p with cur := m, last := some i.slot }) fun x => { x with stopping := true }, true)

/-! ## Step records (R204) -/

/-- The 64-byte step record of a bind slot. -/
def stepRecord (b : Bind) (drafts : Nat) : Bytes :=
  leBytes 4 (b.key % 2 ^ 17) ++ leBytes 4 b.posFirst ++ leBytes 4 b.posCount ++ leBytes 4 b.lenCommit ++ leBytes 4 b.kvEnd
    ++ leBytes 1 b.ndraft ++ leBytes 1 b.bucket ++ leBytes 1 (b2n b.rebuild + 2 * b2n b.windowed) ++ [0] ++ leBytes 8 b.tokLog
    ++ leBytes 8 b.ring ++ leBytes 8 b.opens ++ leBytes 8 drafts ++ leBytes 8 0

/-- The space-6 offset of a bind slot's draft buffer: after the step records of 4,096 bind slots, 512 bytes each. -/
def draftOff (slot : Nat) : Nat := 2 ^ 18 + 512 * slot

/-- Writing the step records of a bound invocation from the start of this member's yard SRAM grant. -/
def Dev.writeSteps (d : Dev) (i : Inv) : Dev :=
  i.binds.zipIdx.foldl (fun d x =>
    let own := fun (u : RegionUse) => ((d.heap i.paddock).find? fun r => r.key == x.1.key && r.use == u).map fun r => 5 * 2 ^ 60 + r.base
    let b := { x.1 with ring := (own .ring).getD 0, opens := (own .opens).getD 0 }
    let drafts := if x.1.ndraft = 0 then 0 else 6 * 2 ^ 60 + draftOff x.2
    d.storeP (memKey 2 (i.paddock * 2 ^ 29 + 64 * x.2)) (stepRecord b drafts) false) d

/-! ## Jobs -/

/-- Putting a job on a core; the completion counters are cleared at the first entry of its invocation there (R142). -/
def Dev.startJob (d : Dev) (core : Nat) (j : Job) : Dev :=
  let c := d.core core
  d.setCore core { c with job := some j, ctrs := if c.ctrInv == some j.inv then c.ctrs else [], ctrInv := some j.inv
                          current := none, issued := [], ords := 0, ordsCheap := 0 }

/-- Lines of a range, numbered from its start, are poisoned. -/
def Dev.poisonLines (d : Dev) (a : Nat) (lines : List Nat) : Dev := lines.foldl (fun d l => d.setPoison (a + 64 * l) 64 true) d

/-- Restoring a save into a core (R149): the live ranges go to its scratchpad, and it resumes the job. -/
def Dev.restoreSave (d : Dev) (core : Nat) (img : Bytes) (v : Save) : Dev :=
  let cheap := imgCheap img v.cheap
  let ranges := (List.range (field cheap 12 4)).map fun j => imgLive img (field cheap 8 4 + j)
  let d := (ranges.foldl (fun (a : Nat × Dev) r =>
    let k := scratchKey core (field r 0 4)
    let lines := (v.bad.filter fun l => decide (a.1 / 64 ≤ l) && decide (64 * l < a.1 + field r 4 4)).map (· - a.1 / 64)
    (a.1 + field r 4 4, (a.2.storeP k (slice v.body a.1 (field r 4 4)) false).poisonLines k lines)) (256, d)).2
  let c := d.core core
  d.setCore core { c with job := some v.job, ctrInv := some v.job.inv, current := some { v with yields := false }
                          ords := v.ords, ordsCheap := v.ords
                          ctrs := (List.range 16).foldl (fun t q => Tbl.wr (fun _ => 0) t q (field v.body (4 + 4 * q) 4)) [] }

/-- Placing tasks of a pool entry on the free cores of its range in ascending L: yielded ones first, then those not started, in
ascending task index (R146). -/
def Dev.placeTasks (d : Dev) (inv k : Nat) (i : Inv) (img : Bytes) : List Nat → Dev × EntState → Dev × EntState
  | [], a => a
  | core :: t, (d0, x) =>
    let go := d.placeTasks inv k i img t
    let c := d0.core core
    match x.yielded with
    | (task, from_) :: ys =>
      match (d0.core from_).yield with
      | some v =>
        if c.state == .active && c.job.isNone && c.saving.isNone && (c.yield.isNone || from_ == core) then
          let src := d0.core from_
          let d1 := (d0.setCore from_ { src with yield := none }).restoreSave core img v
          go (d1, { x with yielded := ys, running := x.running + 1 })
        else go (d0, x)
      | none => go (d0, { x with yielded := ys, waiting := task :: x.waiting })
    | [] =>
      match x.waiting with
      | task :: ws =>
        if c.free i.level then go (d0.startJob core ⟨inv, k, task⟩, { x with waiting := ws, running := x.running + 1 })
        else go (d0, x)
      | [] => (d0, x)

/-- The tasks of a pool entry this member runs: all of them where its range lies on one member, else its share by rank (DESIGN CHOICE, log entry 39:
how tasks are dealt out over members is not stated). -/
def Dev.ownTasks (d : Dev) (i : Inv) (e : Bytes) : List Nat :=
  let c := (d.ownCores i.paddock).2
  let n := field e 36 4
  if c = 0 || field e 32 4 = 0 then []
  else
    let r0 := field e 28 4 / c
    let r1 := (field e 28 4 + field e 32 4 - 1) / c
    let m := r1 - r0 + 1
    let r := (d.rankIn i.paddock).getD 0
    if r < r0 || r1 < r then []
    else
      let a := (r - r0) * n / m
      let b := (r - r0 + 1) * n / m
      (List.range (b - a)).map (a + ·)

/-- Ending an entry here (R145): its record is written. -/
def Dev.endEntry (d : Dev) (inv k : Nat) (x : EntState) : Dev :=
  match d.inv? inv with
  | none => d
  | some i =>
    let x := { x with ended := true, endBeat := d.now, running := 0, waiting := [], yielded := [] }
    let d := d.putInv inv (i.setEnt k x)
    let d := if x.status = C.SEP_ABANDONED then
        let p := d.sepPad i.paddock
        d.setSepPad i.paddock { p with abandoned := min (p.abandoned + 1) 0xFFFF } else d
    ((d.writeRecord i k x.status x.eflags x.slip x.endBeat).holdInv inv).reportInv inv

/-- Launching an entry (R53, R54, R142, R145, R146, R204): its slip is counted; the step records of a bound invocation are written before
its first entry; its copies are issued; a gang entry starts on every core of its range, a pool entry places its tasks; an empty or
copy-only entry ends at once. -/
def Dev.launch (d : Dev) (inv k : Nat) (i : Inv) (img : Bytes) : Dev :=
  let e := imgEntry img k
  let slip := d.now - launchBeat i e
  let d := if slip = 0 then d else ((d.count F.CAD_SLIP_LATE_LATE).raiseTo F.CAD_SLIP_LATE_MAX_SLIP slip).total F.CAD_SLIP_SUM_SUM slip
  let d := { d with cad.slipLast := slip }
  let d := if i.bound && i.ents.all (fun x => !x.2.launched) then d.writeSteps i else d
  let cores := d.rangeCores i e
  let tasks := if field e 20 1 = 1 then d.ownTasks i e else []
  let x : EntState := { launched := true, slip := slip, waiting := tasks }
  let d := d.putInv inv (i.setEnt k x)
  let (d, code) := (List.range (field e 16 4)).foldl (fun (a : Dev × Option Nat) j =>
    let r := a.1.issueCopy inv k (field e 12 4 + j) i img cores false
    (r.1, match a.2 with | some c => some c | none => r.2)) (d, none)
  let x := { x with status := code.getD 0 }
  let none_ := field e 8 4 == 0xFFFFFFFF || field e 32 4 == 0 || (field e 20 1 == 1 && field e 36 4 == 0)
  if code.isSome || none_ || cores.isEmpty then d.endEntry inv k x
  else if field e 20 1 = 1 then
    let (d, x) := d.placeTasks inv k i img cores (d, x)
    d.putInv inv (i.setEnt k x)
  else
    let d := cores.foldl (fun d c => d.startJob c ⟨inv, k, 0⟩) d
    d.putInv inv (i.setEnt k { x with running := cores.length })

/-- Joining what operations of an entry found to its state: the first failing operation decides the status. -/
def EntState.joined (x : EntState) (r : OpOut) : EntState :=
  { x with status := if x.status / 256 != 0 then x.status else r.code.getD x.status
           eflags := if r.poison || r.code.isSome then bitSet x.eflags 0 else x.eflags }

/-- Running operations of an entry and joining what they found. -/
def Dev.runWork (d : Dev) (inv k : Nat) (work : List (Nat × CoreOp)) : Dev :=
  match d.inv? inv with
  | none => d
  | some i =>
    match d.invImg i with
    | none => d
    | some img =>
      let here := work.filterMap fun w => (d.coreOf i.paddock w.1).map fun c => (c, w.2)
      let (d, r) := d.coreOps inv k i img here
      match d.inv? inv with
      | some i => d.putInv inv (i.setEnt k ((i.ent k).joined r))
      | none => d

/-- ENTRY_LAUNCH (R53, R54, R142, R143, R146, R151, R152): an entry launches at the first beat at or after T at which its inputs are
ready and its cores free. `work`: what its core code does until its next event, by logical core. -/
def execEntryLaunch (inv entry : Nat) (work : List (Nat × CoreOp)) (s : State) : Out :=
  s.onDev fun d =>
    match d.inv? inv with
    | none => d
    | some i =>
      match d.invImg i with
      | none => d
      | some img =>
        let e := imgEntry img entry
        if d.invEntries i ≤ entry || !d.canLaunch i entry e || d.outranked inv i (d.rangeCores i e) then d
        else
          let (d, go) := d.switchIn inv i img
          if !go then d
          else match d.inv? inv with
            | some i =>
              let d := d.launch inv entry i img
              if (match d.inv? inv with | some j => (j.ent entry).ended | none => true) then d else d.runWork inv entry work
            | none => d

/-- PRIME_COPIES_COMPLETE (R152): the first entry launches once the prime copies have completed. -/
def execPrimeCopiesComplete (inv : Nat) (s : State) : Out :=
  s.onDev fun d =>
    match d.inv? inv with
    | none => d
    | some i =>
      if i.primeLeft.isNone || d.sep.copies.any (fun c => c.inv == inv && c.prime) then d
      else
        let i := { i with primeLeft := some 0 }
        let d := d.putInv inv i
        match d.invImg i with
        | none => d
        | some img => if d.invEntries i = 0 || !d.canLaunch i 0 (imgEntry img 0) then d else d.launch inv 0 i img

/-- Clearing a core's job. -/
def Dev.clearJob (d : Dev) (core : Nat) : Dev :=
  let c := d.core core
  d.setCore core { c with job := none, saving := none, issued := [], replay := [] }

/-- Placing what waits of every pool entry on the cores that are free, the entries of the highest rank first (R146). -/
def Dev.placeAll (d : Dev) : Dev :=
  (sortBy (fun a b => Inv.before a.2 b.2) d.sep.invs).foldl (fun d y =>
    match d.inv? y.1 with
    | none => d
    | some i =>
      match d.invImg i with
      | none => d
      | some img => i.ents.foldl (fun d z =>
          if z.2.launched && !z.2.ended && !i.stopping && (!z.2.waiting.isEmpty || !z.2.yielded.isEmpty) then
            let (d, x) := d.placeTasks y.1 z.1 i img (d.rangeCores i (imgEntry img z.1)) (d, z.2)
            match d.inv? y.1 with
            | some i => d.putInv y.1 (i.setEnt z.1 x)
            | none => d
          else d) d) d

/-- POOL_TASK_PLACE (R146, R147): a core's task ends, its work being `work`; the core takes the next waiting task. -/
def execPoolTaskPlace (core : Nat) (work : List CoreOp) (s : State) : Out :=
  s.onDev fun d =>
    let c := d.core core
    match c.job with
    | none => d.placeAll
    | some j =>
      match d.inv? j.inv with
      | none => (d.clearJob core).placeAll
      | some i =>
        match d.invImg i with
        | none => d
        | some img =>
          if field (imgEntry img j.entry) 20 1 != 1 || c.saving.isSome then d
          else
            let (d, r) := d.coreOps j.inv j.entry i img (work.map fun o => (core, o))
            let d := d.clearJob core
            let x := (i.ent j.entry).joined r
            (d.putInv j.inv (i.setEnt j.entry { x with running := x.running - 1 })).placeAll

/-- The cores that run an entry. -/
def Dev.entryCores (d : Dev) (inv k : Nat) : List Nat :=
  (d.sep.cores.filter fun c => match c.2.job with | some j => j.inv == inv && j.entry == k | none => false).map (·.1)

/-- Whether an entry is the last of its invocation's image: the SAMPLE entry of a decode image (R260). -/
def Dev.lastEntry (d : Dev) (i : Inv) (k : Nat) : Bool := d.invEntries i == k + 1

/-- ENTRY_COMPLETE (R145, R260): the entry's last core has finished, with the status of its first failing operation; its record is
written. The last entry of a decode step samples every bound stall on rank 0. -/
def execEntryComplete (inv entry status : Nat) (poison : Bool) (work : List (Nat × CoreOp)) (rows : List LogitRows)
    (s : State) : Out :=
  s.onDev fun d =>
    match d.inv? inv with
    | none => d
    | some i =>
      let x := i.ent entry
      if !x.launched || x.ended || !x.waiting.isEmpty || !x.yielded.isEmpty then d
      else
        let d := d.runWork inv entry work
        let x := match d.inv? inv with | some i => i.ent entry | none => x
        let x := x.joined { code := if status / 256 = 0 then none else some status, poison := poison }
        let x := { x with status := if x.status = 0 then status else x.status }
        let sched := i.base + (match d.invImg i with | some img => imgPeriod img | none => 0)
        let isStep := match i.tag with | .step _ => true | _ => false
        let d := if isStep && d.lastEntry i entry && d.rankIn i.paddock == some 0 && x.status / 256 = 0 then
            d.withholdStep inv i fun d => d.sampleStep i sched rows else d
        let d := (d.entryCores inv entry).foldl (fun d c => d.clearJob c) d
        (d.endEntry inv entry x).placeAll

/-! ## Cheap points and saves (R148 to R151) -/

/-- The cheap-point record with a program counter. -/
def cheapAt (img : Bytes) (pc : Nat) : Option Nat := (List.range (imgN img 60 4)).find? fun k => field (imgCheap img k) 0 4 == pc

/-- Whether a core must yield at a cheap point now (R150): higher-level work needs it and launches within the margin, or waits. -/
def Dev.mustYield (d : Dev) (i : Inv) (img : Bytes) (core : Nat) : Bool :=
  let margin := imgN img 24 4 + ceilDiv (imgN img 28 4) 2048
  d.sep.invs.any fun x =>
    decide (x.2.level < i.level) && x.2.refused.isNone && !x.2.stopping &&
    match d.invImg x.2 with
    | none => false
    | some im => (List.range (d.invEntries x.2)).any fun k =>
        let e := imgEntry im k
        let y := x.2.ent k
        (!y.launched && decide (launchBeat x.2 e ≤ d.now + margin) || (y.launched && !y.ended && !y.waiting.isEmpty))
          && (d.rangeCores x.2 e).contains core

/-- The bytes of a save (R148): the core context of 256 bytes, then the live ranges in record order. The context's completion counters
lie at bytes 4 to 67 of it (DESIGN CHOICE, log entry 40: R148 names the context's contents and its size, not its layout). -/
def Dev.saveBytes (d : Dev) (core : Nat) (img context : Bytes) (cheap : Nat) : Bytes :=
  let rec_ := imgCheap img cheap
  let c := d.core core
  let ctrs := (List.range 16).flatMap fun q => leBytes 4 (Tbl.rd (fun _ => 0) c.ctrs q)
  let ctx := leBytes 4 (field rec_ 0 4) ++ ctrs ++ slice context 68 188
  ctx ++ List.replicate (256 - ctx.length) 0 ++
    (List.range (field rec_ 12 4)).flatMap fun j =>
      let r := imgLive img (field rec_ 8 4 + j)
      d.sp core (field r 0 4) (field r 4 4)

/-- The lines of a save whose bytes are poisoned (R127). -/
def Dev.saveBad (d : Dev) (core : Nat) (img : Bytes) (cheap : Nat) : List Nat :=
  let rec_ := imgCheap img cheap
  ((List.range (field rec_ 12 4)).foldl (fun (a : Nat × List Nat) j =>
    let r := imgLive img (field rec_ 8 4 + j)
    (a.1 + field r 4 4, a.2 ++ (d.badLines (scratchKey core (field r 0 4)) (field r 4 4)).map (a.1 / 64 + ·))) (256, [])).2

/-- Abandoning the work of an invocation on a core (R18, R152): its incomplete results are discarded, and once no core runs the entry,
the entry completes with SEP_ABANDONED; entries not launched complete so at once. -/
def Dev.abandon (d : Dev) (core : Nat) (j : Job) : Dev :=
  let d := d.clearJob core
  match d.inv? j.inv with
  | none => d
  | some i =>
    let d := if (d.entryCores j.inv j.entry).isEmpty then
        d.endEntry j.inv j.entry { i.ent j.entry with status := C.SEP_ABANDONED } else d
    match d.inv? j.inv with
    | none => d
    | some i =>
      (List.range (d.invEntries i)).foldl (fun d k =>
        match d.inv? j.inv with
        | some i => if (i.ent k).launched || (i.ent k).ended then d
                    else d.endEntry j.inv k { i.ent k with status := C.SEP_ABANDONED }
        | none => d) d

/-- Stopping an invocation (R18): where it runs on a core it stops at the core's next cheap point; where nothing of it runs its entries
complete with SEP_ABANDONED at once. -/
def Dev.stopInv (d : Dev) (inv : Nat) : Dev :=
  match d.inv? inv with
  | none => d
  | some i =>
    let d := d.putInv inv { i with stopping := true }
    if d.sep.cores.any fun (x : Nat × Core) => x.2.job.any fun (j : Job) => j.inv == inv then d
    else (List.range (d.invEntries i)).foldl (fun d k =>
      match d.inv? inv with
      | some i => if (i.ent k).ended then d else d.endEntry inv k { i.ent k with status := C.SEP_ABANDONED }
      | none => d) d

/-! ## Faults (R105 to R109) -/

/-- The cluster pair of a core, by die * 8 + pair (R75). -/
def pairOf (core : Nat) : Nat := core / 136 * 8 + (if core % 136 < 128 then core % 136 / 16 else core % 136 - 128)

/-- The clusters of a pair, as bits of a cluster mask. -/
def pairClusters (pair : Nat) : Nat := 3 * 2 ^ (pair / 8 * 16 + pair % 8 * 2)

/-- Whether a mask of clusters lies in a paddock of this device. -/
def Dev.inAnyPaddock (d : Dev) (mask : Nat) : Bool :=
  (d.comp.cur.memberships d.me).any fun m => Nat.land m.clusters mask != 0

/-- The cluster bit of a core (spares have none). -/
def clusterBit (core : Nat) : Nat := if core % 136 < 128 then 2 ^ (core / 136 * 16 + core % 136 / 8) else 0

/-- The cores of a pair: its sixteen and its spare. -/
def pairCores (pair : Nat) : List Nat :=
  (List.range 16).map (fun k => pair / 8 * 136 + pair % 8 * 16 + k) ++ [pair / 8 * 136 + 128 + pair % 8]

/-- The pair's spare in `spare`, where there is one. -/
def Dev.pairSpare (d : Dev) (pair : Nat) : Option Nat :=
  (pairCores pair).find? fun k => (d.core k).state == .spare && (d.core k).pairSpare

/-- Telling the homes of the stalls bound in a paddock on this device of its loss (R109): their units stopped. -/
def Dev.tellLoss (d : Dev) (pad : Nat) : Dev :=
  (d.sep.invs.filter fun x => x.2.paddock == pad).foldl (fun d x =>
    x.2.binds.foldl (fun d b => d.tellHome b.key pad 3 C.SEP_ABANDONED 0 d.now [] []) d) d

/-- Halting a paddock's schedule on this device (R109). -/
def Dev.halt (d : Dev) (pad core : Nat) : Dev :=
  let p := d.sepPad pad
  let d := d.setSepPad pad { p with halted := true }
  ((d.charge .fail 1 (core / 136)).tellLoss pad)

/-- An uncorrectable core fault (R105, R106, R151). -/
def Dev.faultCore (d : Dev) (core : Nat) : Dev :=
  let c := d.core core
  let home := c.subst.getD core
  let place := d.placeOf core
  let fence := fun (d : Dev) => ((d.setCore core { c with state := .failed, job := none, saving := none }).charge .ue 2 core).charge .fail 2 core
  match c.state with
  | .active =>
    let d := fence d
    if !d.inAnyPaddock (clusterBit home) then d.raise E.ENG_CORE_FAULT 2 core
    else match d.pairSpare (pairOf core), place with
      | some sp, _ =>
        let s := d.core sp
        let d := { d.raise E.ENG_CORE_FAULT 2 core with
          fab.ops := d.fab.ops.map (fun (o : OutOp) => if o.ref.core == core then { o with ref.core := sp } else o)
          fab.releases := d.fab.releases.map (fun (x : OpRef × Packet × List Nat × Nat) => if x.1.core == core then ({ x.1 with core := sp }, x.2) else x)
          fab.loops := d.fab.loops.map (fun (x : OpRef × Packet) => if x.1.core == core then ({ x.1 with core := sp }, x.2) else x)
          fab.fences := d.fab.fences.map (fun (f : FenceWait) => if f.core == core then { f with core := sp } else f) }
        d.setCore sp { s with state := .loading, subst := some home, job := c.job, current := c.current
                              ctrs := c.ctrs, ctrInv := c.ctrInv, replay := c.issued, yield := none, ords := c.ordsCheap, ordsCheap := c.ordsCheap }
      | none, some (pad, _) => (d.raise E.ENG_NO_SPARE 2 core).halt pad core
      | none, none => d.raise E.ENG_NO_SPARE 2 core
  | .loading =>
    let d := (fence d).raise E.ENG_SPARE_FAULT 2 core
    let d := d.raise E.ENG_NO_SPARE 2 core
    match place with
    | some (pad, _) => d.halt pad core
    | none => d
  | .spare | .failed => d

/-- CORE_FAULT (R105, R106). -/
def execCoreFault (core : Nat) (s : State) : Out :=
  s.onDev fun d => if core < 544 then d.faultCore core else d

/-- CORE_WATCHDOG (R105): the watchdog of a core that has launched work. -/
def execCoreWatchdog (core : Nat) (s : State) : Out :=
  s.onDev fun d => if core < 544 && (d.core core).job.isSome then d.faultCore core else d

/-- CHEAP_POINT (R148 to R152): a core reaches a cheap point. Copies of its own still outstanding there are a core fault; work that is
stopping ends; otherwise its save begins, into its yield slot where it yields. -/
def execCheapPoint (core pc : Nat) (context : Bytes) (s : State) : Out :=
  s.onDev fun d =>
    let c := d.core core
    match c.job with
    | none => d
    | some j =>
      match d.inv? j.inv with
      | none => d
      | some i =>
        if i.stopping then (d.abandon core j).placeAll
        else match d.invImg i with
        | none => d
        | some img =>
          match cheapAt img pc with
          | none => d.faultCore core
          | some k =>
            if d.sep.copies.any (fun r => r.inv == j.inv && r.cores == [core]) ||
                d.fab.ops.any (fun (o : OutOp) => o.ref.core == core && o.ref.inv == j.inv && o.p.op != 1 && !o.acked) then
              d.faultCore core
            else if c.saving.isSome then d
            else
              let yields := i.setAside || (!neverYields i.level && c.yield.isNone && d.mustYield i img core)
              let slot := if yields then 2 else match c.current with | some v => 1 - v.slot % 2 | none => 0
              let v : Save := { slot := slot, yields := yields, job := j, cheap := k, body := d.saveBytes core img context k, bad := d.saveBad core img k, ords := c.ords, dig := d.digOf core j }
              d.setCore core { c with saving := some v }

/-- Where a save slot lies in this member's HBM (R149). -/
def Dev.saveKey (d : Dev) (core slot : Nat) : Option Nat :=
  match d.placeOf core with
  | none => none
  | some (pad, l) =>
    (d.shapeIn d.comp.cur pad).map fun p => d.hbmKey pad (p.saveArea.1 + (3 * (l - (d.ownCores pad).1) + slot) * 2 ^ 20)

/-- SAVE_COMPLETE (R149 to R151): the last byte is written; the save is current, or a yield save frees its core. -/
def execSaveComplete (core : Nat) (s : State) : Out :=
  s.onDev fun d =>
    let c := d.core core
    match c.saving with
    | none => d
    | some v =>
      let d := match d.saveKey core v.slot with | some k => (d.storeP k v.body false).poisonLines k v.bad | none => d
      match d.inv? v.job.inv with
      | none => (d.clearJob core).placeAll
      | some i =>
        let late := match d.invImg i with
          | some img => !neverYields i.level && c.yield.isNone && d.mustYield i img core
          | none => false
        if v.yields || late then
          let d := d.setCore core { c with saving := none, job := none, yield := some { v with yields := true }, issued := [] }
          let x := i.ent v.job.entry
          let x := { x with yielded := x.yielded ++ [(v.job.task, core)], running := x.running - 1, eflags := bitSet x.eflags 1 }
          let p := d.sepPad i.paddock
          let d := d.setSepPad i.paddock { p with yields := min (p.yields + 1) 0xFFFF }
          (d.putInv v.job.inv (i.setEnt v.job.entry x)).placeAll
        else d.setCore core { c with saving := none, current := some v, issued := [], replay := [], ordsCheap := v.ords }

/-- COPY_COMPLETE (R103, R142): the data lands, and the completion counter of the copy rises on the cores it was issued for; a prime
copy counts toward its switch. `remote`: what arrived for addresses of other members. -/
def execCopyComplete (inv desc : Nat) (remote : Tbl Bytes) (s : State) : Out :=
  s.onDev fun d =>
    match d.sep.copies.find? (fun c => c.inv == inv && c.desc == desc), d.inv? inv with
    | some r, some i =>
      match d.invImg i with
      | none => d
      | some img =>
        let c := imgCopy img desc
        let d := { d with sep.copies := d.sep.copies.erase r }
        let d := d.copyMove i c remote
        let d := r.cores.foldl (fun d k => d.bumpCtr k (field c 28 1 % 16)) d
        if r.prime then d.putInv inv { i with primeLeft := i.primeLeft.map (· - 1) } else d
    | some r, none => { d with sep.copies := d.sep.copies.erase r }
    | _, _ => d

/-- SPARE_RESTORE_COMPLETE (R106, R107): the spare holds the failed core's L and resumes from its current save; the entry's record
carries SPARE. -/
def execSpareRestoreComplete (core : Nat) (s : State) : Out :=
  s.onDev fun d =>
    let c := d.core core
    if c.state != .loading then d
    else
      let d := d.setCore core { c with state := .active }
      match c.job with
      | none => d.placeAll
      | some j =>
        match d.inv? j.inv with
        | none => d
        | some i =>
          let x := i.ent j.entry
          let d := d.putInv j.inv (i.setEnt j.entry { x with eflags := bitSet x.eflags 2 })
          match d.invImg i, c.current with
          | some img, some v =>
            let replay := c.replay
            let d := d.restoreSave core img v
            let c := d.core core
            (d.setCore core { c with replay := replay }).setDig core j v.dig
          | _, _ => d.setDig core j 0

/-- A spare in `spare` fails its self-test (R106). -/
def Dev.spareFailed (d : Dev) (core : Nat) : Dev :=
  let c := d.core core
  if c.state == .spare then ((d.setCore core { c with state := .failed }).charge .fail 2 core).raise E.ENG_SPARE_FAULT 2 core else d

/-- SPARE_SELF_TEST (R106): every 2^30 beats; a failing spare is marked failed. -/
def execSpareSelfTest (core : Nat) (pass : Bool) (s : State) : Out :=
  s.onDev fun d => if core < 544 && !pass then d.spareFailed core else d

/-- ENG_RETEST (R106, R112). -/
def execEngRetest (c : HostCmd) (pass : Bool) (s : State) : Out := s.onDev fun d =>
  d.hostCmd (argSpec 0x3FF 0 0) c fun d =>
    let core := bits c.a0 9 8 * 136 + bits c.a0 7 0
    if 136 ≤ bits c.a0 7 0 then (d, .done C.HIF_RESERVED [])
    else
      let x := d.core core
      if x.state != .failed || d.inAnyPaddock (pairClusters (pairOf core)) then (d, .done C.ENG_RETEST_BUSY [])
      else if !pass then (d, .done C.ENG_RETEST_FAIL [])
      else
        let has := (pairCores (pairOf core)).any fun k => k != core && (d.core k).pairSpare &&
          ((d.core k).state == .spare || ((d.core k).subst.isSome && (d.core k).state != .failed))
        (d.setCore core { x with state := .spare, subst := none, pairSpare := !has, job := none, current := none, yield := none }, .ok)

end Sys2Proof.Machine
end

