-- ==== Sys2Proof/Machine/Hif.lean ====
section
/-! DEFINITION. Machine/Hif.lean: rings, doorbells, completions and interrupts (spec/17_host_interface.md). -/

namespace Sys2Proof.Machine

/-! ## Doorbells (R489 to R492) -/

/-- The bits set in a 64-bit word, ascending. -/
def setBits (w : Nat) : List Nat := (List.range 64).filter fun i => bit w i

/-- One ring bit found by a scan (R491): stray where the ring is disabled; else its producer index is taken unless it is ahead by
more than the ring size, which raises HIF_PROD_BAD. -/
def foundRing (s : DbScan) (d : Dev) (r : Nat) : Dev :=
  let d := d.count F.HIF_DB_CNT_FOUND
  let q := d.cmdRing r
  if !q.en then d.count F.HIF_DROP_CNT_STRAY
  else
    let p := (Tbl.at? s.prod r).getD 0 % 2 ^ 32
    if (p + 2 ^ 32 - q.cons) % 2 ^ 32 ≤ 2 ^ q.log2 then d.setCmdRing r { q with prod := p }
    else d.raise E.HIF_PROD_BAD 0 0 r

/-- One bitmap word of a scan: a failed swap raises HIF_ATOMIC and is retried at the next scan (R492). -/
def scanGroup (s : DbScan) (d : Dev) (g : Nat) : Dev :=
  match (Tbl.at? s.bitmap g).getD (some 0) with
  | none => d.raise E.HIF_ATOMIC
  | some m => (setBits m).foldl (fun d j => foundRing s d (64 * g + j)) d

/-- One summary word of a scan. -/
def scanWord (s : DbScan) (d : Dev) (w : Nat) : Dev :=
  match s.summary.getD w (some 0) with
  | none => d.raise E.HIF_ATOMIC
  | some v => (setBits v).foldl (fun d b => scanGroup s d (64 * w + b)) d

/-- DB_SCAN of R491. -/
def dbScanAll (d : Dev) (s : DbScan) : Dev :=
  (List.range 4).foldl (scanWord s) (d.count F.HIF_DB_CNT_SCANS)

/-- DB_SCAN (R491): only while HIF_CTRL.EN is set, and only in `run` or `idle` (R521 gives `stabled` its own scan). -/
def execDbScan (d : DbScan) (s : State) : Out :=
  s.onDev fun v =>
    if v.flag F.HIF_CTRL_EN && (v.pwr.state == .run || v.pwr.state == .idle) then dbScanAll v d else v

/-! ## Rings (R480, R481) -/

/-- Setting EN takes command ring 0 and completion ring 0 afresh from the HIF_ADM registers, every index at 0 (R481). -/
def Dev.takeRing0 (d : Dev) : Dev :=
  let d := d.setCmdRing 0 { en := true, base := (d.reg F.HIF_ADM_CMD_BASE.off).toNat, log2 := d.fld F.HIF_ADM_SIZE_CMD_LOG2,
                            cpl := 0, admin := true, intake := false, tenant := 0 }
  d.setCplRing 0 { d.cplRing 0 with
    en := true, base := (d.reg F.HIF_ADM_CPL_BASE.off).toNat, log2 := d.fld F.HIF_ADM_SIZE_CPL_LOG2,
    vector := d.fld F.HIF_ADM_SIZE_VECTOR, intEn := d.flag F.HIF_ADM_SIZE_INT_EN, intakeOk := false,
    coalM1 := d.fld F.HIF_ADM_SIZE_COAL_M1, coalBeats := 0, prod := 0, cons := 0, unsignalled := 0, lastFull := none }

/-- What a write of HIF_CTRL does once its fields are stored: EN going from 0 to 1 takes ring 0 (R481). -/
def Dev.hifCtrlWritten (before d : Dev) : Dev :=
  if !before.flag F.HIF_CTRL_EN && d.flag F.HIF_CTRL_EN then
    let d := d.takeRing0
    (d.drainCpl 0 (d.cplRing 0).waiting)
  else d

/-- Whether two address ranges meet (an empty range meets none). -/
def rangesMeet (a n b m : Nat) : Bool := decide (0 < n) && decide (0 < m) && decide (a < b + m) && decide (b < a + n)

/-- Bytes of a command ring and of a completion ring (R480). -/
def CmdRing.bytes (q : CmdRing) : Nat := 64 * 2 ^ q.log2
def CplRing.bytes (q : CplRing) : Nat := 32 * 2 ^ q.log2

/-- The host-memory ranges a ring must not overlap (R481): the doorbell area, the bulk window, the host tier, the host map region,
the queue-pair backing store and every other enabled ring. -/
def Dev.hostRanges (d : Dev) (cpl : Bool) (ring : Nat) : List (Nat × Nat) :=
  [((d.reg F.HIF_DB_BASE_BASE.off).toNat, 0x41000),
   ((d.reg F.HIF_BULK_BASE_BASE.off).toNat, 65536 * d.fld F.HIF_BULK_SEGS_SEGS),
   ((d.reg F.MEM_HOST_BASE_BASE.off).toNat, (d.reg F.MEM_HOST_SIZE_SIZE.off).toNat),
   ((d.reg F.MEM_HMAP_BASE_BASE.off).toNat, (d.reg F.MEM_HMAP_SIZE_SIZE.off).toNat),
   ((d.reg F.QPX_CTX_BASE_BASE.off).toNat, if d.flag F.QPX_CTRL_EN then 0x1000000 else 0)]
  ++ (d.hif.cmd.filter fun p => p.2.en && (cpl || p.1 != ring)).map (fun p => (p.2.base, p.2.bytes))
  ++ (d.hif.cpl.filter fun p => p.2.en && (!cpl || p.1 != ring)).map (fun p => (p.2.base, p.2.bytes))

/-- The first failing check of HIF_RING (R481): the HIF_RING_BAD cases, then HIF_RING_BUSY for a ring that is enabled. -/
def ringCheck (d : Dev) (c : HostCmd) : Option Nat :=
  let ring := bits c.a0 13 0
  let cpl := bit c.a0 14
  let log2 := bits c.a0 20 16
  let n := if cpl then 32 * 2 ^ log2 else 64 * 2 ^ log2
  if ring == 0 || decide (log2 < 4) || decide ((if cpl then 20 else 16) < log2) || c.haddr % 4096 != 0
      || (d.hostRanges cpl ring).any (fun r => rangesMeet c.haddr n r.1 r.2)
      || (cpl && decide (2047 < bits c.a1 10 0))
      || (!cpl && !(d.cplRing (bits c.a1 13 0)).en) then some C.HIF_RING_BAD
  else if (if cpl then (d.cplRing ring).en else (d.cmdRing ring).en) then some C.HIF_RING_BUSY
  else none

/-- Enabling the ring the command describes, every index at 0 (R481); completions that waited for the ring are written (R498). -/
def enableRing (d : Dev) (c : HostCmd) : Dev :=
  let ring := bits c.a0 13 0
  let log2 := bits c.a0 20 16
  if bit c.a0 14 then
    let q := d.cplRing ring
    let d := d.setCplRing ring { q with
      en := true, base := c.haddr, log2 := log2, vector := bits c.a1 10 0, intEn := bit c.a1 11, intakeOk := bit c.a1 12,
      coalM1 := bits c.a1 31 16, coalBeats := bits c.a1 63 32, prod := 0, cons := 0, unsignalled := 0, lastFull := none }
    d.drainCpl ring q.waiting
  else
    d.setCmdRing ring { en := true, base := c.haddr, log2 := log2, cpl := bits c.a1 13 0, admin := bit c.a1 16,
                        intake := bit c.a1 17, tenant := bits c.a1 31 20 }

/-- Reserved bits of HIF_RING's arguments (R483): the bits of A0 and A1 that no field of its row names. -/
def ringRsv (c : HostCmd) : Bool :=
  c.a0 / 2 ^ 21 == 0 && c.a2 == 0 && c.a3 == 0 &&
  (if bit c.a0 15 then true
   else if bit c.a0 14 then bits c.a1 15 13 == 0
   else bits c.a1 15 14 == 0 && bits c.a1 19 18 == 0 && c.a1 / 2 ^ 32 == 0)

/-- Whether something still names a completion ring (R481): an enabled command ring as its default, a stall not in `free`, or the
event ring. -/
def cplNamed (d : Dev) (ring : Nat) : Bool :=
  d.hif.cmd.any (fun p => p.2.en && p.2.cpl == ring)
  || d.stl.stalls.any (fun p => p.2.r.state != .free && (p.2.r.ring == ring || p.2.r.altRing == ring))
  || (d.flag F.HLT_CTRL_EVT_EN && d.fld F.HLT_CTRL_EVT_RING == ring)

/-- Disabling a ring (R481): only the ring number and CPL are checked; a ring not enabled completes OK with no effect; a completion ring
still named is HIF_RING_BUSY; a partly read intake request of a command ring is refused with STL_SEQ. -/
def Dev.disableRing (d : Dev) (c : HostCmd) : Dev × CmdRes :=
  let ring := bits c.a0 13 0
  if ring == 0 then (d, .done C.HIF_RING_BAD [])
  else if bit c.a0 14 then
    if !(d.cplRing ring).en then (d, .ok)
    else if cplNamed d ring then (d, .done C.HIF_RING_BUSY [])
    else (d.setCplRing ring { d.cplRing ring with en := false }, .ok)
  else if !(d.cmdRing ring).en then (d, .ok)
  else
    let d := d.refusePartial ring
    (d.setCmdRing ring { d.cmdRing ring with en := false }, .ok)

/-- What HIF_RING does (R481, R483): it disables the ring with DISABLE set, and else configures and enables it. -/
def Dev.ringBody (c : HostCmd) (d : Dev) : Dev × CmdRes :=
  if bit c.a0 15 then d.disableRing c
  else match ringCheck d c with
    | some st => (d, .done st [])
    | none => (enableRing d c, .ok)

/-- HIF_RING (R481, R483). -/
def execHifRing (c : HostCmd) (s : State) : Out := s.onDev fun d => d.hostCmd { rsvOk := ringRsv } c (Dev.ringBody c)

/-- HIF_RING with DISABLE set (R481): the command word says which of the two it is. -/
def execHifRingDisable (c : HostCmd) (s : State) : Out := s.onDev fun d => d.hostCmd { rsvOk := ringRsv } c (Dev.ringBody c)

/-! ## Completions and interrupts (R486, R488, R492, R496) -/

/-- CPL_CONS_POLL (R488): the consumer index of a ring is read again and the completions that wait are written while there is room. -/
def execCplConsPoll (ring cons : Nat) (s : State) : Out :=
  s.onDev fun d =>
    let q := d.cplRing ring
    if !q.en then d
    else
      let d := d.setCplRing ring { q with cons := cons % 2 ^ 32 }
      let d := d.drainCpl ring q.waiting
      d.drainEvents d.hlt.events

/-- INTAKE_PARTIAL_TIMEOUT (R486): a request cut short by the producer index is refused with STL_SEQ after 2^16 beats. -/
def execIntakePartialTimeout (ring : Nat) (s : State) : Out :=
  s.onDev fun d =>
    match Tbl.at? d.hif.partials ring with
    | some p => if p.since + 2 ^ 16 ≤ d.now then d.refusePartial ring else d
    | none => d

/-- HIF_DMA_RETRY (R492): an attempt to write host memory ended. A failure raises HIF_DMA and holds everything ordered behind the
write; a success writes what was held, in order. -/
def execHifDmaRetry (ok : Bool) (s : State) : Out :=
  s.onDev fun d =>
    if ok then
      let held := d.hif.heldWrites
      { d with hif.dmaFail := false, hif.heldWrites := [], out := d.out ++ held }
    else ({ d with hif.dmaFail := true }).raise E.HIF_DMA

/-- Sending a vector's message, or setting its pending bit while it is masked (R479, R496). -/
def Dev.signal (d : Dev) (vector : Nat) : Dev :=
  if d.hif.msixOpen.contains vector then d.put (.msix vector)
  else { d with hif.msixPending := addOnce d.hif.msixPending vector }

/-- Whether a ring signals now (R496). -/
def CplRing.due (q : CplRing) (now : Nat) : Bool :=
  q.en && q.intEn && decide (0 < q.unsignalled) &&
    (decide (q.coalM1 + 1 ≤ q.unsignalled) || decide (q.oldest + q.coalBeats ≤ now))

/-- MSIX_SIGNAL (R496). -/
def execMsixSignal (ring : Nat) (s : State) : Out :=
  s.onDev fun d =>
    let q := d.cplRing ring
    if q.due d.now then (d.setCplRing ring { q with unsignalled := 0 }).signal q.vector else d

/-- MSIX_VECTOR_UNMASK (R496): the pending message is sent and its bit cleared. -/
def execMsixVectorUnmask (vector : Nat) (s : State) : Out :=
  s.onDev fun d =>
    let d := { d with hif.msixOpen := addOnce d.hif.msixOpen vector }
    if d.hif.msixPending.contains vector then
      ({ d with hif.msixPending := d.hif.msixPending.erase vector }).put (.msix vector)
    else d

/-! ## Link events (R498, R525) -/

/-- HOST_LINK_EVENT (R498): HIF_CTRL.EN clears and every ring is disabled; command completions not yet written are discarded and
counted, those of kinds 2 to 4 wait; HIF_LINK_DOWN is recorded in HIF_EVT and HLT_EVT_LOST only (R500). -/
def execHostLinkEvent (s : State) : Out :=
  s.onDev fun d =>
    let dropped := d.hif.cpl.foldl (fun n p => n + (p.2.waiting.filter (·.1.ofCommand)).length) 0
    let cmds := Tbl.mapv (fun _ => {}) (fun _ (q : CmdRing) => { q with en := false }) d.hif.cmd
    let cpls := Tbl.mapv (fun _ => {}) (fun _ (q : CplRing) =>
      { q with en := false, unsignalled := 0, waiting := q.waiting.filter fun w => !w.1.ofCommand }) d.hif.cpl
    let gone := d.hif.cpl.foldl (fun l p => l ++ (p.2.waiting.filter (·.1.ofCommand)).filterMap (·.2)) []
    let d := { d with hif.cmd := cmds, hif.cpl := cpls, hif.partials := []
                      hif.outstanding := gone.foldl (fun o r => o.erase r) d.hif.outstanding }
    let d := (d.setFld F.HIF_CTRL_EN 0).count F.HIF_DROP_CNT_DROPPED dropped
    d.event E.HIF_LINK_DOWN 0 0 0 none true

end Sys2Proof.Machine
end

