-- ==== Sys2Proof/Machine/SearchBase.lean ====
section
/-!
DEFINITION. Machine/SearchBase.lean: the shard layout, distances, the walk, and a query at its issuer (spec/10_retrieval.md R271 to R294).
-/

namespace Sys2Proof.Machine

/-! ## The shard layout (R275 to R277) -/

/-- The key of a shard. -/
def shardKey (index shard : Nat) : Nat := index * 2 ^ 16 + shard

/-- Fields of a shard header. -/
def shProduct (h : Bytes) : Bool := bit (field h 5 1) 0
def shCap (h : Bytes) : Nat := field h 8 4
def shParam (h : Bytes) : Nat := field h 12 2
def shDim (h : Bytes) : Nat := field h 14 2
def shDegree (h : Bytes) : Nat := field h 16 1
def shInner (h : Bytes) : Bool := field h 18 1 == 1

/-- Sizes (R276): of a code, a row, a filter bitmap, a vector. -/
def shCB (h : Bytes) : Nat := if shProduct h then shParam h else shParam h / 8
def shRB (h : Bytes) : Nat := ceilDiv (6 * shDegree h) 64 * 64
def shFB (h : Bytes) : Nat := ceilDiv (ceilDiv (shCap h) 8) 64 * 64
def shElem (h : Bytes) : Nat := if field h 17 1 = 0 then 4 else 2
def shVB (h : Bytes) : Nat := ceilDiv (shDim h * shElem h) 64 * 64

/-- Places of slot i. -/
def shCodeAt (h : Bytes) (i : Nat) : Nat := memKey 4 (field h 48 8 + shCB h * i)
def shRowAt (h : Bytes) (i : Nat) : Nat := memKey 4 (field h 56 8 + shRB h * i)
def shAttrAt (h : Bytes) (i : Nat) : Nat := memKey 4 (field h 64 8 + 32 * i)
def shFiltAt (h : Bytes) (f i : Nat) : Nat := memKey 4 (field h 72 8 + shFB h * f + i / 8)
def shVecAt (h : Bytes) (i : Nat) : Nat := memKey 4 (field h 96 8 + shVB h * i)

/-- The empty slot number. -/
def noSlot : Nat := 0xFFFFFFFF

/-- A slot's attribute record, its state, and changing the record. -/
def Dev.attr (d : Dev) (h : Bytes) (i : Nat) : Bytes := d.load (shAttrAt h i) 32
def Dev.slotState (d : Dev) (h : Bytes) (i : Nat) : Nat := if shCap h ≤ i then 0 else field (d.attr h i) 0 1 % 8
def Dev.setAttr (d : Dev) (h : Bytes) (i : Nat) (a : Bytes) : Dev := (d.store (shAttrAt h i) a).touchKey (shAttrAt h i) 32 true

/-- An attribute record's 32 bytes. -/
def attrBytes (state flags sweep beat passage plen : Nat) : Bytes :=
  leBytes 1 state ++ leBytes 1 flags ++ leBytes 2 0 ++ leBytes 4 sweep ++ leBytes 8 beat ++ leBytes 8 passage ++ leBytes 4 plen ++ leBytes 4 0

/-- A record with its STATE, and with its AFLAGS, replaced. -/
def attrState (a : Bytes) (st : Nat) : Bytes := leBytes 1 st ++ a.drop 1
def attrFlags (a : Bytes) (fl : Nat) : Bytes := a.take 1 ++ leBytes 1 fl ++ a.drop 2

/-- The bit of slot i in filter f, and writing it. -/
def Dev.filtBit (d : Dev) (h : Bytes) (f i : Nat) : Bool := bit (d.byte (shFiltAt h f i)).toNat (i % 8)
def Dev.setFilt (d : Dev) (h : Bytes) (f i : Nat) (v : Bool) : Dev :=
  let b := (d.byte (shFiltAt h f i)).toNat
  d.setByte (shFiltAt h f i) (BitVec.ofNat 8 (if v then bitSet b (i % 8) else bitClear b (i % 8)))
def Dev.setFilts (d : Dev) (h : Bytes) (i mask : Nat) : Dev := (List.range 32).foldl (fun d f => d.setFilt h f i (bit mask f)) d

/-- A row as its edges (slot, FP16 distance), in row order without empty entries; and a row's bytes from its edges. -/
def Dev.rowEdges (d : Dev) (h : Bytes) (i : Nat) : List (Nat × Nat) :=
  let r := d.load (shRowAt h i) (shRB h)
  (List.range (shDegree h)).filterMap fun k =>
    if field r (4 * k) 4 = noSlot then none else some (field r (4 * k) 4, field r (4 * shDegree h + 2 * k) 2)
def rowBytes (h : Bytes) (es : List (Nat × Nat)) : Bytes :=
  let pad := List.replicate (shDegree h - es.length) (noSlot, 0xFFFF)
  let all := (es ++ pad).take (shDegree h)
  let b := (all.flatMap fun e => leBytes 4 e.1) ++ all.flatMap fun e => leBytes 2 e.2
  b ++ List.replicate (shRB h - b.length) 0xFF
def Dev.setRow (d : Dev) (h : Bytes) (i : Nat) (es : List (Nat × Nat)) : Dev :=
  (d.storeP (shRowAt h i) (rowBytes h es) false).touchKey (shRowAt h i) (shRB h) true

/-! ## Distances (R279) -/

/-- A stored or queried element widened to FP32: BF16 is the high half. -/
def widen (fmt x : Nat) : Nat := if fmt = 0 then x else x * 2 ^ 16

/-- A vector's elements as FP32. -/
def vecOf (fmt dim : Nat) (b : Bytes) : List Nat :=
  (List.range dim).map fun j => if fmt = 0 then field b (4 * j) 4 else widen 1 (field b (2 * j) 2)

/-- Squared L2, or the negated inner product, element by element from +0. -/
def vecDist (inner : Bool) (q x : List Nat) : Nat :=
  let acc := (q.zip x).foldl (fun acc p =>
    if inner then f32Fma p.1 p.2 acc else let e := f32Sub p.1 p.2; f32Fma e e acc) 0
  if inner then f32Neg acc else acc

/-- FP32 to FP16 by RNE, overflowing to infinity; FP16 widened. -/
def toF16 (x : Nat) : Nat := fp16.enc (f32 x)
def ofF16 (x : Nat) : Nat := fp32.enc (fp16.dec x)

/-- Centroid c of subspace m. -/
def Dev.centroid (d : Dev) (h : Bytes) (m c : Nat) : List Nat :=
  let n := shDim h / max 1 (shParam h)
  vecOf 0 n (d.load (memKey 4 (field h 80 8 + 4 * ((256 * m + c) * n))) (4 * n))

/-- The table of a query: per subspace the FP16 distances of its centroids. -/
def Dev.queryTable (d : Dev) (h : Bytes) (q : List Nat) : List (List Nat) :=
  let n := shDim h / max 1 (shParam h)
  (List.range (shParam h)).map fun m => (List.range 256).map fun c =>
    toF16 (vecDist (shInner h) ((q.drop (n * m)).take n) (d.centroid h m c))

/-- Bits set in a string of bytes. -/
def bitsIn (b : Bytes) : Nat := b.foldl (fun n x => n + popCount x.toNat 8) 0

/-- The distance of a code from a query code: binary. -/
def binDist (a b : Bytes) : Nat := f32OfNat (bitsIn (a.zipWith (fun x y => x ^^^ y) b))

/-- The distance of a product code under a table. -/
def tableDist (t : List (List Nat)) (code : Bytes) : Nat :=
  (t.zip code).foldl (fun acc p => f32Add acc (ofF16 (p.1.getD p.2.toNat 0))) 0

/-- The distance between two stored codes (groom rewiring). -/
def Dev.codeDist (d : Dev) (h : Bytes) (a b : Nat) : Nat :=
  let x := d.load (shCodeAt h a) (shCB h)
  let y := d.load (shCodeAt h b) (shCB h)
  if shProduct h then
    ((x.zip y).zipIdx).foldl (fun acc p =>
      f32Add acc (ofF16 (leNat (d.load (memKey 4 (field h 88 8 + 2 * (65536 * p.2 + 256 * p.1.1.toNat + p.1.2.toNat))) 2)))) 0
  else binDist x y

/-- The query of a walk: a table for product shards, a code for binary ones. -/
inductive WalkQuery where
  | table (t : List (List Nat))
  | code (c : Bytes)
  deriving DecidableEq, Repr

/-- The code distance of a slot: none where its code reads as poison. -/
def Dev.codeScore (d : Dev) (h : Bytes) (q : WalkQuery) (i : Nat) : Option Nat :=
  if d.poisoned (shCodeAt h i) (shCB h) then none
  else
    let c := d.load (shCodeAt h i) (shCB h)
    some (match q with
      | .table t => tableDist t c
      | .code b => binDist b c)

/-! ## The walk (R283, R284) -/

/-- Nodes are ordered by ascending (distance, local slot). -/
def walkOrd : SelMode := { asc := true, int := false }

/-- The parameters of a walk: beam, result capacity, expansions, and which slots are eligible. -/
structure WalkSpec where
  ef : Nat
  nres : Nat
  maxExpand : Nat
  eligible : Nat → Bool

/-- A walk: the bits of the visited filter, the beam with its expanded marks, the result list, and the counts; `poison`: nodes whose row or
code read as poison. -/
structure WalkSt where
  visited : List Nat := []
  beam : List ((Nat × Nat) × Bool) := []
  res : List (Nat × Nat) := []
  scored : Nat := 0
  expanded : Nat := 0
  poison : Nat := 0
  deriving DecidableEq, Repr

/-- The two bits of the visited filter a slot sets. -/
def visitBits (y : Nat) : Nat × Nat := let h := crc32c (leBytes 4 y); (h % 2 ^ 15, bits h 29 15)
def WalkSt.seen (w : WalkSt) (y : Nat) : Bool := w.visited.contains (visitBits y).1 && w.visited.contains (visitBits y).2
def WalkSt.mark (w : WalkSt) (y : Nat) : WalkSt := { w with visited := addOnce (addOnce w.visited (visitBits y).1) (visitBits y).2 }

/-- Entering a node in a list of some capacity. -/
def enterList (cap : Nat) (l : List (Nat × Nat)) (e : Nat × Nat) : List (Nat × Nat) := (insertBy walkOrd.before e l).take cap

/-- A slot is reachable (R283). -/
def reachState (s : Nat) : Bool := s == 2 || s == 3 || s == 4

/-- Scoring a node and entering it (R284 steps 1 and 3): a NaN distance or a poisoned code makes it unreachable for this walk. -/
def Dev.visit (d : Dev) (h : Bytes) (q : WalkQuery) (sp : WalkSpec) (w : WalkSt) (y : Nat) : WalkSt :=
  if y = noSlot || !reachState (d.slotState h y) || w.seen y then w
  else
    let w := w.mark y
    match d.codeScore h q y with
    | none => { w with poison := w.poison + 1 }
    | some s =>
      let w := { w with scored := w.scored + 1 }
      if f32 s = .nan then w
      else
        let beam := (insertBy (fun (a b : (Nat × Nat) × Bool) => walkOrd.before a.1 b.1) ((s, y), false) w.beam).take sp.ef
        { w with beam := beam, res := if sp.eligible y then enterList sp.nres w.res (s, y) else w.res }

/-- Marking the first unexpanded entry of a beam expanded: the slot, if there is one. -/
def expandFirst : List ((Nat × Nat) × Bool) → Option (Nat × List ((Nat × Nat) × Bool))
  | [] => none
  | (e, true) :: t => (expandFirst t).map fun r => (r.1, (e, true) :: r.2)
  | (e, false) :: t => some (e.2, (e, true) :: t)

/-- Steps 2 and 3 of R284, at most `fuel` expansions. -/
def Dev.expandLoop (d : Dev) (h : Bytes) (q : WalkQuery) (sp : WalkSpec) : Nat → WalkSt → WalkSt
  | 0, w => w
  | fuel + 1, w =>
    match expandFirst w.beam with
    | none => w
    | some (x, beam) =>
      let w := { w with beam := beam, expanded := w.expanded + 1 }
      let w := if d.poisoned (shRowAt h x) (shRB h) then { w with poison := w.poison + 1, expanded := w.expanded - 1 }
        else (d.rowEdges h x).foldl (fun w e => d.visit h q sp w e.1) w
      d.expandLoop h q sp fuel w

/-- A walk from the entry points. -/
def Dev.walk (d : Dev) (s : ShardRec) (q : WalkQuery) (sp : WalkSpec) : WalkSt :=
  d.expandLoop s.hdr q sp sp.maxExpand (s.entries.foldl (fun w y => d.visit s.hdr q sp w y) {})

/-- A single-pass selection over (score, index) elements with indices of their own (R285). -/
def selectList (k : Nat) (l : List (Nat × Nat)) : SelRes :=
  let sorted := sortBy walkOrd.before (l.filter fun e => f32 e.1 != .nan)
  let listed := sorted.take k
  let tie := if listed.length < k || k = 0 then 0 else match listed.getLast? with
    | some w => ((sorted.drop k).filter fun e => walkOrd.key e.1 == walkOrd.key w.1).length
    | none => 0
  { entries := listed, tieOut := tie }

/-- The answer of a query walk (R285), with the poisoned nodes met. -/
def Dev.shardAnswer (d : Dev) (s : ShardRec) (q : ShardQuery) : ShardAns × Nat :=
  let h := s.hdr
  let elig := fun (y : Nat) => d.slotState h y == 3 && decide (field (d.attr h y) 8 8 ≤ q.qbeat) &&
    [q.filtA, q.filtB].all fun f => f == 0xFF || d.filtBit h f y
  let wq := if shProduct h then WalkQuery.table (d.queryTable h q.vec) else .code q.code
  let w := d.walk s wq { ef := q.ef, nres := max q.k q.rerank, maxExpand := q.maxExpand, eligible := elig }
  let live := w.res.filter fun e => d.slotState h e.2 == 3
  let glob := fun (y : Nat) => q.shard * 2 ^ 32 + y
  let (elems, bad) := if q.rerank = 0 then (live.map fun e => (e.1, glob e.2), 0)
    else
      let first := live.take q.rerank
      let ok := first.filter fun e => !d.poisoned (shVecAt h e.2) (shVB h)
      (ok.map fun e => (vecDist (shInner h) q.vec (vecOf (field h 17 1) (shDim h) (d.load (shVecAt h e.2) (shDim h * shElem h))), glob e.2),
       first.length - ok.length)
  let r := selectList q.k elems
  ({ status := if r.entries.length < q.k then C.OK_FEWER else C.OK, entries := r.entries, tieOut := r.tieOut, scored := w.scored
     expanded := w.expanded }, w.poison + bad)

/-! ## A query at its issuer (R288 to R294) -/

/-- The first failing check of a descriptor at the issuer (R289 rows 1 and 2). -/
def queryCheck (b : Bytes) : Option Nat :=
  let k := field b 1 1
  let ef := field b 4 2
  let rr := field b 6 2
  let f := fun (x : Nat) => decide (x < 32) || x == 0xFF
  if field b 15 1 != 0 then some C.HIF_RESERVED
  else if b.length != 64 || crc32c (b.take 28 ++ [0, 0, 0, 0] ++ b.drop 32) != field b 28 4 || decide (64 < k) || decide (1024 < field b 2 2)
      || decide (ef < 16) || decide (512 < ef) || decide (ef < k) || !(rr == 0 || (decide (k ≤ rr) && decide (rr ≤ 256)))
      || field b 8 2 == 0 || !f (field b 10 1) || !f (field b 11 1) || decide (2 ≤ field b 14 1) then some C.SRCH_DESC_BAD
  else none

/-- Shard IDs rise strictly. -/
def idsRise : List Nat → Bool
  | a :: b :: t => decide (a < b) && idsRise (b :: t)
  | _ => true

/-- The device that a shard resolves to: its owner, or ALT where the owner is declared lost (R290). -/
def Dev.shardOwner (d : Dev) (index shard : Nat) : Option (Nat × Nat) := Tbl.at? d.srch.dir (shardKey index shard)

/-- Sending one shard query (R290): its number, the descriptor, and the query vector and code. -/
def Dev.sendQuery (d : Dev) (qid : Nat) (q : Query) (shard dst : Nat) : Dev :=
  d.sendRole .shardQuery dst 0 [qid, field q.desc 0 1, shard, q.tenant, q.qbeat, q.issued + q.timeout]
    (q.desc ++ q.vec.flatMap (leBytes 4) ++ q.code)

/-- Asking ALT in place of the owner, at most once per shard (R290). -/
def Dev.askAlt (d : Dev) (qid shard : Nat) : Dev :=
  match Tbl.at? d.srch.queries qid with
  | none => d
  | some q =>
    match q.subs.find? (·.shard == shard), d.shardOwner (field q.desc 0 1) shard with
    | some s, some (_, alt) =>
      if s.alt || s.ans.isSome || alt == 0xFFFF then d
      else
        let q := { q with subs := q.subs.map fun (x : SubQuery) => if x.shard == shard then { x with alt := true, asked := alt } else x }
        ({ d with srch.queries := Tbl.put d.srch.queries qid q }).sendQuery qid q shard alt
    | _, _ => d

/-- The result record's bytes (R292). -/
def resultRecord (q : Query) (status : Nat) (r : SelRes) : Bytes :=
  let ok := q.subs.filterMap (·.ans)
  let sat := fun (n : Nat) => min n 0xFFFFFFFF
  slice q.desc 56 8 ++ leBytes 2 status ++ leBytes 2 (field q.desc 2 2) ++ leBytes 2 (ok.filter fun a => a.status / 256 == 0).length
    ++ leBytes 2 0 ++ leBytes 4 (sat (ok.foldl (fun n a => n + a.scored) 0)) ++ leBytes 4 (sat (ok.foldl (fun n a => n + a.expanded) 0))
    ++ leBytes 8 q.qbeat ++ r.bytes walkOrd (field q.desc 1 1)

/-- The merge of the answers and the status (R291). -/
def queryResult (q : Query) : Nat × SelRes :=
  let k := field q.desc 1 1
  let ins := q.subs.map fun s => match s.ans with
    | some a => if a.status / 256 = 0 then ({ entries := a.entries, tieOut := a.tieOut } : SelRes) else { entries := [] }
    | none => { entries := [] }
  let r := tree (fun a b => selMerge walkOrd 0 k [a, b]) { entries := [] } ins
  let fail := (q.subs.filterMap (·.ans)).find? fun a => a.status / 256 != 0 && a.status != C.SRCH_BUSY
  let answered := (q.subs.filter fun s => match s.ans with | some a => a.status / 256 == 0 | none => false).length
  let st := match fail with
    | some a => a.status
    | none =>
      if q.subs.isEmpty then C.OK
      else if answered = 0 then C.SRCH_TIMEOUT
      else if answered < q.subs.length then C.OK_PARTIAL
      else if r.entries.length < k then C.OK_FEWER else C.OK
  (st, r)

/-- The address of a byte of a bulk segment (R493). -/
def Dev.bulkAddr (d : Dev) (seg off : Nat) : Nat := (d.reg F.HIF_BULK_BASE_BASE.off).toNat + 65536 * seg + off

/-- Taking the end of a stall's query into its intake (R294): on a failure nothing is spliced, and REQUIRE retires the stall; else the
passages of what was found are to be read. -/
def Dev.stallFound (d : Dev) (id status : Nat) (r : SelRes) : Dev :=
  match d.stall? id with
  | none => d
  | some x =>
    let req := match x.retrieve with | some b => bit (field b 2 1) 0 | none => false
    if status / 256 != 0 then
      let d := d.putStall id { x with query := none, spliced := true, found := [] }
      if req then d.retire id .fail status else d
    else d.putStall id { x with query := none, found := r.entries.map (·.2), spliced := r.entries.isEmpty }

/-- Ending a query: the result record is written, the counters follow, the command completes or the stall goes on (R291, R292). -/
def Dev.endQuery (d : Dev) (qid : Nat) (status : Nat) (r : SelRes) : Dev :=
  match Tbl.at? d.srch.queries qid with
  | none => d
  | some q =>
    let d := { d with srch.queries := Tbl.del d.srch.queries qid }
    let d := d.count F.SRCH_Q_CNT_DONE
    let d := if status = C.OK_PARTIAL then d.count F.SRCH_Q_CNT_PARTIAL else d
    let d := if status / 256 != 0 then d.count F.SRCH_Q_CNT_FAILED else d
    let d := if status = C.SRCH_TIMEOUT || status = C.OK_PARTIAL then d.setFld F.SRCH_EVT_TIMEOUT 1 else d
    let body := resultRecord q status r
    match q.src with
    | .host c addr => (d.put (.hostWrite addr body)).completeCmd c status (slice q.desc 56 8)
    | .stall id =>
      let seg := match d.stall? id with
        | some x => match x.retrieve with | some b => field b 0 2 | none => 0
        | none => 0
      (d.put (.hostWrite (d.bulkAddr seg 61440) body)).stallFound id status r

/-- Ending a query whose every shard has answered with something other than SRCH_BUSY. -/
def Dev.tryEnd (d : Dev) (qid : Nat) : Dev :=
  match Tbl.at? d.srch.queries qid with
  | none => d
  | some q =>
    if q.subs.all fun s => match s.ans with | some a => a.status != C.SRCH_BUSY | none => false then
      let (st, r) := queryResult q
      d.endQuery qid st r
    else d

/-- Issuing a query (R288 to R290): the checks of the issuer; then one shard query to each owner. -/
def Dev.issueQuery (d : Dev) (src : QuerySrc) (desc : Bytes) (tenant : Nat) (vec : List Nat) (code : Bytes) (ids : List Nat) : Dev :=
  let qid := d.srch.nextId
  let index := field desc 0 1
  let k := field desc 1 1
  let limit := if field desc 24 4 = 0 then 2 ^ d.fld F.SRCH_CTRL_TO_LOG2 else field desc 24 4
  let subs := ids.map fun s => ({ shard := s, asked := ((d.shardOwner index s).map (·.1)).getD 0 } : SubQuery)
  let q : Query := { src := src, desc := desc, tenant := tenant, qbeat := if field desc 16 8 = 0 then d.now else field desc 16 8
                     issued := d.now, timeout := limit, vec := vec, code := code, subs := subs }
  let fin := fun (st : Nat) =>
    ({ d with srch.nextId := qid + 1, srch.queries := Tbl.put d.srch.queries qid { q with subs := [] } }).endQuery qid st { entries := [] }
  match queryCheck desc with
  | some st => fin st
  | none =>
    if !d.flag F.SRCH_CTRL_EN then fin C.SRCH_NO_SHARD
    else if !idsRise ids then fin C.SRCH_DESC_BAD
    else if ids.any fun s => (d.shardOwner index s).isNone then fin C.SRCH_NO_SHARD
    else if ids.isEmpty || k = 0 then fin C.OK
    else
      let d := { d with srch.nextId := qid + 1, srch.queries := Tbl.put d.srch.queries qid q }
      subs.foldl (fun d s => if d.isLost s.asked then d.askAlt qid s.shard else d.sendQuery qid q s.shard s.asked) d

/-- Reading the list of shard IDs. -/
def shardIds (n : Nat) (b : Bytes) : List Nat := (List.range n).map fun i => field b (2 * i) 2

/-- The query of a request (R293, R294): the descriptor at byte 64 of the query segment, its arrays at offsets within it. A plane-1 home of a
tandem issues none: it takes its mirror's tokens (R295). -/
def Dev.stallQuery (d : Dev) (id : Nat) (seg : Bytes) : Dev :=
  match d.stall? id with
  | none => d
  | some x =>
    if x.retrieve.isNone || x.query.isSome || x.spliced || !x.found.isEmpty || x.r.state != .intake || (d.flag F.HLT_TANDEM_EN && d.me / 2 ^ 14 == 1) then d
    else
      let b := slice seg 64 64
      let fmt := field b 14 1
      let dim := field b 12 2
      let n := field b 2 2
      let inSeg := fun (o len : Nat) => decide (128 ≤ o) && decide (o + len ≤ 61440)
      let vlen := dim * (if fmt = 0 then 4 else 2)
      let code := field b 40 8
      let okRange := (n == 0 || inSeg (field b 48 8) (2 * n)) && inSeg (field b 32 8) vlen && (code == 0 || inSeg code 1)
      let d := d.putStall id { x with query := some d.srch.nextId }
      if queryCheck b = none && !okRange then
        (d.putStall id { x with query := none }).stallFound id C.SRCH_DESC_BAD { entries := [] }
      else
        d.issueQuery (.stall id) b x.r.tenant (vecOf fmt dim (slice seg (field b 32 8) vlen))
          (if code = 0 then [] else slice seg code 256) (shardIds n (slice seg (field b 48 8) (2 * n)))

end Sys2Proof.Machine
end

