-- ==== Sys2Proof/Machine/Intake.lean ====
section
/-!
DEFINITION. Machine/Intake.lean: the intake queue, the allocator, the XOFF pins and the shadow copy
(spec/06_stalls_and_intake.md R156 to R159, R167 to R184).
-/

namespace Sys2Proof.Machine

/-! ## The queue (R174 to R176, R184) -/

/-- The items of a level, and how many it counts: a request that waits at the head is still queued (R157). -/
def Dev.level (d : Dev) (l : Nat) : List QItem := Tbl.rd (fun _ => []) d.stl.levels l
def Dev.setLevel (d : Dev) (l : Nat) (q : List QItem) : Dev := { d with stl.levels := Tbl.wr (fun _ => []) d.stl.levels l q }
def Dev.waitingAt (d : Dev) (l : Nat) : Nat :=
  match d.stl.waiting with
  | some (q :: t) => if itemPrio q.bytes = l then t.length + 1 else 0
  | _ => 0
def Dev.levelCount (d : Dev) (l : Nat) : Nat := (d.level l).length + d.waitingAt l
def Dev.queued (d : Dev) : Nat := (List.range 8).foldl (fun n l => n + d.levelCount l) 0

/-- The items a watermark counts (R184). -/
def Dev.wmCount (d : Dev) (i : Nat) : Nat :=
  (List.range 8).foldl (fun n l => n + if bit (d.fld (F.INTK_WM_LVL_MASK i)) l then d.levelCount l else 0) 0

/-- The value pin i takes (R184; high while EN is clear, R515). -/
def Dev.xoffNext (d : Dev) (i : Nat) (cur : Bool) : Bool :=
  let hi := d.fld (F.INTK_WM_HI i)
  let lo0 := d.fld (F.INTK_WM_LO i)
  let lo := if lo0 != 0 && hi != 0 && decide (hi ≤ lo0) then hi - 1 else lo0
  let n := d.wmCount i
  if !d.flag F.INTK_CTRL_EN then true
  else if hi = 0 then false
  else if hi ≤ n then true
  else if cur && ((lo != 0 && decide (n ≤ lo)) || lo == 0) then false
  else cur

/-- Evaluating the four pins; a pin that changes is driven. -/
def Dev.xoffEval (d : Dev) : Dev :=
  let next := (List.range 4).map fun i => d.xoffNext i (d.stl.xoff.getD i true)
  let d' := (List.range 4).foldl (fun (a : Dev) i =>
    if next.getD i true != d.stl.xoff.getD i true then a.put (.pin (.intkXoff i) (next.getD i true)) else a) d
  { d' with stl.xoff := next }

/-- An item with STAMP written (R174). -/
def stampItem (it : Bytes) (beat : Nat) : Bytes := it.take 56 ++ leBytes 8 beat

/-- Answering a request that gets no stall, or its assignment: a kind-1 completion on a completion ring, or a message to the device the
request came from (R179, R180, R487). Arguments: status, tag, opcode, stall (all-ones for none), shadow, ARRIVE. -/
def Dev.answer (d : Dev) (cpl : Nat) (ring : Option Nat) (fabric status tag opcode stall shadow arrive : Nat) : Dev :=
  match ring with
  | some r =>
    d.complete cpl (.stall 1 status tag opcode r stall d.me shadow 0 0 arrive)
      (some { ring := r, opcode := opcode, tag := tag, quiet := false })
  | none => d.send .intakeAnswer fabric [status, tag, opcode, stall, d.me, shadow, arrive]

/-- R179's checks, in order; the second component: the refusal counts as FULL. -/
def check179 (d : Dev) (items : List Bytes) : Option (Nat × Bool) :=
  if !d.flag F.INTK_CTRL_EN then some (C.STL_INTK_FULL, true)
  else if !items.all (fun it => itemOp it == 1 || itemOp it == 2 || itemOp it == 3) then some (C.STL_BAD_OPCODE, false)
  else if !items.all itemRsvOk then some (C.HIF_RESERVED, false)
  else if !requestSeqOk items then some (C.STL_SEQ, false)
  else if 65536 < d.queued + items.length then some (C.STL_INTK_FULL, true)
  else none

/-- Enqueuing a request whose structure is right (R174, R175), or refusing it (R179). -/
def Dev.enqueue (d : Dev) (ring : Option Nat) (src : Nat) (items : List Bytes) : Dev :=
  let first := items.headD []
  match check179 d items with
  | some (st, full) =>
    let d := if full then (d.setFld F.INTK_EVT_FULL 1).count F.INTK_REFUSE_CNT_FULL
      else (d.setFld F.INTK_EVT_REFUSED 1).count F.INTK_REFUSE_CNT_MALFORMED
    d.answer (match ring with | some r => (d.cmdRing r).cpl | none => 0) ring src st (field first 2 2) (itemOp first) 0xFFFFFFFF 0 0
  | none =>
    let l := itemPrio first
    let q := items.map fun it => ({ bytes := stampItem it d.now, ring := ring, fabric := src } : QItem)
    (d.setLevel l (d.level l ++ q)).xoffEval

/-- R484's checks 1 to 3 for an intake item on a ring: its opcode, its TAG, and whether the ring may issue it. -/
def check484Item (d : Dev) (ring : Nat) (first : Bytes) : Option Nat :=
  let named := itemOp first == 1 || itemOp first == 3
  if !(named || itemOp first == 2) then some (if itemOp first < 0x10 then C.STL_BAD_OPCODE else C.HIF_OPCODE)
  else if named && field first 2 2 == 0xFFFF then some C.HIF_TAG
  else if !(d.cmdRing ring).intake || (named && field first 4 2 % 2 ^ 12 != (d.cmdRing ring).tenant) then some C.HIF_DENIED
  else none

/-- Taking an intake request. From a ring it is taken in turn, its items consumed as one command (R485); items behind an unfinished
request complete it, when they are EXT items, or end it with STL_SEQ; a request cut short by the producer index waits for its
rest (R486). From the fabric it is enqueued at once. -/
def Dev.takeIntake (d : Dev) (q : IntakeReq) : Dev :=
  match q.ring with
  | none => if d.pwr.state == .run || d.pwr.state == .idle then d.enqueue none q.src q.items else d
  | some r =>
    if !(d.consuming && d.nextRing == some r) || q.items.isEmpty then d
    else
      let held := match Tbl.at? d.hif.partials r with | some p => p.items | none => []
      let joins := !held.isEmpty && itemOp (q.items.headD []) == 2
      let d := if !held.isEmpty && !joins then d.refusePartial r else d
      let items := if joins then held ++ q.items else q.items
      let first := items.headD []
      let ref : CmdRef := { ring := r, opcode := itemOp first, tag := field first 2 2, quiet := false }
      let d := d.consume ref q.items.length
      let d := if joins then { (d.retireCmd (some ref)) with hif.partials := Tbl.del d.hif.partials r } else d
      if itemMore (items.getLast?.getD []) && decide (items.length < 8) && (d.cmdRing r).prod == (d.cmdRing r).cons then
        { d with hif.partials := Tbl.put d.hif.partials r { items := items, since := d.now } }
      else
        match check484Item d r first with
        | some st =>
          let d := d.count F.HIF_CMD_CNT_REFUSED
          let d := ((d.setFld F.HIF_LAST_ERR_STATUS st).setFld F.HIF_LAST_ERR_RING r).setFld F.HIF_LAST_ERR_INDEX
            (((d.cmdRing r).cons + 2 ^ 32 - 1) % 2 ^ 32)
          d.answer (d.cmdRing r).cpl (some r) 0 st (field first 2 2) (itemOp first) 0xFFFFFFFF 0 0
        | none => d.enqueue (some r) 0 items

/-- NEW (R179). -/
def execNewItem (q : IntakeReq) (s : State) : Out := s.onDev fun d => d.takeIntake q

/-- CONTINUE (R179). -/
def execContinueItem (q : IntakeReq) (s : State) : Out := s.onDev fun d => d.takeIntake q

/-- Splitting off the request at the head of a level: its items up to the first with MORE clear. -/
def splitRequest : List QItem → List QItem × List QItem
  | [] => ([], [])
  | q :: t => if itemMore q.bytes then ((q :: (splitRequest t).1), (splitRequest t).2) else ([q], t)

/-- The lowest level that holds an item. -/
def Dev.headLevel (d : Dev) : Option Nat := (List.range 8).find? fun l => !(d.level l).isEmpty

/-- DROP_REST (R175): the unread items of the open request are discarded and counted. -/
def Dev.dropRest (d : Dev) : Dev :=
  match d.stl.openLvl with
  | none => d
  | some l =>
    let (gone, rest) := splitRequest (d.level l)
    (({ d with stl.openLvl := none }.setLevel l rest).count F.INTK_DROP_CNT_DROPPED gone.length).xoffEval

/-- A read of the queue by host software (R175, R176, R183): the next item of the open request, else the next item, else the idle
item. -/
def Dev.popItem (d : Dev) : Dev :=
  let lvl := match d.stl.openLvl with | some l => some l | none => d.headLevel
  match lvl with
  | none => { d with stl.pop := List.replicate 56 0 ++ leBytes 8 d.now }
  | some l =>
    match d.level l with
    | [] => { d with stl.openLvl := none, stl.pop := List.replicate 56 0 ++ leBytes 8 d.now }
    | q :: t =>
      ({ d.setLevel l t with stl.pop := q.bytes, stl.openLvl := if itemMore q.bytes then some l else none }).xoffEval

/-- What a write of INTK_CMD does (R183): nothing with MANUAL clear. -/
def Dev.intkCmd (d : Dev) (next drop : Bool) : Dev :=
  if !d.flag F.INTK_CTRL_MANUAL then d
  else
    let d := if next then d.popItem else d
    if drop then d.dropRest else d

/-! ## The stall pool (R157) -/

/-- Allocating a range of the stall pool. -/
def Dev.poolAlloc (d : Dev) (bytes id : Nat) : Option (Nat × Dev) :=
  match lowestFit (d.reg F.STL_POOL_BASE_BASE.off).toNat (d.reg F.STL_POOL_SIZE_SIZE.off).toNat 65536 bytes
      (d.stl.pool.map fun r => (r.1, r.2.1)) with
  | none => none
  | some a => some (a, { d with stl.pool := d.stl.pool ++ [(a, bytes, id)] })

/-- Freeing the range at an address, and every range of a stall. -/
def Dev.poolFree (d : Dev) (a : Nat) : Dev := { d with stl.pool := d.stl.pool.filter fun r => r.1 != a }
def Dev.poolFreeAll (d : Dev) (id : Nat) : Dev := { d with stl.pool := d.stl.pool.filter fun r => r.2.2 != id }

/-- The bytes of a range of the pool. -/
def Dev.poolBytes (d : Dev) (a : Nat) : Nat := ((d.stl.pool.find? fun r => r.1 == a).map (·.2.1)).getD 0

/-- Bytes of a token log, and of a page list: where the home holds no record of the model, whose S and Np give the size, the list has
the room of its header (DESIGN CHOICE, log entry 25). -/
def tokLogBytes (limit : Nat) : Nat := up64k (4 * limit)
def Dev.listBytes (d : Dev) (model limit : Nat) : Nat :=
  match d.model? model with
  | some m => pageListBytes m limit
  | none => 65536

/-- Bytes of a penalty count table (R261). -/
def penBytes (vocab limit : Nat) : Nat := up64k (64 + ceilDiv vocab 64 * 64 + 8 * ceilDiv limit 255)

/-- Allocating the penalty count table once the sampling record has passed (R157). -/
def Dev.tryPen (d : Dev) (id : Nat) : Dev :=
  match d.stall? id with
  | none => d
  | some x =>
    if !x.sampDone || x.penDone then d
    else match d.poolAlloc (penBytes (field x.sampCopy 4 4) x.r.lenLimit) id with
      | none => d
      | some (a, d) => d.putStall id { x with penDone := true, r := { x.r with penTable := a } }

/-! ## The allocator (R156, R180, R181) -/

/-- Free stalls, and the lowest-numbered one (R156). -/
def Dev.freeStalls (d : Dev) : Nat := 131072 - d.stl.stalls.length
def lowestFree (used : List Nat) : Nat → Nat → Option Nat
  | 0, _ => none
  | n + 1, i => if used.contains i then lowestFree used n (i + 1) else some i
def Dev.lowestStall (d : Dev) : Option Nat := lowestFree (Tbl.keys d.stl.stalls) (min 131072 (d.stl.stalls.length + 1)) 0

/-- The bulk segments a request names: its token segments, its sampling segment (a NEW without GREEDY) and its query segment. -/
def requestSegs (items : List Bytes) : List Nat :=
  let a := items.headD []
  let toks := (List.range (ceilDiv (field a 16 4) 16368)).map (field a 24 2 + ·)
  let samp := if itemOp a == 1 && !bit (field a 40 4) 16 then [field a 40 2] else []
  let q := match requestQuery items with | some b => [field b 0 2] | none => []
  toks ++ samp ++ q

/-- Tokens that may be spliced into a request (R293). -/
def ragMax (items : List Bytes) : Nat := match requestQuery items with | some b => field b 8 4 | none => 0

/-- An empty request (R181). -/
def emptyRequest (a : Bytes) : Bool := field a 16 4 == 0 && (itemOp a == 1 || field a 20 4 == 0)

/-- The stall a CONTINUE names, where it passes both of its further checks, or the code of the first that fails (R180). -/
def continueCheck (d : Dev) (a : Bytes) : Option Nat :=
  match d.stall? (field a 28 4 % 2 ^ 17) with
  | none => some C.STL_UNKNOWN
  | some x =>
    if x.r.tenant != field a 4 2 % 2 ^ 12 || x.r.model != field a 6 2 then some C.STL_UNKNOWN
    else if x.r.state != .park && x.r.state != .spill then some C.STL_STATE
    else none

/-- R180's checks, in order. `handed`: the segments whose OWNER reads 0x02. -/
def check180 (d : Dev) (first : QItem) (items : List Bytes) (handed : List Nat) : Option Nat :=
  let a := items.headD []
  let ring := field a 26 2
  let ringOk := match first.ring with
    | some _ => (d.cplRing ring).en && (d.cplRing ring).intakeOk
    | none => ring == 0
  let base := if itemOp a == 3 then
      (match d.stall? (field a 28 4 % 2 ^ 17) with | some x => x.r.lenCommit | none => 0) else 0
  let splice := match requestQuery items with | some b => field b 4 4 | none => 0
  if !ringOk then some C.STL_BAD_RING
  else if field a 8 8 != 0 && decide (field a 8 8 ≤ d.now) then some C.STL_DEADLINE
  else match (if itemOp a == 3 then continueCheck d a else none) with
  | some st => some st
  | none =>
    if 2 ^ 22 < base + field a 16 4 + ragMax items + field a 20 4 || field a 16 4 < splice then some C.STL_BAD_LENGTH
    else if (d.servers 1 (field a 6 2)).isEmpty || (field a 20 4 != 0 && (d.servers 2 (field a 6 2)).isEmpty) then
      some C.STL_NO_MODEL
    else if emptyRequest a then none
    else if (requestSegs items).any (fun s =>
        decide (d.fld F.HIF_BULK_SEGS_SEGS ≤ s) || !handed.contains s || d.hif.segHeld.contains s) then some C.STL_BAD_BULK
    else none

/-- The shadow R167 picks: the item's, else this device's own entry's; none when it is unusable. -/
def Dev.pickShadow (d : Dev) (item : Nat) : Option Nat :=
  let c := if item != 0xFFFF then some item else (d.comp.cur.entry d.me).map (·.shadow)
  match c with
  | none => none
  | some x => if x == d.me || (d.comp.cur.entry x).isNone || d.isLost x then none else some x

/-- Raising STL_NO_SHADOW at most once per 2^20 beats (R167). -/
def Dev.noShadow (d : Dev) : Dev :=
  if rateOk d.stl.noShadowEvt d.now then ({ d with stl.noShadowEvt := some d.now }).raise E.STL_NO_SHADOW else d

/-- Creating a stall's copy on a shadow (R167, R173): the record, the token log and the PARK descriptors. -/
def Dev.createShadow (d : Dev) (id shadow : Nat) : Dev :=
  match d.stall? id with
  | none => d
  | some x =>
    d.send .shadowCreate shadow [id, x.r.lenCommit]
      (x.r.bytes ++ (d.toks x.r 0 x.r.lenCommit).flatMap (leBytes 4) ++ parkListBytes x.parkDescs)

/-- Writing the assignment acknowledgement (R182, R497), with its time in HIF_ACK_LAT, counted from the enqueue beat. -/
def Dev.ackIntake (d : Dev) (id : Nat) : Dev :=
  match d.stall? id with
  | none => d
  | some x =>
    if x.acked || x.waitMirror then d
    else
      let t := d.now - (if x.r.cont then x.restBeat else x.r.arrive)
      let d := d.raiseTo F.HIF_ACK_LAT_MAX t
      let d := if 25000 < t then d.count F.HIF_ACK_LAT_OVER else d
      let d := d.putStall id { x with acked := true }
      d.answer x.r.ring x.ring0 x.fabric C.OK x.r.tag x.r.opcode id x.r.shadow x.r.arrive

/-- Forwarding an accepted request to the partner while mirroring is in effect (R468). -/
def Dev.mirrorOut (d : Dev) (id side : Nat) (items : List Bytes) : Dev :=
  if side = 1 then d.send .mirrorIntake (partnerOf d.me) [id] items.flatten else d

/-- Assigning a stall to a NEW that has passed its checks (R156, R157, R159, R162, R167, R468); none where a pool range is not available. -/
def Dev.assignAs (d : Dev) (id side : Nat) (first : QItem) (items : List Bytes) : Option Dev :=
    let a := items.headD []
    let limit := field a 16 4 + ragMax items + field a 20 4
    match d.poolAlloc (tokLogBytes limit) id with
    | none => none
    | some (tokLog, d) =>
      match d.poolAlloc (d.listBytes (field a 6 2) limit) id with
      | none => none
      | some (list, d) =>
        let shadow := d.pickShadow (field a 30 2)
        let samp := field a 40 4
        let greedy := bit samp 16
        let m := (d.model? (field a 6 2)).getD {}
        let segs := if side = 2 then [] else requestSegs items
        let r : StallRec :=
          { id := id, tenant := bits (field a 4 2) 11 0, cls := bits (field a 4 2) 14 12, state := .intake
            dlDrop := bit (iflags a) 5, keep := bit (iflags a) 4, model := field a 6 2, deadline := field a 8 8
            lenPrompt := field a 16 4, lenLimit := limit, pageList := list, seed := field a 32 8, tokLog := tokLog
            samp := Config.sampAddr id, mapEpoch := d.comp.cur.epoch, home := d.me, shadow := shadow.getD d.me
            ring := field a 26 2, altRing := field a 28 2, tag := field a 2 2, arrive := field a 56 8
            bulkSeg := field a 24 2 }
        let x : Stall :=
          { r := r, ring0 := first.ring, fabric := first.fabric, segs := segs, given := field a 16 4, copying := true
            retrieve := requestQuery items, lenMax := field a 20 4, greedy := greedy
            side := side, waitMirror := side == 1, acked := side == 2
            sampSeg := if greedy || side == 2 then none else some (samp % 2 ^ 16), sampDone := greedy
            sampCopy := if greedy then greedyRecord else [], stops := requestStops items
            penFrom := field a 16 4
            pages := { npage := ceilDiv limit m.np, model := field a 6 2, shards := m.shards, pageLog2 := m.pageLog2 } }
        let d := { d.putStall id x with hif.segHeld := d.hif.segHeld ++ segs }
        let d := (d.tryPen id).mirrorOut id side items
        some (match shadow with
          | some sh => d.createShadow id sh
          | none => (d.noShadow).ackIntake id)

/-- Assigning the lowest stall not in use, none where there is none. -/
def Dev.assign (d : Dev) (first : QItem) (items : List Bytes) : Option Dev :=
  if d.freeStalls ≤ d.fld F.STL_CTRL_PROMOTE_RSV then none
  else match d.lowestStall with
    | none => none
    | some id => d.assignAs id (if d.hlt.active then 1 else 0) first items

/-- A range that a larger LEN_LIMIT outgrows (R157, R196): a new one is allocated, none when the pool cannot supply it. -/
def Dev.regrow (d : Dev) (a bytes id : Nat) : Option (Nat × Dev) :=
  if bytes ≤ d.poolBytes a then some (a, d) else d.poolAlloc bytes id

/-- Beginning a new turn for a CONTINUE that has passed its checks (R158, R162, R181); none where the pool cannot supply the larger
ranges. -/
def Dev.beginTurn (d : Dev) (first : QItem) (items : List Bytes) : Option Dev :=
  let a := items.headD []
  let id := field a 28 4 % 2 ^ 17
  match d.stall? id with
  | none => some d
  | some x =>
    let limit := x.r.lenCommit + field a 16 4 + field a 20 4
    match d.regrow x.r.tokLog (tokLogBytes limit) id with
    | none => none
    | some (tokLog, d1) =>
      match d1.regrow x.r.pageList (d.listBytes x.r.model limit) id with
      | none => none
      | some (list, d2) =>
        match (if x.penDone then d2.regrow x.r.penTable (penBytes (field x.sampCopy 4 4) limit) id else some (x.r.penTable, d2)) with
        | none => none
        | some (pen, d3) =>
          let d3 := if tokLog == x.r.tokLog then d3
            else (d3.putToks { x.r with tokLog := tokLog } 0 (d.toks x.r 0 x.r.lenCommit)).poolFree x.r.tokLog
          let d3 := if list == x.r.pageList then d3 else d3.poolFree x.r.pageList
          let d3 := if pen == x.r.penTable then d3 else d3.poolFree x.r.penTable
          let side := if x.side = 2 && first.ring.isNone then 2 else if d.hlt.active then 1 else 0
          let segs := if side = 2 then [] else requestSegs items
          let exts := requestStops items
          let r := { x.r with
            state := .prefill, dlDrop := bit (iflags a) 5, keep := bit (iflags a) 4, cont := true, deadline := field a 8 8
            lenPrompt := x.r.lenCommit + field a 16 4, lenLimit := limit, tokLog := tokLog, pageList := list
            penTable := pen, ring := field a 26 2, tag := field a 2 2, bulkSeg := field a 24 2, status := 0 }
          let y := { x with
            r := r, ring0 := first.ring, fabric := first.fabric, segs := segs, given := field a 16 4, turnBase := x.r.lenCommit
            copying := true, retrieve := none, passages := [], spliced := false, lenMax := field a 20 4, cancel := false
            stops := exts, acked := side == 2, side := side, waitMirror := side == 1, mirrorToks := none, restBeat := field a 56 8, promptWritten := false
            pages := { x.pages with npage := ceilDiv limit x.pages.np } }
          let d3 := { d3 with hif.segHeld := d3.hif.segHeld ++ segs }
          some (((d3.setStall id x y).mirrorOut id side items).ackIntake id)

/-- A request that has passed its checks: an empty one completes; a NEW is assigned a stall; a CONTINUE begins a turn; or it waits at
the head of the queue (R156, R181). -/
def Dev.takeIn (d : Dev) (first : QItem) (items : List Bytes) : Dev :=
  let a := items.headD []
  if emptyRequest a then
    (d.answer (field a 26 2) first.ring first.fabric C.OK (field a 2 2) (itemOp a) 0xFFFFFFFF 0 (field a 56 8)).xoffEval
  else
    match (if itemOp a == 3 then d.beginTurn first items else d.assign first items) with
    | some d => d.xoffEval
    | none => { d with stl.waiting := some ({ first with bytes := a } :: (items.drop 1).map fun b => { first with bytes := b }) }

/-- Refusing a request the allocator has read (R180). -/
def Dev.refuseRead (d : Dev) (first : QItem) (a : Bytes) (st : Nat) : Dev :=
  let d := ((d.setFld F.INTK_EVT_REFUSED 1).count F.INTK_REFUSE_CNT_MALFORMED)
  let cpl := if st == C.STL_BAD_RING then (match first.ring with | some r => (d.cmdRing r).cpl | none => 0) else field a 26 2
  (d.answer cpl first.ring first.fabric st (field a 2 2) (itemOp a) 0xFFFFFFFF 0 (field a 56 8)).xoffEval

/-- Issuing the query of the request just assigned (R294). -/
def Dev.startQueries (d : Dev) (seg : Bytes) : Dev := (Tbl.keys d.stl.stalls).foldl (fun d id => d.stallQuery id seg) d

/-- ALLOCATOR_READ (R156, R180): a waiting request is tried again before anything behind it is read. Nothing is read while STL_CTRL.EN
is clear or MANUAL is set (R183, R186). A request that host software has begun to read is dropped first (DEDUCED, log entry 26). -/
def execAllocatorRead (r : AllocRead) (s : State) : Out :=
  s.onDev fun d =>
    if !d.flag F.STL_CTRL_EN || d.flag F.INTK_CTRL_MANUAL || !(d.pwr.state == .run || d.pwr.state == .idle) then d
    else match d.stl.waiting with
    | some (q :: t) => (({ d with stl.waiting := none }).takeIn q (q.bytes :: t.map (fun (y : QItem) => y.bytes))).startQueries r.query
    | _ =>
      let d := d.dropRest
      match d.headLevel with
      | none => d
      | some l =>
        match splitRequest (d.level l) with
        | ([], _) => d
        | (q :: t, rest) =>
          let d := d.setLevel l rest
          let items := q.bytes :: t.map (·.bytes)
          match check180 d q items r.handed with
          | some st => d.refuseRead q q.bytes st
          | none => (d.takeIn q items).startQueries r.query

/-! ## The shadow copy (R167 to R173) -/

/-- Storing a copy (R167): the token log entries and PARK descriptors it carries are kept beside the record. -/
def ShadowEnt.store (e : ShadowEnt) (m : ReplMsg) : ShadowEnt :=
  { r := StallRec.read m.record
    toks := m.toks.foldl (fun t x => Tbl.put t x.1 x.2) e.toks
    parks := (e.parks.filter fun w => !m.parks.any fun v => v.page == w.page && v.shard == w.shard) ++ m.parks
    samp := if m.samp.isEmpty then e.samp else m.samp }

/-- SHADOW_ENTRY_CREATE (R167, R173): this device is the shadow; a full shadow table refuses with STL_SHADOW_FULL. -/
def execShadowEntryCreate (m : ReplMsg) (s : State) : Out :=
  s.onDev fun d =>
    let k := stallKey m.src m.stall
    if 131072 ≤ d.stl.shadow.length ∧ (Tbl.at? d.stl.shadow k).isNone then
      d.send .shadowAnswer m.src [m.stall, C.STL_SHADOW_FULL]
    else
      ({ d with stl.shadow := Tbl.put d.stl.shadow k (ShadowEnt.store {} m) }).send .shadowAnswer m.src [m.stall, C.OK]

/-- REPLICATION (R162, R170, R173): a copy whose VERSION follows the one held is applied and acknowledged, one that says `free` clears the
entry; any other is discarded; an entry not
held is refused with STL_UNKNOWN. -/
def execReplication (m : ReplMsg) (s : State) : Out :=
  s.onDev fun d =>
    let k := stallKey m.src m.stall
    match Tbl.at? d.stl.shadow k with
    | none => d.send .replicateRefused m.src [m.stall, C.STL_UNKNOWN]
    | some e =>
      let v := field m.record 104 4
      let diff := (v + 2 ^ 32 - e.r.version) % 2 ^ 32
      if 1 ≤ diff ∧ diff < 2 ^ 31 then
        let d := if (StallRec.read m.record).state == .free then { d with stl.shadow := Tbl.del d.stl.shadow k }
                 else { d with stl.shadow := Tbl.put d.stl.shadow k (e.store m) }
        d.send .replicateAck m.src [m.stall, v]
      else d

/-- A message for a stall that is free is discarded and counted (R162). -/
def Dev.stale (d : Dev) : Dev := d.count F.STL_RETIRE_CNT_STALE

/-- INTAKE_ACKNOWLEDGEMENT (R167, R173, R182): the shadow has answered. With its entry created SHADOW_OK is set; with the table full the
stall runs unshadowed and the event is raised. The assignment completion is written unless it has been. -/
def execIntakeAcknowledgement (stall status : Nat) (s : State) : Out :=
  s.onDev fun d =>
    match d.stall? stall with
    | none => d.stale
    | some x =>
      if status == C.OK then
        (d.setStall stall x { x with r := { x.r with shadowOk := true } }).ackIntake stall
      else
        let d := d.setStall stall x { x with r := { x.r with shadowOk := false, shadow := d.me } }
        ((d.raise E.STL_SHADOW_FULL 0 0 stall).ackIntake stall).deliver stall none

/-- REPLICATION_ACK (R169): the token completions the acknowledged version covers are written and LEN_DELIV advances. -/
def execReplicationAck (stall version : Nat) (s : State) : Out :=
  s.onDev fun d =>
    match d.stall? stall with
    | none => d.stale
    | some _ => d.deliver stall (some version)

/-- REPLICATION_REFUSED (R173): SHADOW_OK clears; STL_UNKNOWN has the copy created again on the same device, STL_SHADOW_FULL leaves the
stall unshadowed. Tokens held for the shadow's acknowledgement are delivered. -/
def execReplicationRefused (stall code : Nat) (s : State) : Out :=
  s.onDev fun d =>
    match d.stall? stall with
    | none => d.stale
    | some x =>
      if !x.r.shadowOk then d
      else if code == C.STL_SHADOW_FULL then
        let d := d.putStall stall { x with r := { x.r with shadowOk := false, shadow := d.me } }
        (d.raise E.STL_SHADOW_FULL 0 0 stall).deliver stall none
      else
        let d := d.putStall stall { x with r := { x.r with shadowOk := false } }
        ((d.raise E.STL_SHADOW_LOST 0 0 stall).deliver stall none).createShadow stall x.r.shadow

/-! ## The end of intake (R158, R162, R164, R259) -/

/-- The check of a sampling record (R259, R495): a passing record becomes the sampling copy; a failing one retires the stall. The segment is
returned either way. -/
def Dev.samplingChecked (d : Dev) (stall : Nat) (record : Bytes) : Dev :=
  match d.stall? stall with
  | none => d.stale
  | some x =>
    if x.r.state != .intake || x.sampDone then d
    else
      let seg := x.sampSeg.toList
      let d := d.returnSegs seg
      let x := { x with segs := x.segs.filter fun q => !seg.contains q }
      if sampOk record then
        (d.putStall stall { x with
          sampDone := true, sampCopy := record, penFrom := if bit (field record 10 1) 0 then 0 else x.r.lenPrompt }).tryPen stall
      else (d.putStall stall x).retire stall .fail C.SMP_RECORD_BAD

/-- SAMPLING_RECORD_CHECK (R259). -/
def execSamplingRecordCheck (stall : Nat) (record : Bytes) (s : State) : Out := s.onDev fun d => d.samplingChecked stall record

/-- The tokens of a turn in the log: the given tokens with the passages spliced in at SPLICE_AT (R294). -/
def Stall.turnTokens (x : Stall) (given : List Nat) : List Nat :=
  match x.retrieve with
  | none => given
  | some b => let n := field b 4 4; given.take n ++ x.passages ++ given.drop n

/-- The end of intake (R158, R162, R164): the given tokens lie in both token logs. Where the sampling record is checked, the retrieval done
and the penalty table allocated, the turn begins: a waiting cancel or a passed deadline retires it, else the lengths are set and
prefill is placed. A delivering home in a tandem forwards the tokens (R468). -/
def Dev.intakeEnded (d : Dev) (stall : Nat) (tokens : List Nat) : Dev :=
  match d.stall? stall with
  | none => d.stale
  | some x =>
    if !x.copying || tokens.length != x.given then d
    else
      let d := d.tryPen stall
      let x := (d.stall? stall).getD x
      if !x.sampDone || !x.penDone || (x.retrieve.isSome && !x.spliced) then d
      else
        let toks := x.turnTokens tokens
        let d := (d.putToks x.r x.turnBase toks).returnSegs x.segs
        let d := if x.side = 1 then d.send .mirrorGiven (partnerOf d.me) (stall :: tokens) x.sampCopy else d
        let n := x.turnBase + toks.length
        let r := { x.r with lenPrompt := n, lenLimit := n + x.lenMax }
        let y := { x with r := r, segs := [], copying := false, promptWritten := true, mirrorToks := none
                          penFrom := if x.penFrom == 0 || x.r.cont then x.penFrom else n }
        if x.cancel then (d.putStall stall y).retire stall .late C.STL_CANCELLED
        else if r.passed d.now then (d.putStall stall y).retire stall .late C.STL_DEADLINE
        else
          let z := { y with r := { r with state := .prefill, lenCommit := n, lenTent := n, lenDeliv := n } }
          (d.setStall stall x z).placePrompt stall

/-- END_OF_INTAKE (R158). -/
def execEndOfIntake (stall : Nat) (tokens : List Nat) (s : State) : Out := s.onDev fun d => d.intakeEnded stall tokens

/-! ## Mirror homes (R468) -/

/-- A request accepted on the other plane: this home takes the same STALL_ID for it as its mirror home, or answers that it is not free. -/
def Dev.mirrorIn (d : Dev) (stall : Nat) (items : List Bytes) : Dev :=
  let first : QItem := { bytes := items.headD [], ring := none, fabric := partnerOf d.me }
  let answer := fun (d : Dev) (ok : Bool) => d.send .mirrorAnswer (partnerOf d.me) [stall, b2n ok]
  if itemOp (items.headD []) == 3 then
    match d.stall? stall with
    | some x => if x.side = 2 then (match d.beginTurn first items with | some d => answer d true | none => answer d false) else answer d false
    | none => answer d false
  else if (d.stall? stall).isSome || 131072 ≤ stall then answer d false
  else match d.assignAs stall 2 first items with
    | some d => answer d true
    | none => answer d false

/-- The partner's answer: the assignment is acknowledged once the shadow has answered too; or the request is refused with HLT_MIRROR_FULL. -/
def Dev.mirrorAnswered (d : Dev) (stall : Nat) (ok : Bool) : Dev :=
  match d.stall? stall with
  | none => d
  | some x =>
    if !x.waitMirror then d
    else if ok then
      let d := d.putStall stall { x with waitMirror := false }
      if x.r.shadowOk || x.r.shadow == d.me || x.r.cont then d.ackIntake stall else d
    else
      let d := (d.raise E.HLT_MIRROR_FULL 0 0 stall).answer x.r.ring x.ring0 x.fabric C.HLT_MIRROR_FULL x.r.tag x.r.opcode 0xFFFFFFFF 0 x.r.arrive
      let d := d.returnSegs x.segs
      d.setStall stall x { x with r := { x.r with state := .fail, status := C.HLT_MIRROR_FULL }, acked := true, waitMirror := false, copying := false
                                  segs := [], side := 0 }

/-- The given tokens, with the sampling copy, as the delivering home forwards them. -/
def Dev.mirrorTokensIn (d : Dev) (stall : Nat) (samp : Bytes) (toks : List Nat) : Dev :=
  match d.stall? stall with
  | none => d
  | some x =>
    if x.side != 2 then d
    else
      let d := d.putStall stall { x with mirrorToks := some toks }
      let d := if x.sampDone then d else d.samplingChecked stall samp
      d.intakeEnded stall toks

/-- A delivery notice: positions below LEN_DELIV, and the turn's end, have been delivered by the other home. -/
def Dev.noticed (d : Dev) (stall lenDeliv : Nat) (final : Bool) : Dev :=
  match d.stall? stall with
  | none => d
  | some x =>
    if x.side != 2 then d
    else d.setStall stall x { x with r := { x.r with lenDeliv := lenDeliv }, owed := x.owed.filter fun (o : OwedToken) => decide (lenDeliv ≤ o.pos)
                                     turnEnd := if final then none else x.turnEnd }

/-- Delivery moves to this home (R468): positions from the last notified LEN_DELIV up to LEN_COMMIT - 1 carry OK_REPEAT. -/
def Dev.takeDelivery (d : Dev) (stall : Nat) : Dev :=
  match d.stall? stall with
  | none => d
  | some x =>
    if x.side != 2 then d
    else (d.putStall stall { x with side := 1, owed := x.owed.map fun (o : OwedToken) => { o with status := C.OK_REPEAT } }).deliver stall x.heldV

end Sys2Proof.Machine
end

