-- ==== Sys2Proof/Machine/Stalls.lean ====
section
/-!
DEFINITION. Machine/Stalls.lean: the life of a stall at its home: units of work, deadlines, the ends of turns, the STL commands,
promotion and loss (spec/06_stalls_and_intake.md R162 to R173, R550; spec/08_panniers.md R222 to R242).
-/

namespace Sys2Proof.Machine

/-! ## Pages after a unit of work (R199, R201) -/

/-- The entry of a page after KV_END has moved to a value, for an entry that held a written position; the WORK descriptor stored by the
executing member, where it stored one. -/
def PageEnt.committed (e : PageEnt) (np i kvEnd : Nat) (w : Option Desc) : PageEnt :=
  let work := w.getD e.work
  if kvEnd ≤ i * np then (if e.state == .tent then {} else e)
  else
    let fill := min np (kvEnd - i * np)
    match e.state with
    | .empty | .tent | .opened =>
      if fill < np then { e with state := .opened, work := { work with fill := fill, crc := 0 } }
      else { e with state := .full, work := { work with fill := np } }
    | _ => e

/-- The descriptor a unit stored for an entry. -/
def workFor (ws : List WorkDesc) (i s : Nat) : Option Desc :=
  (ws.find? fun w => w.page == i && w.shard == s).map fun w => Desc.read w.desc

/-- The pages a unit touched, from the old to the new KV_END, each with its shards. -/
def touched (x : Stall) (upTo : Nat) : List (Nat × Nat) :=
  let a := x.pages.kvEnd / x.pages.np
  let b := ceilDiv upTo x.pages.np
  (List.range (b - a)).flatMap fun k => (List.range x.pages.shards).map fun s => (a + k, s)

/-- The entries a unit may have left tentative. -/
def Stall.tents (x : Stall) : List (Nat × Nat) := (x.pages.all.filter fun e => e.2.state == .tent).map (·.1)

/-- Moving KV_END (R191, R199): every entry that held a written position is carried over; entries that become `full` with an
acknowledgement held for them are parked at once (R201). Answers the entries to park. -/
def Stall.commitTo (x : Stall) (kvEnd : Nat) (ws : List WorkDesc) : Stall × List (Nat × Nat) :=
  let keys := (touched x kvEnd ++ x.tents.filter fun k => !(touched x kvEnd).contains k)
  let pages := keys.foldl (fun (p : PageList) k =>
    p.setEnt k.1 k.2 ((p.ent k.1 k.2).committed x.pages.np k.1 kvEnd (workFor ws k.1 k.2))) x.pages
  let x1 := { x with pages := { pages with kvEnd := kvEnd } }
  let full := keys.filter fun k => (x.pages.ent k.1 k.2).state != .full && (x1.pages.ent k.1 k.2).state == .full
  full.foldl (fun (a : Stall × List (Nat × Nat)) k =>
    match (a.1.pages.ent k.1 k.2).heldAck with
    | some p => (a.1.applyPark k.1 k.2 p, a.2)
    | none => (a.1, a.2 ++ [k])) (x1, [])

/-- Writing WORK descriptors a member stored for pages it allocated (R199): `empty` becomes `open`. -/
def Stall.opened (x : Stall) (ws : List WorkDesc) : Stall :=
  { x with pages := ws.foldl (fun p w =>
      let e := p.ent w.page w.shard
      p.setEnt w.page w.shard { e with state := (if e.state == .empty then .opened else e.state), work := Desc.read w.desc }) x.pages }

/-! ## Units of work (R162, R164, R165, R205, R550) -/

/-- CHUNK_DISPATCH (R162, R164, R205, R549): the launch of the next chunk. A cancel or a deadline passed at `base` retires the stall; a
chunk R18 refuses waits for another paddock; without its pages (`works` none) the chunk waits and KV_HEAP_LOW is raised. -/
def execChunkDispatch (stall base period : Nat) (works : Option (List WorkDesc)) (s : State) : Out :=
  s.onDev fun d =>
    match d.stall? stall with
    | none => d.stale
    | some x =>
      match x.phase with
      | .pulled p =>
        if x.copying then d
        else if x.cancel then d.retire stall .late C.STL_CANCELLED
        else if x.r.passed base then d.retire stall .late C.STL_DEADLINE
        else match d.model? x.r.model with
        | none => d.retire stall .fail C.KV_NO_MODEL
        | some m =>
          if !d.admits p (base + period) then
            match (d.servers 1 x.r.model).find? fun q => d.admits q (base + period) with
            | none => d.putStall stall { x with phase := .waitPrompt }
            | some q => d.startPull stall q m
          else match works with
          | none => d.heapLow p
          | some ws =>
            let first := x.pages.kvEnd
            let count := min m.chunk (x.prefillEnd - first)
            let d := d.sendRole .invoke ((d.rank0Of p).getD 0) p [stall, d.me, first, count, base, 0]
            d.setStall stall x { x.opened ws with
              phase := .chunk p first count (base + period)
              r := { x.r with exec := (d.rank0Of p).getD 0, execValid := true, mapEpoch := d.comp.cur.epoch } }
      | _ => d

/-- Whether what reaches the home is of the phase that stands (R162, last row). -/
def StallRec.current (r : StallRec) (u : UnitEnd) : Bool := r.execValid && r.exec == u.exec && r.mapEpoch == u.epoch

/-- Whether a status asks for the unit to be redispatched (R550). -/
def abandoned (st : Nat) : Bool := st == C.SEP_ABANDONED || st == C.FAB_TORN_DOWN

/-- Whether a status tells of poison in the result (R550): FAB_POISON, or a compression code. -/
def poisonCode (st : Nat) : Bool := st == C.FAB_POISON || (decide (C.CMP_OVERRUN ≤ st) && decide (st ≤ C.CMP_CODE))

/-- CHUNK_END (R162, R164, R191, R550). -/
def execChunkEnd (u : UnitEnd) (s : State) : Out :=
  s.onDev fun d =>
    match d.stall? u.stall with
    | none => d.stale
    | some x =>
      match x.phase with
      | .chunk p first count _ =>
        if !x.r.current u then d
        else match u.kind with
        | .leftOut => d.retire u.stall .late C.STL_DEADLINE
        | .refused | .stopped => (d.putStall u.stall { x with prev := some p }).placePrompt u.stall
        | .ended =>
          if abandoned u.status then (d.putStall u.stall { x with prev := some p }).placePrompt u.stall
          else if u.poison || poisonCode u.status then d.putStall u.stall { x with phase := .pulled p }
          else if u.status / 256 != 0 then d.retire u.stall .fail u.status
          else
            let (y, full) := x.commitTo (first + count) u.works
            let d := d.setStall u.stall x { y with prev := some p }
            let d := full.foldl (fun d k => d.askPark u.stall k.1 k.2) d
            if x.cancel then d.retire u.stall .late C.STL_CANCELLED
            else if x.r.passed u.beat then d.retire u.stall .late C.STL_DEADLINE
            else d.placePrompt u.stall
      | _ => d

/-- The stop tokens of a stall (R259, R267). -/
def Stall.stopTokens (x : Stall) : List Nat := sampStops x.sampCopy ++ x.stops.take 84

/-- Committing the tokens of a step (R158, R169, R191, R214): the log, the lengths, KV_END and the pages; the token completions wait for
the shadow's acknowledgement of this replication. -/
def Dev.commitTokens (d : Dev) (id : Nat) (x : Stall) (u : UnitEnd) (status : Nat) : Dev :=
  let n := x.r.lenCommit + u.tokens.length
  let d := d.putToks x.r x.r.lenCommit u.tokens
  let (y, full) := x.commitTo (n - 1) u.works
  let v := if x.r.shadowOk then (x.r.version + 1) % 2 ^ 32 else x.r.version
  let owed := u.tokens.zipIdx.map fun t =>
    ({ pos := x.r.lenCommit + t.2, token := t.1, status := status, beat := u.beat, version := v } : OwedToken)
  let d := d.setStall id x { y with r := { y.r with lenCommit := n, lenTent := n }, owed := x.owed ++ owed }
  let d := full.foldl (fun d k => d.askPark id k.1 k.2) d
  if x.r.shadowOk then d else d.deliver id none

/-- A decoding stall leaves its paddock and is placed again (R18, R236, R239): it enters `ship`. -/
def Dev.reship (d : Dev) (id : Nat) (prev : Option Nat) : Dev :=
  match d.stall? id with
  | none => d
  | some x =>
    let y := { x with r := { x.r with state := .ship, lenTent := x.r.lenCommit }, phase := .waitGen, prev := prev }
    (d.setStall id x y).placeGen id

/-- STEP_END (R162 to R165, R191, R214, R550). -/
def execStepEnd (u : UnitEnd) (s : State) : Out :=
  s.onDev fun d =>
    match d.stall? u.stall with
    | none => d.stale
    | some x =>
      match x.phase with
      | .decode p =>
        if !x.r.current u then d
        else match u.kind with
        | .leftOut => d.retire u.stall .late (if x.cancel then C.STL_CANCELLED else C.STL_DEADLINE)
        | .refused | .stopped => d.reship u.stall (some p)
        | .ended =>
          if abandoned u.status then d.reship u.stall (some p)
          else if u.poison || poisonCode u.status then d
          else if u.status / 256 != 0 then d.retire u.stall .fail u.status
          else if x.cancel then d.retire u.stall .late C.STL_CANCELLED
          else
            let late := x.r.passed u.beat
            if late && x.r.dlDrop then d.retire u.stall .late C.STL_DEADLINE
            else
              let d := d.commitTokens u.stall x u (if late then C.OK_LATE else C.OK)
              let stop := u.tokens.any (fun t => x.stopTokens.contains t)
                || decide (x.r.lenLimit ≤ x.r.lenCommit + u.tokens.length)
              if stop then d.endTurn u.stall
              else if late then d.retire u.stall .late C.STL_DEADLINE
              else if !(d.servers 2 x.r.model).contains p then d.reship u.stall (some p)
              else d
      | _ => d

/-! ## Retirement (R162) -/

/-- STALL_RETIRE (R162): with the final completion written, the shadow entry is cleared, the pool ranges, segments and pages are
released, and the stall is `free`. -/
def execStallRetire (stall : Nat) (s : State) : Out :=
  s.onDev fun d =>
    match d.stall? stall with
    | none => d
    | some x =>
      if !(x.r.state == .done || x.r.state == .late || x.r.state == .fail) || x.turnEnd.isSome || !x.owed.isEmpty then d
      else
        let free := { x.r with state := .free, version := (x.r.version + 1) % 2 ^ 32 }
        let d := if x.r.shadow == d.me then d else d.send .replicate x.r.shadow [stall, free.version, 0, 0] free.bytes
        let d := ((d.releaseAllParked stall x.pages).returnSegs x.segs).poolFreeAll stall
        { d with stl.stalls := Tbl.del d.stl.stalls stall }

/-- Whether a CONTINUE for a stall waits at the head of the queue (R157). -/
def Dev.continueWaits (d : Dev) (stall : Nat) : Bool :=
  match d.stl.waiting with
  | some (q :: _) => itemOp q.bytes == 3 && field q.bytes 28 4 % 2 ^ 17 == stall
  | _ => false

/-- Whether a stall rests. -/
def StallRec.resting (r : StallRec) : Bool := r.state == .park || r.state == .spill

/-- PARK_EXPIRY (R157, R162): a stall that has rested STL_PARK_TTL beats retires, unless a CONTINUE for it waits. -/
def execParkExpiry (stall : Nat) (s : State) : Out :=
  s.onDev fun d =>
    match d.stall? stall with
    | none => d
    | some x =>
      let ttl := (d.reg F.STL_PARK_TTL_TTL.off).toNat
      if x.r.resting && ttl != 0 && d.pwr.state != .stabled && d.pwr.state != .waking && decide (x.restBeat + ttl ≤ d.now) && !d.continueWaits stall then
        d.retire stall .done C.STL_PARK_EXPIRED
      else d

/-! ## STL commands (R162, R163, R224, R484) -/

/-- What R484 check 3 adds for a non-admin ring: A0 carries the ring's tenant, and the stall is free or owned by it. -/
def stlDenied (d : Dev) (c : HostCmd) : Bool :=
  bits c.a0 28 17 != (d.cmdRing c.ring).tenant ||
  match d.stall? (bits c.a0 16 0) with
  | some x => x.r.tenant != (d.cmdRing c.ring).tenant
  | none => false

/-- The specification the three commands share (R483). -/
def stlSpec : CmdSpec := { shared := true, rsvOk := argMask false 0x1FFFFFFF 0 0 0, denied := stlDenied }

/-- The stall a command names, when it is in use and of the tenant named (R484). -/
def Dev.namedStall (d : Dev) (c : HostCmd) : Option Stall :=
  match d.stall? (bits c.a0 16 0) with
  | some x => if x.r.tenant == bits c.a0 28 17 then some x else none
  | none => none

/-- Withdrawing the CONTINUE that waits at the head (R162): its turn completes with STL_CANCELLED. -/
def Dev.withdraw (d : Dev) : Dev :=
  match d.stl.waiting with
  | some (q :: _) =>
    (({ d with stl.waiting := none }).answer (field q.bytes 26 2) q.ring q.fabric C.STL_CANCELLED (field q.bytes 2 2) 3
      0xFFFFFFFF 0 (field q.bytes 56 8)).xoffEval
  | _ => d

/-- STL_CANCEL (R162, R549). -/
def execStlCancel (c : HostCmd) (s : State) : Out :=
  s.onDev fun d => d.hostCmd stlSpec c fun d =>
    let id := bits c.a0 16 0
    match d.namedStall c with
    | none => (d, .done C.STL_UNKNOWN [])
    | some x =>
      match x.r.state with
      | .intake | .prefill | .ship | .decode =>
        let d := d.putStall id { x with cancel := true }
        (d.retry id none, .ok)
      | .park | .spill => (if d.continueWaits id then d.withdraw else d, .ok)
      | _ => (d, .ok)

/-- STL_RELEASE (R157, R162). -/
def execStlRelease (c : HostCmd) (s : State) : Out :=
  s.onDev fun d => d.hostCmd stlSpec c fun d =>
    let id := bits c.a0 16 0
    match d.namedStall c with
    | none => (d, .done C.STL_UNKNOWN [])
    | some x =>
      if x.r.resting && !d.continueWaits id then (d.retire id .done C.OK, .ok) else (d, .done C.STL_STATE [])

/-- Whether every parked entry of a stall lies in a hayloft. -/
def Stall.allSpilled (x : Stall) : Bool := x.pages.all.all fun e => e.2.state != .parked || e.2.park.tier == 2

/-- STL_SPILL (R157, R224): the holders are asked to move every region; with none in HBM the stall is in `spill` at once. -/
def execStlSpill (c : HostCmd) (s : State) : Out :=
  s.onDev fun d => d.hostCmd stlSpec c fun d =>
    let id := bits c.a0 16 0
    match d.namedStall c with
    | none => (d, .done C.STL_UNKNOWN [])
    | some x =>
      if !x.r.resting || d.continueWaits id then (d, .done C.STL_STATE [])
      else
        let asks := x.pages.all.filter fun e => e.2.state == .parked && e.2.park.tier == 1
        let d := asks.foldl (fun d e => d.sendRole .spillAsk e.2.park.holder 0 [d.me, id, e.1.1, e.1.2]) d
        let d := if x.r.state == .park && x.allSpilled then d.onStall id fun y => { y with r := { y.r with state := .spill } } else d
        (d, .ok)

/-! ## Pelotons as homes see them (R551) -/

/-- PELOTON_MASK (R549, R551): the mask is kept; where it changes, waiting placements are tried again. -/
def execPelotonMask (paddock mask : Nat) (s : State) : Out :=
  s.onDev fun d =>
    let old := Tbl.rd (fun _ => 0) d.kv.masks paddock
    let d := { d with kv.masks := Tbl.wr (fun _ => 0) d.kv.masks paddock (mask % 2 ^ 26) }
    if old == mask % 2 ^ 26 then d else d.retryAll none

/-! ## Lost pages (R227, R241) -/

/-- Re-prefilling from the first position of the lowest lost page (R241). A resting stall only loses its positions: the next turn's
prefill computes them again. -/
def Dev.reprefill (d : Dev) (id page : Nat) : Dev :=
  match d.stall? id with
  | none => d
  | some x =>
    let gone := (List.range page).any fun i => (x.pages.ent i 0).state == .gone
    let q := if gone then 0 else page * x.pages.np
    let d := d.count F.PAN_RECOVER_CNT_REPREFILL
    let d := if x.lostEvt then d else d.raise E.PAN_LOST 0 0 id
    let cut := { x.pages.cutFrom (q / x.pages.np) with kvEnd := min q x.pages.kvEnd }
    let x1 := { x with lostEvt := true, pages := cut, r := { x.r with lenParked := cut.parkedLen } }
    if x.r.resting then d.setStall id x x1
    else
      let d := d.cancelPull id x.phase
      let re := if x.r.state == .prefill then x.reTo else some x.pages.kvEnd
      let y := { x1 with phase := .waitPrompt, prev := none, reTo := re, r := { x1.r with state := .prefill } }
      (d.setStall id x y).placePrompt id

/-- A parked copy is gone (R227): with the WORK copy held by the executing paddock the entry is parked again, else its positions are
lost. `dev`: a device that holds nothing any more, if any. -/
def Dev.parkLost (d : Dev) (id i s : Nat) (dev : Option Nat) : Dev :=
  match d.stall? id with
  | none => d
  | some x =>
    let e := x.pages.ent i s
    if e.state != .parked then d
    else if e.work.tier != 0 && some e.work.holder != dev && !d.isLost e.work.holder then
      let pages := x.pages.setEnt i s { e with state := .full, park := {} }
      let d := (d.setStall id x { x with pages := pages, r := { x.r with lenParked := pages.parkedLen } }).count
        F.PAN_RECOVER_CNT_REPARK
      d.askPark id i s
    else
      let pages := x.pages.setEnt i s {}
      (d.setStall id x { x with pages := pages, r := { x.r with lenParked := pages.parkedLen } }).reprefill id i

/-- PARK_ACK (R199 to R201, R223, R224, R226, R227, R242). -/
def Dev.parkAcked (d : Dev) (b : Bytes) : Dev :=
  let id := field b 0 4 % 2 ^ 17
  let holder := field b 6 2
  let i := field b 8 4
  let s := field b 12 2
  let st := field b 14 2
  let desc := Desc.read (slice b 16 16)
  match d.stall? id with
  | none => (if st == C.OK then d.releaseParked id i s desc else d).stale
  | some x =>
    let e := x.pages.ent i s
    if st == C.OK then
      match e.state with
      | .full =>
        let before := x.r.lenParked
        let d := if desc.holder == d.me then d
          else { d with pan.held := d.pan.held.filter fun r => !(r.home == d.me && r.stall == id && r.page == i && r.shard == s) }
        ((d.setStall id x (x.applyPark i s desc)).parkedMoved id before).prePullNow id
      | .opened | .tent => d.putStall id { x with pages := x.pages.setEnt i s { e with heldAck := some desc } }
      | .parked =>
        if e.park.holder == desc.holder || d.pan.moves.contains (id, i, s, holder) then
          let moved := e.park.holder != desc.holder
          let d := { d with pan.moves := d.pan.moves.filter fun m => m != (id, i, s, holder) }
          let d := if moved then d.count F.PAN_RECOVER_CNT_REPARK else d
          let y := { x with pages := x.pages.setEnt i s { e with park := desc } }
          d.setStall id x (if x.r.state == .park && desc.tier == 2 && y.allSpilled then
            { y with r := { y.r with state := .spill } } else y)
        else d.releaseParked id i s desc
      | _ => d.releaseParked id i s desc
    else if st == C.PAN_PARK_FULL then
      if e.state != .full then d
      else
        let rank := ((d.cachePaddock x.r.model).bind fun p => (d.paddockDevs p).findIdx? (· == holder))
        let e := { e with refused := match rank with | some r => addOnce e.refused r | none => e.refused }
        (d.putStall id { x with pages := x.pages.setEnt i s e }).askPark id i s
    else d.parkLost id i s (some holder)

/-- PARK_RETRY (R226): the ranks that refused the entry are tried again. -/
def execParkRetry (stall page shard : Nat) (s : State) : Out :=
  s.onDev fun d =>
    match d.stall? stall with
    | none => d
    | some x =>
      let e := x.pages.ent page shard
      if e.state != .full then d
      else (d.putStall stall { x with pages := x.pages.setEnt page shard { e with refused := [] } }).askPark stall page shard

/-! ## Pulls as homes see them (R228, R230, R232, R242) -/

/-- Writing the WORK descriptors a receiving member stored (R230). -/
def Stall.landed (x : Stall) (ws : List WorkDesc) : Stall :=
  { x with pages := ws.foldl (fun p w => p.setEnt w.page w.shard { p.ent w.page w.shard with work := Desc.read w.desc }) x.pages }

/-- PULL_COMPLETE (R162, R230, R242): a member reports. When every member has, the stall goes on: a cancel retires it, a paddock the map
no longer offers is left again, a ship becomes `decode`, and a chunk's pull leads to its dispatch. -/
def Dev.pullReported (d : Dev) (r : PullDone) : Dev :=
  match d.stall? r.stall with
  | none => d.stale
  | some x =>
    match x.phase with
    | .ship p waiting =>
      if !waiting.contains r.member then d
      else if r.status != 0 then d.retire r.stall .fail r.status
      else
        match r.lost with
        | k :: ks =>
          let low := ks.foldl (fun m k => min m k.1) k.1
          let pages := (k :: ks).foldl (fun (q : PageList) k => q.setEnt k.1 k.2 {}) x.pages
          (d.putStall r.stall { x with pages := pages }).reprefill r.stall low
        | [] =>
          let y := { x.landed r.works with phase := .ship p (waiting.erase r.member) }
          let d := d.putStall r.stall y
          if !(waiting.erase r.member).isEmpty then d
          else if x.cancel then d.retire r.stall .late C.STL_CANCELLED
          else
            let role := if x.r.state == .ship then 2 else 1
            if !(d.servers role x.r.model).contains p then
              let d := (d.cancelPull r.stall y.phase).putStall r.stall { y with phase := .none, prev := y.prev }
              if role == 2 then d.placeGen r.stall else d.placePrompt r.stall
            else
              let d := match x.prev with
                | some q => if q == p then d else d.releaseWork r.stall q
                | none => d
              if role == 2 then
                let d := d.sendRole .gateNotice ((d.rank0Of p).getD 0) p [d.me, r.stall, x.r.lenParked, 1]
                d.setStall r.stall x { y with phase := .decode p, prev := some p, prePull := none, r := { y.r with state := .decode } }
              else d.putStall r.stall { y with phase := .pulled p, prev := some p }
    | _ => d

/-- PULL_COMPLETE (R230): a state message (R233). -/
def execPullComplete (r : PullDone) (s : State) : Out :=
  s.onDev fun d => d.receive r.h true 5 (.done r) fun d => d.pullReported r

/-! ## Loss (R171, R173, R227, R239) -/

/-- Writing the notice of a promotion (kind 4): STL_PROMOTED or STL_PROMOTE_FULL, with the old and new names. -/
def Dev.promoCpl (d : Dev) (r : StallRec) (status newId oldHome oldId : Nat) : Dev :=
  d.complete r.altRing (.stall 4 status r.tag r.opcode 0 newId d.me oldHome oldId r.lenDeliv d.now) none

/-- The page list a promoted stall starts from: the PARK descriptors its shadow held below LEN_PARKED (R197). -/
def shadowPages (e : ShadowEnt) (m : KvModel) : PageList :=
  e.parks.foldl (fun (p : PageList) w => p.setEnt w.page w.shard { state := .parked, park := Desc.read w.desc })
    { npage := ceilDiv e.r.lenLimit m.np, kvEnd := e.r.lenParked, model := e.r.model, shards := m.shards, pageLog2 := m.pageLog2 }

/-- Promoting one shadow entry (R171). Where no stall, or no pool range for its log and list, is available, the entry is dropped with
STL_PROMOTE_FULL. -/
def Dev.promoteOne (d : Dev) (dead old : Nat) (e : ShadowEnt) : Dev :=
  let full := (d.raise ⟨C.STL_PROMOTE_FULL, F.STL_EVT_PROMOTE_FULL⟩ 0 0 old).promoCpl e.r C.STL_PROMOTE_FULL old dead old
  match d.lowestStall with
  | none => full
  | some id =>
    if 131072 ≤ d.stl.stalls.length then full
    else match d.poolAlloc (tokLogBytes e.r.lenLimit) id with
    | none => full
    | some (tokLog, d1) =>
      match d1.poolAlloc (d1.listBytes e.r.model e.r.lenLimit) id with
      | none => full
      | some (list, d2) =>
        let m := (d2.model? e.r.model).getD {}
        let r := { e.r with id := id, home := d2.me, promoted := true, shadowOk := false, shadow := d2.me, tokLog := tokLog
                            pageList := list, execValid := false }
        let toks := (List.range e.r.lenCommit).map fun p => Tbl.rd (fun _ => 0) e.toks p
        let d2 := (d2.putToks r 0 toks).raise ⟨C.STL_PROMOTED, F.STL_EVT_PROMOTED⟩ 0 0 id
        let d2 := d2.promoCpl r C.STL_PROMOTED id dead old
        let owed := (List.range (r.lenCommit - r.lenDeliv)).map fun k =>
          ({ pos := r.lenDeliv + k, token := toks.getD (r.lenDeliv + k) 0, status := C.OK_REPEAT, beat := d2.now, version := 0 } : OwedToken)
        let x : Stall := { r := r, pages := shadowPages e m, sampDone := true, penDone := r.penTable != 0, acked := true
                           sampCopy := e.samp.take 128, owed := owed, restBeat := d2.now, lenMax := r.lenLimit - r.lenPrompt }
        let d2 := (d2.putStall id x).deliver id none
        match r.state with
        | .intake => d2.retire id .fail C.STL_BAD_BULK
        | .prefill => if r.lenCommit < r.lenPrompt then d2.retire id .fail C.STL_BAD_BULK else d2.placePrompt id
        | .ship | .decode =>
          let x := (d2.stall? id).getD x
          let y := { x with r := { x.r with state := .ship, lenTent := x.r.lenCommit }, pages := { x.pages with kvEnd := r.lenCommit - 1 } }
          if r.lenCommit = r.lenLimit then (d2.putStall id y).endTurn id else (d2.putStall id y).placeGen id
        | .done | .late | .fail => (d2.onStall id fun y => { y with turnEnd := some (r.status, d2.now) }).deliver id none
        | _ => d2

/-- Promoting every entry of a lost home (R171). -/
def Dev.promote (d : Dev) (dead : Nat) : Dev :=
  let es := d.stl.shadow.filter fun e => e.1 / 2 ^ 17 == dead
  let d := { d with stl.shadow := d.stl.shadow.filter fun e => e.1 / 2 ^ 17 != dead }
  es.foldl (fun d e => d.promoteOne dead (e.1 % 2 ^ 17) e.2) d

/-- A lost shadow (R173): STL_SHADOW_LOST once; SHADOW_OK clears; the copies are created again where the device's own entry now names a
usable default. -/
def Dev.shadowLost (d : Dev) (dead : Nat) : Dev :=
  let ids := (d.stl.stalls.filter fun e => e.2.r.shadowOk && e.2.r.shadow == dead).map (·.1)
  if ids.isEmpty then d
  else
    let d := d.raise E.STL_SHADOW_LOST 0 0 dead
    ids.foldl (fun d id =>
      match d.stall? id with
      | none => d
      | some x =>
        let d := (d.putStall id { x with r := { x.r with shadowOk := false } }).deliver id none
        match d.pickShadow 0xFFFF with
        | some sh =>
          if sh == dead then d
          else (d.onStall id fun y => { y with r := { y.r with shadow := sh } }).createShadow id sh
        | none => d) d

/-- One stall after a device is lost (R227, R239). A paddock mirrored on the other plane keeps its stalls but in a double fault (R472, R473). -/
def Dev.recoverStall (d : Dev) (dead id : Nat) : Dev :=
  match d.stall? id with
  | none => d
  | some x =>
    let holds := x.pages.all.filter fun e => e.2.state == .parked && e.2.park.holder == dead
    let hit := fun (p : Option Nat) => match p with
      | some q => (d.paddockDevs q).contains dead && (match Tbl.at? d.hlt.tpads q with | some t => t.double | none => true)
      | none => false
    let d := match x.r.state with
      | .prefill =>
        if hit x.phase.paddock || hit x.prev then
          let pages := { x.pages.cutFrom (x.r.lenParked / x.pages.np) with kvEnd := x.r.lenParked }
          let d := d.cancelPull id x.phase
          (d.setStall id x { x with pages := pages, prev := none, phase := .none }).placePrompt id
        else d
      | .ship =>
        if hit x.phase.paddock then
          let d := d.cancelPull id x.phase
          (d.putStall id { x with phase := .none, prev := if hit x.prev then none else x.prev }).placeGen id
        else if hit x.prev then d.putStall id { x with prev := none }
        else d
      | .decode => if hit x.phase.paddock then d.reship id none else d
      | _ => d
    holds.foldl (fun d e => d.parkLost id e.1.1 e.1.2 (some dead)) d

/-- LOSS_PARK_WAIT_END (R239): the wait for parks in flight from a lost device is over, and every affected stall is recovered. -/
def execLossParkWaitEnd (device : Nat) (s : State) : Out :=
  s.onDev fun d =>
    if !d.isLost device then d else (Tbl.keys d.stl.stalls).foldl (fun d id => d.recoverStall device id) d

end Sys2Proof.Machine
end

