-- ==== Sys2Proof/Machine/Pannier.lean ====
section
/-!
DEFINITION. Machine/Pannier.lean: panniers as holders, receivers and served devices see them (spec/08_panniers.md R219 to R232, R238,
R240).
-/

namespace Sys2Proof.Machine

/-! ## The pannier's checks (R219 to R221) -/

/-- A pannier's entries are in keysRise (PAGE, SHARD), and none repeats. -/
def keysRise : List (Nat × Nat) → Bool
  | [] => true
  | [_] => true
  | a :: b :: t => (decide (a.1 < b.1) || (a.1 == b.1 && decide (a.2 < b.2))) && keysRise (b :: t)

/-- R221 check 1. -/
def panHeaderOk (p : Pannier) : Bool :=
  let h := p.hdr
  let k := field h 4 1
  h.length == 64 && field h 0 4 == 0x50414E4E && (k == 1 || k == 2) && decide (field h 5 1 < 4) && decide (field h 6 1 ≤ 64)
  && field h 6 1 == p.regions.length && field h 8 4 < 2 ^ 17 && decide (field h 12 2 < 2 ^ 15) && decide (field h 14 2 < 2 ^ 15)
  && crc32c (h.take 48 ++ [0, 0, 0, 0] ++ h.drop 52) == field h 48 4 && allZero (slice h 52 12)
  && (k == 1 || field h 24 4 == 0) && p.entriesOk && keysRise (p.regions.map fun r => (r.page, r.shard))

/-- The fields R31 reads of a pannier. -/
def panHdr (p : Pannier) : RoleHdr := { src := field p.hdr 14 2, epoch := field p.hdr 16 4, roleEpoch := field p.hdr 20 4 }

/-- The stall a pannier is of. -/
def panStall (p : Pannier) : Nat := field p.hdr 8 4 % 2 ^ 17
def panHome (p : Pannier) : Nat := field p.hdr 12 2

/-- Whether a region lands poisoned (R221 checks 5 and 6), and whether check 6 is the one that fails. -/
def regionBad (r : PanRegion) (np : Nat) : Bool × Bool :=
  if !r.blocksOk then (true, false) else if r.fill == np && r.plainCrc != r.crc then (true, true) else (false, false)

/-! ## Holders (R222, R223) -/

/-- The region a holder keeps for an entry of a stall. -/
def Dev.heldAt (d : Dev) (home stall page shard : Nat) : Option HeldRegion :=
  d.pan.held.find? fun r => r.home == home && r.stall == stall && r.page == page && r.shard == shard

/-- A park acknowledgement's 32 bytes (R223). -/
def ackBytes (stall home holder page shard status : Nat) (park : Desc) : Bytes :=
  leBytes 4 stall ++ leBytes 2 home ++ leBytes 2 holder ++ leBytes 4 page ++ leBytes 2 shard ++ leBytes 2 status ++ park.bytes

/-- Sending a park acknowledgement to the home and to another device. -/
def Dev.sendAck (d : Dev) (home other : Nat) (b : Bytes) : Dev :=
  let d := d.sendRole .parkAck home 0 [] b
  if other == home then d else d.sendRole .parkAck other 0 [] b

/-- The space a holder finds for a region (R223): its cache paddock's heap, else pool frames down to TIER_MIN. -/
def Dev.takeParked (d : Dev) (model home stall page shard size : Nat) : Option (Option Nat × List Nat × Nat × Dev) :=
  let pads := d.allPaddocks.filter fun p =>
    d.inPaddock p && d.paddockRole p == 3 && ((d.comp.cur.paddock p).head?.map (·.model)) == some model
  match pads.findSome? fun p => (d.alloc p size (stallKey home stall) .parked page shard).map fun r => (p, r) with
  | some (p, r, d) => some (some p, [], r.base / 4096, d)
  | none =>
    match d.takeFrames (ceilDiv size 65536) 3 with
    | some (l, d) => some (none, l, (l.headD 0) * 16, d)
    | none => none

/-- Storing one region of a park pannier or of a re-park, and acknowledging it (R221 checks 4 to 6, R223). -/
def Dev.storeParked (d : Dev) (home stall model np ackTo : Nat) (r : PanRegion) : Dev :=
  match d.heldAt home stall r.page r.shard with
  | some h => (d.count F.PAN_PULL_CNT_DUP).sendAck home ackTo (ackBytes stall home d.me r.page r.shard C.OK h.desc)
  | none =>
    let full := (d.count F.PAN_PARK_CNT_REFUSED).sendAck home ackTo (ackBytes stall home d.me r.page r.shard C.PAN_PARK_FULL {})
    if !d.flag F.PAN_CTRL_EN then full
    else match d.takeParked model home stall r.page r.shard r.size with
    | none => full
    | some (pad, frames, addr, d) =>
      let (bad, crcBad) := regionBad r np
      let desc : Desc := { addr := addr, holder := d.me, tier := 1, cmp := r.cmp, fill := r.fill, crc := r.crc }
      let h : HeldRegion := { home := home, stall := stall, page := r.page, shard := r.shard, desc := desc, size := r.size
                              paddock := pad, frames := frames, poison := bad, body := r.body }
      let d := { d with pan.held := d.pan.held ++ [h] }
      let d := if crcBad then d.raise E.PAN_CRC 0 0 stall else d
      d.sendAck home ackTo (ackBytes stall home d.me r.page r.shard C.OK desc)

/-- Releasing a held region: its space is given back, and the blocks of a spilled one are deallocated (R338). -/
def Dev.dropHeld (d : Dev) (h : HeldRegion) : Dev :=
  let d := { d with pan.held := d.pan.held.filter fun r => r != h }
  let d := d.giveFrames h.frames
  let d := if h.desc.tier = 2 then { d with hay := d.hay.dealloc h.desc.addr (ceilDiv h.size 4096) } else d
  match h.paddock with
  | some p => d.setHeap p ((d.heap p).filter fun r =>
      !(r.use == .parked && r.key == stallKey h.home h.stall && r.page == h.page && r.shard == h.shard))
  | none => d

/-- A park pannier that has passed checks 1 and 2. -/
def Dev.parkArrived (d : Dev) (p : Pannier) : Dev :=
  p.regions.foldl (fun d r =>
    d.storeParked (panHome p) (panStall p) (field p.hdr 28 2) (2 ^ field p.hdr 7 1) (field p.hdr 14 2) r) d

/-- PARK_PANNIER (R221, R223, R233). -/
def execParkPannier (p : Pannier) (s : State) : Out :=
  s.onDev fun d =>
    if !panHeaderOk p || field p.hdr 4 1 != 2 then d.raise E.PAN_HEADER
    else d.receive (panHdr p) false 1 (.park p) fun d => d.parkArrived p

/-! ## Serving pulls (R229) -/

/-- The WORK copy of an entry on this device, with its paddock. -/
def Dev.workAt (d : Dev) (key page shard : Nat) (use : RegionUse) : Option (Nat × Region) :=
  d.kv.regions.findSome? fun p => (p.2.find? fun r =>
    r.key == key && r.use == use && r.shard == shard && (use != .page || r.page == page)).map fun r => (p.1, r)

/-- A region as the wire carries it: its entry and bytes, from WORK or from PARK. -/
def Dev.regionFor (d : Dev) (q : PullRequest) (page shard : Nat) : Option (Bytes × Bytes) :=
  if q.fromWork then
    (d.workAt (stallKey q.home q.stall) page shard .page).map fun x =>
      (pageEntry page shard x.2.fill x.2.cmp x.2.crc, d.load (d.hbmKey x.1 x.2.base) x.2.size)
  else
    (d.heldAt q.home q.stall page shard).map fun h => (pageEntry page shard h.desc.fill h.desc.cmp h.desc.crc, h.body)

/-- The regions a request names, keysRise. -/
def pullNames (q : PullRequest) : List (Nat × Nat) :=
  (List.range q.pageN).flatMap fun i => (List.range q.shardN).map fun s => (q.pageFirst + i, q.shardFirst + s)

/-- A list cut into pieces of at most n, at least one piece. -/
def cut {α : Type} (n : Nat) : Nat → List α → List (List α)
  | 0, _ => []
  | f + 1, l => if l.length ≤ n then [l] else l.take n :: cut n f (l.drop n)

/-- Sending the panniers that answer a request. -/
def Dev.sendReplies (d : Dev) (q : PullRequest) (regions : List (Bytes × Bytes)) (opens : Bytes) (kvEnd pageLog2 model shards : Nat) : Dev :=
  let groups := cut 64 (regions.length + 1) regions
  groups.zipIdx.foldl (fun d g =>
    let last := g.2 + 1 == groups.length
    let op := last && q.eager
    let body := (g.1.flatMap (·.1)) ++ (g.1.flatMap (·.2)) ++ (if op then opens else [])
    let hdr := panHeader 1 (b2n op + 2 * b2n last) g.1.length pageLog2 q.stall q.home d.me d.comp.cur.epoch 0 q.pullId model shards
      g.2 kvEnd body.length
    d.sendRole .pullReply q.h.src 0 [] (hdr ++ body)) d

/-- Refusing a request with PAN_NOT_HELD and the first region not held (R229). -/
def Dev.refusePull (d : Dev) (q : PullRequest) (k : Nat × Nat) : Dev :=
  d.sendRole .pullRefusal q.h.src 0 [q.home, q.stall, q.pullId, C.PAN_NOT_HELD, k.1, k.2]

/-- Serving a request (R229, R243). -/
def Dev.servePull (d : Dev) (q : PullRequest) : Dev :=
  let key := stallKey q.home q.stall
  let shards := (List.range q.shardN).map (q.shardFirst + ·)
  if !d.flag F.PAN_CTRL_EN then d.refusePull q ((pullNames q).headD (q.pageFirst, q.shardFirst))
  else match (pullNames q).find? fun k => (d.regionFor q k.1 k.2).isNone with
  | some k => d.refusePull q k
  | none =>
    match (if q.eager then shards.find? fun s => (d.workAt key 0 s .opens).isNone else none) with
    | some s => d.refusePull q (q.pageFirst, s)
    | none =>
      let regs := (pullNames q).filterMap fun k => d.regionFor q k.1 k.2
      let opens := if q.eager then shards.flatMap fun s =>
          match d.workAt key 0 s .opens with | some x => d.load (d.hbmKey x.1 x.2.base) x.2.size | none => [] else []
      let model := (Tbl.rd (fun _ => ({} : ExecStall)) d.kv.execs key).record.model
      let m := (d.model? model).getD {}
      let kvEnd := (Tbl.rd (fun _ => ({} : ExecStall)) d.kv.execs key).kvEnd
      d.sendReplies q regs opens kvEnd m.pageLog2 model m.shards

/-- PULL_REQUEST (R229, R233). -/
def execPullRequest (q : PullRequest) (s : State) : Out :=
  s.onDev fun d => d.receive q.h true 3 (.pull q) fun d => d.servePull q

/-! ## Receiving (R230 to R232) -/

/-- A pull of this device. -/
def Dev.pull? (d : Dev) (key : Nat) : Option Pull := Tbl.at? d.pan.pulls key
def Dev.setPull (d : Dev) (key : Nat) (p : Pull) : Dev := { d with pan.pulls := Tbl.put d.pan.pulls key p }

/-- Sending one request (R229), stamped with its beat. -/
def Dev.sendPull (d : Dev) (home stall : Nat) (q : PullReq) : Dev :=
  d.sendRole .pullRequest q.src 0
    [stall, home, q.pullId, q.pageFirst, q.pageN, q.shardFirst, q.shardN, b2n q.eager, b2n q.fromWork]

/-- Requests a member may have open (R230). -/
def Dev.maxOut (d : Dev) : Nat := d.fld F.PAN_CTRL_MAX_OUT_M1 + 1

/-- Moving requests from the waiting list to the open ones while there is room. -/
def Dev.pump (d : Dev) (key : Nat) : Nat → Dev
  | 0 => d
  | n + 1 =>
    match d.pull? key with
    | none => d
    | some p =>
      match p.todo, p.notice with
      | q :: t, some nt =>
        if p.waitHeap || (p.state == .eager && !q.eager) || d.maxOut ≤ p.reqs.length then d
        else
          let q := { q with pullId := d.pan.nextPull, progress := d.now }
          let d := { d with pan.nextPull := (d.pan.nextPull + 1) % 2 ^ 32 }
          ((d.setPull key { p with reqs := p.reqs ++ [q], todo := t }).sendPull nt.home nt.stall q).pump key n
      | _, _ => d

/-- A fresh request. -/
def mkReq (src pageFirst pageN shardFirst shardN : Nat) (eager fromWork : Bool) : PullReq :=
  { pullId := 0, src := src, pageFirst := pageFirst, pageN := pageN, shardFirst := shardFirst, shardN := shardN, eager := eager
    fromWork := fromWork, seqs := [], lastSeen := false, progress := 0, resent := false, retries := 0 }

/-- The PARK holder of an entry in a notice. -/
def noticeHolder (n : ShipNotice) (i s : Nat) : Option Nat :=
  (n.parks.find? fun w => w.page == i && w.shard == s && (Desc.read w.desc).tier != 0).map fun w => (Desc.read w.desc).holder

/-- Runs of consecutive pages of one shard with one holder, at most 64 each (R230); pages without a holder fall out. -/
def runsOf (n : ShipNotice) (s : Nat) : List Nat → List PullReq
  | [] => []
  | i :: t =>
    match noticeHolder n i s with
    | none => runsOf n s t
    | some h =>
      match runsOf n s t with
      | q :: rest => if q.src == h && q.shardFirst == s && q.pageFirst == i + 1 && decide (q.pageN < 64) then
          mkReq h i (q.pageN + 1) s 1 false false :: rest else mkReq h i 1 s 1 false false :: q :: rest
      | [] => [mkReq h i 1 s 1 false false]

/-- The page indices needed, and the first of the eager window (R228, R230). -/
def noticePages (n : ShipNotice) (np : Nat) : List Nat := (List.range (ceilDiv n.kvEnd np - n.pageFirst)).map (n.pageFirst + ·)
def eagerFirst (n : ShipNotice) (np : Nat) : Nat := max n.pageFirst (ceilDiv n.kvEnd np - 4)

/-- The regions a receiving member allocates (R211, R228, R230): for a windowed model on a generation paddock a ring and the page of the
tail, else every page needed; and the open buffers. -/
def pullRegions (n : ShipNotice) (m : KvModel) (shards : List Nat) (gen : Bool) : List (RegionUse × Nat × Nat × Nat) :=
  let pages := if m.windowed && gen then (noticePages n m.np).filter fun i => decide (n.kvEnd < (i + 1) * m.np) else (noticePages n m.np)
  (shards.flatMap fun s => pages.map fun i => (RegionUse.page, i, s, m.regionBytes))
  ++ (if m.windowed && gen then shards.map fun s => (RegionUse.ring, 0, s, m.ringBytes) else [])
  ++ shards.map fun s => (RegionUse.opens, 0, s, up4k m.openBytes)

/-- The eager requests: one to each member of the previous paddock for the shards of this member it holds. -/
def Dev.eagerReqs (d : Dev) (n : ShipNotice) (prev : Nat) (m : KvModel) (shards : List Nat) : List PullReq :=
  let first := eagerFirst n m.np
  let cnt := ceilDiv n.kvEnd m.np - first
  (d.paddockDevs prev).zipIdx.filterMap fun x =>
    let mine := (shardsOf m.shards (d.paddockDevs prev).length x.2).filter fun s => shards.contains s
    match mine with
    | [] => none
    | a :: _ => some (mkReq x.1 first cnt a mine.length true true)

/-- The main requests (R230): the pages below a bound, by shard, from their holders; a page that has none, from the previous paddock's
member that holds its shard. -/
def Dev.mainReqs (d : Dev) (n : ShipNotice) (m : KvModel) (shards : List Nat) (below : Nat) : List PullReq :=
  let pages := (noticePages n m.np).filter fun i => decide (i < below)
  let parked := shards.flatMap fun s => runsOf n s pages
  let rest := match n.prev with
    | none => []
    | some p => shards.flatMap fun s => (pages.filter fun i => (noticeHolder n i s).isNone).filterMap fun i =>
        (d.shardDev p m.shards s).map fun x => mkReq x i 1 s 1 false true
  parked ++ rest

/-- Where a pull starts to rebuild (R232): the first position not parked, when there is one below KV_END. -/
def rebuildAt (n : ShipNotice) : Option Nat :=
  let lp := (StallRec.read n.record).lenParked
  if lp < n.kvEnd then some lp else none

/-- The WORK descriptors of a stall's pages on this device in a paddock. -/
def Dev.workDescs (d : Dev) (pad key : Nat) : List WorkDesc :=
  ((d.heap pad).filter fun r => r.key == key && r.use == .page).map fun r =>
    { page := r.page, shard := r.shard
      desc := ({ addr := r.base / 4096, holder := d.me, tier := 1, cmp := r.cmp, fill := r.fill, crc := r.crc } : Desc).bytes }

/-- Reporting to the home (R230, R232): complete, failed with a status, or with regions found lost. -/
def Dev.reportPull (d : Dev) (n : ShipNotice) (status : Nat) (lost : List (Nat × Nat)) : Dev :=
  d.sendRole .pullComplete n.home 0 ([n.stall, d.me, status] ++ lost.flatMap fun k => [k.1, k.2])
    (parkListBytes (d.workDescs n.paddock (stallKey n.home n.stall)))

/-- The stall as rank 0 of a generation paddock keeps it from its pull on (R209, R225). -/
def Dev.enterExec (d : Dev) (n : ShipNotice) : Dev :=
  if d.rankIn n.paddock != some 0 || d.paddockRole n.paddock != 2 then d
  else
    let r := StallRec.read n.record
    let x : ExecStall := { record := r, paddock := n.paddock, kvEnd := n.kvEnd, parkedNote := r.lenParked, samp := n.samp
                           stops := n.stops, toks := n.toks, penFrom := n.penFrom }
    { d with kv.execs := Tbl.put d.kv.execs (stallKey n.home n.stall) x }

/-- What follows when a pull has nothing open (R232): from `eager` to `main`; from `main` to `ready`, or to `rebuild`, or to the report
of lost regions. -/
def Dev.pullNext (d : Dev) (key : Nat) : Dev :=
  match d.pull? key with
  | none => d
  | some p =>
    match p.notice with
    | none => d
    | some n =>
      let ahead := (p.reqs ++ p.todo).any (·.eager)
      if p.waitHeap || (p.state == .eager && ahead) then d.pump key p.todo.length
      else if p.state == .eager || p.state == .main then
        let p := { p with state := PullState.main }
        let d := d.setPull key p
        if !p.reqs.isEmpty || !p.todo.isEmpty then d.pump key p.todo.length
        else if n.pre then d
        else if !p.lost.isEmpty then (d.setPull key { p with lost := [] }).reportPull n 0 p.lost
        else match p.rebuildFrom with
        | some q =>
          let d := (d.setPull key { p with state := .rebuild }).count F.PAN_RECOVER_CNT_REBUILD
          d.sendRole .rebuild d.me n.paddock [n.stall, n.home, q, n.kvEnd - q]
        | none => ((d.setPull key { p with state := .ready }).enterExec n).reportPull n 0 []
      else d

/-- Allocating what a pull needs and sending its first requests (R230); where the heap cannot supply it, the requests wait and
KV_HEAP_LOW is raised. -/
def Dev.tryPull (d : Dev) (key : Nat) : Dev :=
  match d.pull? key with
  | none => d
  | some p =>
    match p.notice, p.waitHeap with
    | some n, true =>
      match d.model? (StallRec.read n.record).model with
      | none => d
      | some m =>
        let shards := d.myShards n.paddock m.shards
        let have_ := d.heap n.paddock
        let need := (pullRegions n m shards (d.paddockRole n.paddock == 2)).filter fun x =>
          !have_.any fun r => r.key == key && r.use == x.1 && r.page == x.2.1 && r.shard == x.2.2.1
        match d.allocAll n.paddock key need with
        | none => d.heapLow n.paddock
        | some d => (d.setPull key { p with waitHeap := false }).pullNext key
    | _, _ => d

/-- Pulls that wait for a heap try again after regions have been freed. -/
def Dev.tryPulls (d : Dev) : Dev := (Tbl.keys d.pan.pulls).foldl (fun d k => d.tryPull k) d

/-- Whether a region of a stall has landed already in this pull (R236). -/
def Pull.has (p : Pull) (i s : Nat) : Bool := p.landed.any fun w => w.page == i && w.shard == s

/-- Requests of single pages joined into runs of one shard and source, at most 64 pages each (R230). -/
def joinReqs : List PullReq → List PullReq
  | [] => []
  | q :: t =>
    match joinReqs t with
    | r :: rest => if r.src == q.src && r.shardFirst == q.shardFirst && r.fromWork == q.fromWork && r.pageFirst == q.pageFirst + 1
          && decide (r.pageN < 64) then { q with pageN := r.pageN + 1 } :: rest else q :: r :: rest
    | [] => [q]

/-- A ship notice that R31 lets through (R232, R236). -/
def Dev.shipArrived (d : Dev) (n : ShipNotice) : Dev :=
  let key := stallKey n.home n.stall
  match d.model? (StallRec.read n.record).model with
  | none => d.reportPull n C.KV_NO_MODEL []
  | some m =>
    let shards := d.myShards n.paddock m.shards
    let old := (d.pull? key).getD {}
    let pre := (old.notice.map (·.pre)) == some true
    let prior := if pre then old.landed else []
    let open_ := if pre then old.reqs else []
    let here := fun (i s : Nat) => prior.any (fun w => w.page == i && w.shard == s)
      || open_.any fun q => decide (q.pageFirst ≤ i) && decide (i < q.pageFirst + q.pageN) && q.shardFirst == s
    let fresh := fun (l : List PullReq) => if !pre then l else joinReqs ((l.flatMap fun q =>
      (List.range q.pageN).map fun k => { q with pageFirst := q.pageFirst + k, pageN := 1 }).filter fun q => !here q.pageFirst q.shardFirst)
    let up := match n.prev with | some p => d.paddockUp p | none => false
    let ef := eagerFirst n m.np
    let p : Pull := match n.prev, up, n.pre with
      | some q, true, false =>
        { state := .eager, notice := some n, todo := d.eagerReqs n q m shards ++ fresh (d.mainReqs n m shards ef), landed := prior
          reqs := open_, waitHeap := true }
      | _, _, _ =>
        { state := .main, notice := some { n with prev := none }
          todo := fresh (d.mainReqs { n with prev := none } m shards (ceilDiv n.kvEnd m.np)), landed := prior
          reqs := open_, rebuildFrom := if n.pre then none else rebuildAt n, waitHeap := true }
    (d.setPull key p).tryPull key

/-- SHIP_NOTICE (R228, R232, R233). -/
def execShipNotice (n : ShipNotice) (s : State) : Out :=
  s.onDev fun d => d.receive n.h false 4 (.ship n) fun d => d.shipArrived n

/-- The request of a pull with an id. -/
def Pull.req (p : Pull) (pullId : Nat) : Option PullReq := p.reqs.find? (·.pullId == pullId)

/-- The pull that has a request open with an id, and its key. -/
def Dev.pullOf (d : Dev) (pullId : Nat) : Option (Nat × Pull × PullReq) :=
  d.pan.pulls.findSome? fun x => (x.2.req pullId).map fun q => (x.1, x.2, q)

/-- Landing one region in its allocated place (R221 checks 5 and 6). -/
def Dev.landRegion (d : Dev) (pad key np : Nat) (r : PanRegion) : Dev :=
  let (bad, crcBad) := regionBad r np
  let d := if crcBad then d.raise E.PAN_CRC else d
  match (d.heap pad).find? fun x => x.key == key && x.use == .page && x.page == r.page && x.shard == r.shard with
  | none => d
  | some x =>
    let d := (d.store (d.hbmKey pad x.base) r.body).setPoison (d.hbmKey pad x.base) (max 1 r.body.length) bad
    d.setHeap pad (updateFirst (fun y => y == x) (fun y => { y with cmp := r.cmp, fill := r.fill, crc := r.crc }) (d.heap pad))

/-- Landing an open buffer. -/
def Dev.landOpen (d : Dev) (pad key : Nat) (o : Nat × Bytes) : Dev :=
  match (d.heap pad).find? fun x => x.key == key && x.use == .opens && x.shard == o.1 with
  | some x => d.storeP (d.hbmKey pad x.base) o.2 false
  | none => d

/-- What a failing region asks for next (R231): the same source once more, then the other copy, then it is lost. -/
def Dev.refetch (n : ShipNotice) (d : Dev) (m : KvModel) (q : PullReq) (i s : Nat) : Option PullReq :=
  let one := { mkReq q.src i 1 s 1 false q.fromWork with retries := q.retries + 1 }
  if q.retries = 0 then some one
  else if q.retries = 1 then
    if q.fromWork then (noticeHolder n i s).map fun h => { one with src := h, fromWork := false }
    else n.prev.bind fun p => (d.shardDev p m.shards s).map fun x => { one with src := x, fromWork := true }
  else none

/-- A pull reply that has passed checks 1 to 3: its regions land; poisoned ones are fetched again or found lost; a request whose LAST has
landed with every reply before it is done. -/
def Dev.replyLanded (d : Dev) (p : Pannier) (key : Nat) (pl : Pull) (q : PullReq) (n : ShipNotice) : Dev :=
  let m := (d.model? (StallRec.read n.record).model).getD {}
  let np := 2 ^ field p.hdr 7 1
  let d := (d.count F.PAN_PULL_CNT_LANDED).total F.PAN_PULL_BYTES_BYTES (64 + field p.hdr 40 8)
  let d := p.regions.foldl (fun d r => d.landRegion n.paddock key np r) d
  let d := p.opens.foldl (fun d o => d.landOpen n.paddock key o) d
  let bad := p.regions.filter fun r => (regionBad r np).1
  let good := p.regions.filter fun r => !(regionBad r np).1
  let again := bad.filterMap fun r => d.refetch n m q r.page r.shard
  let lost := (bad.filter fun r => (d.refetch n m q r.page r.shard).isNone).map fun r => (r.page, r.shard)
  let q := { q with seqs := q.seqs ++ [field p.hdr 32 4], lastSeen := q.lastSeen || bit (field p.hdr 5 1) 1, progress := d.now }
  let done := q.lastSeen && (List.range q.seqs.length).all fun k => q.seqs.contains k
  let reqs := if done then pl.reqs.filter (·.pullId != q.pullId) else updateFirst (·.pullId == q.pullId) (fun _ => q) pl.reqs
  let pl := { pl with reqs := reqs, todo := again ++ pl.todo, lost := pl.lost ++ lost
                      landed := pl.landed ++ good.map fun r => { page := r.page, shard := r.shard, desc := [] } }
  (d.setPull key pl).pullNext key

/-- A reply to a re-park's pull (R238): the region is stored in the form it arrives in and acknowledged to the home and to the departing
holder. -/
def Dev.reparkLanded (d : Dev) (p : Pannier) (r : Repark) : Dev :=
  let d := { d with pan.reparks := d.pan.reparks.filter fun x => x.pullId != r.pullId }
  p.regions.foldl (fun d x => d.storeParked r.msg.home r.msg.stall r.msg.model (2 ^ field p.hdr 7 1) r.msg.departing x) d

/-- A pull reply that has passed checks 1 and 2 (R221 check 3). -/
def Dev.replyArrived (d : Dev) (p : Pannier) : Dev :=
  let id := field p.hdr 24 4
  match d.pan.reparks.find? (·.pullId == id) with
  | some r => d.reparkLanded p r
  | none =>
    match d.pullOf id with
    | none => d.count F.PAN_PULL_CNT_DUP
    | some (key, pl, q) =>
      if q.seqs.contains (field p.hdr 32 4) then d.count F.PAN_PULL_CNT_DUP
      else match pl.notice with
      | none => d
      | some n => d.replyLanded p key pl q n

/-- PULL_REPLY (R221, R233). -/
def execPullReply (p : Pannier) (s : State) : Out :=
  s.onDev fun d =>
    if !panHeaderOk p || field p.hdr 4 1 != 1 then d.raise E.PAN_HEADER
    else d.receive (panHdr p) true 1 (.reply p) fun d => d.replyArrived p

/-- A source does not hold what a request names (R232): in `eager` the window's parked pages join the main requests and the rest is
marked for rebuild; in `main` the regions are asked of their other copy, or found lost. -/
def Dev.notHeld (d : Dev) (key : Nat) (q : PullReq) : Dev :=
  match d.pull? key with
  | none => d
  | some p =>
    match p.notice with
    | none => d
    | some n =>
      let m := (d.model? (StallRec.read n.record).model).getD {}
      let reqs := p.reqs.filter (·.pullId != q.pullId)
      let shards := (List.range q.shardN).map (q.shardFirst + ·)
      if q.eager then
        let pages := (List.range q.pageN).map (q.pageFirst + ·)
        let extra := shards.flatMap fun s => runsOf n s pages
        (d.setPull key { p with state := .main, reqs := reqs, todo := p.todo ++ extra, rebuildFrom := rebuildAt n }).pullNext key
      else
        let keys := (List.range q.pageN).flatMap fun i => shards.map fun s => (q.pageFirst + i, s)
        let other := fun (k : Nat × Nat) => Dev.refetch n d m { q with retries := max 1 q.retries } k.1 k.2
        let again := keys.filterMap other
        let lost := keys.filter fun k => (other k).isNone
        (d.setPull key { p with reqs := reqs, todo := again ++ p.todo, lost := p.lost ++ lost }).pullNext key

/-- A refusal that R31 lets through. -/
def Dev.refusalArrived (d : Dev) (r : PullNo) : Dev :=
  match d.pan.reparks.find? (·.pullId == r.pullId) with
  | some x =>
    { d with pan.reparks := d.pan.reparks.filter fun y => y.pullId != x.pullId }.sendAck x.msg.home x.msg.home
      (ackBytes x.msg.stall x.msg.home d.me x.msg.page x.msg.shard C.PAN_NOT_HELD {})
  | none =>
    match d.pullOf r.pullId with
    | none => d
    | some (key, _, q) => d.notHeld key q

/-- PULL_REFUSAL (R229, R232, R233). -/
def execPullRefusal (r : PullNo) (s : State) : Out :=
  s.onDev fun d => d.receive r.h true 3 (.refusal r) fun d => d.refusalArrived r

/-- PULL_TIMEOUT (R232): no byte for 2^TIMEOUT_LOG2 beats: the request is sent again once; then PAN_PULL_TIMEOUT, and as not held. -/
def execPullTimeout (home stall pullId : Nat) (s : State) : Out :=
  s.onDev fun d =>
    let key := stallKey home stall
    match (d.pull? key).bind fun p => (p.req pullId).map fun q => (p, q) with
    | none => d
    | some (p, q) =>
      if d.now < q.progress + 2 ^ d.fld F.PAN_RETRY_TIMEOUT_LOG2 then d
      else if !q.resent then
        (d.setPull key { p with reqs := updateFirst (·.pullId == pullId) (fun x => { x with resent := true, progress := d.now }) p.reqs }).sendPull
          home stall q
      else (d.raise E.PAN_PULL_TIMEOUT).notHeld key q

/-- TAIL_REBUILD_COMPLETE (R232, R240, R550): the pull is `ready` and reported; a rebuild that failed is reported with its status. -/
def execTailRebuildComplete (home stall status : Nat) (s : State) : Out :=
  s.onDev fun d =>
    let key := stallKey home stall
    match d.pull? key with
    | none => d
    | some p =>
      match p.notice with
      | none => d
      | some n =>
        if p.state != .rebuild then d
        else if status / 256 != 0 then
          if abandoned status then d.setPull key { p with state := .main } |>.pullNext key
          else d.reportPull n status []
        else ((d.setPull key { p with state := .ready, rebuildFrom := none }).enterExec n).reportPull n 0 []

/-! ## Releases and re-parks (R230, R238, R242) -/

/-- A release notice that R31 lets through: WORK copies of a paddock, with the pull and the decode state they served, or parked
regions. -/
def Dev.releaseArrived (d : Dev) (r : ReleaseMsg) : Dev :=
  let key := stallKey r.home r.stall
  let d := if r.work then
      let d := match r.h.paddock with
        | some p =>
          let d := d.freeRegions p key fun _ => true
          let d := if ((d.pull? key).bind (fun (y : Pull) => y.notice)).map (fun (y : ShipNotice) => y.paddock) == some p then
              { d with pan.pulls := Tbl.del d.pan.pulls key } else d
          if (Tbl.at? d.kv.execs key).map (fun (y : ExecStall) => y.paddock) == some p then { d with kv.execs := Tbl.del d.kv.execs key } else d
        | none => d
      d.tryPulls
    else d
  r.parked.foldl (fun d k => match d.heldAt r.home r.stall k.1 k.2 with | some h => d.dropHeld h | none => d) d

/-- RELEASE_NOTICE (R230, R233). -/
def execReleaseNotice (r : ReleaseMsg) (s : State) : Out :=
  s.onDev fun d => d.receive r.h true 6 (.release r) fun d => d.releaseArrived r

/-- A re-park notice that R31 lets through (R238): the region is pulled from the departing holder. -/
def Dev.reparkArrived (d : Dev) (r : ReparkMsg) : Dev :=
  let q := { mkReq r.departing r.page 1 r.shard 1 false false with pullId := d.pan.nextPull }
  let d := { d with pan.nextPull := (d.pan.nextPull + 1) % 2 ^ 32, pan.reparks := d.pan.reparks ++ [({ pullId := q.pullId, msg := r } : Repark)] }
  d.sendPull r.home r.stall q

/-- REPARK_NOTICE (R233, R238). -/
def execReparkNotice (r : ReparkMsg) (s : State) : Out :=
  s.onDev fun d => d.receive r.h true 7 (.repark r) fun d => d.reparkArrived r

/-- The two maps a re-park looks at (R238): the current and the pending one from staging on; the one before and the current one until the
end of grace. -/
def Dev.twoMaps (d : Dev) : Option (CompMap × CompMap) :=
  match d.comp.pending, d.comp.old with
  | some m, _ => some (d.comp.cur, m)
  | none, some o => some (o, d.comp.cur)
  | none, none => none

/-- The holder R238 gives an entry of a stall: of the lowest cache paddock of its model with a member that holds the cache role in both
maps, walked as R222 does over those members. -/
def Dev.reparkTarget (d : Dev) (id i s : Nat) (x : Stall) (a b : CompMap) : Option Nat :=
  let both := fun (y : Nat) => a.roleOf y == 3 && b.roleOf y == 3
  let pads := d.allPaddocks.filter fun p =>
    d.paddockRole p == 3 && ((d.comp.cur.paddock p).head?.map (·.model)) == some x.r.model && (d.paddockDevs p).any both
  match pads.head? with
  | none => none
  | some p =>
    let out := ((d.paddockDevs p).zipIdx.filter fun y => !both y.1).map (·.2)
    d.holderFor p id i s x.pages.shards out

/-- The re-parks a home asks for from staging to the end of grace (R238), at most MAX_OUT_M1 + 1 open per new holder. -/
def Dev.reparkNext (d : Dev) : Dev :=
  match d.twoMaps with
  | none => d
  | some (a, b) =>
    let wants := d.stl.stalls.flatMap fun y => (y.2.pages.all.filter fun e =>
        e.2.state == .parked && a.roleOf e.2.park.holder == 3 && b.roleOf e.2.park.holder != 3).map
      fun e => (y.1, e.1.1, e.1.2, e.2.park.holder)
    wants.foldl (fun d w =>
      match d.stall? w.1 with
      | none => d
      | some x =>
        match d.reparkTarget w.1 w.2.1 w.2.2.1 x a b with
        | none => d
        | some h =>
          let busy := d.pan.moves.any fun v => v.1 == w.1 && v.2.1 == w.2.1 && v.2.2.1 == w.2.2.1
          if busy || d.maxOut ≤ (d.pan.moves.filter fun v => v.2.2.2 == h).length then d
          else
            let d := { d with pan.moves := d.pan.moves ++ [(w.1, w.2.1, w.2.2.1, h)] }
            d.sendRole .reparkNotice h 0 [d.me, w.1, w.2.1, w.2.2.1, w.2.2.2, x.r.model]) d

/-- PARK_ACK on a device that is not the home (R223, R238): a departing holder releases its copy once a new holder has acknowledged. -/
def Dev.ackSeen (d : Dev) (b : Bytes) : Dev :=
  let home := field b 4 2
  if home == d.me then (d.parkAcked b).reparkNext
  else if field b 14 2 == C.OK && field b 6 2 != d.me then
    match d.heldAt home (field b 0 4 % 2 ^ 17) (field b 8 4) (field b 12 2) with
    | some h => d.dropHeld h
    | none => d
  else d

/-- PARK_ACK (R223, R233): a state message. -/
def execParkAck (a : ParkAck) (s : State) : Out :=
  s.onDev fun d => d.receive a.h true 2 (.ack a) fun d => d.ackSeen a.body

/-! ## Gate notices (R225) -/

/-- GATE_NOTICE (R225): the value is kept for the launch test; the notice that begins the phase lets the stall join its peloton. -/
def execGateNotice (home stall lenParked : Nat) (start : Bool) (s : State) : Out :=
  s.onDev fun d =>
    { d with kv.execs := Tbl.upd d.kv.execs (stallKey home stall) fun x =>
        { x with parkedNote := lenParked, started := x.started || start } }

end Sys2Proof.Machine
end

