-- ==== Sys2Proof/Machine/Power.lean ====
section
/-!
DEFINITION. Machine/Power.lean: power states, resets, firmware, clocks and temperatures, and the TAP
(spec/18_package_power_startup.md).
-/

namespace Sys2Proof.Machine

/-! ## Resets (R522, R524, R547) -/

/-- What every reset leaves: the reset state of every block, with the fuses, what the part has put outside itself, and what lies
outside it (the flash media). -/
def Dev.cleared (d : Dev) : Dev :=
  { Dev.reset with out := d.out, fresh := d.fresh, pwr := { Dev.reset.pwr with fuses := d.pwr.fuses }
                   hay := { media := d.hay.media }, mem := d.mem.filter fun c => c.1 / 2 ^ 64 == 3 }

/-- POR (R524, R517, R547): everything but the fuses is cleared, the straps are sampled, the cause is recorded. -/
def Dev.por (d : Dev) (slotId bootMode : Nat) (testEn : Bool) : Dev :=
  let trip := d.pwr.state == .trip
  let d := d.cleared
  let d := { d with pwr.slotId := slotId % 2 ^ 15, pwr.bootMode := bootMode % 4, pwr.testEn := testEn, pwr.tripEvt := trip }
  if trip then d.setFld F.PWR_RST_CAUSE_TRIP 1 else d

/-- A warm reset (R524, R547): straps, fuses, the causes recorded so far and the boot's results are kept; the bit of this trigger is
set; the firmware image is verified again. -/
def Dev.warm (d : Dev) (cause : Fld) : Dev :=
  let causes := d.reg F.PWR_RST_CAUSE_POR.off
  let p := d.pwr
  let c := d.cleared
  let c := { c with pwr := { c.pwr with
    slotId := p.slotId, bootMode := p.bootMode, testEn := p.testEn, warmRetained := true,
    bootSlot := p.bootSlot, fromWindow := p.fromWindow, resultA := p.resultA, resultB := p.resultB,
    fwVersion := p.fwVersion, secVer := p.secVer, keyIndex := p.keyIndex } }
  (c.setReg F.PWR_RST_CAUSE_POR.off causes).setFld cause 1

/-- POR (R524). -/
def execPor (slotId bootMode : Nat) (testEn : Bool) (s : State) : Out := s.always fun d => d.por slotId bootMode testEn

/-- POWER_LOSS (R522): the part goes to `off` and all state is lost. -/
def execPowerLoss (s : State) : Out := s.always fun d => { d.cleared with pwr.state := .off }

/-- A warm reset acts in every powered state; a tripped part leaves only by POR (R510). -/
def State.warmReset (s : State) (cause : Fld) : Out :=
  s.always fun d => if d.pwr.state == .off || d.pwr.state == .trip then d else d.warm cause

/-- WRST_N_LOW (R524). -/
def execWrstNLow (s : State) : Out := s.warmReset F.PWR_RST_CAUSE_WARM_PIN

/-- FIRMWARE_WATCHDOG (R524). -/
def execFirmwareWatchdog (s : State) : Out := s.warmReset F.PWR_RST_CAUSE_WATCHDOG

/-! ## Firmware (R526 to R528, R546) -/

/-- Step 1 of R527: the first check of the header that fails, as its result code of R546 (2 malformed, 3 key, 4 security version, 7
NOR read error). -/
def headerCheck (f : Fuses) (s : SlotRead) : Option Nat :=
  let h := s.hdr
  let ki := field h 6 2
  if !s.m.readOk then some 7
  else if h.length != 512 || field h 0 4 != 0x57465956 || field h 4 2 != 1 || decide (2 ≤ field h 14 2)
      || !allZero (slice h 24 8) || !allZero (slice h 272 240)
      || decide (field h 16 4 < 4096) || decide (8388096 < field h 16 4) then some 2
  else if decide (3 < ki) || bit f.revoked ki || f.keyHash.getD ki [] != s.m.keyHash || s.m.keyHash.length != 48 then some 3
  else if field h 12 2 < f.svn then some 4
  else none

/-- Step 3 of R527: the body's hash against BODY_HASH (5), then the signature (6). -/
def bodyCheck (s : SlotRead) : Option Nat :=
  if s.m.bodyHash != slice s.hdr 32 48 then some 5 else if !s.m.sigOk then some 6 else none

/-- Running an image (R526, R527): its identity is recorded, and BURN_SVN raises the fused security version. -/
def Dev.runImage (d : Dev) (h : Bytes) (slot : Nat) (window : Bool) : Dev :=
  let sv := field h 12 2
  { d with pwr := { d.pwr with
      fwRunning := true, recovery := false, bootSlot := slot, fromWindow := window,
      fwVersion := field h 8 4, secVer := sv, keyIndex := field h 6 2,
      fuses := { d.pwr.fuses with svn := if bit (field h 14 2) 0 then max d.pwr.fuses.svn sv else d.pwr.fuses.svn } } }

/-- Entering recovery (R528): recorded in PWR_BOOT and PWR_RST_CAUSE. -/
def Dev.enterRecovery (d : Dev) : Dev :=
  ({ d with pwr.recovery := true, pwr.fwRunning := false }).setFld F.PWR_RST_CAUSE_RECOVERY 1

/-- Steps 2 to 4 of R527 over both slots: well-formed slots in descending FW_VERSION, A first on a tie; the first that passes runs,
and when it is not the first in that order PWR_FW_SLOT is raised at firmware-ready; none passes: recovery. -/
def Dev.bootSlots (d : Dev) (a b : SlotRead) : Dev :=
  let f := d.pwr.fuses
  let ha := headerCheck f a
  let hb := headerCheck f b
  let aFirst := ha == none && (hb != none || decide (field b.hdr 8 4 ≤ field a.hdr 8 4))
  let run := fun (d : Dev) (s : SlotRead) (slot : Nat) => d.runImage s.hdr slot false
  let res := fun (d : Dev) (ra rb : Nat) => { d with pwr.resultA := ra, pwr.resultB := rb }
  let ba := bodyCheck a
  let bb := bodyCheck b
  match ha, hb with
  | some ra, some rb => (res d ra rb).enterRecovery
  | none, some rb => match ba with
    | none => run (res d 1 rb) a 0
    | some ra => (res d ra rb).enterRecovery
  | some ra, none => match bb with
    | none => run (res d ra 1) b 1
    | some rb => (res d ra rb).enterRecovery
  | none, none =>
    if aFirst then match ba, bb with
      | none, _ => run (res d 1 0) a 0
      | some ra, none => { run (res d ra 1) b 1 with pwr.fwSlotEvt := true }
      | some ra, some rb => (res d ra rb).enterRecovery
    else match bb, ba with
      | none, _ => run (res d 0 1) b 1
      | some rb, none => { run (res d 1 rb) a 0 with pwr.fwSlotEvt := true }
      | some rb, some ra => (res d ra rb).enterRecovery

/-- FIRMWARE_VERIFY (R527): in start-up, by BOOT_MODE (R517). After a warm reset a retained image that still verifies runs as it
is (R547). -/
def execFirmwareVerify (a b : SlotRead) (retained : Bool) (s : State) : Out :=
  s.onDev fun d =>
    if d.pwr.state != .start || d.pwr.fwRunning || d.pwr.recovery || decide (2 ≤ d.pwr.bootMode) || d.pwr.testEn then d
    else if d.pwr.bootMode == 1 then d.enterRecovery
    else if d.pwr.warmRetained && retained then { d with pwr.fwRunning := true }
    else d.bootSlots a b

/-- The bytes of the image window from its start (R528). -/
def Dev.windowBytes (d : Dev) (n : Nat) : Bytes :=
  ((List.range (ceilDiv n 8)).flatMap fun i => leBytes 8 (Tbl.rd (fun _ => 0) d.pwr.window i).toNat).take n

/-- PWR_BOOT_GO (R528): in recovery only; step 3 of R527 on the image in the window, which runs if it passes. -/
def execPwrBootGo (m : Measured) (s : State) : Out :=
  s.onDev fun d =>
    if !d.pwr.recovery || d.pwr.testEn then d
    else
      let img : SlotRead := { hdr := d.windowBytes 512, m := m }
      match bodyCheck img with
      | some r => { d with pwr.resultWin := r }
      | none => ({ d with pwr.resultWin := 1 }).runImage img.hdr d.pwr.bootSlot true

/-- PWR_BOOT_PROGRAM (R528): while firmware runs; steps 1 and 3 of R527 on the image in the window, which is then written into the
slot that did not boot; a NOR error is result 8. -/
def execPwrBootProgram (m : Measured) (norOk : Bool) (s : State) : Out :=
  s.onDev fun d =>
    if !d.pwr.fwRunning then d
    else
      let img : SlotRead := { hdr := d.windowBytes 512, m := m }
      match headerCheck d.pwr.fuses img with
      | some r => { d with pwr.resultWin := r }
      | none => match bodyCheck img with
        | some r => { d with pwr.resultWin := r }
        | none =>
          let slot := if d.pwr.bootSlot = 0 then 1 else 0
          let d := d.put (.norWrite slot (d.windowBytes (512 + field img.hdr 16 4)))
          { d with pwr.resultWin := if norOk then 1 else 8 }

/-- FIRMWARE_READY (R529): BAR0 serves every block; the events of the boot are raised (R527, R510). -/
def execFirmwareReady (s : State) : Out :=
  s.onDev fun d =>
    if !d.pwr.fwRunning || d.pwr.readyFw then d
    else
      let slotEvt := d.pwr.fwSlotEvt
      let tripEvt := d.pwr.tripEvt
      let d := { d with pwr.readyFw := true, pwr.fwSlotEvt := false, pwr.tripEvt := false
                        therm.engPwrEn := true }
      let d := d.put (.pin .engPwrEn true)
      let d := if slotEvt then d.raise E.PWR_FW_SLOT else d
      if tripEvt then d.raise E.PWR_THERM_TRIP else d

/-! ## Clocks and temperatures (R506, R509, R510) -/

/-- The highest clock step the rules other than the temperatures allow a die now: 1,000 MHz (step 4) while PROCHOT_N is low, the
held step after AVSBus failures. -/
def Therm.cap (t : Therm) (c : DieClk) : Nat :=
  min (if t.prochotN then 12 else 4) (c.avsHold.getD 12)

/-- Lowering a die's clock by one step, at most every 4,096 beats, down to 1,000 MHz. -/
def DieClk.lower (c : DieClk) (now : Nat) : DieClk :=
  let ok := match c.lastDown with | none => true | some b => decide (b + 4096 ≤ now)
  if ok && decide (4 < c.step) then { c with step := c.step - 1, lastDown := some now } else c

/-- Raising a die's clock by one step, at most every 16,384 beats, starting from at least 1,000 MHz, to what the rules allow. -/
def DieClk.up (c : DieClk) (now cap : Nat) : DieClk :=
  let ok := match c.lastUp with | none => true | some b => decide (b + 16384 ≤ now)
  let n := min cap (max 4 (c.step + 1))
  if ok && decide (c.step < n) then { c with step := n, lastUp := some now } else c

/-- The readable sensors of one die, the highest of them and its index. -/
def hottest (l : List (Option Nat)) : Nat × Nat :=
  (l.zipIdx.foldl (fun (a : Nat × Nat) (x : Option Nat × Nat) =>
    match x.1 with
    | some v => if a.1 < v then (v, x.2) else a
    | none => a) (0, 0))

/-- Whether a die's sensors call for a thermal trip (R509): one at or above 115 °C, or two unreadable. -/
def tripping (l : List (Option Nat)) : Bool :=
  l.any (fun x => match x with | some v => decide (115 ≤ v) | none => false) || decide (2 ≤ (l.filter (· == none)).length)

/-- A thermal trip (R510): THERM_TRIP_N low, the part stays tripped until a POR. -/
def Dev.trip (d : Dev) : Dev :=
  (({ d with pwr.state := .trip }).put (.pin .thermTripN false)).put (.pin .smbAlertN false)

/-- One die's clock after a reading of its sensors (R509). `yardHot`: a yard sensor above 100 °C. -/
def Therm.dieStep (t : Therm) (now : Nat) (yardHot : Bool) (l : List (Option Nat)) (c : DieClk) : DieClk :=
  let hi := (hottest l).1
  if 105 ≤ hi then { c with step := 0, lastDown := some now }
  else if 100 < hi || yardHot then c.lower now
  else if l.all (fun x => match x with | some v => decide (v ≤ 97) | none => true) && !t.capped then c.up now (t.cap c)
  else c

/-- SENSOR_READ (R509): the readings of E0 to E3 and the yard die, in that order. -/
def execSensorRead (sensors : List (List (Option Nat))) (s : State) : Out :=
  s.onDev fun d =>
    let hot := sensors.map hottest
    let d := { d with therm.dieTemp := (List.range 5).map (fun i => (hot.getD i (0, 0)).1)
                      therm.dieSensor := (List.range 5).map (fun i => (hot.getD i (0, 0)).2) }
    if sensors.any tripping then d.trip
    else
      let t := d.therm
      let yardHot := decide (100 < t.dieTemp.getD 4 0)
      let engHot := (t.dieTemp.take 4).any fun v => decide (100 < v)
      let dies := Vector.ofFn fun (i : Fin 4) => t.dieStep d.now yardHot (sensors.getD i.val []) (t.dies[i])
      let fire := engHot && rateOk t.lastThrottleEvt d.now
      let d := { d with therm.dies := dies, therm.throttle := engHot || yardHot
                        therm.lastThrottleEvt := if fire then some d.now else t.lastThrottleEvt }
      if fire then d.raise E.PWR_THROTTLE else d

/-- PROCHOT_N_LOW (R509): every engine clock at most 1,000 MHz. -/
def execProchotNLow (s : State) : Out :=
  s.onDev fun d =>
    ({ d with therm.prochotN := false
              therm.dies := d.therm.dies.map (fun (c : DieClk) => { c with step := min c.step 4 }) }).raise E.PWR_PROCHOT

/-- PROCHOT_N_HIGH (R509): the cap is lifted and PWR_CLK.PROCHOT clears. -/
def execProchotNHigh (s : State) : Out := s.onDev fun d => { d with therm.prochotN := true }

/-- POWER_CAP_CHECK (R509): above PWR_CAP every engine clock is stepped down; PWR_CAPPED is raised as the condition begins. -/
def execPowerCapCheck (avg : Nat) (s : State) : Out :=
  s.onDev fun d =>
    let d := { d with therm.power := avg }
    let d := (d.setFld F.PWR_POWER_AVG avg).raiseTo F.PWR_POWER_PEAK avg
    if d.fld F.PWR_CAP_WATTS < avg then
      let was := d.therm.capped
      let d := { d with therm.capped := true, therm.dies := d.therm.dies.map (fun (c : DieClk) => c.lower d.now) }
      if was then d else d.raise E.PWR_CAPPED
    else { d with therm.capped := false }

/-- AVS_TRANSACTION (R506): the third failure in a row raises PWR_AVS and holds the rail's engine die at the step its last
acknowledged voltage allows; a success ends the hold. -/
def execAvsTransaction (rail : Nat) (ok : Bool) (step : Nat) (s : State) : Out :=
  s.onDev fun d =>
    let n := if ok then 0 else d.therm.avsFails.getD rail 0 + 1
    let d := { d with therm.avsFails := d.therm.avsFails.set rail n }
    let upd := fun (h : Option Nat) (d : Dev) =>
      { d with therm.dies := Vector.ofFn fun (i : Fin 4) =>
          let c := d.therm.dies[i]
          if i.val = rail then { c with avsHold := h, step := min c.step (h.getD 12) } else c }
    if ok then upd none d
    else if n = 3 then (upd (some step) d).raise E.PWR_AVS 1 rail
    else d

/-! ## Wake events (R522) -/

/-- A wake event: `stabled` begins to wake, with the engine rails asked for; an entry is abandoned. -/
def Dev.wake (d : Dev) : Dev :=
  match d.pwr.state with
  | .stabled => ({ d with pwr.state := .waking, therm.wakeBeat := d.now, therm.vddYLow := false, therm.engPwrEn := true }).put (.pin .engPwrEn true)
  | .entering => { d with pwr.state := .run }
  | _ => d

/-! ## SMBus (R516) -/

/-- The power state code of R522; `off` and `trip` have none and read 0. -/
def PwrState.code : PwrState → Nat
  | .start => 0 | .run => 1 | .idle => 2 | .entering => 3 | .stabled => 4 | .waking => 5 | .off => 0 | .trip => 0

/-- SMBUS_BLOCK_READ (R516): in every state in which VDD_AON is present; another command is not acknowledged. -/
def Dev.smbus (d : Dev) (hbState cmd : Nat) : Option Bytes :=
  let b2n := fun (b : Bool) => if b then 1 else 0
  match cmd with
  | 0x01 => some (leBytes 4 (d.pwr.state.code + 8 * hbState + 64 * b2n d.hlt.askReplace + 128 * b2n (d.pwr.state == .trip)))
  | 0x02 => some ((d.therm.dieTemp ++ d.therm.stackTemp).map (BitVec.ofNat 8 ·))
  | 0x03 => some (leBytes 2 d.therm.power)
  | 0x04 => some (leBytes 2 (d.score 0 0))
  | 0x05 => some (leBytes 4 (d.reg F.GLB_ID_PART_NUM.off).toNat ++ leBytes 2 d.pwr.slotId)
  | _ => none

/-! ## The TAP (R525, R531) -/

/-- Loading a TAP instruction: it is in effect, and the controller stands in Update-IR; a boundary-scan instruction stops service. -/
def State.tapLoad (s : State) (ir : Nat) (stops : Bool) : Out :=
  s.always fun d => { d with tap := { d.tap with ir := ir, tapState := 15, active := false, stopped := d.tap.stopped || stops } }

/-- EXTEST (R531). -/
def execExtest (s : State) : Out := s.tapLoad 0x00 true
/-- SAMPLE/PRELOAD (R531). -/
def execSamplePreload (s : State) : Out := s.tapLoad 0x01 true
/-- IDCODE (R531). -/
def execIdcode (s : State) : Out := s.tapLoad 0x02 false
/-- CLAMP (R531). -/
def execClamp (s : State) : Out := s.tapLoad 0x03 true
/-- HIGHZ (R531). -/
def execHighz (s : State) : Out := s.tapLoad 0x04 true
/-- EXTEST_PULSE (R531). -/
def execExtestPulse (s : State) : Out := s.tapLoad 0x08 true
/-- EXTEST_TRAIN (R531). -/
def execExtestTrain (s : State) : Out := s.tapLoad 0x09 true
/-- SCAN (R531): only with TEST_EN set; otherwise it acts as BYPASS. -/
def execScan (s : State) : Out := if s.dev.pwr.testEn then s.tapLoad 0x30 true else s.tapLoad 0xFF false
/-- BYPASS (R531): the code 0xFF, and every unlisted code, which acts as it. -/
def execBypass (_code : Nat) (s : State) : Out := s.tapLoad 0xFF false
/-- TRST_N_RESET (R525): only the TAP is reset; service a boundary-scan instruction stopped stays stopped (R531). -/
def execTrstNReset (s : State) : Out :=
  s.always fun d => { d with tap := { ({} : Tap) with stopped := d.tap.stopped } }

end Sys2Proof.Machine
end

