-- ==== Sys2Proof/Machine/MemTiers.lean ====
section
/-!
DEFINITION. Machine/MemTiers.lean: regions, accesses of the unified range, migration, write-back, prefetch and HBM care
(spec/11_memory_tiers.md).
-/

namespace Sys2Proof.Machine

/-! ## Regions (R307 to R310) -/

/-- Whether two ranges of bytes meet. -/
def meets (a n b m : Nat) : Bool := decide (a < b + m) && decide (b < a + n)

/-- R308's MEM_REGION_BAD cases for a definition. -/
def regionBad308 (b : Bytes) (units : Nat) : Bool :=
  let tiers := field b 2 1
  let flags := field b 3 1
  let base := field b 8 8
  let size := field b 16 8
  let lba := field b 24 8
  decide (2 ^ 12 ≤ field b 0 2) || decide (8 ≤ tiers) || decide (16 ≤ flags) || !allZero (slice b 32 32)
  || crc32c (b.take 4 ++ [0, 0, 0, 0] ++ b.drop 8) != field b 4 4
  || base % 65536 != 0 || size % 65536 != 0 || decide (2 ^ 40 < size) || decide (2 ^ 48 < base + size)
  || tiers % 4 == 0 || (bit tiers 2 && !bit flags 0) || (bit flags 1 && !bit flags 0)
  || (if bit flags 0 then decide (units < lba + size / 4096) else lba != 0)

/-- R308's MEM_REGION_BUSY cases: the ID in use, or the range or the backing meets another's. -/
def Dev.regionBusy (d : Dev) (id base size : Nat) (lba : Option Nat) : Bool :=
  (Tbl.at? d.memt.regions id).isSome || d.memt.regions.any fun x =>
    meets base size x.2.base x.2.size ||
    (match lba, x.2.lba with
     | some a, some b => meets a (size / 4096) b (x.2.size / 4096)
     | _, _ => false)

/-- Filling the units of a region with its backing's contents, or with zeros (R309): what the hayloft maps in the range. -/
def Dev.adoptRange (d : Dev) (r : MemRegion) : Dev :=
  let d := (d.fillRange (memKey 4 r.base) r.size []).fillPoison (memKey 4 r.base) r.size []
  match r.adopt, r.lba with
  | true, some l =>
    (d.hay.map.filter fun e => decide (l ≤ e.1) && decide (e.1 < l + r.size / 4096)).foldl (fun d e =>
      let k := memKey 4 (r.base + 4096 * (e.1 - l))
      let d := d.fillRange k 4096 (d.hayCells e.1)
      if d.hayBad e.1 then d.setPoison k 4096 true else d) d
  | _, _ => d

/-- Taking n host frames. -/
def Dev.takeHosts (d : Dev) : Nat → List Nat → Option (List Nat × Dev)
  | 0, acc => some (acc, d)
  | n + 1, acc => match d.takeHost with
    | some (k, d) => d.takeHosts n (acc ++ [k])
    | none => none

/-- Defining a region (R308, R309): the location table takes frames of order 1, a pinned region all of its frames. -/
def Dev.defineRegion (d : Dev) (b : Bytes) : Dev × CmdRes :=
  let flags := field b 3 1
  let base := field b 8 8
  let size := field b 16 8
  let lba := if bit flags 0 then some (field b 24 8) else none
  if regionBad308 b (d.fld F.HAY_CAP_UNITS) then (d, .done C.MEM_REGION_BAD [])
  else if lba.isSome && !d.hay.serves then (d, .done C.HAY_NOT_READY [])
  else if d.regionBusy (field b 0 2) base size lba then (d, .done C.MEM_REGION_BUSY [])
  else
    let r : MemRegion := { base := base, size := size, tiers := field b 2 1, lba := lba, adopt := bit flags 1 }
    match d.takeFrames (ceilDiv (8 * r.unitCount) memUnit) 1 with
    | none => (d, .done C.MEM_REGION_FULL [])
    | some (table, d1) =>
      let pinned := if r.tiers = 1 then d1.takeFrames r.unitCount 2 else if r.tiers = 2 then d1.takeHosts r.unitCount [] else some ([], d1)
      match pinned with
      | none => (d, .done C.MEM_REGION_FULL [])
      | some (frames, d2) =>
        let r := { r with frames := frames, table := table }
        (({ d2 with memt.regions := Tbl.put d2.memt.regions (field b 0 2) r }).adoptRange r, .ok)

/-- The listed units of a region. -/
def Dev.regionUnits (d : Dev) (r : MemRegion) : Tbl MUnit := d.memt.units.filter fun x => r.holdsUnit x.1

/-- Whether a removal may complete (R310): nothing of the region in flight, nothing left to write back. -/
def Dev.removable (d : Dev) (r : MemRegion) (discard : Bool) : Bool :=
  !(d.regionUnits r).any (fun x => x.2.state == .moving) && !d.memt.wbs.any r.holdsUnit
  && !d.memt.waits.any (fun w => r.holdsUnit (w.addr / memUnit))
  && (discard || !(d.regionUnits r).any fun x => x.2.dirty)

/-- Removing a region: its frames are freed, its units forgotten, its bytes gone; with DISCARD its blocks are deallocated (R338). -/
def Dev.dropRegion (d : Dev) (id : Nat) (r : MemRegion) (discard : Bool) : Dev :=
  let d := (d.regionUnits r).foldl (fun d x => if r.pinned then d else d.giveFrame x.2.state x.2.frame) d
  let d := if r.tiers = 1 then d.giveFrames r.frames
           else if r.tiers = 2 then { d with memt.host := d.memt.host.filter fun k => !r.frames.contains k } else d
  let d := d.giveFrames r.table
  let d := { d with memt.units := d.memt.units.filter (fun x => !r.holdsUnit x.1)
                    memt.wbWant := d.memt.wbWant.filter (fun u => !r.holdsUnit u)
                    memt.want := d.memt.want.filter (fun u => !r.holdsUnit u)
                    memt.regions := Tbl.del d.memt.regions id }
  let d := (d.fillRange (memKey 4 r.base) r.size []).fillPoison (memKey 4 r.base) r.size []
  match discard, r.lba with
  | true, some l => { d with hay := d.hay.dealloc l (r.size / 4096) }
  | _, _ => d

/-- Completing the removals that are done. -/
def Dev.finishRemovals (d : Dev) : Dev :=
  d.memt.regions.foldl (fun d x =>
    match x.2.removing with
    | some (c, discard) =>
      if d.removable x.2 discard then (d.dropRegion x.1 x.2 discard).completeCmd c C.OK [] else d
    | none => d) d

/-- R310: a removal names a defined region and has every other field but CRC zero. -/
def removalBad (b : Bytes) : Bool :=
  decide (2 ^ 12 ≤ field b 0 2) || field b 2 1 != 0 || decide (16 ≤ field b 3 1) || !allZero (b.drop 8)
  || bit (field b 3 1) 0 || bit (field b 3 1) 1
  || crc32c (b.take 4 ++ [0, 0, 0, 0] ++ b.drop 8) != field b 4 4

/-- Starting a removal (R310): new accesses are refused at once; dirty units of a backed region are written back unless DISCARD. -/
def Dev.removeRegion (c : HostCmd) (d : Dev) : Dev × CmdRes :=
  let b := c.data
  match Tbl.at? d.memt.regions (field b 0 2) with
  | none => (d, .done C.MEM_REGION_BAD [])
  | some r =>
    if removalBad b then (d, .done C.MEM_REGION_BAD [])
    else if r.removing.isSome then (d, .done C.MEM_REGION_BUSY [])
    else
      let discard := bit (field b 3 1) 3
      let d := { d with memt.regions := Tbl.put d.memt.regions (field b 0 2) { r with removing := some (cmdRef c, discard) } }
      let d := if discard then d else ((d.regionUnits r).filter fun x => x.2.dirty).foldl (fun d x => d.wantWb x.1) d
      (d.finishRemovals, .wait)

/-- What MEM_REGION does: it removes with REMOVE set, and else defines. -/
def Dev.regionBody (c : HostCmd) (d : Dev) : Dev × CmdRes :=
  if bit (field c.data 3 1) 2 then d.removeRegion c else d.defineRegion c.data

/-- MEM_REGION (R307 to R309). A definition completes once every unit is filled, which the model does in this step (timing is left out). -/
def execMemRegion (c : HostCmd) (s : State) : Out := s.onDev fun d => d.hostCmd (recSpec 64 0 0) c (Dev.regionBody c)

/-- MEM_REGION with REMOVE set (R310): the record says which of the two it is. -/
def execMemRegionRemove (c : HostCmd) (s : State) : Out := s.onDev fun d => d.hostCmd (recSpec 64 0 0) c (Dev.regionBody c)

/-! ## Accesses (R306, R314, R318) -/

/-- Answering an access. -/
def Dev.answerMem (d : Dev) (w : MemWait) (status : Nat) (data : Bytes) (poison : Bool) : Dev := d.put (.mem w.who status data poison)

/-- Serving an access of a unit that is resident, or reads as zeros or poison. -/
def Dev.serve (d : Dev) (r : MemRegion) (w : MemWait) : Dev :=
  match w.write with
  | none => d.answerMem w C.OK (d.load (memKey 4 w.addr) w.len) (d.poisoned (memKey 4 w.addr) w.len)
  | some data => ((d.storeP (memKey 4 w.addr) data w.poison).storedTo (w.addr / memUnit) r).answerMem w C.OK [] false

/-- Heat promotion after an access of a unit in `host` (R316). -/
def Dev.heatPromote (d : Dev) (u : Nat) (r : MemRegion) : Dev :=
  let x := d.unit u
  if x.state == .host && !r.pinned && r.allowsHbm && d.flag F.MEM_CTRL_MIGRATE_EN && decide (d.fld F.MEM_CTRL_PROMOTE_HEAT ≤ x.heat)
      && decide (d.fld F.MEM_WM_LOW < d.framesFree) then (d.promoteUnit u 768).getD d
  else d

/-- One attempt to serve an access (R314): none where it has to wait. -/
def Dev.tryAccess (d : Dev) (w : MemWait) : Option Dev :=
  let u := w.addr / memUnit
  match d.regionOf u with
  | none => some (d.answerMem w C.MEM_UNMAPPED [] false)
  | some r =>
    let x := d.unit u
    match x.state with
    | .hbm => some (d.serve r w)
    | .host => if w.sharp && r.allowsHbm then none else some ((d.serve r w).heatPromote u r)
    | .absent => if w.write.isNone then some (d.serve r w) else
        match d.takeFrame r with
        | some (st, k, d) => some ((d.residentAs u st k).serve r w)
        | none => none
    | .lost => if w.write.isNone then some (d.serve r w) else
        match d.takeFrame r with
        | some (st, k, d) => some ((d.residentAs u st k).serve r w)
        | none => none
    | .hay => none
    | .moving => if x.src == .hay || (w.sharp && x.dst == .hbm) then none else some (d.serve r w)

/-- What an access that waits sets going: a demand fetch, or the move an atomic or hot-line store waits for. -/
def Dev.startFor (d : Dev) (w : MemWait) : Dev :=
  let u := w.addr / memUnit
  match d.regionOf u with
  | none => d
  | some r =>
    match (d.unit u).state with
    | .hay => (d.fetch u r).getD d
    | .host => (d.promoteUnit u 1024).getD d
    | _ => d

/-- Trying again every access that waits, oldest first. -/
def Dev.serveWaits (d : Dev) : Dev :=
  let ws := d.memt.waits
  ws.foldl (fun d w =>
    match d.tryAccess w with
    | some d => d
    | none => let d := d.startFor w; { d with memt.waits := d.memt.waits ++ [w] }) { d with memt.waits := [] }

/-- An access of the unified range. It lies in one unit: what passes the unit's end is the next access's. -/
def Dev.access (d : Dev) (w : MemWait) : Dev :=
  let u := w.addr / memUnit
  match (if d.flag F.MEM_CTRL_EN then d.openRegion u else none) with
  | none => d.answerMem w C.MEM_UNMAPPED [] false
  | some r =>
    let d := d.warmed u r
    match d.tryAccess w with
    | some d => d
    | none => let d := d.startFor w; { d with memt.waits := d.memt.waits ++ [w] }

/-- Bytes left in the unit of an address. -/
def unitRoom (a : Nat) : Nat := memUnit - a % memUnit

/-- SPACE4_READ (R306, R314): `who` made the access. -/
def execSpace4Read (who addr len : Nat) (s : State) : Out :=
  s.onDev fun d =>
    let a := addr % 2 ^ 48
    d.access { who := who, addr := a, len := min len (unitRoom a), write := none, sharp := false, poison := false, since := d.now }

/-- SPACE4_WRITE (R306, R314): `sharp`: an atomic or hot-line store. -/
def execSpace4Write (who addr : Nat) (data : Bytes) (sharp poison : Bool) (s : State) : Out :=
  s.onDev fun d =>
    let a := addr % 2 ^ 48
    d.access { who := who, addr := a, len := 0, write := some (data.take (unitRoom a)), sharp := sharp, poison := poison, since := d.now }

/-- FRAME_WAIT_TIMEOUT (R318): after 2^20 beats the access completes with MEM_NO_FRAME: a read poisoned, a write discarded. -/
def execFrameWaitTimeout (who : Nat) (s : State) : Out :=
  s.onDev fun d =>
    match d.memt.waits.find? fun w => w.who == who && decide (w.since + 2 ^ 20 ≤ d.now) with
    | none => d
    | some w =>
      let d := { d with memt.waits := d.memt.waits.erase w }
      let data : Bytes := if w.write.isNone then List.replicate w.len 0 else []
      let d := d.answerMem w C.MEM_NO_FRAME data w.write.isNone
      if rateOk d.memt.noFrameEvt d.now then ({ d with memt.noFrameEvt := some d.now }).raise E.MEM_NO_FRAME else d

/-! ## Moves and demotions (R314 to R317) -/

/-- Promotions that wait for a slot or a frame. -/
def Dev.pumpWant (d : Dev) : Dev :=
  d.memt.want.foldl (fun d u =>
    let x := d.unit u
    if x.state == .hay || x.state == .host then
      match d.promoteUnit u 1024 with
      | some d => { d with memt.want := d.memt.want.erase u }
      | none => d
    else { d with memt.want := d.memt.want.erase u }) d

/-- After frames or slots have become free. -/
def Dev.settled (d : Dev) : Dev := (d.serveWaits.pumpWant).finishRemovals

/-- Demoting a unit (R314, R317): to host where allowed and a host frame is free, otherwise to the hayloft; a unit that can go neither
way is skipped. -/
def Dev.demote (d : Dev) (u : Nat) (toHost : Bool) : Option Dev :=
  match d.regionOf u with
  | none => none
  | some r =>
    let x := d.unit u
    if r.pinned || decide (768 ≤ d.moves) || decide (d.now < x.still) || !(x.state == .hbm || x.state == .host) then none
    else
      match (if toHost && x.state == .hbm && r.allowsHost then d.takeHost else none) with
      | some (k, d) => some (d.beginMove u .host k)
      | none =>
        if !r.allowsHay then none
        else if !x.dirty && x.hayValid then
          some (((d.giveFrame x.state x.frame).setUnit u { x with state := .hay, frame := 0, evict := false }).count F.MEM_MIG_CNT_DEMOTE)
        else some ((d.beginMove u .hay 0).wantWb u)

/-- A copy of a unit has completed with no store since its last restart (R314, R315): the location switches and the source frame is
freed. -/
def Dev.moveDone (d : Dev) (u pass : Nat) : Dev :=
  let x := d.unit u
  if x.state != .moving || x.dst == .hay || x.restarts != pass then d
  else
    let d := d.giveFrame x.src x.frame
    let d := if x.src == .hay then d.count F.MEM_WB_CNT_HAY_FETCH else d
    let d := if x.dst == .hbm then d.count F.MEM_MIG_CNT_PROMOTE else d.count F.MEM_MIG_CNT_DEMOTE (if x.src == .hbm then 1 else 0)
    (d.setUnit u { x with state := x.dst, frame := x.dstFrame, src := .absent, dst := .absent, dstFrame := 0, restarts := 0, evict := false }).settled

/-- Whether hayloft writes of an owner are still queued or being programmed. -/
def Dev.hayPending (d : Dev) (o : HayOwner) : Bool :=
  d.hay.queue.any (·.owner == o) || d.hay.points.any fun p => p.2.progs.any (·.owner == some o)

/-- Starting the spill of a held region (R224, R317): the lowest free blocks of the MEM_SPILL range that fit it. -/
def Dev.startSpill (d : Dev) (h : HeldRegion) : Option Dev :=
  let base := d.fld F.MEM_SPILL_LBA_LBA
  let n := d.fld F.MEM_SPILL_N_LBA
  let used := (d.pan.held.filter fun x => x.desc.tier == 2).map (fun x => (x.desc.addr, ceilDiv x.size 4096))
    ++ d.memt.spills.map fun x => (x.2.2.2.2, ((d.heldAt x.1 x.2.1 x.2.2.1 x.2.2.2.1).map fun y => ceilDiv y.size 4096).getD 0)
  if h.desc.tier == 2 || d.memt.spills.any (fun x => (x.1, x.2.1, x.2.2.1, x.2.2.2.1) == (h.home, h.stall, h.page, h.shard)) then none
  else match lowestFit base n 1 (ceilDiv h.size 4096) used with
    | none => none
    | some l =>
      let ws := (List.range (ceilDiv h.size 4096)).map fun k =>
        ({ lba := l + k, cells := (slice h.body (4096 * k) 4096).zipIdx.filterMap fun b => if b.1 = 0 then none else some (b.2, b.1)
           owner := .spill h.home h.stall h.page h.shard } : HayWrite)
      some { d with memt.spills := d.memt.spills ++ [(h.home, h.stall, h.page, h.shard, l)], hay.queue := d.hay.queue ++ ws }

/-- The spill of a held region has become durable (R224): its space is given back and the home gets a fresh acknowledgement with TIER 2. -/
def Dev.spillDone (d : Dev) (home stall page shard lba : Nat) : Dev :=
  let key := (home, stall, page, shard, lba)
  match d.heldAt home stall page shard with
  | none => { d with memt.spills := d.memt.spills.erase key }
  | some h =>
    if !d.memt.spills.contains key || d.hayPending (.spill home stall page shard) then d
    else
      let desc := { h.desc with tier := 2, addr := lba }
      let d := d.dropHeld h
      let d := { d with memt.spills := d.memt.spills.erase key
                        pan.held := d.pan.held ++ [{ h with desc := desc, frames := [], paddock := none }] }
      (d.sendAck home home (ackBytes stall home d.me page shard C.OK desc)).settled

/-- MOVE_COMPLETE (R314, R315, R224). -/
def execMoveComplete (m : MoveDone) (s : State) : Out :=
  s.onDev fun d =>
    match m with
    | .unit u pass => d.moveDone u pass
    | .parked home stall page shard lba => d.spillDone home stall page shard lba

/-- HEAT_DECAY (R316): every heat value is halved. -/
def execHeatDecay (s : State) : Out :=
  s.onDev fun d => { d with memt.units := Tbl.mapv d.unitDef (fun _ (x : MUnit) => { x with heat := x.heat / 2 }) d.memt.units }

/-- The victims of R317 in their order: units marked by EVICT, then ascending heat, then ascending address. -/
def Dev.victims (d : Dev) (st : UnitState) : List Nat :=
  let l := d.memt.units.filter fun x => x.2.state == st
  (sortBy (fun (a b : Nat × MUnit) =>
    if a.2.evict != b.2.evict then a.2.evict
    else decide (a.2.heat < b.2.heat) || (a.2.heat == b.2.heat && decide (a.1 < b.1))) l).map (·.1)

/-- Demoting victims until n frames will be freed; answers how many are still wanted. -/
def Dev.demoteSome (d : Dev) (toHost : Bool) : Nat → List Nat → Dev × Nat
  | n, [] => (d, n)
  | 0, _ => (d, 0)
  | n + 1, u :: t => match d.demote u toHost with
    | some d => d.demoteSome toHost n t
    | none => d.demoteSome toHost (n + 1) t

/-- Spilling held regions, oldest park first, until n frames will be freed (R317). -/
def Dev.spillSome (d : Dev) : Nat → List HeldRegion → Dev
  | _, [] => d
  | 0, _ => d
  | n + 1, h :: t => if h.frames.isEmpty then d.spillSome (n + 1) t else match d.startSpill h with
    | some d => d.spillSome (n + 1 - h.frames.length) t
    | none => d.spillSome (n + 1) t

/-- Draining the groups a staged map takes (R312): tiered units there are demoted, held regions move to frames of other groups while any
are free. -/
def Dev.drainGroups (d : Dev) : Dev :=
  let gone := fun (k : Nat) => !d.poolGroups.contains (k / 2 ^ 19)
  let d := (d.memt.units.filter fun x => x.2.state == .hbm && gone x.2.frame).foldl (fun d x => (d.demote x.1 true).getD d) d
  (d.pan.held.filter fun h => h.frames.any gone).foldl (fun d h =>
    match d.takeFrames h.frames.length 3 with
    | none => d
    | some (l, d) =>
      let d := d.giveFrames h.frames
      { d with pan.held := d.pan.held.map fun x => if x == h then { h with frames := l, desc := { h.desc with addr := l.headD 0 * 16 } } else x }) d

/-- WATERMARK_DEMOTION (R312, R317). -/
def execWatermarkDemotion (s : State) : Out :=
  s.onDev fun d =>
    let d := d.drainGroups
    let leaving := (d.memt.units.filter fun x => x.2.state == .moving && x.2.src == .hbm).length
    let d := if d.framesFree + leaving < d.fld F.MEM_WM_LOW then
        let (d, n) := d.demoteSome true (d.fld F.MEM_WM_HIGH - d.framesFree - leaving) (d.victims .hbm)
        if n = 0 then d else d.spillSome n d.pan.held
      else d
    let low := 1024 * d.fld F.MEM_PF_RATE_HOST_LOW
    if d.fld F.MEM_HOST_SIZE_SIZE != 0 && decide (d.hostFree < low) then (d.demoteSome false (low - d.hostFree) (d.victims .host)).1 else d

/-! ## Write-back (R319 to R321) -/

/-- A unit's write-back has ended durable: the flushes that waited for it alone complete. -/
def Dev.flushed (d : Dev) (u : Nat) : Dev :=
  if d.memt.wbWant.contains u then d
  else
    let fl := d.memt.flushes.map fun f => (f.1, f.2.filter (· != u))
    let d := { d with memt.flushes := fl.filter fun f => !f.2.isEmpty }
    (fl.filter fun f => f.2.isEmpty).foldl (fun d f => d.completeCmd f.1 C.OK []) d

/-- The hayloft has refused a write-back (R321): the unit stays resident and dirty, MEM_WB_FAIL is raised; a flush or a removal that needs
the unit keeps asking. -/
def Dev.wbFailed (d : Dev) (u : Nat) : Dev :=
  let d := { d with memt.wbs := d.memt.wbs.filter (· != u), hay.failedOwners := d.hay.failedOwners.filter (· != HayOwner.unit u)
                    hay.queue := d.hay.queue.filter fun w => w.owner != HayOwner.unit u }
  let x := d.unit u
  let d := d.setUnit u { x with dirty := true, since := if x.dirty then x.since else d.now }
  let d := if x.state == .moving && x.dst == .hay then d.abandonMove u else d
  let needed := d.memt.flushes.any (fun f => f.2.contains u) || (match d.regionOf u with | some r => r.removing.isSome | none => false)
  let d := if needed then { d with memt.wbWant := addOnce d.memt.wbWant u } else d
  d.raise E.MEM_WB_FAIL

/-- WRITE_BACK_DURABLE (R319): once the 16 blocks of the unit are durable its hayloft copy is valid. -/
def execWriteBackDurable (unit : Nat) (s : State) : Out :=
  s.onDev fun d =>
    if !d.memt.wbs.contains unit then d
    else if d.hay.failedOwners.contains (.unit unit) then d.wbFailed unit
    else if d.hayPending (.unit unit) then d
    else
      let d := ({ d with memt.wbs := d.memt.wbs.filter (· != unit) }).count F.MEM_WB_CNT_WB
      let x := { d.unit unit with hayValid := true }
      let d := d.setUnit unit x
      let d := if x.state == .moving && x.dst == .hay then
          if x.dirty then d.wantWb unit
          else ((d.giveFrame x.src x.frame).setUnit unit { x with state := .hay, frame := 0, src := .absent, dst := .absent, restarts := 0, evict := false }).count F.MEM_MIG_CNT_DEMOTE
        else d
      ((d.flushed unit).pumpWb).settled

/-- FLUSH_AGE (R320): a unit dirty for MEM_FLUSH_AGE beats starts a write-back. -/
def execFlushAge (unit : Nat) (s : State) : Out :=
  s.onDev fun d =>
    let x := d.unit unit
    let age := d.fld F.MEM_FLUSH_AGE_AGE
    if age != 0 && x.dirty && decide (x.since + age ≤ d.now) && !d.memt.wbs.contains unit then d.wantWb unit else d

/-- MEM_FLUSH (R320): every unit of the range that is dirty now is written back; the command completes when all are durable. An address
outside every region is MEM_UNMAPPED. -/
def execMemFlush (c : HostCmd) (s : State) : Out :=
  s.onDev fun d => d.hostCmd { shared := true, rsvOk := argMask false 0 (2 ^ 48 - 1) (2 ^ 64 - 1) 0 } c fun d =>
    let a := c.a1
    let n := c.a2
    if n = 0 then (d, .ok)
    else if decide (2 ^ 48 < a + n) || !d.mapped a n then (d, .done C.MEM_UNMAPPED [])
    else
      let us := ((d.memt.units.filter fun x => x.2.dirty && decide (a < (x.1 + 1) * memUnit) && decide (x.1 * memUnit < a + n)).map (·.1))
        ++ d.memt.wbs.filter fun u => decide (a < (u + 1) * memUnit) && decide (u * memUnit < a + n)
      if us.isEmpty then (d, .ok)
      else
        let d := { d with memt.flushes := d.memt.flushes ++ [(cmdRef c, us)] }
        ((us.filter fun u => (d.unit u).dirty).foldl (fun d u => d.wantWb u) d, .wait)

/-! ## Prefetch (R322, R323) -/

/-- An entry of a prefetch table is well formed (R322). -/
def pfEntryOk (d : Dev) (e : Bytes) : Bool :=
  let a := field e 8 8
  let n := field e 16 8
  let evict := bit (field e 24 1) 0
  decide (a < 2 ^ 48) && a % 65536 == 0 && decide (n ≤ 2 ^ 40) && decide (field e 24 1 < 2) && allZero (slice e 25 3)
  && (if evict then decide (field e 0 4 < field e 28 4) else field e 28 4 == 0)
  && (match d.openRegion (a / memUnit) with
      | some r => !r.pinned && r.allowsHbm && decide (a + n ≤ r.base + r.size)
      | none => false)

/-- The entries' NEED_OFF rise (weakly). -/
def needRises : List Nat → Bool
  | a :: b :: t => decide (a ≤ b) && needRises (b :: t)
  | _ => true

/-- MEM_PF_LOAD (R322): the table takes frames of order 1 (R312); a shortfall refuses it, with MEM_PF_BAD (DESIGN CHOICE, log entry 31: R312
gives no code). -/
def execMemPfLoad (c : HostCmd) (s : State) : Out :=
  s.onDev fun d => d.hostCmd { rsvOk := argMask true 0xFFFFF 0 0 0, lenOk := fun c => c.hlen % 32 == 0 && decide (c.hlen ≤ 32 * 4096) } c fun d =>
    let es := chunks 32 4096 c.data
    let pad := bits c.a0 15 0
    let slot := bits c.a0 19 16
    if !es.all (pfEntryOk d) || !needRises (es.map fun e => field e 0 4) then (d, .done C.MEM_PF_BAD [])
    else
      let p := d.sepPad pad
      let d1 := d.giveFrames ((Tbl.at? p.pfFrames slot).getD [])
      match d1.takeFrames (ceilDiv (32 * es.length) memUnit) 1 with
      | none => (d, .done C.MEM_PF_BAD [])
      | some (fr, d2) =>
        let q := { p with pf := if es.isEmpty then Tbl.del p.pf slot else Tbl.put p.pf slot es
                          pfFrames := if fr.isEmpty then Tbl.del p.pfFrames slot else Tbl.put p.pfFrames slot fr }
        (d2.setSepPad pad q, .ok)

/-- The prefetch table of an invocation's slot, and an entry of it. -/
def Dev.pfOf (d : Dev) (i : Inv) : List Bytes := (Tbl.at? (d.sepPad i.paddock).pf i.slot).getD []

/-- The units of an entry's range. -/
def pfUnits (e : Bytes) : List Nat := unitsOf (field e 8 8) (field e 16 8)

/-- The lead of an entry (R322): LEAD, or the time its bytes in host and in the hayloft take. -/
def Dev.pfLead (d : Dev) (e : Bytes) : Nat :=
  if field e 4 4 != 0 then field e 4 4
  else
    let n := fun (st : UnitState) => memUnit * ((pfUnits e).filter fun u => (d.unit u).state == st).length
    let rate := fun (f : Fld) (z : Nat) => if d.fld f = 0 then z else d.fld f
    ceilDiv (n .host) (rate F.MEM_PF_RATE_HOST_BPB 400) + ceilDiv (n .hay) (rate F.MEM_PF_RATE_HAY_BPB 200)

/-- PREFETCH_START (R323): from BASE_BEAT + NEED_OFF less the lead on, the units of the entry's range that are not in HBM are promoted in
ascending address; they arrive with heat 255. -/
def execPrefetchStart (inv e : Nat) (s : State) : Out :=
  s.onDev fun d =>
    match d.inv? inv with
    | none => d
    | some i =>
      match (d.pfOf i)[e]? with
      | none => d
      | some x =>
        if d.now < i.base + field x 0 4 - d.pfLead x || d.memt.pfStarted.contains (inv, e) then d
        else
          let d := { d with memt.pfStarted := d.memt.pfStarted ++ [(inv, e)] }
          (pfUnits x).foldl (fun d u =>
            let y := d.unit u
            let d := if y.evict then d.setUnit u { y with evict := false } else d
            if y.state == .hay || y.state == .host then
              let d := d.setUnit u { d.unit u with heat := 255 }
              match d.promoteUnit u 1024 with
              | some d => d
              | none => { d with memt.want := addOnce d.memt.want u }
            else d) d

/-- EVICT_DEMOTION (R323, R324): at BASE_BEAT plus the largest DONE_OFF among the invocation's EVICT entries that name any of its units,
the range is demoted, but for units a later invocation's prefetch has already claimed. -/
def execEvictDemotion (inv e : Nat) (s : State) : Out :=
  s.onDev fun d =>
    match d.inv? inv with
    | none => d
    | some i =>
      let es := d.pfOf i
      match es[e]? with
      | none => d
      | some x =>
        let us := pfUnits x
        let evicts := es.filter fun y => bit (field y 24 1) 0 && (pfUnits y).any fun u => us.contains u
        let at_ := i.base + maxOf (evicts.map fun y => field y 28 4)
        if !bit (field x 24 1) 0 || d.now < at_ then d
        else
          let claimed := fun (u : Nat) => d.memt.pfStarted.any fun k => decide (inv < k.1) &&
            (match d.inv? k.1 with
             | some j => (((d.pfOf j)[k.2]?).map pfUnits).any fun l => l.contains u
             | none => false)
          us.foldl (fun d u =>
            if claimed u || (d.unit u).state != .hbm then d
            else
              let d := d.setUnit u { d.unit u with evict := true }
              (d.demote u true).getD d) d

/-! ## HBM care (R327 to R330) -/

/-- The unit that holds a pool frame. -/
def Dev.frameUser (d : Dev) (k : Nat) : Option Nat :=
  let pinned := d.memt.regions.findSome? fun x => if x.2.tiers = 1 then
      (x.2.frames.zipIdx.find? fun f => f.1 == k).map fun f => x.2.base / memUnit + f.2 else none
  match d.memt.units.find? fun x => (x.2.state == .hbm || (x.2.state == .moving && x.2.src == .hbm)) && x.2.frame == k with
  | some x => some x.1
  | none => match pinned with
    | some u => if (d.unit u).state == .hbm && (d.unit u).frame == k then some u else none
    | none => none

/-- A held region is lost to its holder (R329): it is dropped, and its home is answered PAN_NOT_HELD (R227). -/
def Dev.heldLost (d : Dev) (h : HeldRegion) : Dev :=
  (d.dropHeld h).sendAck h.home h.home (ackBytes h.stall h.home d.me h.page h.shard C.PAN_NOT_HELD {})

/-- Held regions that lie on some byte of HBM: in a pool frame, or in a paddock's heap. -/
def Dev.heldOn (d : Dev) (group off : Nat) : List HeldRegion :=
  d.pan.held.filter fun h => h.desc.tier == 1 && (h.frames.contains (group * 2 ^ 19 + off / memUnit) ||
    (match h.paddock with
     | some p => decide (d.hbmKey p (h.desc.addr * 4096) ≤ memKey 1 (group * 2 ^ 35 + off)) &&
         decide (memKey 1 (group * 2 ^ 35 + off) < d.hbmKey p (h.desc.addr * 4096) + h.size)
     | none => false))

/-- An uncorrectable line (R329). -/
def Dev.lineLost (d : Dev) (group off : Nat) : Dev :=
  let held := d.heldOn group off
  if !held.isEmpty then held.foldl (fun d h => d.heldLost h) d
  else match d.frameUser (group * 2 ^ 19 + off / memUnit) with
    | some u =>
      let x := d.unit u
      let tiered := match d.regionOf u with | some r => !r.pinned | none => false
      if tiered && !x.dirty && x.hayValid then d else d.setPoison (unitKey u + off % memUnit / 64 * 64) 64 true
    | none => d.setPoison (memKey 1 (group * 2 ^ 35 + off / 64 * 64)) 64 true

/-- What the pool held in a group is lost (R312, R330): parked regions (R227), and the units whose frames lie there (R314). -/
def Dev.groupLost (d : Dev) (g : Nat) : Dev :=
  let d := (d.pan.held.filter fun h => h.frames.any fun k => k / 2 ^ 19 == g).foldl (fun d h => d.heldLost h) d
  let us := (d.memt.frames.filter fun x => x.1 / 2 ^ 19 == g).filterMap fun x => d.frameUser x.1
  let d := (d.memt.units.filter fun x => x.2.state == .moving && x.2.dst == .hbm && x.2.dstFrame / 2 ^ 19 == g).foldl
    (fun d x => d.abandonMove x.1) d
  us.foldl (fun d u => d.frameLost u) d

/-- A failed channel takes its group out of service (R330). -/
def Dev.failChannel (d : Dev) (channel : Nat) : Dev :=
  if d.memt.failed.contains channel then d
  else
    let g := channel / 8
    let d := { d with memt.failed := sortBy (· < ·) (channel :: d.memt.failed), memt.badGroups := addOnce d.memt.badGroups g }
    let f := F.MEM_CH_FAIL_FAILED (channel / 64)
    let d := d.setFld f (bitSet (d.fld f) (channel % 64))
    let d := (d.raise E.MEM_CH_FAIL 3 (channel / 32) channel).charge .fail 3 (channel / 32)
    if bit (d.fld F.MEM_POOL_GRP_MASK) g then (d.groupLost g).settled
    else (d.comp.cur.memberships d.me).foldl (fun d m => if bit m.chgrps g then d.tellLoss m.paddock else d) d

/-- CHANNEL_FAIL (R330). -/
def execChannelFail (channel : Nat) (s : State) : Out := s.onDev fun d => if channel < 256 then d.failChannel channel else d

/-- The counters of a channel: CE, UE, REPAIRED. -/
def Dev.eccCount (d : Dev) (channel ce ue rep : Nat) : Dev :=
  let x := Tbl.rd (fun _ => (0, 0, 0)) d.memt.ecc channel
  let y := (min (x.1 + ce) 0xFFFFFFFF, min (x.2.1 + ue) 0xFFFF, min (x.2.2 + rep) 0xFFFF)
  { d with memt.ecc := Tbl.wr (fun _ => (0, 0, 0)) d.memt.ecc channel y }

/-- SCRUB_READ (R328 to R330): with SCRUB_EN set the channel reads its next line; `row` is the row it lies in. A row corrected in two
passes in a row is repaired, or listed where its group lies in a paddock; more than 16 uncorrectable lines within 2^30 beats fail the
channel. -/
def execScrubRead (channel row : Nat) (found : ScrubRes) (s : State) : Out :=
  s.onDev fun d =>
    if !d.flag F.MEM_CTRL_SCRUB_EN || decide (256 ≤ channel) then d
    else
      let p := Tbl.rd (fun _ => (0, 0)) d.memt.scrub channel
      let next := if p.1 + 1 = 2 ^ 26 then (0, p.2 + 1) else (p.1 + 1, p.2)
      let d := { d with memt.scrub := Tbl.wr (fun _ => (0, 0)) d.memt.scrub channel next }
      let c := p.1 * 64
      let off := c / 256 * 2048 + channel % 8 * 256 + c % 256
      let g := channel / 8
      match found with
      | .clean => d
      | .corrected =>
        let key := channel * 2 ^ 32 + row
        let again := Tbl.at? d.memt.ceRows key == some p.2 && decide (0 < p.2)
        let d := (d.eccCount channel 1 0 0).charge .ce 3 (channel / 32)
        if again then
          let d := { d with memt.ceRows := Tbl.del d.memt.ceRows key }
          if bit (d.fld F.MEM_POOL_GRP_MASK) g then d.eccCount channel 0 0 1
          else { d with memt.listed := addOnce d.memt.listed key }
        else { d with memt.ceRows := Tbl.put d.memt.ceRows key (p.2 + 1) }
      | .bad =>
        let d := ((d.eccCount channel 0 1 0).charge .ue 3 (channel / 32)).raise E.MEM_UE 3 (channel / 32) channel
        let d := d.lineLost g off
        let log := ((Tbl.rd (fun _ => []) d.memt.ueLog channel).filter fun b => decide (d.now < b + 2 ^ 30)) ++ [d.now]
        let d := { d with memt.ueLog := Tbl.put d.memt.ueLog channel log }
        if 16 < log.length then d.failChannel channel else d

/-- HOST_TIER_LOST (R324): moves to or from host are abandoned; units in `host` go to `hay` or `lost`. -/
def execHostTierLost (s : State) : Out :=
  s.onDev fun d =>
    let d := (d.memt.units.filter fun x => x.2.state == .moving && (x.2.src == .host || x.2.dst == .host)).foldl
      (fun d x => d.abandonMove x.1) d
    let tiered := (d.memt.units.filter fun x => x.2.state == .host).map (·.1)
    let pinned := d.memt.regions.flatMap fun x => if x.2.tiers = 2 then (List.range x.2.unitCount).map (x.2.base / memUnit + ·) else []
    let us := tiered ++ pinned.filter fun u => (d.unit u).state == .host && !tiered.contains u
    ((us.foldl (fun d u => d.frameLost u) d).raise E.MEM_HOST_LOST).settled

/-- HMAP_PAGE_FAIL (R326, R340): the page is discarded and its map entries are rebuilt; the event is raised once per page. -/
def execHmapPageFail (page : Nat) (s : State) : Out :=
  s.onDev fun d =>
    if d.memt.hmapBad.contains page then d
    else ({ d with memt.hmapBad := d.memt.hmapBad ++ [page], hay.dirty := addOnce d.hay.dirty page }).raise E.MEM_HMAP_CRC 0 0 page

/-- STACK_TEMP_READ (R327, R509): refresh follows the 85 °C mark; copies run at half rate above 95 °C; 105 °C is a thermal trip. -/
def execStackTempRead (temps : List Nat) (s : State) : Out :=
  s.onDev fun d =>
    let t := (List.range 8).map fun k => temps.getD k 0
    let was := d.therm.hbmHalf
    let half := (List.range 8).filter fun k => decide (95 < t.getD k 0)
    let d := { d with therm.stackTemp := t, therm.hbmHalf := half }
    let d := d.setFld F.MEM_THERM_HOT (natOfBits (t.map fun x => decide (85 < x)))
    if t.any fun x => decide (105 ≤ x) then d.trip
    else (half.filter fun k => !was.contains k).foldl (fun d k => d.raise E.PWR_HBM_HOT 3 k) d

end Sys2Proof.Machine
end

