-- ==== Sys2Proof/Machine/FabHome.lean ====
section
/-!
DEFINITION. Machine/FabHome.lean: operations of cores as they complete (R381, R394), protection (R383 to R386), and a home's lines and
rounds (R387 to R393) (spec/13_azrun_memory_fabric.md).
-/

namespace Sys2Proof.Machine

/-! ## Completion of a core's operations (R381, R394, R395) -/

/-- Setting what a core keeps of an operation it issued (R107, R148). -/
def Dev.markIssued (d : Dev) (r : OpRef) (result : List Nat) : Dev :=
  let c := d.core r.core
  let set := fun (l : List (Nat × List Nat)) => l.map fun (x : Nat × List Nat) => if x.1 == r.id then (x.1, result) else x
  d.setCore r.core { c with issued := set c.issued, replay := set c.replay }

/-- Whether an operation belongs to the stretch a spare has still to run again (R107): its result is recorded and not delivered yet. -/
def Dev.replays (d : Dev) (r : OpRef) : Bool := (d.core r.core).replay.any fun (x : Nat × List Nat) => x.1 == r.id

/-- An operation counts as acknowledged: fences and release stores that wait for it wait no longer, and keep its failure if it is their
first (R394, R395). -/
def Dev.settle (d : Dev) (id code : Nat) : Dev :=
  { d with fab.fences := d.fab.fences.map (fun (f : FenceWait) =>
             if f.ops.contains id then { f with ops := f.ops.erase id, code := if f.code = 0 then code else f.code } else f)
           fab.releases := d.fab.releases.map fun (x : OpRef × Packet × List Nat × Nat) =>
             if x.2.2.1.contains id then (x.1, x.2.1, x.2.2.1.erase id, if x.2.2.2 = 0 then code else x.2.2.2) else x }

/-- Completing fences that wait for nothing more. -/
def Dev.pumpFences (d : Dev) : Dev :=
  let done := d.fab.fences.filter fun (f : FenceWait) => f.ops.isEmpty
  { d with fab.fences := d.fab.fences.filter (fun (f : FenceWait) => !f.ops.isEmpty)
           fab.fenceCode := done.foldl (fun t (f : FenceWait) => Tbl.wr (fun _ => 0) t f.core f.code) d.fab.fenceCode }

/-- Delivering an operation's result to its core (R381): its data land in the scratchpad, its counter rises, its code joins its entry's. -/
def Dev.deliverOp (d : Dev) (r : OpRef) (code : Nat) (data : Bytes) (poison : Bool) : Dev :=
  let d := if data.isEmpty then d else d.putSp r.core r.result data poison
  let d := d.bumpCtr r.core r.ctr
  if code = 0 then d else match d.inv? r.inv with
    | some i => d.putInv r.inv (i.setEnt r.entry ((i.ent r.entry).joined { code := some code, poison := poison }))
    | none => d

/-- An operation completes (R381, R107): its result is recorded and delivered, and it is settled. -/
def Dev.finishOp (d : Dev) (r : OpRef) (code : Nat) (data : Bytes) (poison : Bool) : Dev :=
  let d := { d with fab.ops := d.fab.ops.filter fun (o : OutOp) => o.ref.id != r.id }
  let d := if d.replays r then d else d.deliverOp r code data poison
  (d.markIssued r (code :: (if poison then 1 else 0) :: data.map (·.toNat))).settle r.id code

/-- Putting a core's operation on its way: to this device's own lines, or into a stream. -/
def Dev.dispatchOp (d : Dev) (r : OpRef) (p : Packet) : Dev :=
  if p.dst = d.me then { d with fab.loops := d.fab.loops ++ [(r, p)] } else d.egress p (some r)

/-- Sending the release stores whose waits are over, in issue order (R394); one that waited on a failure completes with it, unsent (R395). -/
def Dev.pumpReleases (d : Dev) : Nat → Dev
  | 0 => d
  | n + 1 =>
    match d.fab.releases.find? (fun (x : OpRef × Packet × List Nat × Nat) => x.2.2.1.isEmpty) with
    | none => d
    | some x =>
      let d := { d with fab.releases := d.fab.releases.erase x }
      let d := if x.2.2.2 = 0 then d.dispatchOp x.1 x.2.1 else d.finishOp x.1 x.2.2.2 [] false
      d.pumpReleases n

/-- Everything that waits for operations goes on. -/
def Dev.pumpOps (d : Dev) : Dev := (d.pumpReleases (d.fab.releases.length + 1)).pumpFences

/-- Completing an operation, with what it lets go on. -/
def Dev.completeOp (d : Dev) (r : OpRef) (code : Nat) (data : Bytes) (poison : Bool) : Dev := (d.finishOp r code data poison).pumpOps

/-- An operation that has been accepted counts as acknowledged though it has no result yet (R381: FETCH_ADD and CAS). -/
def Dev.acceptedOp (d : Dev) (r : OpRef) : Dev :=
  (({ d with fab.ops := d.fab.ops.map fun (o : OutOp) => if o.ref.id == r.id then { o with acked := true } else o }).settle r.id 0).pumpOps

/-! ## Protection (R383 to R386) -/

/-- The kind of access an operation makes, as a bit of PERM (R386). -/
def permBit (op : Nat) : Nat := if op = 1 then 0 else if op = 2 || op = 0x10 || op = 0x11 then 1 else 2

/-- Whether width and alignment obey R378. -/
def alignOk (p : Packet) : Bool :=
  match p.op with
  | 1 | 2 | 0x10 => decide (p.len ≤ 256) && (p.len == 0 || p.addr / 256 == (p.addr + p.len - 1) / 256)
  | 0x11 => decide (p.len ≤ 256)
  | 6 => p.len == 4 && p.addr % 4 == 0
  | _ => p.len == 0 || ((p.len == 4 || p.len == 8) && p.addr % p.len == 0)

/-- The map a message's epoch names: the current one, or the one before it while grace runs. -/
def Dev.mapOf (d : Dev) (epoch : Nat) : Option CompMap :=
  if epoch = d.comp.cur.epoch then some d.comp.cur
  else match d.comp.old with
    | some m => if m.epoch = epoch then some m else none
    | none => none

/-- The device whose place a device serves (R461): the one whose alias it is, otherwise itself. -/
def Dev.placeDev (d : Dev) (dev : Nat) : Nat :=
  match d.hlt.aliases.find? (fun (x : Nat × Nat) => x.2 == dev) with
  | some x => x.1
  | none => dev

/-- An invocation that only names a paddock, for addresses of spaces 0 to 2. -/
def padOnly (pad : Nat) : Inv := { paddock := pad, slot := 0, tag := .member 0 0 }

/-- A paddock address at its home (R383): the memory it names, or FAB_PROT. -/
def Dev.pformKey (d : Dev) (p : Packet) : Nat ⊕ Nat :=
  match d.mapOf p.epoch with
  | none => .inl C.FAB_PROT
  | some m =>
    let ok := (m.member p.paddock (d.placeDev p.src)).isSome && (m.member p.paddock (d.placeDev d.me)).isSome && decide (p.addr / 2 ^ 60 < 3)
      && (match d.shapeIn m p.paddock with | some s => addrOk s p.addr p.len | none => false)
    match ok, d.localKey (padOnly p.paddock) p.addr with
    | true, some k => .inr k
    | _, _ => .inl C.FAB_PROT

/-- The memory at an offset of a region (R386); own HBM and own yard SRAM are addressed across the device's channel groups and paddocks'
grants (DESIGN CHOICE, log entry 59: the spec names no paddock for them). A range of the unified range outside every region is FAB_RANGE. -/
def Dev.regionKey (d : Dev) (r : FabRegion) (off n : Nat) : Nat ⊕ Nat :=
  let a := r.base % 2 ^ 48 + off
  match bits r.base 49 48 with
  | 0 => if d.mapped a n then .inr (memKey 4 a) else .inl C.FAB_RANGE
  | 1 => .inr (memKey 1 a)
  | _ => .inr (memKey 2 a)

/-- An access through a region of R384 or R385: by region index and key, or by job. -/
def Dev.keyAccess (d : Dev) (addr rkey len perm : Nat) : Nat ⊕ Nat :=
  match (if bits addr 63 60 = 0 then Tbl.at? d.fab.regions (bits addr 59 40) else none) with
  | none => .inl C.FAB_PROT
  | some r =>
    if r.key != rkey then .inl C.FAB_PROT
    else if !bit r.perm perm then .inl C.FAB_PERM
    else if r.size < addr % 2 ^ 40 + len then .inl C.FAB_RANGE
    else d.regionKey r (addr % 2 ^ 40) len
def Dev.jobAccess (d : Dev) (addr job len perm : Nat) : Nat ⊕ Nat :=
  let a := addr % 2 ^ 48
  match Tbl.at? d.fab.jobs job with
  | none => .inl C.FAB_PROT
  | some (tenant, _) =>
    match (d.fab.regions.find? fun (x : Nat × FabRegion) =>
        x.2.key == job && x.2.tenant == tenant && decide (x.2.jbase ≤ a) && decide (a + len ≤ x.2.jbase + x.2.size)) with
    | none => .inl C.FAB_PROT
    | some x => if bit x.2.perm perm then d.regionKey x.2 (a - x.2.jbase) len else .inl C.FAB_PERM

/-- The memory an operation names, or the code of the check it fails (R383 to R386), EN clear and R378's alignment included. -/
def Dev.fabKey (d : Dev) (p : Packet) : Nat ⊕ Nat :=
  if !d.flag F.AZF_CTRL_EN then .inl C.FAB_PROT
  else if !alignOk p then .inl C.FAB_ALIGN
  else if p.pform then d.pformKey p
  else if d.fld F.AZF_CTRL_PROT_MODE = 1 then
    (if p.rkey = 0 && p.addr / 2 ^ 48 = 0 then d.jobAccess p.addr p.job p.len (permBit p.op) else .inl C.FAB_PROT)
  else d.keyAccess p.addr p.rkey p.len (permBit p.op)

/-! ## Applying an operation to memory -/

/-- Reading n bytes as a number. -/
def Dev.word (d : Dev) (k n : Nat) : Nat := leNat (d.load k n)

/-- What an operation answers: its status, the data of its response, and whether they are poisoned. -/
structure OpAns where
  status : Nat := 0
  data : Bytes := []
  poison : Bool := false
  deriving DecidableEq, Repr

/-- An atomic's new value from the old one (R378). CAS's payload holds compare, then swap. -/
def atomicNew (op w old : Nat) (body : Bytes) : Nat :=
  match op with
  | 5 => if field body 0 w = old then field body w w else old
  | 6 => vecLane .add old (field body 0 4) 0
  | _ => (old + field body 0 w) % 2 ^ (8 * w)

/-- Applying a load, store, copy write or atomic at its memory (R382): atomic on its line; a touch of the unified range counts (R316). -/
def Dev.applyOp (d : Dev) (p : Packet) (k : Nat) : Dev × OpAns :=
  match p.op with
  | 1 => (d.touchKey k p.len false, { data := d.load k p.len, poison := d.poisoned k p.len })
  | 2 | 0x10 => ((d.storeP k (p.body.take p.len) p.poison).touchKey k p.len true, {})
  | _ =>
    let old := d.word k p.len
    let bad := d.poisoned k p.len
    let d := (d.storeP k (leBytes p.len (atomicNew p.op p.len old p.body)) (p.poison || bad)).touchKey k p.len true
    (d, { data := if p.op = 4 || p.op = 5 then leBytes p.len old else [], poison := bad })

/-! ## Rounds (R387 to R391) -/

/-- Whether an operation is ordered (R382). -/
def Dev.ordered (d : Dev) (p : Packet) : Bool :=
  p.paddock != 0 && p.ord / 256 != 0xFFFFFF && p.len != 0 &&
    (p.op == 3 || p.op == 4 || p.op == 5 || (p.op == 2 && (!p.arrival || d.cad.detm)))

/-- The order of keys (R387) within a round: source rank, then ORD. -/
def HeldOp.before (a b : HeldOp) : Bool := decide (a.rank < b.rank) || (a.rank == b.rank && decide (a.p.ord < b.p.ord))

/-- The lines of 64 bytes an operation touches. -/
def HeldOp.lines (o : HeldOp) : List Nat := (List.range (ceilDiv (o.key % 64 + o.p.len) 64)).map (o.key / 64 + ·)

/-- The open round of a paddock and launch beat. -/
def Dev.round? (d : Dev) (pad issue : Nat) : Option Round := d.fab.rounds.find? fun (r : Round) => r.paddock == pad && r.issue == issue

/-- Every held operation of this home. -/
def Dev.heldOps (d : Dev) : List HeldOp := d.fab.rounds.flatMap fun (r : Round) => r.ops

/-- Records in use, and by one source (R390, R391). -/
def recordsOf (l : List HeldOp) : Nat := l.foldl (fun n (o : HeldOp) => n + o.records) 0
def Dev.recordsBy (d : Dev) (src : Nat) : Nat := recordsOf (d.heldOps.filter fun (o : HeldOp) => o.p.src == src)

/-- Records taken beyond the 16 reserved per source device. -/
def Dev.sharedRecords (d : Dev) : Nat :=
  let ops := d.heldOps
  let srcs := ops.foldl (fun l (o : HeldOp) => addOnce l o.p.src) []
  srcs.foldl (fun n s => n + (recordsOf (ops.filter fun (o : HeldOp) => o.p.src == s) - 16)) 0

/-- Whether a line is hot: held operations of it come from 2 or more sources, or take more than 4 records (R390). -/
def hotLine (ops : List HeldOp) (line : Nat) : Bool :=
  let l := ops.filter fun (o : HeldOp) => o.lines.contains line
  decide (2 ≤ (l.foldl (fun s (o : HeldOp) => addOnce s o.p.src) []).length) || decide (4 < recordsOf l)

/-- The hot entries in use: at most 512 (R390). -/
def Dev.hotLines (d : Dev) : List Nat :=
  let ops := d.heldOps
  ((ops.foldl (fun (l : List Nat) (o : HeldOp) => o.lines.foldl addOnce l) []).filter (hotLine ops)).take 512

/-- Whether two held operations touch a word in common and are of two kinds or widths (R390). -/
def HeldOp.clash (a b : HeldOp) : Bool :=
  decide (a.key < b.key + b.p.len) && decide (b.key < a.key + a.p.len) && !(a.p.op == b.p.op && (a.p.op == 2 || a.p.len == b.p.len))

/-- Whether an operation is combined on arrival (R390): a STORE or ADD whose lines are hot and whose words hold one kind and width. -/
def Dev.combines (d : Dev) (o : HeldOp) (ops : List HeldOp) : Bool :=
  (o.p.op == 2 || o.p.op == 3) && o.lines.all (d.hotLines.contains ·) && ops.all fun (x : HeldOp) => !o.clash x

/-- The rank of a source in a paddock under the map of an epoch (R387). -/
def Dev.rankOfSrc (d : Dev) (p : Packet) : Nat :=
  match (d.mapOf p.epoch).bind (fun m => m.member p.paddock (d.placeDev p.src)) with
  | some x => x.rank
  | none => 0

/-- Whether a home can accept an ordered operation (R391): it is combined, its source holds fewer than 16 records, or the shared pool has
free records. -/
def Dev.canHold (d : Dev) (p : Packet) : Bool :=
  decide (d.recordsBy p.src < 16) || decide (d.sharedRecords < 1048576 - 16 * 32768)

/-- Entering an ordered operation into its round (R388 to R390); the first one asks every member. -/
def Dev.enterRound (d : Dev) (p : Packet) (k : Nat) (ref : Option OpRef) : Dev :=
  let (r, d) := match d.round? p.paddock p.issue with
    | some r => (r, d)
    | none =>
      let ms := ((d.mapOf p.epoch).getD d.comp.cur).paddock p.paddock
      let r : Round := { paddock := p.paddock, issue := p.issue, members := ms.map fun (x : Member) => x.device }
      let d := (r.members.filter (· != d.me)).foldl (fun (d : Dev) (m : Nat) =>
        d.sendCtl (d.resolve m) (.roundAsk d.me (d.resolve m) p.paddock p.issue)) d
      (r, { d with fab.rounds := d.fab.rounds ++ [r] })
  let o : HeldOp := { p := p, rank := d.rankOfSrc p, key := k, records := 0, ref := ref }
  let comb := d.combines o r.ops
  let o := { o with records := if comb then 0 else o.lines.length }
  let d := if comb then d.count F.AZF_ORDER_CNT_COMBINED else d
  { d with fab.rounds := d.fab.rounds.map fun (x : Round) =>
      if x.paddock == p.paddock && x.issue == p.issue then { x with ops := x.ops ++ [o] } else x }

/-- Whether an operation's round has closed already at this home (R389). -/
def Dev.roundClosed (d : Dev) (p : Packet) : Bool :=
  match Tbl.at? d.fab.closed p.paddock with
  | some t => decide (p.issue ≤ t)
  | none => false

/-- Accepting a memory operation (R382): its checks, then applied at once, or entered into its round. Answers what it completes with, or
nothing while its result waits for its round's close. -/
def Dev.homeTake (d : Dev) (p : Packet) (ref : Option OpRef) : Dev × Option OpAns :=
  if p.rsv then (d.count F.AZF_PROT_CNT_REFUSED, some { status := C.HIF_RESERVED })
  else if p.len = 0 && d.flag F.AZF_CTRL_EN then (d, some {})
  else match d.fabKey p with
    | .inl c => (d.count F.AZF_PROT_CNT_REFUSED, some { status := c })
    | .inr k =>
      if !d.ordered p then let r := d.applyOp p k; (r.1, some r.2)
      else if d.roundClosed p then
        let r := d.applyOp p k
        ((r.1.count F.AZF_ORDER_CNT_LATE).raise E.FAB_ORDER_LATE 0 0 p.paddock, some { r.2 with status := C.FAB_ORDER_LATE })
      else
        let d := d.enterRound p k ref
        (d, if p.op = 2 || p.op = 3 then some {} else none)

/-- Operations of this device's cores on its own memory, in issue order. -/
def Dev.drainLoops (d : Dev) : Nat → Dev
  | 0 => d
  | n + 1 =>
    match d.fab.loops with
    | [] => d
    | (r, p) :: t =>
      let d := { d with fab.loops := t }
      match d.homeTake p (some r) with
      | (d, some a) => (d.completeOp r a.status a.data a.poison).drainLoops n
      | (d, none) => (d.acceptedOp r).drainLoops n

/-- Whether no schedule entry of a paddock with a launch beat of T or less is due, running or yielded here (R389). -/
def Dev.roundOver (d : Dev) (pad t : Nat) : Bool :=
  d.sep.invs.all fun (x : Nat × Inv) => x.2.paddock != pad || x.2.refused.isSome ||
    match d.invImg x.2 with
    | none => true
    | some img => (List.range (d.invEntries x.2)).all fun k =>
        (x.2.ent k).ended || decide (t < launchBeat x.2 (imgEntry img k))

/-- Whether every packet up to a member's recorded SSNs has been accepted (R389). -/
def Dev.acceptedAll (d : Dev) (m : Nat) (last : List (Option Nat)) : Bool :=
  last.zipIdx.all fun (x : Option Nat × Nat) => match x.1 with
    | none => true
    | some s => match Tbl.at? d.fab.recvs (streamKey m x.2) with
      | some r => ssnLe ((s + 1) % 2 ^ 32) r.e
      | none => false

/-- Whether a round is `ready` (R389). -/
def Dev.roundReady (d : Dev) (r : Round) : Bool :=
  r.members.all fun m =>
    if m = d.me then d.roundOver r.paddock r.issue
    else r.lost.contains m || d.isLost m || match r.done.find? (fun (x : Nat × List (Option Nat)) => x.1 == m) with
      | some x => d.acceptedAll (d.resolve m) x.2
      | none => false

/-- A response packet (R381): with the class and order fields of its request, and the SSN it answers. -/
def Dev.respond (d : Dev) (p : Packet) (a : OpAns) : Packet :=
  { op := p.op + 0x80, cls := p.cls, poison := a.poison, src := d.me, dst := p.src, issue := p.issue, ord := p.ord, paddock := p.paddock
    epoch := d.comp.cur.epoch, status := a.status, len := a.data.length, re := p.ssn, body := a.data }

/-- Sending a response, and keeping it for duplicates: the last 256 of the stream (R381). -/
def Dev.answerOp (d : Dev) (p : Packet) (a : OpAns) : Dev :=
  let rsp := d.respond p a
  let k := streamKey p.src p.cls
  let d := match Tbl.at? d.fab.recvs k with
    | some r =>
      let l := r.rsps.filter (fun (x : Nat × Packet) => x.1 != p.ssn) ++ [(p.ssn, rsp)]
      { d with fab.recvs := Tbl.put d.fab.recvs k { r with rsps := l.drop (l.length - 256) } }
    | none => d
  d.egress rsp

/-- Applying a round in key order, with the results of its FETCH_ADDs and CASes (R388). -/
def Dev.applyRound (d : Dev) : List HeldOp → Dev
  | [] => d
  | o :: t =>
    let (d, a) := d.applyOp o.p o.key
    let d := if o.p.op = 4 || o.p.op = 5 then
        match o.ref with
        | some r => d.completeOp r a.status a.data a.poison
        | none => d.answerOp o.p a
      else d
    d.applyRound t

/-- The close of a round (R388, R389): a ready round whose paddock has no earlier open round is applied; its records are freed. -/
def Dev.closeRound (d : Dev) (paddock issue : Nat) : Dev :=
  match d.round? paddock issue with
  | none => d
  | some r =>
    if !d.roundReady r || d.fab.rounds.any (fun (x : Round) => x.paddock == paddock && decide (x.issue < issue)) then d
    else
      let d := { d with fab.rounds := d.fab.rounds.erase r
                        fab.closed := Tbl.put d.fab.closed paddock (max issue ((Tbl.at? d.fab.closed paddock).getD 0)) }
      let d := d.applyRound (sortBy HeldOp.before r.ops)
      d.drainLoops (d.fab.loops.length + d.fab.releases.length + 1)

/-- ROUND_DONE (R389): the home records a member's last SSN per class. -/
def Dev.roundDone (d : Dev) (src pad issue : Nat) (last : List (Option Nat)) : Dev :=
  { d with fab.rounds := d.fab.rounds.map fun (x : Round) =>
      if x.paddock == pad && x.issue == issue && x.members.contains (d.placeDev src) then
        { x with done := x.done.filter (fun (y : Nat × List (Option Nat)) => y.1 != d.placeDev src) ++ [(d.placeDev src, last)] } else x }
def execRoundDone (src paddock issue : Nat) (last : List (Option Nat)) (s : State) : Out :=
  s.onDev fun d => d.roundDone src paddock issue last

/-- The answers a member owes (R389): a question is answered once its condition holds and every operation sent to the home has left. -/
def Dev.answerAsks (d : Dev) : Dev :=
  let ready := d.fab.asks.filter fun (x : Nat × Nat × Nat) => d.roundOver x.2.1 x.2.2 &&
    !(List.range 16).any (fun i => (d.azPort i).queue.any fun (e : EgPkt) => e.own && e.fresh && e.p.dst == x.1)
      && !d.fab.waitCtx.any (fun (e : EgPkt) => e.p.dst == x.1)
  let d := { d with fab.asks := d.fab.asks.filter fun (x : Nat × Nat × Nat) => !ready.contains x }
  ready.foldl (fun d x =>
    let last := (List.range 8).map fun c => (Tbl.at? d.fab.sends (streamKey x.1 c)).map fun (s : SendStream) => (s.next + 2 ^ 32 - 1) % 2 ^ 32
    d.sendCtl x.1 (.roundDone d.me x.1 x.2.1 x.2.2 last)) d

/-- ROUND_ASK (R389): answered at once where the condition holds, otherwise kept until it does. -/
def Dev.roundAsk (d : Dev) (src pad issue : Nat) : Dev := ({ d with fab.asks := addOnce d.fab.asks (src, pad, issue) }).answerAsks
def execRoundAsk (src paddock issue : Nat) (s : State) : Out := s.onDev fun d => d.roundAsk src paddock issue

end Sys2Proof.Machine
end

