-- ==== Sys2Proof/Machine/Qp.lean ====
section
/-!
DEFINITION. Machine/Qp.lean: protection domains, queue pairs, their requester and responder, and the context cache
(spec/14_queue_pairs.md).
-/

namespace Sys2Proof.Machine

/-! ## Domains and addresses (R403, R404) -/

/-- R403's QP_PD_BAD cases. -/
def Dev.pdBad (d : Dev) (b : Bytes) : Bool :=
  let tenant := field b 2 2
  let job := field b 4 2
  let n := field b 6 2
  let xlate := d.fld F.AZF_CTRL_PROT_MODE == 1
  decide (2 ^ 12 ≤ field b 0 2) || decide (2 ^ 12 ≤ tenant) || decide (1020 < n) || !allZero (slice b 12 4)
  || crc32c (b.take 8 ++ [0, 0, 0, 0] ++ b.drop 12) != field b 8 4
  || (if xlate then n != 0 || (match Tbl.at? d.fab.jobs job with | some (t, _) => t != tenant | none => true) else job != 0)
  || (List.range n).any fun j =>
      let r := field b (16 + 4 * j) 4
      decide (2 ^ 20 ≤ r) || (match Tbl.at? d.fab.regions r with | some x => x.tenant != tenant | none => true)

/-- QP_PD (R403). While QPX_CTRL.EN is clear, commands are refused with QP_STATE (R421). -/
def execQpPd (c : HostCmd) (s : State) : Out := s.onDev fun d =>
  d.hostCmd { rsvOk := argMask true 0 0 0 0, lenOk := fun c => c.hlen == 16 + 4 * field c.data 6 2 } c fun d =>
    if !d.flag F.QPX_CTRL_EN then (d, .done C.QP_STATE [])
    else if d.pdBad c.data then (d, .done C.QP_PD_BAD [])
    else
      let b := c.data
      let p : Pd := { tenant := field b 2 2, job := field b 4 2, regs := (List.range (field b 6 2)).map fun j => field b (16 + 4 * j) 4 }
      ({ d with qpx.pds := Tbl.put d.qpx.pds (field b 0 2) p }, .ok)

/-- An access at an address of kind 0 under a domain (R404): the memory it names, or the code of the failing check. -/
def Dev.pdAccess (d : Dev) (pd addr rkey len perm : Nat) (checkKey : Bool) : Nat ⊕ Nat :=
  match Tbl.at? d.qpx.pds pd with
  | none => .inl C.QP_PD
  | some p =>
    let a := addr % 2 ^ 62
    if d.fld F.AZF_CTRL_PROT_MODE = 1 then
      (if a / 2 ^ 48 = 0 then d.jobAccess a p.job len perm else .inl C.FAB_PROT)
    else
      let i := bits a 59 40
      let key := if checkKey then rkey else match Tbl.at? d.fab.regions i with | some r => r.key | none => rkey
      match d.keyAccess a key len perm with
      | .inl c => .inl c
      | .inr k => if p.regs.contains i then .inr k else .inl C.QP_PD

/-- Where a local address lies: the part's memory, an offset of the bulk window, or nowhere valid. -/
inductive LocalAddr where
  | mem (k : Nat)
  | bulk (off : Nat)
  | bad
  deriving DecidableEq, Repr
def Dev.localAddr (d : Dev) (pd addr len perm : Nat) (handed : Bool) : LocalAddr :=
  match addr / 2 ^ 62 with
  | 0 => match d.pdAccess pd addr 0 len perm false with | .inr k => .mem k | .inl _ => .bad
  | 1 => if handed && bits addr 61 32 = 0 && decide (addr % 2 ^ 32 + len ≤ 65536 * d.fld F.HIF_BULK_SEGS_SEGS) then .bulk (addr % 2 ^ 32) else .bad
  | _ => .bad

/-- Bytes written at a local address: to memory, or to the bulk window in host memory. -/
def Dev.putLocal (d : Dev) (a : LocalAddr) (off : Nat) (data : Bytes) (poison : Bool) : Dev :=
  match a with
  | .mem k => (d.storeP (k + off) data poison).touchKey (k + off) data.length true
  | .bulk o => if data.isEmpty then d else d.put (.hostWrite (65536 * d.fld F.HIF_BULK_BASE_BASE + o + off) data)
  | .bad => d

/-! ## Contexts -/

/-- A queue pair, and changing it. -/
def Dev.qp? (d : Dev) (n : Nat) : Option Qp := Tbl.at? d.qpx.qps n
def Dev.putQp (d : Dev) (n : Nat) (q : Qp) : Dev := { d with qpx.qps := Tbl.put d.qpx.qps n q }
def Dev.onQp (d : Dev) (n : Nat) (f : Qp → Qp) : Dev := match d.qp? n with | some q => d.putQp n (f q) | none => d

/-- Differences of PSNs modulo 2^24 (R413). -/
def psnDiff (a b : Nat) : Nat := (a + 2 ^ 24 - b % 2 ^ 24) % 2 ^ 24

/-- Places in use in the cache (R401, R416). -/
def Dev.qpPlaces (d : Dev) : Nat := (d.qpx.qps.filter fun (x : Nat × Qp) => x.2.cache != .evicted).length

/-- The completion of a work request, or a receive completion (R410): bytes 8 to 31. -/
def qpData (qpn op cflags len imm src result : Nat) : Bytes :=
  leBytes 2 qpn ++ leBytes 1 op ++ leBytes 1 cflags ++ leBytes 4 len ++ leBytes 4 imm ++ leBytes 2 src ++ leBytes 2 0 ++ leBytes 8 result

/-- Writing a work request's completion to CQ_RING (R409); none on success under QUIET. -/
def Dev.completeWr (d : Dev) (n : Nat) (q : Qp) (w : Wqe) (status : Nat) : Dev :=
  let d := if w.cmd.quiet && status / 256 == 0 then d.retireCmd (some w.cmd)
    else d.complete q.cqRing (.command status w.cmd.tag w.cmd.opcode w.cmd.ring (qpData n w.op 0 (if status = C.OK then w.len else 0) 0 0 w.result)) (some w.cmd)
  d.onQp n fun q => { q with scnt := (q.scnt + 1) % 2 ^ 32 }

/-- Completing the requests at the head that are done, in posting order. -/
def Dev.popDone (d : Dev) (n : Nat) : List Wqe → Dev
  | [] => d.onQp n fun q => { q with wqes := [] }
  | w :: t =>
    if !w.done then d.onQp n fun q => { q with wqes := w :: t }
    else match d.qp? n with
      | some q => (d.completeWr n q w C.OK).popDone n t
      | none => d

/-- Entering `error` (R406): the failing request completes with its code, every other incomplete one with QP_FLUSHED, in posting order; QP_ERROR is
raised unless host software asked for it. -/
def Dev.qpError (d : Dev) (n : Nat) (fail : Option Nat) (code : Nat) (told : Bool) : Dev :=
  match d.qp? n with
  | none => d
  | some q =>
    let d := d.putQp n { q with state := .error, wqes := [], timer := none, rnrWait := none, cur := none }
    let d := q.wqes.zipIdx.foldl (fun d (x : Wqe × Nat) =>
      d.completeWr n q x.1 (if x.1.done then C.OK else if fail = some x.2 then code else C.QP_FLUSHED)) d
    if told then d else d.raise E.QP_ERROR 0 0 n

/-- The oldest incomplete request fails with a code. -/
def Dev.qpFail (d : Dev) (n code : Nat) : Dev :=
  match d.qp? n with
  | some q => d.qpError n (q.wqes.findIdx? fun (w : Wqe) => !w.done) code false
  | none => d

/-! ## Packets (R412) -/

/-- A queue-pair packet to a device. -/
def Dev.qpPacket (d : Dev) (dst cls job : Nat) (qop flags dqpn psn rkey aux raddr imm sqpn : Nat) (data : Bytes) (poison : Bool) : Packet :=
  let hdr := leBytes 1 qop ++ leBytes 1 flags ++ leBytes 2 dqpn ++ leBytes 4 (psn % 2 ^ 24) ++ leBytes 4 rkey ++ leBytes 4 aux ++ leBytes 8 raddr
    ++ leBytes 4 imm ++ leBytes 2 sqpn ++ leBytes 2 0
  { op := 0x20, cls := cls, poison := poison, src := d.me, dst := d.resolve dst, job := job, issue := d.now, len := 32 + data.length
    epoch := d.comp.cur.epoch, body := hdr ++ data }

/-- Sending a packet of a pair: it is charged to its shapers (R428). -/
def Dev.qpSend (d : Dev) (n : Nat) (q : Qp) (qop flags psn rkey aux raddr imm : Nat) (data : Bytes) (poison : Bool) : Dev :=
  let pd := Tbl.at? d.qpx.pds q.pd
  let job := if d.fld F.AZF_CTRL_PROT_MODE = 1 then (pd.map fun (p : Pd) => p.job).getD 0 else 0
  let p := d.qpPacket q.remote q.cls job qop flags q.rqpn psn rkey aux raddr imm n data poison
  (d.egress p none (some n) (pd.map fun (p : Pd) => p.tenant)).count F.QPX_PKT_CNT_TX

/-- PSNs a request takes (R412). -/
def wqePsns (w : Wqe) : Nat := if w.op = 1 || w.op = 2 || w.op = 3 then max 1 (ceilDiv w.len 224) else 1

/-- The local bytes of a request, with their poison. -/
def Dev.wqeBytes (d : Dev) (q : Qp) (w : Wqe) (off n : Nat) : Bytes × Bool :=
  match d.localAddr q.pd w.laddr w.len 0 w.bulk.isSome with
  | .mem k => (d.load (k + off) n, d.poisoned (k + off) n)
  | .bulk _ => (slice (w.bulk.getD []) off n, false)
  | .bad => ([], false)

/-- Sending the packet of a request at its PSN j (R412): of a READ, the request for everything from there on. -/
def Dev.sendWqe (d : Dev) (n : Nat) (q : Qp) (w : Wqe) (j : Nat) : Dev :=
  let last := j + 1 == w.n
  let fl := b2n (j == 0) + 2 * b2n last + 4 * (w.flags % 2) + 8 * b2n last + 16 * b2n (last && bit w.flags 2)
  let imm := if last && bit w.flags 2 then w.imm else 0
  match w.op with
  | 1 | 3 =>
    let k := min 224 (w.len - 224 * j)
    let r := d.wqeBytes q w (224 * j) k
    d.qpSend n q w.op fl (w.psn + j) w.rkey (if j = 0 then w.len else 0) (if w.op = 1 then w.raddr + 224 * j else 224 * j) imm r.1 r.2
  | 2 => d.qpSend n q 2 11 (w.psn + j) w.rkey (w.len - 224 * j) (w.raddr + 224 * j) 0 [] false
  | _ =>
    let v := if bit w.flags 3 then 8 else 4
    let data := if w.op = 6 then leBytes v w.opnd ++ leBytes v w.swap else leBytes v w.opnd
    d.qpSend n q w.op (11 + 32 * b2n (bit w.flags 3)) (w.psn + j) w.rkey v w.raddr 0 data false

/-! ## The requester (R409, R415) -/

/-- Unacknowledged PSNs of a pair, and the room its window leaves. -/
def Qp.inFlight (q : Qp) : Nat := psnDiff q.spsn q.una
def Qp.room (q : Qp) : Nat := 2 ^ q.winLog2 - q.inFlight

/-- Whether a request is a READ or an atomic that returns a value or an ADD (R409: MAX_ATOMIC counts READs and atomics). -/
def Wqe.sharp (w : Wqe) : Bool := w.op == 2 || w.op == 4 || w.op == 5 || w.op == 6

/-- Issuing what a request may send now; answers whether everything behind it waits. -/
def Dev.issueWqe (d : Dev) (n i : Nat) : Dev × Bool :=
  match d.qp? n with
  | none => (d, true)
  | some q =>
    match q.wqes[i]? with
    | none => (d, true)
    | some w =>
      let before := q.wqes.take i
      if w.done || (w.sent != 0 && w.sent == w.n) then (d, false)
      else if w.op = 7 then (d, true)
      else if w.sent = 0 && bit w.flags 1 && before.any (fun (x : Wqe) => !x.done) then (d, true)
      else if w.sent = 0 && w.sharp && decide (q.maxAtomic ≤ (before.filter fun (x : Wqe) => x.sharp && !x.done).length) then (d, true)
      else if w.sent = 0 && (w.op = 1 || w.op = 2 || w.op = 3) && w.len != 0 &&
          d.localAddr q.pd w.laddr w.len (if w.op = 2 then 1 else 0) w.bulk.isSome == .bad then
        (d.qpError n (some i) C.QP_LOCAL_PROT false, true)
      else if q.room = 0 then (d, true)
      else
        let w := if w.sent = 0 then { w with psn := q.spsn, n := wqePsns w } else w
        let k := if w.op = 2 then w.n else min (w.n - w.sent) q.room
        let d := if w.op = 2 then d.sendWqe n q w 0 else (List.range k).foldl (fun d j => d.sendWqe n q w (w.sent + j)) d
        let w := { w with sent := w.sent + k }
        let q := { q with wqes := q.wqes.set i w, spsn := (q.spsn + k) % 2 ^ 24, timer := if q.inFlight = 0 then some d.now else q.timer, used := d.now }
        (d.putQp n q, w.sent != w.n)

/-- Sending everything a ready pair may send (R409, R411). -/
def Dev.qpPump (d : Dev) (n : Nat) : Dev :=
  match d.qp? n with
  | none => d
  | some q =>
    if q.state != .ready || q.cache != .resident || q.rnrWait.isSome then d
    else ((List.range q.wqes.length).foldl (fun (a : Dev × Bool) i => if a.2 then a else a.1.issueWqe n i) (d, false)).1

/-- Resending in PSN order from a PSN (R415), what has been sent; each packet counts. -/
def Dev.qpResend (d : Dev) (n e : Nat) : Dev :=
  match d.qp? n with
  | none => d
  | some q =>
    let d := q.wqes.foldl (fun (d : Dev) (w : Wqe) =>
      if w.sent = 0 || w.done then d
      else
        let from_ := if psnDiff e w.psn < 2 ^ 23 then psnDiff e w.psn else 0
        if w.sent ≤ from_ then d
        else if w.op = 2 then (d.sendWqe n q w from_).count F.QPX_DUP_CNT_RESENT
        else (List.range (w.sent - from_)).foldl (fun d j => (d.sendWqe n q w (from_ + j)).count F.QPX_DUP_CNT_RESENT) d) d
    d.putQp n { q with timer := some d.now, rnrWait := none }

/-- UNA advances past p (R415): covered requests are done, the retry counts clear, the timer restarts. -/
def Qp.ackTo (q : Qp) (p now : Nat) : Qp :=
  let q := { q with una := (p + 1) % 2 ^ 24, retries := 0, rnrs := 0
                    wqes := q.wqes.map fun (w : Wqe) =>
                      if w.sent != 0 && w.sent == w.n && (w.op == 1 || w.op == 3 || w.op == 4) && decide (psnDiff p (w.psn + w.n - 1) < 2 ^ 23)
                      then { w with done := true } else w }
  { q with timer := if q.inFlight = 0 then none else some now }

/-- Whether a PSN acknowledged is at or after UNA and was sent. -/
def Qp.advances (q : Qp) (p : Nat) : Bool := decide (psnDiff p q.una < q.inFlight)

/-- Going on after something completed. -/
def Dev.qpGoOn (d : Dev) (n : Nat) : Dev :=
  match d.qp? n with
  | some q => (d.popDone n q.wqes).qpPump n
  | none => d

/-- A response packet at the requester (R415). -/
def Dev.qpResponse (d : Dev) (n : Nat) (q : Qp) (p : Packet) : Dev :=
  let b := p.body
  let psn := field b 4 4 % 2 ^ 24
  let data := b.drop 32
  if q.state != .ready then d
  else match field b 0 1 with
    | 0x40 => if q.advances psn then (d.putQp n (q.ackTo psn d.now)).qpGoOn n else d
    | 0x42 =>
      if !q.advances psn then d
      else
        let d := match q.wqes.find? (fun (w : Wqe) => w.op == 2 && w.sent != 0 && decide (psnDiff psn w.psn < w.n)) with
          | some w => d.putLocal (d.localAddr q.pd w.laddr w.len 1 w.bulk.isSome) (224 * psnDiff psn w.psn) data p.poison
          | none => d
        let q := { q with wqes := q.wqes.map fun (w : Wqe) =>
          if w.op == 2 && w.sent != 0 && decide (psnDiff psn w.psn < w.n) then
            let got := addOnce w.got (psnDiff psn w.psn)
            { w with got := got, done := got.length == w.n }
          else w }
        (d.putQp n (q.ackTo psn d.now)).qpGoOn n
    | 0x43 =>
      if !q.advances psn then d
      else
        let q := { q with wqes := q.wqes.map fun (w : Wqe) =>
          if (w.op == 5 || w.op == 6) && w.sent != 0 && w.psn == psn then { w with result := field data 0 8, done := true } else w }
        (d.putQp n (q.ackTo psn d.now)).qpGoOn n
    | _ =>
      let code := field b 12 2
      if code = C.QP_SEQ then d.qpResend n psn
      else if code = C.QP_RNR || code = C.QP_STATE then
        if q.rnrMax ≤ q.rnrs + 1 then d.qpFail n C.QP_RNR_EXC
        else d.putQp n { q with rnrs := q.rnrs + 1, rnrWait := some (d.now, psn), timer := none }
      else
        d.qpError n (match q.wqes.findIdx? (fun (w : Wqe) => w.sent != 0 && !w.done && decide (psnDiff psn w.psn < w.n)) with
          | some i => some i
          | none => q.wqes.findIdx? fun (w : Wqe) => !w.done) code false

/-! ## The responder (R411, R414) -/

/-- Sending a response of a pair. -/
def Dev.qpAnswer (d : Dev) (n : Nat) (q : Qp) (qop psn aux : Nat) (data : Bytes) (poison : Bool) : Dev :=
  d.qpSend n q qop 0 psn 0 aux 0 0 data poison

/-- A NAK in answer to a packet, where no context serves (R406, R414 row 1): fatal, or of QP_STATE. -/
def Dev.qpNakTo (d : Dev) (p : Packet) (code : Nat) : Dev :=
  let b := p.body
  let r := d.qpPacket p.src p.cls p.job 0x41 0 (field b 28 2) (field b 4 4) 0 code 0 0 (field b 2 2) [] false
  let d := (d.egress r none (some (field b 2 2)) none).count F.QPX_PKT_CNT_TX
  d.count (if code = C.QP_STATE then F.QPX_NAK_CNT_RNR else F.QPX_NAK_CNT_FATAL)

/-- A NAK of a pair at its expected PSN. -/
def Dev.qpNakAt (d : Dev) (n : Nat) (q : Qp) (psn code : Nat) : Dev :=
  (d.qpAnswer n q 0x41 psn code [] false).count
    (if code = C.QP_SEQ then F.QPX_NAK_CNT_SEQ else if code = C.QP_RNR || code = C.QP_STATE then F.QPX_NAK_CNT_RNR else F.QPX_NAK_CNT_FATAL)

/-- A fatal NAK: the responder enters `error`. -/
def Dev.qpFatal (d : Dev) (n : Nat) (q : Qp) (psn code : Nat) : Dev := (d.qpNakAt n q psn code).qpError n none code false

/-- A receive completion (R410): the receive count rises. -/
def Dev.recvCpl (d : Dev) (n : Nat) (q : Qp) (status op src len : Nat) (imm : Option Nat) : Dev :=
  let d := d.complete q.rcqRing (.recv status (qpData n op (1 + (if imm.isSome then 2 else 0)) len (imm.getD 0) src 0)) none
  d.onQp n fun q => { q with rcnt := (q.rcnt + 1) % 2 ^ 32 }

/-- The response packets of a READ from a PSN (R412, R414). -/
def Dev.readResponses (d : Dev) (n : Nat) (q : Qp) (psn k len : Nat) : Dev :=
  (List.range (max 1 (ceilDiv len 224))).foldl (fun d j =>
    let m := min 224 (len - 224 * j)
    d.qpAnswer n q 0x42 (psn + j) 0 (d.load (k + 224 * j) m) (d.poisoned (k + 224 * j) m)) (d.touchKey k len false)

/-- PSNs a request packet takes. -/
def packetPsns (b : Bytes) : Nat := if field b 0 1 = 2 then max 1 (ceilDiv (field b 12 4) 224) else 1

/-- Applying a request packet whose checks have passed (R414 row 8); `k`: the memory it names. -/
def Dev.qpApply (d : Dev) (n : Nat) (q : Qp) (p : Packet) (k : Nat) : Dev :=
  let b := p.body
  let psn := field b 4 4 % 2 ^ 24
  let flags := field b 1 1
  let data := b.drop 32
  let imm := if bit flags 4 then some (field b 24 4) else none
  let v := if bit flags 5 then 8 else 4
  let q := { q with epsn := (q.epsn + packetPsns b) % 2 ^ 24, used := d.now }
  let ack := fun (d : Dev) => match d.qp? n with | some q => d.qpAnswer n q 0x40 (q.epsn + 2 ^ 24 - 1) 0 [] false | none => d
  match field b 0 1 with
  | 1 =>
    let d := (d.storeP k data p.poison).touchKey k data.length true
    let q := { q with wlen := (if bit flags 0 then 0 else q.wlen) + data.length }
    let d := d.putQp n q
    let d := if bit flags 1 && bit flags 2 then d.recvCpl n q C.OK 1 p.src q.wlen imm else d
    ack d
  | 2 => (d.putQp n q).readResponses n q psn k (field b 12 4)
  | 3 =>
    let desc := if bit flags 0 then q.descs.head? else q.cur
    let off := field b 16 4
    let d := match desc with
      | some x => d.putLocal (d.localAddr q.pd (field x.1 0 8) (field x.1 8 4) 1 x.2) off data p.poison
      | none => d
    if bit flags 1 then
      let d := d.putQp n { q with cur := none, descs := q.descs.tail, cons := (q.cons + 1) % 2 ^ 16 }
      ack (d.recvCpl n q C.OK 3 p.src (off + data.length) imm)
    else ack (d.putQp n { q with cur := desc })
  | op =>
    let old := d.word k v
    let bad := d.poisoned k v
    let d := (d.storeP k (leBytes v (atomicNew (op - 1) v old data)) (p.poison || bad)).touchKey k v true
    if op = 4 then ack (d.putQp n q)
    else
      let l := q.atomics ++ [(psn, old)]
      (d.putQp n { q with atomics := l.drop (l.length - 16) }).qpAnswer n q 0x43 psn 0 (leBytes 8 old) bad

/-- A request packet at a pair whose context is resident (R414). -/
def Dev.qpRequest (d : Dev) (n : Nat) (q : Qp) (p : Packet) : Dev :=
  let b := p.body
  let op := field b 0 1
  let flags := field b 1 1
  let psn := field b 4 4 % 2 ^ 24
  let diff := psnDiff psn q.epsn
  let raddr := field b 16 8
  let v := if bit flags 5 then 8 else 4
  let len := if op = 1 then b.length - 32 else if op = 2 then field b 12 4 else if op = 3 then 0 else v
  let access := if len = 0 then .inr 0 else if raddr / 2 ^ 62 != 0 then .inl C.FAB_PROT
    else d.pdAccess q.pd raddr (field b 8 4) len (if op = 1 then 1 else if op = 2 then 0 else 2) true
  match q.state with
  | .reset => d.qpNakTo p C.QP_STATE
  | .error => d.qpNakTo p C.QP_REMOTE_ERR
  | .ready =>
    if 2 ^ 23 ≤ diff then
      let d := d.count F.QPX_DUP_CNT_DUP
      match op with
      | 2 => match access with
        | .inr k => d.readResponses n q psn k (field b 12 4)
        | .inl _ => d
      | 5 | 6 => match q.atomics.find? (fun (x : Nat × Nat) => x.1 == psn) with
        | some x => d.qpAnswer n q 0x43 psn 0 (leBytes 8 x.2) false
        | none => d
      | _ => d.qpAnswer n q 0x40 (q.epsn + 2 ^ 24 - 1) 0 [] false
    else if diff != 0 then
      if (match q.seqNak with | some t => decide (d.now < t + 64) | none => false) then d
      else (d.putQp n { q with seqNak := some d.now }).qpNakAt n q q.epsn C.QP_SEQ
    else if (op = 1 && !q.rwEn) || (op = 2 && !q.rdEn) || ((op = 4 || op = 5 || op = 6) && !q.atEn) then d.qpFatal n q psn C.QP_ACCESS
    else match (if op = 3 then .inr 0 else access : Nat ⊕ Nat) with
      | .inl c => d.qpFatal n q psn c
      | .inr k =>
        if (op = 4 || op = 5 || op = 6) && raddr % v != 0 then d.qpFatal n q psn C.FAB_ALIGN
        else if op = 3 && bit flags 0 && q.descs.isEmpty then d.qpNakAt n q psn C.QP_RNR
        else if op = 3 && bit flags 0 && (match q.descs.head? with | some x => decide (field x.1 8 4 < field b 12 4) | none => false) then
          let d := d.putQp n { q with descs := q.descs.tail, cons := (q.cons + 1) % 2 ^ 16 }
          (d.recvCpl n q C.QP_LEN 3 p.src (field b 12 4) none).qpFatal n q psn C.QP_LEN
        else if op = 3 && bit flags 0 && field b 12 4 != 0 &&
            (match q.descs.head? with | some x => d.localAddr q.pd (field x.1 0 8) (field x.1 8 4) 1 x.2 == .bad | none => false) then
          d.qpFatal n q psn C.QP_REMOTE_ERR
        else d.qpApply n q p k

/-- Whether a packet is a request. -/
def qpIsRequest (p : Packet) : Bool := decide (field p.body 0 1 < 0x40)

/-- A packet at a context that is resident. -/
def Dev.qpProcess (d : Dev) (n : Nat) (p : Packet) : Dev :=
  match d.qp? n with
  | none => if qpIsRequest p then d.qpNakTo p C.QP_INVALID else d
  | some q => if qpIsRequest p then d.qpRequest n q p else d.qpResponse n q p

/-! ## The context cache and the miss buffer (R416 to R418) -/

/-- Asking for a context (R417). -/
def Dev.qpFetch (d : Dev) (n : Nat) (q : Qp) : Dev := d.putQp n { q with cache := .fetching, fetchAt := d.now }

/-- Whether a queue-pair packet finds the miss buffer full (R418), and so stays in ingress. -/
def Dev.qpBlocked (d : Dev) (p : Packet) : Bool :=
  match d.qp? (field p.body 2 2) with
  | some q => d.flag F.QPX_CTRL_EN && (q.cache == .evicted || q.cache == .fetching) && decide (512 ≤ d.qpx.miss.length)
  | none => false

/-- Asserting pause for the class of a packet that finds the miss buffer full, and ending it at 448 packets (R418). -/
def Dev.missPause (d : Dev) (full : Option Nat) : Dev :=
  match full with
  | some c =>
    let d := if d.qpx.pausing = 0 then (d.count F.QPX_NAK_CNT_PAUSE).setFld F.QPX_EVT_MISS_FULL 1 else d
    { d with qpx.pausing := d.qpx.pausing ||| 2 ^ c }
  | none => if d.qpx.miss.length ≤ 448 then { d with qpx.pausing := 0 } else d

/-- A queue-pair packet that its stream has accepted (R414, R417, R421). -/
def Dev.qpArrive (d : Dev) (p : Packet) : Dev :=
  let n := field p.body 2 2
  let d := d.count F.QPX_PKT_CNT_RX
  if !d.flag F.QPX_CTRL_EN then (if qpIsRequest p then d.qpNakTo p C.QP_INVALID else d)
  else match d.qp? n with
    | none => d.qpProcess n p
    | some q =>
      match q.cache with
      | .resident => d.qpProcess n p
      | .writing => (d.putQp n { q with cache := .resident }).qpProcess n p
      | .fetching => { d with qpx.miss := d.qpx.miss ++ [(n, p)] }
      | .evicted => ({ d with qpx.miss := d.qpx.miss ++ [(n, p)] }).qpFetch n q

/-! ## Commands (R405 to R411) -/

/-- R405's QP_CREATE_BAD cases. -/
def Dev.createBad (d : Dev) (b : Bytes) : Bool :=
  let t := field b 15 1
  let r := field b 33 1
  let base := field b 24 8
  decide (2 ^ 12 ≤ field b 2 2) || decide (2 ^ 15 ≤ field b 4 2) || decide (2 ^ 14 ≤ field b 8 2) || decide (2 ^ 14 ≤ field b 10 2)
  || decide (2 ^ 14 ≤ field b 12 2) || decide (64 ≤ field b 14 1) || decide (t % 32 < 8) || decide (20 < t % 32) || t / 32 == 0
  || decide (2 ^ 24 ≤ field b 16 4) || decide (2 ^ 24 ≤ field b 20 4) || base % 64 != 0
  || decide (12 < field b 32 1) || (base == 0 && field b 32 1 != 0) || r % 8 == 0 || decide (r / 8 < 8) || decide (20 < r / 8)
  || decide (16 < field b 34 1) || field b 35 1 == 0 || decide (16 < field b 35 1) || field b 36 2 == 0 || decide (4096 < field b 36 2)
  || !allZero (slice b 38 2) || !allZero (slice b 44 20) || crc32c (b.take 40 ++ [0, 0, 0, 0] ++ b.drop 44) != field b 40 4
  || (Tbl.at? d.qpx.pds (field b 2 2)).isNone

/-- The context a create record describes. -/
def qpOf (b : Bytes) : Qp :=
  let c := field b 14 1
  { pd := field b 2 2, remote := field b 4 2, rqpn := field b 6 2, sqRing := field b 8 2, cqRing := field b 10 2, rcqRing := field b 12 2
    cls := c % 8, rwEn := bit c 3, rdEn := bit c 4, atEn := bit c 5, timerLog2 := field b 15 1 % 32, retryMax := field b 15 1 / 32
    spsn0 := field b 16 4, epsn0 := field b 20 4, rqBase := field b 24 8, rqLog2 := field b 32 1, rnrMax := field b 33 1 % 8
    rnrLog2 := field b 33 1 / 8, winLog2 := field b 34 1, maxAtomic := field b 35 1, sqDepth := field b 36 2
    spsn := field b 16 4, una := field b 16 4, epsn := field b 20 4 }

/-- QP_CREATE (R405): the pair starts in `reset`; its context takes a place in the cache where one is free. -/
def execQpCreate (c : HostCmd) (s : State) : Out := s.onDev fun d =>
  d.hostCmd (recSpec 64 0 0) c fun d =>
    if !d.flag F.QPX_CTRL_EN then (d, .done C.QP_STATE [])
    else if d.createBad c.data then (d, .done C.QP_CREATE_BAD [])
    else if (d.qp? (field c.data 0 2)).isSome then (d, .done C.QP_BUSY [])
    else
      let q := qpOf c.data
      (d.putQp (field c.data 0 2) { q with cache := if d.qpPlaces < 4096 then .resident else .evicted, used := d.now }, .ok)

/-- A command that names a pair: refused where it does not exist, waiting where its context is not resident (R417), and then its meaning. -/
def Dev.qpNamed (d : Dev) (n : Nat) (w : QpCmd) (f : Dev → Qp → Dev × CmdRes) : Dev × CmdRes :=
  if !d.flag F.QPX_CTRL_EN then (d, .done C.QP_STATE [])
  else match d.qp? n with
    | none => (d, .done C.QP_INVALID [])
    | some q =>
      match q.cache with
      | .resident => f d q
      | .writing => let q := { q with cache := .resident }; f (d.putQp n q) q
      | .evicted => ((d.qpFetch n { q with cmds := q.cmds ++ [w] }), .wait)
      | .fetching => (d.putQp n { q with cmds := q.cmds ++ [w] }, .wait)

/-- QP_MODIFY's meaning (R406). -/
def Dev.qpModify (d : Dev) (n target : Nat) (q : Qp) : Dev × CmdRes :=
  match q.state, target with
  | .reset, 2 => ((d.putQp n { q with state := .ready }).qpPump n, .ok)
  | .ready, 3 => (d.qpError n none C.QP_FLUSHED true, .ok)
  | .error, 1 => (d.putQp n { q with state := .reset, spsn := q.spsn0, una := q.spsn0, epsn := q.epsn0, scnt := 0, rcnt := 0, retries := 0, rnrs := 0
                                     atomics := [], seqNak := none, descs := [], prod := 0, cons := 0, cur := none }, .ok)
  | _, _ => (d, .done C.QP_STATE [])

/-- QP_RECV's meaning (R406, R411): the descriptors up to the new producer index become available. -/
def Dev.qpRecv (d : Dev) (n idx : Nat) (descs : List (Bytes × Bool)) (q : Qp) : Dev × CmdRes :=
  if q.state == .reset then (d, .done C.QP_STATE [])
  else
    let ahead := (idx + 2 ^ 16 - q.cons) % 2 ^ 16
    if 2 ^ q.rqLog2 < ahead then (d, .done C.QP_WR_BAD [])
    else (d.putQp n { q with prod := idx, descs := (q.descs ++ descs).take ahead }, .ok)

/-- The work request of a QP_POST (R407): bytes 8 to 55 of the command. -/
def wrOf (c : HostCmd) : Bytes :=
  leBytes 8 c.haddr ++ leBytes 4 c.hlen ++ leBytes 4 c.a0 ++ leBytes 8 c.a1 ++ leBytes 8 c.a2 ++ leBytes 8 c.a3 ++ leBytes 8 (c.rsv48 % 2 ^ 64)

/-- R408 check 4: reserved bits first, then which fields an operation uses. -/
def Dev.wrCheck (d : Dev) (b : Bytes) : Option Nat :=
  let op := field b 2 1
  let fl := field b 3 1
  let n := fun off size => field b off size
  let xlate := d.fld F.AZF_CTRL_PROT_MODE == 1
  let moves := op == 1 || op == 2 || op == 3
  let atomic := op == 4 || op == 5 || op == 6
  let wide := bit fl 3
  if decide (32 ≤ fl) || op == 0 || decide (7 < op) || (op == 7 && bits (n 32 8) 31 16 != 0) then some C.HIF_RESERVED
  else if (if moves then decide (2 ^ 30 < n 4 4) else n 4 4 != 0) || (!moves && n 8 8 != 0)
      || ((op == 3 || op == 7) && n 16 8 != 0) || ((op == 3 || op == 7 || xlate) && n 24 4 != 0)
      || (n 28 4 != 0 && !(bit fl 2 && (op == 3 || (op == 1 && bit fl 0)))) || (moves && n 32 8 != 0) || (op != 6 && n 40 8 != 0)
      || (atomic && !wide && (decide (2 ^ 32 ≤ n 32 8) || decide (2 ^ 32 ≤ n 40 8)))
      || (bit fl 0 && op != 1) || (wide && !atomic) || (bit fl 4 && op != 7) || (bit fl 2 && !(op == 3 || (op == 1 && bit fl 0))) then some C.QP_WR_BAD
  else none

/-- QP_POST's meaning (R406, R408). -/
def Dev.qpPost (d : Dev) (n : Nat) (c : HostCmd) (bulk : Option Bytes) (q : Qp) : Dev × CmdRes :=
  let b := wrOf c
  let op := field b 2 1
  let wqp := field b 32 2
  if q.sqRing != c.ring then (d, .done C.QP_RING [])
  else if q.state == .reset then (d, .done C.QP_STATE [])
  else match d.wrCheck b with
    | some e => (d, .done e [])
    | none =>
      if op = 7 && ((d.qp? wqp).isNone || (wqp = n && !bit (field b 3 1) 4)) then (d, .done C.QP_WR_BAD [])
      else if q.sqDepth ≤ q.wqes.length then (d, .done C.QP_SQ_FULL [])
      else
        let w : Wqe := { cmd := cmdRef c, op := op, flags := field b 3 1, len := field b 4 4, laddr := field b 8 8, raddr := field b 16 8
                         rkey := field b 24 4, imm := field b 28 4, opnd := field b 32 8, swap := field b 40 8, bulk := bulk }
        if q.state == .error then (d.completeWr n q w C.QP_FLUSHED, .wait)
        else ((d.putQp n { q with wqes := q.wqes ++ [w], used := d.now }).qpPump n, .wait)

/-- QP_MODIFY (R406). -/
def execQpModify (c : HostCmd) (s : State) : Out := s.onDev fun d =>
  d.hostCmd (argSpec 0x3FFFF 0 0) c fun d =>
    d.qpNamed (c.a0 % 2 ^ 16) (.modify c) fun d q => d.qpModify (c.a0 % 2 ^ 16) (bits c.a0 17 16) q

/-- QP_RECV (R411). `descs`: the descriptors the receive ring holds from the old producer index on, as the part reads them, each with whether its
range of the bulk window is handed to the device. -/
def execQpRecv (c : HostCmd) (descs : List (Bytes × Bool)) (s : State) : Out := s.onDev fun d =>
  d.hostCmd { shared := true, rsvOk := argMask false 0xFFFFFFFF 0 0 0 } c fun d =>
    d.qpNamed (c.a0 % 2 ^ 16) (.recv c descs) fun d q => d.qpRecv (c.a0 % 2 ^ 16) (bits c.a0 31 16) descs q

/-- QP_POST (R407, R408). `bulk`: the bytes of LADDR's range where it lies in the bulk window and all of it is handed to the device. -/
def execQpPost (c : HostCmd) (bulk : Option Bytes) (s : State) : Out := s.onDev fun d =>
  d.hostCmd { shared := true, lenOk := fun _ => true } { c with rsv48 := c.rsv48 / 2 ^ 64 } fun d =>
    d.qpNamed (field (wrOf c) 0 2) (.post c bulk) fun d q => d.qpPost (field (wrOf c) 0 2) c bulk q

/-- QP_DESTROY (R406, R420): an evicted context is freed without a fetch. -/
def execQpDestroy (c : HostCmd) (s : State) : Out := s.onDev fun d =>
  d.hostCmd (argSpec 0xFFFF 0 0) c fun d =>
    if !d.flag F.QPX_CTRL_EN then (d, .done C.QP_STATE [])
    else match d.qp? (c.a0 % 2 ^ 16) with
      | none => (d, .done C.QP_INVALID [])
      | some q =>
        if q.state == .ready then (d, .done C.QP_STATE [])
        else
          let n := c.a0 % 2 ^ 16
          let late := d.qpx.miss.filter fun (x : Nat × Packet) => x.1 == n
          let d := { d with qpx.qps := Tbl.del d.qpx.qps n, qpx.miss := d.qpx.miss.filter fun (x : Nat × Packet) => x.1 != n }
          ((late.foldl (fun d x => d.qpProcess n x.2) d).missPause none, .ok)

/-- Carrying out a command that waited for its context. -/
def Dev.qpLate (d : Dev) (n : Nat) (w : QpCmd) : Dev :=
  match d.qp? n with
  | none => d
  | some q =>
    let finish := fun (c : HostCmd) (r : Dev × CmdRes) => match r.2 with
      | .done st data => r.1.completeCmd (cmdRef c) st data
      | .wait => r.1
    match w with
    | .post c bulk => finish c (d.qpPost n c bulk q)
    | .recv c descs => finish c (d.qpRecv n (bits c.a0 31 16) descs q)
    | .modify c => finish c (d.qpModify n (bits c.a0 17 16) q)

/-! ## Events of the cache and the timers -/

/-- Whether a context may be evicted (R416). -/
def Dev.evictable (d : Dev) (x : Nat × Qp) : Bool :=
  let q := x.2
  q.cache == .resident && q.inFlight == 0 && q.rnrWait.isNone && !d.qpx.miss.any (fun (m : Nat × Packet) => m.1 == x.1)
    && (match q.wqes with
        | [] => true
        | [w] => w.op == 7 && decide ((d.qpx.qps.filter fun (y : Nat × Qp) => y.2.cache == .evicted && !y.2.wqes.isEmpty).length < 8192)
        | _ => false)

/-- CONTEXT_EVICT (R416, R417): with fewer than 64 places free, the least recently used evictable context is written with its CRC. -/
def execContextEvict (s : State) : Out :=
  s.onDev fun d =>
    if 64 ≤ 4096 - d.qpPlaces then d
    else match (sortBy (fun (a b : Nat × Qp) => decide (a.2.used < b.2.used)) (d.qpx.qps.filter d.evictable)).head? with
      | some x => (d.putQp x.1 { x.2 with cache := .writing }).put (.hostWrite (65536 * d.fld F.QPX_CTX_BASE_BASE + 256 * x.1) [])
      | none => d

/-- CONTEXT_WRITE_COMPLETE (R417). -/
def execContextWriteComplete (qpn : Nat) (s : State) : Out :=
  s.onDev fun d =>
    match d.qp? qpn with
    | some q => if q.cache == .writing then (d.putQp qpn { q with cache := .evicted }).count F.QPX_CACHE_CNT_EVICT else d
    | none => d

/-- The loss of REMOTE at a pair (R406, R415): in poison mode the pair fails; in teardown mode its requests are held. -/
def Dev.qpRemoteLost (d : Dev) (n : Nat) : Dev :=
  match d.qp? n with
  | none => d
  | some q =>
    if q.state != .ready || d.tearsDown then d
    else if q.cache == .evicted || q.cache == .fetching then d.putQp n { q with lost := true }
    else d.qpFail n C.FAB_POISON
def Dev.qpLost (d : Dev) (dev : Nat) : Dev :=
  (d.qpx.qps.filter fun (x : Nat × Qp) => x.2.remote == dev).foldl (fun d x => d.qpRemoteLost x.1) d

/-- A context is resident again (R417, R420): a loss meanwhile applies first, then the buffered packets in arrival order, then the waiting
commands. -/
def Dev.qpBack (d : Dev) (n : Nat) (q : Qp) : Dev :=
  let cmds := q.cmds
  let buffered := d.qpx.miss.filter fun (x : Nat × Packet) => x.1 == n
  let d := { d with qpx.miss := d.qpx.miss.filter fun (x : Nat × Packet) => x.1 != n }
  let d := d.putQp n { q with cache := .resident, cmds := [], lost := false, used := d.now }
  let d := if q.lost then d.qpRemoteLost n else d
  let d := buffered.foldl (fun d x => d.qpProcess n x.2) d
  ((cmds.foldl (fun d w => d.qpLate n w) d).qpPump n).missPause none

/-- A fetch fails (R402, R417): a fresh context starts in `error`. -/
def Dev.qpFetchFailed (d : Dev) (n : Nat) (q : Qp) : Dev :=
  let d := d.raise E.QP_CTX_FAIL 0 0 n
  let fresh := { q with state := .ready, spsn := q.spsn0, una := q.spsn0, epsn := q.epsn0 }
  ((d.putQp n fresh).qpError n none C.QP_FLUSHED false).qpBack n
    ((((d.putQp n fresh).qpError n none C.QP_FLUSHED false).qp? n).getD fresh)

/-- The end of a context's read (R402, R417): `ok`: the context was read and its CRC is correct. -/
def Dev.contextFetched (d : Dev) (qpn : Nat) (ok : Bool) : Dev :=
  match d.qp? qpn with
  | none => d
  | some q =>
    if q.cache != .fetching then d
    else
      let d := d.count F.QPX_CACHE_CNT_FETCH
      if ok then d.qpBack qpn q else d.qpFetchFailed qpn q

/-- No read completion within 2^16 beats (R417). -/
def Dev.contextTimedOut (d : Dev) (qpn : Nat) : Dev :=
  match d.qp? qpn with
  | none => d
  | some q => if q.cache == .fetching && decide (q.fetchAt + 2 ^ 16 ≤ d.now) then d.qpFetchFailed qpn q else d

/-- QP_TIMER (R415): after 2^TIMER_LOG2 beats, a resend from UNA, or, at the RETRY_MAX-th expiry in a row, `error`. -/
def execQpTimer (qpn : Nat) (s : State) : Out :=
  s.onDev fun d =>
    match d.qp? qpn with
    | none => d
    | some q =>
      match q.timer with
      | none => d
      | some t =>
        if q.state != .ready || decide (d.now < t + 2 ^ q.timerLog2) || q.inFlight == 0 || (d.isLost q.remote && d.tearsDown) then d
        else if q.retryMax ≤ q.retries + 1 then d.qpFail qpn C.QP_RETRY_EXC
        else (d.putQp qpn { q with retries := q.retries + 1 }).qpResend qpn q.una

/-- RNR_WAIT_EXPIRY (R415): after 2^RNR_LOG2 beats, a resend from the NAK's PSN. -/
def execRnrWaitExpiry (qpn : Nat) (s : State) : Out :=
  s.onDev fun d =>
    match d.qp? qpn with
    | none => d
    | some q =>
      match q.rnrWait with
      | none => d
      | some (t, psn) => if d.now < t + 2 ^ q.rnrLog2 || q.state != .ready then d else (d.qpResend qpn psn).qpPump qpn

/-- Whether the WAIT at the head of a pair is satisfied (R409, R419). -/
def Dev.waitMet (d : Dev) (w : Wqe) : Bool :=
  match d.qp? (w.opnd % 2 ^ 16) with
  | some x => decide (((if bit w.flags 4 then x.rcnt else x.scnt) + 2 ^ 32 - w.opnd / 2 ^ 32) % 2 ^ 32 < 2 ^ 31)
  | none => false

/-- WAIT_SATISFIED (R409, R417, R419): the WAIT completes and the request behind it issues; the pair of a satisfied watch is fetched first. -/
def execWaitSatisfied (qpn : Nat) (s : State) : Out :=
  s.onDev fun d =>
    match d.qp? qpn with
    | none => d
    | some q =>
      match q.wqes with
      | w :: t =>
        if w.op != 7 || q.state != .ready || !d.waitMet w then d
        else match q.cache with
          | .resident | .writing => (d.putQp qpn { q with cache := .resident, wqes := { w with done := true } :: t }).qpGoOn qpn
          | .evicted => d.qpFetch qpn q
          | .fetching => d
      | [] => d

end Sys2Proof.Machine
end

