-- ==== Sys2Proof/Machine/Shaping.lean ====
section
/-!
DEFINITION. Machine/Shaping.lean: policers, and the configuration of shapers and policers (spec/15_shaping_and_policing.md R429 to R440).
-/

namespace Sys2Proof.Machine

/-! ## Policers (R431 to R435) -/

/-- A policer, and changing it. -/
def Dev.policer (d : Dev) (i : Nat) : Meter := Tbl.rd (fun _ => {}) d.shp.policers i
def Dev.setPolicer (d : Dev) (i : Nat) (m : Meter) : Dev := { d with shp.policers := Tbl.wr (fun _ => {}) d.shp.policers i m }

/-- The policers of a packet addressed to this device (R431): flow, then aggregate. A packet names a region or a job where it reaches
memory by one: an operation with PFORM clear, or a queue-pair request but a SEND. -/
def Dev.policersOf (d : Dev) (p : Packet) (qp : Bool) : List Nat :=
  let find := fun (f : ShpCfg → Bool) => (d.shp.policers.find? fun (x : Nat × Meter) => f x.2.cfg).map (·.1)
  let xlate := d.fld F.AZF_CTRL_PROT_MODE == 1
  let mem := if qp then decide (field p.body 0 1 < 0x40) && field p.body 0 1 != 3 else decide (p.op < 0x20) && !p.pform
  let addr := if qp then field p.body 16 8 else p.addr
  let names := fun (v : Nat) => if xlate then (qp || mem) && p.job == v else mem && bits addr 59 40 == v
  let flow := match find fun c => c.bkind == 1 && qp && c.value == field p.body 2 2 with
    | some i => some i
    | none => match find fun c => c.bkind == 2 && names c.value with
      | some i => some i
      | none => find fun c => c.bkind == 3 && c.value == p.src && c.cls == p.cls
  flow.toList ++ (find fun c => c.bkind == 4 && c.cls == p.cls).toList

/-- A policer's buckets now, in 1/4,096 byte (R432, R435): with MODE 0 the excess bucket takes what the committed one cannot; a closed
bucket is empty. -/
def Meter.buckets (m : Meter) (now : Nat) : Nat × Nat :=
  let c := m.cfg
  let n := now - m.since
  let tc := m.tc.toNat + c.rate * n
  let tc' := if c.rate = 0 then 0 else min (4096 * c.burst) tc
  if c.mode = 0 then (tc', if c.rate = 0 then 0 else min (4096 * c.burst2) (m.tx.toNat + (tc - tc')))
  else (tc', if c.rate2 = 0 then 0 else min (4096 * c.burst2) (m.tx.toNat + c.rate2 * n))

/-- Metering b bytes (R432, R433): the colour (0 green, 1 yellow, 2 red), from the pre-colour where the policer is aware, and the policer with
its buckets debited. -/
def Meter.colour (m : Meter) (now b pre : Nat) : Nat × Meter :=
  let (tc, tx) := m.buckets now
  let n := 4096 * b
  let pre := if m.cfg.aware then pre else 0
  let c :=
    if m.cfg.mode = 0 then
      if pre = 0 && decide (n ≤ tc) && decide (0 < m.cfg.burst) then 0 else if pre ≤ 1 && decide (n ≤ tx) && decide (0 < m.cfg.burst2) then 1 else 2
    else if pre = 2 || decide (tx < n) || m.cfg.burst2 = 0 then 2
    else if pre = 1 || decide (tc < n) || m.cfg.burst = 0 then 1
    else 0
  let tc' := if c = 0 then tc - n else tc
  let tx' := if m.cfg.mode = 0 then (if c = 1 then tx - n else tx) else if c = 2 then tx else tx - n
  (c, { m with tc := tc', tx := tx', since := now, bytes := m.bytes.zipIdx.map fun (x : Nat × Nat) => if x.2 = c then (x.1 + b) % 2 ^ 64 else x.1 })

/-- Metering a packet by its policers in turn (R434): none where one defers it, and nothing is debited then. -/
def Dev.police (d : Dev) (p : Packet) : Nat → List Nat → Option Dev
  | _, [] => some d
  | pre, i :: t =>
    let m := d.policer i
    let (c, m') := m.colour d.now (counted p m.cfg.overhead) pre
    if (c = 1 && m.cfg.yel) || (c = 2 && m.cfg.red) then none else (d.setPolicer i m').police p c t

/-! ## Configuration (R437, R438) -/

/-- The staged configuration. -/
def Dev.stagedShp (d : Dev) : ShpCfg :=
  { rate := d.fld F.SHP_CFG_RATE_RATE, rate2 := d.fld F.SHP_CFG_RATE_RATE2, burst := d.fld F.SHP_CFG_BURST_BURST
    burst2 := d.fld F.SHP_CFG_BURST_BURST2, bkind := d.fld F.SHP_CFG_BIND_BKIND, cls := d.fld F.SHP_CFG_BIND_CLASS
    value := d.fld F.SHP_CFG_BIND_VALUE, overhead := d.fld F.SHP_CFG_BIND_OVERHEAD, mode := d.fld F.SHP_CFG_BIND_MODE
    aware := d.flag F.SHP_CFG_BIND_AWARE, yel := d.flag F.SHP_CFG_BIND_YEL_DEFER, red := d.flag F.SHP_CFG_BIND_RED_DEFER }

/-- R437 check 1. -/
def shpFieldsOk (c : ShpCfg) (pl xlate : Bool) : Bool :=
  decide (c.bkind ≤ 4) && (c.cls == 0 || c.bkind == 3 || c.bkind == 4) &&
  (match c.bkind with
    | 1 => decide (c.value < 2 ^ 16)
    | 2 => decide (c.value < (if pl && !xlate then 2 ^ 20 else 2 ^ 16))
    | 3 => decide (c.value < (if pl then 2 ^ 15 else 2 ^ 12))
    | 4 => if pl then c.value == 0 else decide (c.value < 16)
    | _ => true) &&
  (if pl then c.rate2 == 0 || c.mode == 1 else c.rate2 == 0 && c.burst2 == 0 && c.mode == 0 && !c.aware && !c.yel && !c.red)

/-- R437 check 2 (R435): a policer that defers has no burst a largest packet cannot fit. -/
def shpBurstOk (c : ShpCfg) (pl : Bool) : Bool :=
  let ok := fun (b : Nat) => b == 0 || decide (304 + c.overhead ≤ b)
  !pl || !(c.yel || c.red) || (ok c.burst && ok c.burst2)

/-- R437's checks of a staged configuration, in order. -/
def Dev.shpStatus (d : Dev) (c : ShpCfg) (pl : Bool) (i : Nat) : Nat :=
  if !shpFieldsOk c pl (d.fld F.AZF_CTRL_PROT_MODE == 1) || !shpBurstOk c pl then C.SHP_CFG_BAD
  else if c.bkind != 0 && (if pl then d.shp.policers else d.shp.shapers).any
      (fun (x : Nat × Meter) => x.1 != i && x.2.cfg.bkind == c.bkind && x.2.cfg.value == c.value && x.2.cfg.cls == c.cls) then C.SHP_BIND_BUSY
  else C.OK

/-- SHP_CMD.APPLY (R437, R438): a shaper keeps its tokens, clamped to the new burst; a policer's buckets refill. -/
def Dev.shpApply (d : Dev) : Dev :=
  let i := d.fld F.SHP_SEL_INDEX
  let pl := d.flag F.SHP_SEL_PL
  let c := d.stagedShp
  let st := d.shpStatus c pl i
  let d := d.setFld F.SHP_CMD_STAT_STATUS st
  if st != C.OK then d.setFld F.SHP_EVT_CFG_REFUSED 1
  else if pl then d.setPolicer i { d.policer i with cfg := c, tc := (4096 * c.burst : Nat), tx := (4096 * c.burst2 : Nat), since := d.now }
  else d.setShaper i { d.shaper i with cfg := c, tc := min ((d.shaper i).tokens d.now) (4096 * c.burst : Nat), since := d.now }

/-- SHP_CMD.READ (R437). -/
def Dev.shpRead (d : Dev) : Dev :=
  let i := d.fld F.SHP_SEL_INDEX
  let c := (if d.flag F.SHP_SEL_PL then d.policer i else d.shaper i).cfg
  [(F.SHP_CFG_RATE_RATE, c.rate), (F.SHP_CFG_RATE_RATE2, c.rate2), (F.SHP_CFG_BURST_BURST, c.burst), (F.SHP_CFG_BURST_BURST2, c.burst2),
   (F.SHP_CFG_BIND_BKIND, c.bkind), (F.SHP_CFG_BIND_CLASS, c.cls), (F.SHP_CFG_BIND_VALUE, c.value), (F.SHP_CFG_BIND_OVERHEAD, c.overhead),
   (F.SHP_CFG_BIND_MODE, c.mode), (F.SHP_CFG_BIND_AWARE, if c.aware then 1 else 0), (F.SHP_CFG_BIND_YEL_DEFER, if c.yel then 1 else 0),
   (F.SHP_CFG_BIND_RED_DEFER, if c.red then 1 else 0)].foldl (fun (d : Dev) (x : Fld × Nat) => d.setFld x.1 x.2) d

/-- Packets a shaper holds (R429): those charged to it that wait while it does not let them leave. -/
def Dev.heldBy (d : Dev) (i : Nat) : List EgPkt :=
  if !d.flag F.SHP_CTRL_EN || d.shaperOpen (some i) then []
  else (List.range 16).flatMap fun p => (d.azPort p).queue.filter fun (e : EgPkt) => e.own && e.fresh && (e.flow == some i || e.agg == some i)

/-- SHP_HELD_LONG (R429): a shaper holds a packet for more than 2^20 beats; at most once per 2^20 beats. -/
def execShpHeldLong (i : Nat) (s : State) : Out :=
  s.onDev fun d =>
    if decide (i < 4096) && (d.heldBy i).any (fun (e : EgPkt) => decide (e.since + 2 ^ 20 < d.now)) && rateOk (d.shaper i).heldEvt d.now then
      (d.setShaper i { d.shaper i with heldEvt := some d.now }).raise E.SHP_HELD_LONG 0 0 i
    else d

end Sys2Proof.Machine
end

