-- ==== Sys2Proof/Machine/FabRecv.lean ====
section
/-!
DEFINITION. Machine/FabRecv.lean: packets as they arrive: forwarding and ageing (R372, R373), the stream check (R374, R377), deferral
(R391, R418, R434), acceptance and responses (R378 to R382) (spec/13_azrun_memory_fabric.md), and the messages a MSG completes that have
no row of their own.
-/

namespace Sys2Proof.Machine

/-! ## The stream at its receiver (R374, R377) -/

/-- What the stream check says of a packet. -/
inductive Offer where
  | accept | duplicate | refuse (k : NakKind)
  deriving DecidableEq, Repr

/-- A receive context, and changing it. -/
def Dev.recv? (d : Dev) (k : Nat) : Option RecvStream := Tbl.at? d.fab.recvs k
def Dev.setRecv (d : Dev) (k : Nat) (r : RecvStream) : Dev := { d with fab.recvs := Tbl.put d.fab.recvs k r }

/-- Room for a receive context (R377): the least recently used one that has received nothing for 2^18 beats is retired. -/
def Dev.recvRoom (d : Dev) : Option Dev :=
  if d.fab.recvs.length < 65536 then some d
  else
    let old := d.fab.recvs.filter fun (x : Nat × RecvStream) => decide (x.2.used + 2 ^ 18 ≤ d.now)
    (sortBy (fun (a b : Nat × RecvStream) => decide (a.2.used < b.2.used)) old).head?.map fun x => { d with fab.recvs := Tbl.del d.fab.recvs x.1 }

/-- The stream check (R374): SYNC sets e first. -/
def Dev.streamCheck (d : Dev) (p : Packet) : Offer × Dev :=
  let k := streamKey p.src p.cls
  match d.recv? k with
  | some r =>
    let e := if p.sync then p.ssn else r.e
    let d := d.setRecv k { r with e := e, used := d.now }
    let behind := (e + 2 ^ 32 - p.ssn) % 2 ^ 32
    (if behind = 0 then .accept else if behind < 2 ^ 31 then .duplicate else .refuse (.expected e), d)
  | none =>
    if !p.sync then (.refuse .unknown, d)
    else match d.recvRoom with
      | some d => (.accept, d.setRecv k { e := p.ssn, used := d.now })
      | none => (.refuse .full, d)

/-- Sending a NAK, at most once per 64 beats per stream (R374, R377). -/
def Dev.sendNak (d : Dev) (p : Packet) (k : NakKind) : Dev :=
  let key := streamKey p.src p.cls
  if (match Tbl.at? d.fab.naks key with | some t => decide (d.now < t + 64) | none => false) then d
  else
    let d := ({ d with fab.naks := Tbl.put d.fab.naks key d.now }).sendCtl p.src (.nak d.me p.src p.cls k)
    if k == .full then d.count F.AZF_CTX_CNT_NAK_FULL else d

/-- Sending the cumulative ACK of e - 1 (R374), with the status of each kept operation that failed. -/
def Dev.sendAckOf (d : Dev) (src cls : Nat) : Dev :=
  match d.recv? (streamKey src cls) with
  | none => d
  | some r =>
    let fails := (r.rsps.filter fun (x : Nat × Packet) => x.2.op == 0 && x.2.status != 0).map fun (x : Nat × Packet) => (x.1, x.2.status)
    d.sendCtl src (.ack d.me src cls ((r.e + 2 ^ 32 - 1) % 2 ^ 32) fails)

/-- A duplicate (R374): counted, acknowledged again, and for a load or atomic answered from the store. -/
def Dev.takeDuplicate (d : Dev) (p : Packet) : Dev :=
  let d := (d.count F.AZF_STREAM_CNT_DUP).sendAckOf p.src p.cls
  if p.op = 1 || p.op = 4 || p.op = 5 then
    match (d.recv? (streamKey p.src p.cls)).bind fun (r : RecvStream) => r.rsps.find? (fun (x : Nat × Packet) => x.1 == p.ssn) with
    | some x => d.egress x.2
    | none => d
  else d

/-- Keeping the failure of an operation whose ACK reports it. -/
def Dev.keepFail (d : Dev) (p : Packet) (status : Nat) : Dev :=
  if status = 0 then d
  else match d.recv? (streamKey p.src p.cls) with
    | none => d
    | some r =>
      let l := r.rsps ++ [(p.ssn, { op := 0, src := d.me, dst := p.src, status := status })]
      d.setRecv (streamKey p.src p.cls) { r with rsps := l.drop (l.length - 256) }

/-! ## Acceptance (R378 to R382) -/

/-- Answering an operation that has been applied or refused: by its response, or by the ACK that covers it. -/
def Dev.answered (d : Dev) (p : Packet) (a : OpAns) : Dev :=
  if p.op = 1 || p.op = 4 || p.op = 5 then d.answerOp p a else d.keepFail p a.status

/-- A packet of a coded unit (R379): once the run is complete the unit is expanded and lands; a failing one lands poisoned (R132). -/
def Dev.takeCoded (d : Dev) (p : Packet) : Dev × OpAns :=
  let key := (p.src * 8 + p.cls, p.addr)
  let old := d.fab.coded.find? fun (x : (Nat × Nat) × Nat × Bytes × Bool) => x.1 == key
  let data := (match old with | some x => x.2.2.1 | none => []) ++ p.body
  let bad := p.poison || (match old with | some x => x.2.2.2 | none => false)
  let rest := d.fab.coded.filter fun (x : (Nat × Nat) × Nat × Bytes × Bool) => x.1 != key
  let h := readHdr (data.take 16)
  if data.length < 16 || data.length < 16 + h.coded then
    match d.fabKey p with
    | .inl c => ({ d with fab.coded := rest }.count F.AZF_PROT_CNT_REFUSED, { status := c })
    | .inr _ => ({ d with fab.coded := rest ++ [(key, d.now, data, bad)] }, {})
  else
    let d := { d with fab.coded := rest }
    let expect := min 4096 h.decl
    match d.fabKey p with
    | .inl c => (d.count F.AZF_PROT_CNT_REFUSED, { status := c })
    | .inr k =>
      let r := expandBlock d.cmp (data.take 16) (data.drop 16) expect
      let out := r.1 ++ List.replicate (expect - r.1.length) 0
      let d := match r.2 with
        | some c => d.blockFault c h.table
        | none => d
      ((d.storeP k out (bad || r.2.isSome)).touchKey k out.length true, {})

/-- Accepting a memory operation of another device (R380 to R382). -/
def Dev.takeOp (d : Dev) (p : Packet) : Dev :=
  let hdr : RoleHdr := { src := p.src, epoch := p.epoch, roleEpoch := 0, paddock := some p.paddock }
  if p.paddock != 0 && d.verdict hdr true == .nackEpoch then
    let d := if d.missed hdr then d.raise E.MAP_MISSED else d
    d.answered p { status := C.NACK_EPOCH }
  else if p.op = 0x11 && !p.rsv && p.len != 0 then
    let r := d.takeCoded p
    r.1.answered p r.2
  else match d.homeTake p none with
    | (d, some a) => d.answered p a
    | (d, none) => d

/-- The response of an operation this device issued (R381): the operation of that stream and SSN completes. -/
def Dev.takeResponse (d : Dev) (p : Packet) : Dev :=
  match d.fab.ops.find? (fun (o : OutOp) => o.first.isSome && o.p.dst == p.src && o.p.cls == p.cls && o.p.ssn == p.re && o.p.op + 0x80 == p.op) with
  | some o => d.completeOp o.ref p.status p.body p.poison
  | none => d

/-- A home's request that an executing member park an entry (R223): the page goes from this device's heap to the holder. -/
def Dev.parkAsked (d : Dev) (h : RoleHdr) (stall page shard holder paddock holderEpoch model pageLog2 shards kvEnd fill : Nat) (cmp : Bool)
    (crc : Nat) : Dev :=
  match d.workAt (stallKey h.src stall) page shard .page with
  | none => d
  | some x =>
    let seq := Tbl.rd (fun _ => 0) d.pan.parkSeq holder
    let body := d.load (d.hbmKey x.1 x.2.base) x.2.size
    let hdr := panHeader 2 0 1 pageLog2 stall h.src d.me d.comp.cur.epoch holderEpoch 0 model shards seq kvEnd (16 + body.length)
    let d := (d.count F.PAN_PARK_CNT_SENT).sendRole .parkPannier holder paddock [] (hdr ++ pageEntry page shard fill cmp crc ++ body)
    { d with pan.parkSeq := Tbl.wr (fun _ => 0) d.pan.parkSeq holder ((seq + 1) % 2 ^ 32) }

/-- The message a MSG completes. Requests of a home follow R31 as state messages; one bounced is asked again by the home's own rules. -/
def Dev.takeMsg (d : Dev) (p : Packet) (m : FabMsg) : Dev :=
  match m with
  | .fragment => d
  | .qp => d.qpArrive p
  | .spillAsk h home stall page shard =>
    if d.verdict h true == .process then
      match d.heldAt home stall page shard with
      | some r => (d.startSpill r).getD d
      | none => d
    else d
  | .parkAsk h stall page shard holder paddock holderEpoch model pageLog2 shards kvEnd fill cmp crc =>
    if d.verdict h true == .process then d.parkAsked h stall page shard holder paddock holderEpoch model pageLog2 shards kvEnd fill cmp crc else d
  | .mirrorTokens stall toks =>
    match d.stall? stall with
    | some x =>
      if x.r.state == .intake && !x.spliced && p.src == partnerOf d.me then
        let d := d.putStall stall { x with query := none, found := [], passages := toks, spliced := true }
        match x.mirrorToks with
        | some given => d.intakeEnded stall given
        | none => d
      else d
    | none => d
  | .mirrorIntake stall items => if p.src == partnerOf d.me then d.mirrorIn stall items else d
  | .mirrorGiven stall samp toks => if p.src == partnerOf d.me then d.mirrorTokensIn stall samp toks else d
  | .mirrorAnswer stall ok => if p.src == partnerOf d.me then d.mirrorAnswered stall ok else d
  | .delivered stall n final => if p.src == partnerOf d.me then d.noticed stall n final else d

/-- Taking an accepted packet (R374, R382): e rises, the packet is acted on, and an ACK follows. -/
def Dev.takePacket (d : Dev) (p : Packet) (m : FabMsg) : Dev :=
  let k := streamKey p.src p.cls
  let d := match d.recv? k with
    | some r => d.setRecv k { r with e := (p.ssn + 1) % 2 ^ 32, used := d.now }
    | none => d
  let d := if p.op = 0x20 then (if p.rsv then d.count F.AZF_PROT_CNT_REFUSED else d.takeMsg p m)
    else if 0x80 ≤ p.op then d.takeResponse p
    else d.takeOp p
  d.sendAckOf p.src p.cls

/-! ## Deferral (R31 row 1, R391, R418, R434) -/

/-- Whether a packet the stream accepts has to wait for something but a policer: the next map, a record, or the miss buffer. -/
def Dev.mustWait (d : Dev) (p : Packet) (m : FabMsg) : Bool :=
  if p.op = 0x20 then m == .qp && d.qpBlocked p
  else if 0x80 ≤ p.op then false
  else (p.paddock != 0 && d.verdict { src := p.src, epoch := p.epoch, roleEpoch := 0, paddock := some p.paddock } true == .hold)
    || (d.ordered p && !d.roundClosed p && !d.canHold p)

/-- A member counted done as lost in an open round: its packets are discarded (R389). -/
def Dev.fromLost (d : Dev) (p : Packet) : Bool :=
  d.ordered p && match d.round? p.paddock p.issue with
    | some r => r.lost.contains (d.placeDev p.src)
    | none => false

/-- What becomes of a packet offered at its port: taken, or kept waiting (with the policers that deferred it). -/
def Dev.offer (d : Dev) (w : InPkt) : Dev × Option InPkt :=
  let p := w.p
  match d.streamCheck p with
  | (.duplicate, d) => (d.takeDuplicate p, none)
  | (.refuse k, d) => (d.sendNak p k, none)
  | (.accept, d) =>
    if d.fromLost p then (d, none)
    else if d.mustWait p w.m then (if w.m == .qp then d.missPause (some p.cls) else d, some w)
    else
      let pols := w.pol.getD (d.policersOf p (w.m == .qp))
      if !d.flag F.SHP_CTRL_EN then (d.takePacket p w.m, none)
      else match d.police p 0 pols with
        | none => (d, some { w with pol := some pols })
        | some d => (d.takePacket p w.m, none)

/-- Whether a waiting packet holds back another: a packet of its own stream, or of its class where a policer deferred it. -/
def InPkt.before (a b : InPkt) : Bool :=
  a.p.cls == b.p.cls && (a.p.src == b.p.src || a.pol.isSome)

/-- Offering a port's waiting packets again, in order; `done`: those that go on waiting. -/
def Dev.offerAll (d : Dev) : List InPkt → List InPkt → Dev × List InPkt
  | done, [] => (d, done)
  | done, w :: t =>
    if done.any (·.before w) then d.offerAll (done ++ [w]) t
    else match d.offer w with
      | (d, none) => d.offerAll done t
      | (d, some w) => d.offerAll (done ++ [w]) t
def Dev.pumpPort (d : Dev) (port : Nat) : Dev :=
  let l := (d.azPort port).ingress
  if l.isEmpty then d
  else
    let (d, l) := d.offerAll [] l
    d.onAzPort port fun q => { q with ingress := l }
def Dev.pumpIngress (d : Dev) : Dev := (List.range 16).foldl (fun d i => d.pumpPort i) d

/-- The occupancy of a class in a port's ingress, in bytes (R371). -/
def Port.occupancy (q : Port) (cls : Nat) : Nat :=
  (q.ingress.filter fun (w : InPkt) => w.p.cls == cls).foldl (fun n (w : InPkt) => n + 48 + w.p.body.length) 0

/-- Forwarding a packet (R373): with 6 hops made it is discarded; without a port it waits for one. -/
def Dev.forward (d : Dev) (p : Packet) : Dev :=
  if 6 ≤ p.hops then (d.count F.AZF_ORDER_CNT_AGED).raise E.FAB_AGED 0 0 p.dst
  else
    let e : EgPkt := { p := { p with hops := p.hops + 1 }, since := d.now }
    match d.routePort p.dst with
    | some i => d.onAzPort i fun q => { q with queue := q.queue ++ [e] }
    | none => { d with fab.noPort := d.fab.noPort ++ [e] }

/-- A packet arrives at a port: not for this device, it goes on; a copy of one that waits is a duplicate (R438); behind packets that hold it back
it waits; otherwise it is offered. -/
def Dev.arrive (d : Dev) (port : Nat) (p : Packet) (m : FabMsg) : Dev :=
  if !(d.azPort port).up then d
  else if p.dst != d.me then d.forward p
  else if (List.range 16).any (fun i => (d.azPort i).ingress.any fun (w : InPkt) => w.p.src == p.src && w.p.cls == p.cls && w.p.ssn == p.ssn) then
    (d.count F.AZF_STREAM_CNT_DUP).sendAckOf p.src p.cls
  else
    let w : InPkt := { p := p, m := m, since := d.now }
    if (d.azPort port).ingress.any (·.before w) then d.onAzPort port fun q => { q with ingress := q.ingress ++ [w] }
    else match d.offer w with
      | (d, none) => d
      | (d, some w) => d.onAzPort port fun q => { q with ingress := q.ingress ++ [w] }

/-- A row takes only packets of its own OP. -/
def State.packet (s : State) (port : Nat) (p : Packet) (op : Nat) (m : FabMsg) : Out :=
  s.onDev fun d => if port < 16 && p.op = op && p.cls < 8 then d.arrive port p m else d

/-- The fabric's operations, arriving (R378). -/
def execLoad (port : Nat) (p : Packet) (s : State) : Out := s.packet port p 0x01 .fragment
def execStore (port : Nat) (p : Packet) (s : State) : Out := s.packet port p 0x02 .fragment
def execAdd (port : Nat) (p : Packet) (s : State) : Out := s.packet port p 0x03 .fragment
def execFetchAdd (port : Nat) (p : Packet) (s : State) : Out := s.packet port p 0x04 .fragment
def execCas (port : Nat) (p : Packet) (s : State) : Out := s.packet port p 0x05 .fragment
def execFadd (port : Nat) (p : Packet) (s : State) : Out := s.packet port p 0x06 .fragment
def execCopyWrite (port : Nat) (p : Packet) (s : State) : Out := s.packet port p 0x10 .fragment
def execCopyWriteCoded (port : Nat) (p : Packet) (s : State) : Out := s.packet port p 0x11 .fragment
def execMsg (port : Nat) (p : Packet) (m : FabMsg) (s : State) : Out := s.packet port p 0x20 m

/-- Responses (R381). -/
def execLoadRsp (port : Nat) (p : Packet) (s : State) : Out := s.packet port p 0x81 .fragment
def execAddRsp (port : Nat) (p : Packet) (s : State) : Out := s.packet port p 0x84 .fragment
def execCasRsp (port : Nat) (p : Packet) (s : State) : Out := s.packet port p 0x85 .fragment

/-- Queue-pair packets (R412): requests, and responses by QOP. -/
def State.qpPacketAt (s : State) (port : Nat) (p : Packet) (ok : Nat → Bool) : Out :=
  s.onDev fun d => if port < 16 && p.op = 0x20 && p.cls < 8 && ok (field p.body 0 1) then d.arrive port p .qp else d
def execQpRequestPacket (port : Nat) (p : Packet) (s : State) : Out := s.qpPacketAt port p fun q => decide (1 ≤ q) && decide (q ≤ 6)
def execQpAck (port : Nat) (p : Packet) (s : State) : Out := s.qpPacketAt port p (· == 0x40)
def execQpNak (port : Nat) (p : Packet) (s : State) : Out := s.qpPacketAt port p (· == 0x41)
def execReadRsp (port : Nat) (p : Packet) (s : State) : Out := s.qpPacketAt port p (· == 0x42)
def execAtomicRsp (port : Nat) (p : Packet) (s : State) : Out := s.qpPacketAt port p (· == 0x43)

/-- POLICER_METER (R434): the packets that wait on a port are metered again and taken in order. -/
def execPolicerMeter (port cls : Nat) (s : State) : Out :=
  s.onDev fun d => if port < 16 && (d.azPort port).ingress.any (fun (w : InPkt) => w.p.cls == cls) then d.pumpPort port else d

/-- PACKET_FORWARD (R373). -/
def execPacketForward (port : Nat) (p : Packet) (s : State) : Out :=
  s.onDev fun d => if port < 16 && (d.azPort port).up && p.dst != d.me then d.forward p else d

/-- PACKET_AGED (R372): every packet that has waited 40,000 beats in this device is discarded, counted and reported; one that has not left
its source is not aged (R430). -/
def execPacketAged (s : State) : Out :=
  s.onDev fun d =>
    let old := fun (t : Nat) => decide (t + 40000 ≤ d.now)
    let eg := fun (e : EgPkt) => old e.since && !(e.own && e.fresh)
    let ports := List.range 16
    let n := (ports.foldl (fun n i => n + ((d.azPort i).queue.filter eg).length + ((d.azPort i).ingress.filter fun (w : InPkt) => old w.since).length) 0)
      + (d.fab.noPort.filter eg).length
    let d := ports.foldl (fun d i => d.onAzPort i fun q =>
      { q with queue := q.queue.filter (fun (e : EgPkt) => !eg e), ingress := q.ingress.filter fun (w : InPkt) => !old w.since }) d
    let d := { d with fab.noPort := d.fab.noPort.filter fun (e : EgPkt) => !eg e }
    if n = 0 then d else ((d.count F.AZF_ORDER_CNT_AGED n).raise E.FAB_AGED).pumpIngress

/-! ## What frees room for waiting packets -/

/-- ROUND_CLOSE (R388, R389). -/
def execRoundClose (paddock issue : Nat) (s : State) : Out := s.onDev fun d => (d.closeRound paddock issue).pumpIngress

/-- CONTEXT_FETCH_COMPLETE and CONTEXT_FETCH_TIMEOUT (R402, R417, R418). -/
def execContextFetchComplete (qpn : Nat) (ok : Bool) (s : State) : Out := s.onDev fun d => (d.contextFetched qpn ok).pumpIngress
def execContextFetchTimeout (qpn : Nat) (s : State) : Out := s.onDev fun d => (d.contextTimedOut qpn).pumpIngress

end Sys2Proof.Machine
end

