-- ==== Sys2Proof/Machine/FabCore.lean ====
section
/-!
DEFINITION. Machine/FabCore.lean: what cores ask of the fabric (R378 to R382, R392, R394, R107), streams at their sender as they are
acknowledged and time out (R375 to R377), dead targets (R396 to R398), and the fabric's commands (spec/13_azrun_memory_fabric.md).
-/

namespace Sys2Proof.Machine

/-! ## Operations of a core -/

/-- An operation's parts: OP, address, device named, key, counter, width, result offset, payload, and the flags POISON, ARRIVAL, RELEASE. -/
structure OpReq where
  op : Nat
  addr : Nat
  dst : Option Nat
  rkey : Nat
  ctr : Nat
  len : Nat
  result : Nat := 0
  body : Bytes := []
  poison : Bool := false
  arrival : Bool := false
  release : Bool := false
  deriving DecidableEq, Repr

/-- The parts of an operation (none of a wait). -/
def opReq : RemoteOp → Option OpReq
  | .load a dst k c n r => some { op := 1, addr := a, dst := dst, rkey := k, ctr := c, len := n, result := r }
  | .store a dst k c b p ar rel => some { op := 2, addr := a, dst := dst, rkey := k, ctr := c, len := b.length, body := b, poison := p, arrival := ar, release := rel }
  | .add a dst k c w v => some { op := 3, addr := a, dst := dst, rkey := k, ctr := c, len := w, body := leBytes w v }
  | .fetchAdd a dst k c w v r => some { op := 4, addr := a, dst := dst, rkey := k, ctr := c, len := w, result := r, body := leBytes w v }
  | .cas a dst k c w x y r => some { op := 5, addr := a, dst := dst, rkey := k, ctr := c, len := w, result := r, body := leBytes w x ++ leBytes w y }
  | .fadd a dst k c v => some { op := 6, addr := a, dst := dst, rkey := k, ctr := c, len := 4, body := leBytes 4 v }
  | .await _ => none

/-- The paddock address an operation travels with: spaces 5 and 6 are this member's own spaces 1 and 2. -/
def Dev.travelAddr (d : Dev) (pad a : Nat) : Nat :=
  let r := (d.rankIn pad).getD 0
  match a / 2 ^ 60 with
  | 5 => 2 ^ 60 + r * 2 ^ 46 + a % 2 ^ 40
  | 6 => 2 * 2 ^ 60 + r * 2 ^ 46 + a % 2 ^ 29
  | _ => a

/-- The job AZF_JOB assigns to a paddock (R385). -/
def Dev.jobOf (d : Dev) (pad : Nat) : Nat :=
  match d.fab.jobs.find? (fun (x : Nat × (Nat × Nat)) => x.2.2 == pad && pad != 0) with
  | some x => x.1
  | none => 0

/-- The packet of a core's operation (R380): ISSUE is its entry's launch beat (R60), ORD its logical core and count. -/
def Dev.opPacket (d : Dev) (o : OpReq) (i : Inv) (core t ords : Nat) : Packet :=
  let l := (d.placeOf core).map (·.2)
  let base : Packet :=
    { op := o.op, cls := d.kindClass (if i.cls < 4 then 0 else 1), release := o.release, arrival := o.arrival, poison := o.poison, src := d.me, dst := d.me
      issue := t, len := o.len, ord := l.getD 0xFFFFFF * 256 + ords % 256, epoch := d.comp.cur.epoch, paddock := i.paddock, body := o.body }
  match o.dst with
  | some x =>
    if d.fld F.AZF_CTRL_PROT_MODE = 1 then { base with dst := d.resolve x, addr := o.addr, job := d.jobOf i.paddock }
    else { base with dst := d.resolve x, addr := o.addr, rkey := o.rkey }
  | none => { base with pform := true, addr := d.travelAddr i.paddock o.addr, dst := d.resolve ((d.remoteOf i o.addr).getD d.me) }

/-- Ending an entry with a code (R392). -/
def Dev.stopEntry (d : Dev) (inv k code : Nat) : Dev :=
  match d.inv? inv with
  | none => d
  | some i =>
    let x := i.ent k
    if x.ended then d
    else
      let d := (d.entryCores inv k).foldl (fun d c => d.clearJob c) d
      (d.endEntry inv k (x.joined { code := some code })).placeAll

/-- The results an operation to a dead destination completes with in poison mode (R397). -/
def poisonData (p : Packet) : Bytes := if p.op = 1 || p.op = 4 || p.op = 5 then List.replicate p.len 0xFF else []

/-- Sending an operation that is registered: a release store waits for the core's earlier ones (R394); to a dead destination it completes with
FAB_POISON at once, or is held (R397, R398). -/
def Dev.startOp (d : Dev) (r : OpRef) (p : Packet) (wait : List Nat) : Dev :=
  if p.dst != d.me && d.isDead p.dst then (if d.tearsDown then d.haltFor p.dst else d.completeOp r C.FAB_POISON (poisonData p) true)
  else if p.release && !wait.isEmpty then { d with fab.releases := d.fab.releases ++ [(r, p, wait, 0)] }
  else
    let d := d.dispatchOp r p
    d.drainLoops (d.fab.loops.length + d.fab.releases.length + 1)

/-- An operation at an address of space 3 or 4, which never travels (R383): done in this device's memory at once. -/
def Dev.localOp (d : Dev) (r : OpRef) (p : Packet) (i : Inv) (a : Nat) : Dev :=
  let mapped := a / 2 ^ 60 != 4 || d.mapped (a % 2 ^ 48) p.len
  match d.localKey i a with
  | some k =>
    if !mapped then d.completeOp r C.MEM_UNMAPPED [] false
    else if p.len = 0 then d.completeOp r 0 [] false
    else
      let x := d.applyOp p k
      x.1.completeOp r 0 x.2.data x.2.poison
  | none => d.completeOp r C.FAB_PROT [] false

/-- A core's operation (R381): replayed from the record of a failed core (R107), stopped by R392 or R394, or registered and sent. -/
def Dev.issueOp (d : Dev) (core : Nat) (o : OpReq) (j : Job) (i : Inv) (img : Bytes) : Dev :=
  let c := d.core core
  let p := d.opPacket o i core (launchBeat i (imgEntry img j.entry)) c.ords
  let ordered := d.ordered p
  let up := fun (c : Core) => ({ c with ords := if ordered then c.ords + 1 else c.ords } : Core)
  let d := d.digest core j (leBytes 1 o.op ++ leBytes 8 o.addr ++ leBytes 2 o.len ++ leBytes 4 p.ord ++ o.body)
  let r : OpRef := { core := core, id := d.fab.nextOp, inv := j.inv, entry := j.entry, ctr := o.ctr % 16, result := o.result, width := o.len }
  match (if o.op = 1 then none else c.replay.head?) with
  | some (id, res) =>
    let d := d.setCore core (up { d.core core with replay := c.replay.tail, issued := c.issued ++ [(id, res)] })
    match res with
    | code :: bad :: data => d.deliverOp { r with id := id } code (data.map fun n => BitVec.ofNat 8 n) (bad == 1)
    | _ => d
  | none =>
    let mine := d.fab.ops.filter fun (x : OutOp) => x.ref.core == core
    let held := d.fab.ops.filter fun (x : OutOp) => x.p.dst == p.dst && (x.p.op == 4 || x.p.op == 5) && d.ordered x.p && decide (p.issue ≤ x.p.issue)
    if ordered && (decide (256 ≤ c.ords) || ((o.op = 4 || o.op = 5) && decide (16 ≤ held.length))) then d.stopEntry j.inv j.entry C.FAB_ORDER_STALL
    else if o.release && !ordered && mine.any (fun (x : OutOp) => x.ref.inv == j.inv && x.ref.entry == j.entry && d.ordered x.p) then
      d.stopEntry j.inv j.entry C.FAB_ORDER_WAIT
    else
      let d := d.setCore core (up { d.core core with issued := if o.op = 1 then c.issued else c.issued ++ [(r.id, [])] })
      let d := { d with fab.nextOp := d.fab.nextOp + 1, fab.ops := d.fab.ops ++ [({ ref := r, p := p } : OutOp)] }
      if o.op = 6 && d.cad.detm then d.completeOp r C.FAB_DETM_FLOAT_ATOMIC [] false
      else if !alignOk p then d.completeOp r C.FAB_ALIGN [] false
      else if o.dst.isNone && (o.addr / 2 ^ 60 == 3 || o.addr / 2 ^ 60 == 4) then d.localOp r p i o.addr
      else d.startOp r p ((mine.filter fun (x : OutOp) => !x.acked).map fun (x : OutOp) => x.ref.id)

/-- CORE_REMOTE_ISSUE (R381, R392): an operation of the entry a core runs; a wait on its own ordered FETCH_ADD or CAS ends the entry. -/
def execCoreRemoteIssue (core : Nat) (o : RemoteOp) (s : State) : Out :=
  s.onDev fun d =>
    let c := d.core core
    match c.state, c.job with
    | .active, some j =>
      match d.inv? j.inv with
      | none => d
      | some i =>
        match d.invImg i, opReq o with
        | some img, some q => d.issueOp core q j i img
        | some _, none =>
          match o with
          | .await ctr =>
            if d.fab.ops.any (fun (x : OutOp) => x.ref.core == core && x.ref.inv == j.inv && x.ref.entry == j.entry && x.ref.ctr == ctr % 16
                && (x.p.op == 4 || x.p.op == 5) && d.ordered x.p) then d.stopEntry j.inv j.entry C.FAB_ORDER_WAIT
            else d
          | _ => d
        | none, _ => d
    | _, _ => d

/-- FENCE (R394): to one device, or to all. -/
def execFence (core : Nat) (dst : Option Nat) (s : State) : Out :=
  s.onDev fun d =>
    if core < 544 && (d.core core).job.isSome then
      let ops := (d.fab.ops.filter fun (x : OutOp) => x.ref.core == core && !x.acked &&
        (match dst with | some t => x.p.dst == d.resolve t | none => true)).map fun (x : OutOp) => x.ref.id
      ({ d with fab.fences := d.fab.fences ++ [({ core := core, ops := ops, code := 0 } : FenceWait)] }).pumpFences
    else d

/-! ## Streams at the sender (R375 to R377) -/

/-- Completing the operations an ACK covers (R381): a STORE, ADD or FADD completes, a FETCH_ADD or CAS counts as acknowledged. -/
def Dev.ackOps (d : Dev) (dst cls ssn : Nat) (fails : List (Nat × Nat)) : Dev :=
  (d.fab.ops.filter fun (o : OutOp) => o.first.isSome && o.p.dst == dst && o.p.cls == cls && ssnLe o.p.ssn ssn).foldl (fun d o =>
    if o.p.op = 1 then d
    else if o.p.op = 4 || o.p.op = 5 then (if o.acked then d else d.acceptedOp o.ref)
    else d.completeOp o.ref (((fails.find? fun (x : Nat × Nat) => x.1 == o.p.ssn).map (·.2)).getD 0) [] false) d

/-- A stream ACK (R375). -/
def Dev.streamAck (d : Dev) (src cls ssn : Nat) (fails : List (Nat × Nat)) : Dev :=
  let k := streamKey src cls
  let s := d.stream k
  if s.state != .opened || !s.out.any (fun (p : Packet) => ssnLe p.ssn ssn) then d
  else
    let out := s.out.filter fun (p : Packet) => !ssnLe p.ssn ssn
    let d := d.setStream k { s with out := out, state := if out.isEmpty then .idle else .opened, progress := d.now, retries := 0 }
    d.ackOps src cls ssn fails

/-- ACK (R375). -/
def execAck (src cls ssn : Nat) (fails : List (Nat × Nat)) (s : State) : Out := s.onDev fun d => d.streamAck src cls ssn fails

/-- The beats of the resend timer (R399). -/
def Dev.streamBeats (d : Dev) : Nat := 2 ^ d.fld F.AZF_STREAM_TIMER_LOG2

/-- A stream NAK (R375, R377). -/
def Dev.streamNak (d : Dev) (src cls : Nat) (kind : NakKind) : Dev :=
  let k := streamKey src cls
  let s := d.stream k
  match kind, s.state with
  | .expected e, .opened => if s.out.isEmpty then d else
      let (ok, d) := d.retried k
      if ok then d.resendFrom k e false else d
  | .unknown, .opened => if s.out.isEmpty then d else d.resendAll k true
  | .full, .opened | .full, .resend =>
    if s.out.isEmpty then d
    else (d.unqueue src cls false).setStream k { s with state := .resend, wait := some (d.now + d.streamBeats) }
  | _, _ => d

/-- NAK (R375). -/
def execNak (src cls : Nat) (kind : NakKind) (s : State) : Out := s.onDev fun d => d.streamNak src cls kind

/-- STREAM_TIMER (R375, R377): no progress for 2^TIMER_LOG2 beats, or the end of a "full" wait, whose resend does not count. -/
def execStreamTimer (dst cls : Nat) (s : State) : Out :=
  s.onDev fun d =>
    let k := streamKey dst cls
    let x := d.stream k
    match x.wait, x.out.head? with
    | some t, some p => if t ≤ d.now then d.resendFrom k p.ssn true else d
    | none, some _ => if x.state == .opened && decide (x.progress + d.streamBeats ≤ d.now) then d.resendAll k false else d
    | _, none => d

/-- STREAM_CONTEXT_RETIRE (R376): a context idle for 2^20 beats. -/
def execStreamContextRetire (device cls : Nat) (sending : Bool) (s : State) : Out :=
  s.onDev fun d =>
    let k := streamKey device cls
    let old := fun (t : Nat) => decide (t + 2 ^ 20 ≤ d.now)
    if sending then
      match Tbl.at? d.fab.sends k with
      | some x => if x.state == .idle && old x.used then ({ d with fab.sends := Tbl.del d.fab.sends k }).retryCtx else d
      | none => d
    else match Tbl.at? d.fab.recvs k with
      | some x => if old x.used then { d with fab.recvs := Tbl.del d.fab.recvs k } else d
      | none => d

/-! ## Dead targets (R396 to R398) -/

/-- DEAD_POISON_TIMER (R397): in poison mode, the operations outstanding to a dead destination complete at the later of their first send +
POISON_BEATS and the beat it became dead. -/
def execDeadPoisonTimer (dst : Nat) (s : State) : Out :=
  s.onDev fun d =>
    if !d.isDead dst || d.tearsDown then d
    else (d.fab.ops.filter fun (o : OutOp) => o.p.dst == dst && dst != d.me &&
        decide ((match o.first with | some t => t + d.fld F.AZF_DEAD_POISON_BEATS | none => 0) ≤ d.now)).foldl (fun d o =>
      d.completeOp o.ref C.FAB_POISON (poisonData o.p) true) d

/-! ## Commands -/

/-- The candidates of a route entry (R483): ports in order of preference, 0xFF for none. -/
def routeEntry (b : Bytes) : List Nat := ((List.range 4).map fun i => field b i 1).filter (· != 0xFF)

/-- AZF_ROUTE (R373, R483). A port above 15, or a destination above 0x7FFF, is refused. -/
def execAzfRoute (c : HostCmd) (s : State) : Out := s.onDev fun d =>
  d.hostCmd { rsvOk := argMask true 0x7FFF 0 0 0, lenOk := fun c => c.hlen % 4 == 0 && decide (c.hlen ≤ 4 * 32768) } c fun d =>
    let first := c.a0 % 2 ^ 15
    let n := c.hlen / 4
    let es := (List.range n).map fun k => routeEntry (slice c.data (4 * k) 4)
    if 32768 < first + n || es.any (fun e => e.any fun (i : Nat) => decide (15 < i)) then (d, .done C.HIF_RESERVED [])
    else
      let routes := es.zipIdx.foldl (fun t (x : List Nat × Nat) => Tbl.wr (fun _ => []) t (first + x.2) x.1) d.fab.routes
      (({ d with fab.routes := routes }).reroute.revive, .ok)

/-- Whether a region entry's reserved fields are zero and its fields in range (R386). -/
def regionEntryOk (b : Bytes) (xlate : Bool) : Bool :=
  decide (field b 0 8 < 2 ^ 50) && decide (bits (field b 0 8) 49 48 < 3) && decide (field b 8 8 ≤ 2 ^ 40) && decide (field b 20 2 < 2 ^ 12)
    && decide (field b 22 1 < 8) && field b 23 1 == 0
    && (if xlate then decide (field b 16 4 < 2 ^ 16) && field b 24 8 % 4096 == 0 else field b 24 8 == 0)

/-- Freeing the frame of 2,048 region entries once none is defined. -/
def Dev.dropRegionFrame (d : Dev) (blk : Nat) : Dev :=
  if d.fab.regions.any (fun (x : Nat × FabRegion) => x.1 / 2048 == blk) then d
  else ({ d with fab.regFrames := Tbl.del d.fab.regFrames blk }).giveFrames ((Tbl.at? d.fab.regFrames blk).getD [])

/-- Defining a fabric region (R386): the entry table takes a pool frame of order 1 per 2,048 entries; a job has at most 256 regions (R385). -/
def Dev.defineFabRegion (d : Dev) (idx : Nat) (b : Bytes) : Dev × CmdRes :=
  let xlate := d.fld F.AZF_CTRL_PROT_MODE == 1
  let r : FabRegion := { base := field b 0 8, size := field b 8 8, key := field b 16 4, tenant := field b 20 2, perm := field b 22 1, jbase := field b 24 8 }
  let of := d.fab.regions.filter fun (x : Nat × FabRegion) => x.2.key == r.key && x.1 != idx
  if !regionEntryOk b xlate || (xlate && decide (256 ≤ of.length)) then (d, .done C.HIF_RESERVED [])
  else
    let put := fun (d : Dev) => { d with fab.regions := Tbl.put d.fab.regions idx r }
    if (Tbl.at? d.fab.regFrames (idx / 2048)).isSome then (put d, .ok)
    else match d.takeFrames 1 1 with
      | some (l, d) => (put { d with fab.regFrames := Tbl.put d.fab.regFrames (idx / 2048) l }, .ok)
      | none => (d, .done C.MEM_REGION_FULL [])

/-- Removing a fabric region. -/
def Dev.removeFabRegion (d : Dev) (idx : Nat) : Dev × CmdRes :=
  (({ d with fab.regions := Tbl.del d.fab.regions idx }).dropRegionFrame (idx / 2048), .ok)

/-- AZF_REGION and AZF_REGION with REMOVE (R386): bit 31 of A0 says which of the two a command is. -/
def azfRegionCmd (d : Dev) (c : HostCmd) : Dev :=
  d.hostCmd { rsvOk := argMask true 0x800FFFFF 0 0 0, lenOk := fun c => c.hlen == if bit c.a0 31 then 0 else 32 } c fun d =>
    if bit c.a0 31 then d.removeFabRegion (c.a0 % 2 ^ 20) else d.defineFabRegion (c.a0 % 2 ^ 20) c.data
def execAzfRegion (c : HostCmd) (s : State) : Out := s.onDev fun d => azfRegionCmd d c
def execAzfRegionRemove (c : HostCmd) (s : State) : Out := s.onDev fun d => azfRegionCmd d c

/-- AZF_JOB and AZF_JOB with REMOVE (R385, R386). -/
def azfJobCmd (d : Dev) (c : HostCmd) : Dev :=
  d.hostCmd (argSpec 0x8FFFFFFF 0xFFFF 0) c fun d =>
    let job := c.a0 % 2 ^ 16
    if bit c.a0 31 then ({ d with fab.jobs := Tbl.del d.fab.jobs job }, .ok)
    else ({ d with fab.jobs := Tbl.put d.fab.jobs job (bits c.a0 27 16, c.a1 % 2 ^ 16) }, .ok)
def execAzfJob (c : HostCmd) (s : State) : Out := s.onDev fun d => azfJobCmd d c
def execAzfJobRemove (c : HostCmd) (s : State) : Out := s.onDev fun d => azfJobCmd d c

/-- The teardown of a job (R398): its held operations complete with FAB_TORN_DOWN, its running entries end with it, its streams to dead
destinations are retired, and its queue pairs to lost devices fail (R415). -/
def Dev.tearDown (d : Dev) (a : Nat) : Dev :=
  let pad := if d.fld F.AZF_CTRL_PROT_MODE = 1 then (match Tbl.at? d.fab.jobs a with | some x => x.2 | none => 0) else a
  let held := d.fab.ops.filter fun (o : OutOp) => o.p.paddock == pad && pad != 0 && o.p.dst != d.me && d.isDead o.p.dst
  let d := held.foldl (fun (d : Dev) (o : OutOp) => d.completeOp o.ref C.FAB_TORN_DOWN [] false) d
  let running := (d.sep.invs.filter fun (x : Nat × Inv) => x.2.paddock == pad && pad != 0).flatMap fun (x : Nat × Inv) =>
    (x.2.ents.filter fun (e : Nat × EntState) => e.2.launched && !e.2.ended).map fun (e : Nat × EntState) => (x.1, e.1)
  let d := running.foldl (fun d x => d.stopEntry x.1 x.2 C.FAB_TORN_DOWN) d
  let dsts := held.map fun (o : OutOp) => o.p.dst
  let d := { d with fab.sends := d.fab.sends.filter fun (x : Nat × SendStream) => !(x.2.state == StreamState.dead && dsts.contains (x.1 / 8)) }
  let qps := d.qpx.qps.filter fun (x : Nat × Qp) => x.2.state == QpState.ready && d.isLost x.2.remote &&
    (match Tbl.at? d.qpx.pds x.2.pd with | some p => p.job == a | none => false)
  let d := qps.foldl (fun (d : Dev) (x : Nat × Qp) => d.qpFail x.1 C.FAB_TORN_DOWN) d
  d.retryCtx

/-- AZF_TEARDOWN (R398). -/
def execAzfTeardown (c : HostCmd) (s : State) : Out := s.onDev fun d =>
  d.hostCmd (argSpec 0xFFFF 0 0) c fun d => (d.tearDown (c.a0 % 2 ^ 16), .ok)

end Sys2Proof.Machine
end

