-- ==== Sys2Proof/Machine/Search.lean ====
section
/-!
DEFINITION. Machine/Search.lean: shards attached and detached, queries at issuer and owner, mutations and the groom's sweep
(spec/10_retrieval.md R272 to R303).
-/

namespace Sys2Proof.Machine

/-- A shard attached here, and changing it. -/
def Dev.shard? (d : Dev) (index shard : Nat) : Option ShardRec := Tbl.at? d.srch.shards (shardKey index shard)
def Dev.putShard (d : Dev) (index shard : Nat) (s : ShardRec) : Dev :=
  { d with srch.shards := Tbl.put d.srch.shards (shardKey index shard) s }

/-! ## SRCH_ATTACH (R275 to R278) -/

/-- The fields of a header are in range, its reserved fields zero and its CRC right (R275, R278). -/
def shardHdrOk (h : Bytes) : Bool :=
  let n := field h 19 1
  let prod := shProduct h
  h.length == 128 && field h 0 4 == 0x53485244 && decide (field h 5 1 < 8) && decide (1 ≤ shCap h) && decide (shCap h ≤ 0xFFFFFFFE)
  && (if prod then decide (1 ≤ shParam h) && decide (shParam h ≤ 64) && shDim h % shParam h == 0
      else decide (64 ≤ shParam h) && decide (shParam h ≤ 2048) && shParam h % 64 == 0)
  && decide (32 ≤ shDim h) && decide (shDim h ≤ 4096) && shDim h % 32 == 0 && [16, 32, 48, 64].contains (shDegree h)
  && decide (field h 17 1 < 2) && decide (field h 18 1 < 2) && decide (1 ≤ n) && decide (n ≤ 4)
  && decide (16 ≤ field h 20 2) && decide (field h 20 2 ≤ 512) && decide (field h 22 2 < 2 ^ 12)
  && crc32c (h.take 24 ++ [0, 0, 0, 0] ++ h.drop 28) == field h 24 4 && field h 28 4 == 0 && allZero (slice h 104 24)
  && ((List.range 4).all fun i => let e := field h (32 + 4 * i) 4; if n ≤ i then e == noSlot else e == noSlot || decide (e < shCap h) || bit (field h 5 1) 1)
  && (prod || (field h 80 8 == 0 && field h 88 8 == 0))

/-- The ranges of a shard (R276): those that must be pinned to HBM, then the vectors. -/
def shardRanges (h : Bytes) : List (Nat × Nat) :=
  let c := shCap h
  [(field h 48 8, shCB h * c), (field h 56 8, shRB h * c), (field h 64 8, 32 * c), (field h 72 8, 32 * shFB h)]
  ++ (if shProduct h then [(field h 80 8, 1024 * shDim h), (field h 88 8, shParam h * 131072)] else [])
  ++ [(field h 96 8, shVB h * c)]

/-- No two ranges of a list meet. -/
def rangesApart : List (Nat × Nat) → Bool
  | [] => true
  | a :: t => t.all (fun b => !(decide (a.1 < b.1 + b.2) && decide (b.1 < a.1 + a.2))) && rangesApart t

/-- Writing the centroid-pair table (R276). -/
def Dev.writePairs (d : Dev) (h : Bytes) : Dev :=
  if !shProduct h then d
  else (List.range (shParam h)).foldl (fun d m => (List.range 256).foldl (fun d a =>
    d.storeP (memKey 4 (field h 88 8 + 2 * (65536 * m + 256 * a)))
      ((List.range 256).flatMap fun b => leBytes 2 (toF16 (vecDist (shInner h) (d.centroid h m a) (d.centroid h m b)))) false) d) d

/-- Initialising a shard empty (R278): every slot free, every row all-ones, every filter bit 0. -/
def Dev.initShard (d : Dev) (h : Bytes) : Dev :=
  let fill := fun (d : Dev) (a n : Nat) (cells : List (Nat × Byte)) => (d.fillRange (memKey 4 a) n cells).cleanLines (memKey 4 a) n
  let d := fill d (field h 64 8) (32 * shCap h) []
  let d := fill d (field h 72 8) (32 * shFB h) []
  fill d (field h 56 8) (shRB h * shCap h) ((List.range (shRB h * shCap h)).map fun o => (o, 0xFF))

/-- Adopting a shard's memory (R278): a slot found in `filling` or `linking` becomes `tomb`. -/
def Dev.adoptShard (d : Dev) (h : Bytes) : Dev :=
  (List.range (shCap h)).foldl (fun d i =>
    let st := d.slotState h i
    if st = 1 || st = 2 then d.setAttr h i (attrState ((d.attr h i).take 4 ++ leBytes 4 0 ++ (d.attr h i).drop 8) 4) else d) d

/-- SRCH_ATTACH (R272, R278). -/
def execSrchAttach (c : HostCmd) (s : State) : Out :=
  s.onDev fun d => d.hostCmd (recSpec 128 0 0) c fun d =>
    let h := c.data
    let pins := (shardRanges h).dropLast
    if !d.flag F.SRCH_CTRL_EN then (d, .done C.SRCH_NO_SHARD [])
    else if d.comp.role != 3 then (d, .done C.SRCH_ROLE [])
    else if !shardHdrOk h || !pins.all (fun r => d.pinnedHbm r.1 r.2) || !rangesApart (shardRanges h) then (d, .done C.SRCH_SHARD_BAD [])
    else if (d.shard? (field h 4 1) (field h 6 2)).isSome || decide (64 ≤ d.srch.shards.length) then (d, .done C.SRCH_SHARD_BUSY [])
    else
      let fresh := bit (field h 5 1) 1
      let d := if fresh then d.initShard h else d.adoptShard h
      let ents := if fresh then [] else ((List.range (field h 19 1)).map fun i => field h (32 + 4 * i) 4).filter (· != noSlot)
      ((d.writePairs h).putShard (field h 4 1) (field h 6 2) { hdr := h, entries := ents }, .ok)

/-! ## Walks at the owner (R282 to R290) -/

/-- The shard a walk is of. -/
def WalkWork.shard : WalkWork → Nat
  | .query q => shardKey q.index q.shard
  | .insert i s .. => shardKey i s

/-- Whether walks or mutations of a shard are in flight, or a checkpoint of it runs (R475). -/
def Dev.shardBusy (d : Dev) (key : Nat) : Bool :=
  d.srch.waiting.any (fun w => w.2.shard == key) || d.srch.contexts.any (fun w => w.2.shard == key)
    || d.hlt.ckpts.any fun (x : Nat × CmdRef × Nat × Option Nat) => x.2.2.2 == some key

/-- Completing the detaches whose last walk has ended (R274). The shard's memory is left as it stands. -/
def Dev.finishDetach (d : Dev) : Dev :=
  d.srch.shards.foldl (fun d x =>
    match x.2.detaching with
    | some c => if d.shardBusy x.1 then d else ({ d with srch.shards := Tbl.del d.srch.shards x.1 }).completeCmd c C.OK []
    | none => d) d

/-- SRCH_DETACH (R274). -/
def execSrchDetach (c : HostCmd) (s : State) : Out :=
  s.onDev fun d => d.hostCmd (argSpec 0xFFFFFF 0 0) c fun d =>
    let i := bits c.a0 7 0
    let n := bits c.a0 23 8
    match d.shard? i n with
    | none => (d, .done C.SRCH_NO_SHARD [])
    | some x =>
      if x.detaching.isSome then (d, .done C.SRCH_NO_SHARD [])
      else ((d.putShard i n { x with detaching := some (cmdRef c) }).finishDetach, .wait)

/-- SRCH_DIR (R273, R483): each entry replaces the entry of the same shard; OWNER 0xFFFF removes it. Reserved bytes, and a directory beyond
16,384 entries, are refused as a reserved-field violation (DESIGN CHOICE, log entry 32). -/
def execSrchDir (c : HostCmd) (s : State) : Out :=
  s.onDev fun d => d.hostCmd { rsvOk := argMask true 0 0 0 0, lenOk := fun c => c.hlen % 8 == 0 && decide (c.hlen ≤ 8 * 16384) } c fun d =>
    let es := chunks 8 16384 c.data
    let dir := es.foldl (fun t e =>
      let k := shardKey (field e 0 1) (field e 2 2)
      if field e 4 2 = 0xFFFF then Tbl.del t k else Tbl.put t k (field e 4 2, field e 6 2)) d.srch.dir
    if es.any (fun e => field e 1 1 != 0) || decide (16384 < dir.length) then (d, .done C.HIF_RESERVED [])
    else ({ d with srch.dir := dir }, .ok)

/-- Answering a shard query. -/
def Dev.sendShardAnswer (d : Dev) (q : ShardQuery) (a : ShardAns) : Dev :=
  d.send .shardAnswer q.h.src ([q.qid, q.shard, a.status, a.tieOut, a.scored, a.expanded] ++ a.entries.flatMap fun e => [e.1, e.2])

/-- The first failing check of a shard query at its owner (R289 rows 4 to 7). -/
def Dev.shardCheck (d : Dev) (q : ShardQuery) : Option Nat :=
  match (if d.flag F.SRCH_CTRL_EN then d.shard? q.index q.shard else none) with
  | none => some C.SRCH_NO_SHARD
  | some x =>
    let h := x.hdr
    let f := fun (b : Nat) => b == 0xFF || decide (b < 32)
    if x.detaching.isSome then some C.SRCH_NO_SHARD
    else if !bit (field h 5 1) 2 && field h 22 2 != q.tenant then some C.SRCH_TENANT
    else if q.dim != shDim h || q.code.isEmpty != shProduct h || !f q.filtA || !f q.filtB then some C.SRCH_DESC_BAD
    else if decide (4096 ≤ d.srch.waiting.length) then some C.SRCH_BUSY
    else none

/-- A shard query that has passed R31. -/
def Dev.queryArrived (d : Dev) (q : ShardQuery) : Dev :=
  match d.shardCheck q with
  | some st =>
    let d := if st = C.SRCH_BUSY then d.setFld F.SRCH_EVT_BUSY 1 else d
    d.sendShardAnswer q { status := st }
  | none => { d with srch.nextId := d.srch.nextId + 1, srch.waiting := d.srch.waiting ++ [(d.srch.nextId, .query q)] }

/-- SHARD_QUERY (R31, R289). -/
def execShardQuery (q : ShardQuery) (s : State) : Out :=
  s.onDev fun d => d.receive q.h false 12 (.query q) fun d => d.queryArrived q

/-- Table space of a walk in 512-byte units (R279, R280). -/
def Dev.walkUnits (d : Dev) (w : WalkWork) : Nat :=
  match Tbl.at? d.srch.shards w.shard with
  | some s => if shProduct s.hdr then shParam s.hdr else 0
  | none => 0
def Dev.poolUsed (d : Dev) : Nat := d.srch.contexts.foldl (fun n w => n + d.walkUnits w.2) 0

/-- Whether work is a shard query (admitted before insert walks, R282). -/
def WalkWork.isQuery : WalkWork → Bool
  | .query _ => true
  | _ => false

/-- WALK_ADMIT (R280, R282): a free context and table space go to the query that has waited longest, else to the insert. -/
def execWalkAdmit (s : State) : Out :=
  s.onDev fun d =>
    let next := match d.srch.waiting.find? (·.2.isQuery) with | some w => some w | none => d.srch.waiting.head?
    match next with
    | none => d
    | some w =>
      if decide (16384 ≤ d.srch.contexts.length) || decide (2 ^ 18 < d.poolUsed + d.walkUnits w.2) then d
      else { d with srch.waiting := d.srch.waiting.filter (fun x => x.1 != w.1), srch.contexts := Tbl.put d.srch.contexts w.1 w.2 }

/-- Raising SRCH_POISON for the poisoned nodes of a walk (R287). -/
def Dev.srchPoison (d : Dev) (n shard : Nat) : Dev := (List.range n).foldl (fun d _ => d.raise E.SRCH_POISON 0 0 shard) d

/-- WALK_END (R284, R285, R287): the walk of a shard query. The model reads the shard's contents as they stand when the walk ends. -/
def execWalkEnd (walk : Nat) (s : State) : Out :=
  s.onDev fun d =>
    match Tbl.at? d.srch.contexts walk with
    | some (.query q) =>
      let d := { d with srch.contexts := Tbl.del d.srch.contexts walk }
      match d.shard? q.index q.shard with
      | none => (d.sendShardAnswer q { status := C.SRCH_NO_SHARD }).finishDetach
      | some x =>
        let (a, bad) := d.shardAnswer x q
        (((d.srchPoison bad (shardKey q.index q.shard)).sendShardAnswer q a)).finishDetach
    | _ => d

/-- OWNER_CONTEXT_EXPIRY (R290): a context, or a place in the queue, whose query has passed its timeout is freed without an answer. -/
def execOwnerContextExpiry (walk : Nat) (s : State) : Out :=
  s.onDev fun d =>
    let work := match Tbl.at? d.srch.contexts walk with
      | some w => some w
      | none => (d.srch.waiting.find? (fun (x : Nat × WalkWork) => x.1 == walk)).map (fun (x : Nat × WalkWork) => x.2)
    match work with
    | some (.query q) =>
      if d.now ≤ q.expires then d
      else ({ d with srch.contexts := Tbl.del d.srch.contexts walk, srch.waiting := d.srch.waiting.filter (fun x => x.1 != walk) }).finishDetach
    | _ => d

/-! ## Queries at the issuer (R288 to R295) -/

/-- SRCH_QUERY (R288, R289): the vector, the code and the shard list are read from the unified range. -/
def execSrchQuery (c : HostCmd) (s : State) : Out :=
  s.onDev fun d => d.hostCmd { shared := true, rsvOk := argMask true 0 (2 ^ 64 - 1) 0 0, lenOk := fun c => c.hlen == 64 } c fun d =>
    let b := c.data
    let n := field b 2 2
    let fmt := field b 14 1
    let dim := field b 12 2
    let vlen := dim * (if fmt = 0 then 4 else 2)
    let code := field b 40 8
    let ok := (n == 0 || d.mapped (field b 48 8) (2 * n)) && (field b 1 1 == 0 || n == 0 || d.mapped (field b 32 8) vlen)
      && (code == 0 || d.mapped code 1)
    match queryCheck b, ok with
    | none, false => (d, .done C.MEM_UNMAPPED (slice b 56 8))
    | _, _ =>
      let vec := vecOf fmt dim (d.load (memKey 4 (field b 32 8)) vlen)
      let cb := if code = 0 then [] else d.load (memKey 4 code) 256
      (d.issueQuery (.host (cmdRef c) c.a1) b (d.cmdRing c.ring).tenant vec cb (shardIds n (d.load (memKey 4 (field b 48 8)) (2 * n))), .wait)

/-- SHARD_ANSWER (R290, R291): the first answer of each shard is kept; SRCH_BUSY sends the query to ALT, once. -/
def execShardAnswer (qid shard : Nat) (a : ShardAns) (s : State) : Out :=
  s.onDev fun d =>
    match Tbl.at? d.srch.queries qid with
    | none => d
    | some q =>
      match q.subs.find? (·.shard == shard) with
      | none => d
      | some x =>
        if x.ans.isSome then d
        else if a.status = C.SRCH_BUSY then d.askAlt qid shard
        else
          let q := { q with subs := q.subs.map fun (y : SubQuery) => if y.shard == shard then { y with ans := some a } else y }
          ({ d with srch.queries := Tbl.put d.srch.queries qid q }).tryEnd qid

/-- ALT_RESEND (R290): after TIMEOUT / 2 beats without an answer the shard query goes to ALT. -/
def execAltResend (qid : Nat) (s : State) : Out :=
  s.onDev fun d =>
    match Tbl.at? d.srch.queries qid with
    | none => d
    | some q =>
      if d.now < q.issued + q.timeout / 2 then d
      else (q.subs.filter fun x => x.ans.isNone).foldl (fun d x => d.askAlt qid x.shard) d

/-- QUERY_TIMEOUT (R291): at issue + TIMEOUT the answers received are merged. -/
def execQueryTimeout (qid : Nat) (s : State) : Out :=
  s.onDev fun d =>
    match Tbl.at? d.srch.queries qid with
    | none => d
    | some q =>
      if d.now < q.issued + q.timeout then d
      else
        let (st, r) := queryResult q
        d.endQuery qid st r

/-- The tokens that passages splice in (R294): in rank order, each with its separator, up to the first that would pass RAG_MAX; a passage
its owner no longer serves is skipped. -/
def spliceTokens (max_ sep : Nat) : Nat → List PassageRead → List Nat
  | _, [] => []
  | used, p :: t =>
    match p.toks with
    | none => spliceTokens max_ sep used t
    | some ts =>
      let all := if sep = 0xFFFFFFFF then ts else ts ++ [sep]
      if max_ < used + all.length then [] else all ++ spliceTokens max_ sep (used + all.length) t

/-- PASSAGE_READ (R294, R295): the passages of the result, in rank order; the tokens to splice go to the mirror in a tandem. -/
def execPassageRead (stall : Nat) (reads : List PassageRead) (s : State) : Out :=
  s.onDev fun d =>
    match d.stall? stall with
    | none => d.stale
    | some x =>
      match x.retrieve with
      | none => d
      | some b =>
        if x.r.state != .intake || x.spliced || x.query.isSome || x.found.isEmpty || reads.map (·.global) != x.found then d
        else
          let toks := spliceTokens (field b 8 4) (field b 12 4) 0 reads
          let d := d.putStall stall { x with passages := toks, spliced := true }
          if d.flag F.HLT_TANDEM_EN then d.send .mirrorTokens (d.me + 2 ^ 14) ([stall] ++ toks) else d

/-! ## Mutations (R296 to R299) -/

/-- A mutation record is well formed (R296). -/
def mutOk (b : Bytes) : Bool :=
  let op := field b 0 1
  let ins := op == 1
  decide (1 ≤ op) && decide (op ≤ 3)
  && (ins || (field b 8 8 == 0 && field b 16 8 == 0 && field b 24 8 == 0 && field b 32 4 == 0))
  && (op != 2 || field b 36 4 == 0) && decide (field b 32 4 ≤ 2 ^ 20)

/-- An answer's 32 bytes. -/
def mutBytes (mtag global beat status : Nat) : Bytes :=
  leBytes 8 mtag ++ leBytes 8 global ++ leBytes 8 beat ++ leBytes 2 status ++ List.replicate 6 0

/-- Writing one answer of a command at its issuer; the last completes it (R483: data is the answers written). -/
def Dev.mutAnswered (d : Dev) (cmd pos : Nat) (body : Bytes) : Dev :=
  match Tbl.at? d.srch.muts cmd with
  | none => d
  | some m =>
    if !m.missing.contains pos then d
    else
      let d := d.put (.hostWrite (m.addr + 32 * pos) body)
      let m := { m with missing := m.missing.erase pos }
      if m.missing.isEmpty then ({ d with srch.muts := Tbl.del d.srch.muts cmd }).completeCmd m.cmd C.OK (leBytes 4 m.count)
      else { d with srch.muts := Tbl.put d.srch.muts cmd m }

/-- Sending a mutation record to its shard's sequencer: the owner, or ALT in place of a lost owner (R296). -/
def Dev.sendRecord (d : Dev) (id pos : Nat) (b : Bytes) : Dev :=
  match d.shardOwner (field b 1 1) (field b 2 2) with
  | none => d.mutAnswered id pos (mutBytes (field b 40 8) 0 0 C.SRCH_NO_SHARD)
  | some (o, alt) => d.sendRole .mutation (if d.isLost o && alt != 0xFFFF then alt else o) 0 [id, pos] b

/-- SRCH_MUTATE (R296): each record goes to its shard's sequencer, in order; one without a directory entry is answered at once. -/
def execSrchMutate (c : HostCmd) (s : State) : Out :=
  s.onDev fun d =>
    let spec : CmdSpec := { shared := true, rsvOk := argMask true 0 (2 ^ 64 - 1) 0 0
                            lenOk := fun c => c.hlen % 48 == 0 && decide (c.hlen ≤ 48 * 4096) }
    d.hostCmd spec c fun d =>
      let rs := chunks 48 4096 c.data
      if rs.isEmpty then (d, .done C.OK (leBytes 4 0))
      else
        let id := d.srch.nextId
        let m : MutCmd := { cmd := cmdRef c, addr := c.a1, count := rs.length, missing := List.range rs.length }
        let d := { d with srch.nextId := id + 1, srch.muts := Tbl.put d.srch.muts id m }
        (rs.zipIdx.foldl (fun d r =>
          let b := r.1
          let no := fun (st : Nat) => d.mutAnswered id r.2 (mutBytes (field b 40 8) 0 0 st)
          if !d.flag F.SRCH_CTRL_EN then no C.SRCH_NO_SHARD
          else if !mutOk b then no C.SRCH_DESC_BAD
          else d.sendRecord id r.2 b) d, .wait)

/-- The slot number of an answer. -/
def globalId (shard slot : Nat) : Nat := shard * 2 ^ 32 + slot

/-- The device a shard's applied records are forwarded to: its ALT, where there is one that is not this device and is not lost (R296). -/
def Dev.altOf (d : Dev) (index shard : Nat) : Option Nat :=
  match d.shardOwner index shard with
  | some (_, a) => if a == 0xFFFF || a == d.me || d.isLost a then none else some a
  | none => none

/-- A mutation has been applied here: its answer is kept, and sent once ALT has applied the record, or at once where there is none; ALT
itself tells the sequencer. -/
def Dev.mutApplied (d : Dev) (m : MutMsg) (slot beat status : Nat) : Dev :=
  let b := m.record
  let index := field b 1 1
  let shard := field b 2 2
  let ans := mutBytes (field b 40 8) (globalId shard slot) beat status
  if m.forwarded then d.send .mutationApplied m.h.src [index, shard, m.issuer, field b 40 8]
  else
    let d := match d.shard? index shard with
      | some x => d.putShard index shard { x with applied := x.applied.map fun (y : (Nat × Nat) × Nat × Option Bytes) =>
          if y.1 == (m.issuer, field b 40 8) then (y.1, d.now, some ans) else y }
      | none => d
    match (if status / 256 = 0 then d.altOf index shard else none) with
    | some alt => d.sendRole .mutation alt 0 [m.cmd, m.pos, 1, m.issuer] (b.take 4 ++ leBytes 4 slot ++ b.drop 8 ++ m.vec ++ m.code)
    | none => d.send .mutationAnswer m.issuer [m.cmd, m.pos] ans

/-- A slot becomes a tombstone (R299): its delete is answered. -/
def Dev.toTomb (d : Dev) (x : ShardRec) (slot : Nat) (m : MutMsg) : Dev :=
  let h := x.hdr
  let a := d.attr h slot
  let a := attrFlags (attrState (a.take 4 ++ leBytes 4 x.epoch ++ a.drop 8) 4) (field a 1 1 % 2)
  ((d.setAttr h slot a).count F.SRCH_M_CNT_DELETES).mutApplied m slot 0 C.OK

/-- An INSERT at its sequencer or ALT (R297 steps 1 to 3): the slot is chosen and filled, and its insert walk is queued. -/
def Dev.insertRecord (d : Dev) (index shard : Nat) (x : ShardRec) (m : MutMsg) : Dev :=
  let b := m.record
  let h := x.hdr
  let named := field b 4 4
  let slot := if named = noSlot then (List.range (shCap h)).find? fun i => d.slotState h i == 0 else some named
  match slot with
  | none => (d.setFld F.SRCH_EVT_FULL 1).mutApplied m 0 0 C.SRCH_FULL
  | some i =>
    if decide (shCap h ≤ i) || d.slotState h i != 0 then d.mutApplied m i 0 C.SRCH_SLOT_BUSY
    else if decide (65536 ≤ (d.srch.waiting.filter fun w => w.2.shard == shardKey index shard && !w.2.isQuery).length) then
      (d.setFld F.SRCH_EVT_BUSY 1).mutApplied m i 0 C.SRCH_BUSY
    else
      let d := (d.storeP (shVecAt h i) (m.vec.take (shVB h)) false).touchKey (shVecAt h i) (shVB h) true
      let d := (d.storeP (shCodeAt h i) (m.code.take (shCB h)) false).touchKey (shCodeAt h i) (shCB h) true
      let d := d.setAttr h i (attrBytes 2 0 0 0 (field b 24 8) (field b 32 4))
      let d := (d.setRow h i []).setFilts h i (field b 36 4)
      { d with srch.nextId := d.srch.nextId + 1
               srch.waiting := d.srch.waiting ++ [(d.srch.nextId, .insert index shard i m)] }

/-- Applying a record in order of arrival (R296, R299). -/
def Dev.applyRecord (d : Dev) (index shard : Nat) (x : ShardRec) (m : MutMsg) : Dev :=
  let b := m.record
  let h := x.hdr
  let i := field b 4 4
  let st := if shCap h ≤ i then 0 else d.slotState h i
  match field b 0 1 with
  | 1 => d.insertRecord index shard x m
  | 2 =>
    if st = 0 then d.mutApplied m i 0 C.SRCH_NOT_FOUND
    else if st = 3 then d.toTomb x i m
    else if st = 4 then d.mutApplied m i 0 C.OK
    else
      let d := d.setAttr h i (attrFlags (d.attr h i) (bitSet (field (d.attr h i) 1 1) 1))
      match d.shard? index shard with
      | some x => d.putShard index shard { x with delWait := x.delWait ++ [(i, m)] }
      | none => d
  | _ => if st = 3 then (d.setFilts h i (field b 36 4)).mutApplied m i 0 C.OK else d.mutApplied m i 0 C.SRCH_NOT_FOUND

/-- A record that has passed R31: refused where the shard is not attached; answered again where it has been applied within 2^20 beats;
else applied. -/
def Dev.recordArrived (d : Dev) (m : MutMsg) : Dev :=
  let b := m.record
  let index := field b 1 1
  let shard := field b 2 2
  let no := fun (st : Nat) => d.send .mutationAnswer m.issuer [m.cmd, m.pos] (mutBytes (field b 40 8) 0 0 st)
  match (if d.flag F.SRCH_CTRL_EN then d.shard? index shard else none) with
  | none => no C.SRCH_NO_SHARD
  | some x =>
    let key := (m.issuer, field b 40 8)
    let recent := x.applied.filter fun y => decide (d.now ≤ y.2.1 + 2 ^ 20) || y.2.2.isNone
    if x.detaching.isSome then no C.SRCH_NO_SHARD
    else if !mutOk b then no C.SRCH_DESC_BAD
    else if m.forwarded then d.applyRecord index shard x m
    else match recent.find? fun y => y.1 == key with
      | some (_, _, some ans) => d.send .mutationAnswer m.issuer [m.cmd, m.pos] ans
      | some (_, _, none) => d
      | none =>
        let x := { x with applied := recent ++ [(key, d.now, none)] }
        (d.putShard index shard x).applyRecord index shard x m

/-- MUTATION_RECORD (R31, R296). -/
def execMutationRecord (m : MutMsg) (s : State) : Out :=
  s.onDev fun d => d.receive m.h false 13 (.mutation m) fun d => d.recordArrived m

/-- Ordered insertion of an edge into a row (R297 step 4): ascending (distance, slot); a full row drops its last. Distances are FP16. -/
def edgeBefore (a b : Nat × Nat) : Bool := walkOrd.before (ofF16 a.2, a.1) (ofF16 b.2, b.1)
def placeEdge (degree : Nat) (es : List (Nat × Nat)) (e : Nat × Nat) : List (Nat × Nat) := (insertBy edgeBefore e es).take degree

/-- INSERT_WALK_END (R297 steps 3 to 5, R298, R299). -/
def execInsertWalkEnd (walk : Nat) (s : State) : Out :=
  s.onDev fun d =>
    match Tbl.at? d.srch.contexts walk with
    | some (.insert index shard i m) =>
      let d := { d with srch.contexts := Tbl.del d.srch.contexts walk }
      match d.shard? index shard with
      | none => d.finishDetach
      | some x =>
        let h := x.hdr
        let wq := if shProduct h then
            WalkQuery.table (d.queryTable h (vecOf (field h 17 1) (shDim h) (d.load (shVecAt h i) (shDim h * shElem h))))
          else .code (d.load (shCodeAt h i) (shCB h))
        let w := d.walk x wq { ef := field h 20 2, nres := shDegree h, maxExpand := 65535, eligible := fun y => d.slotState h y == 3 }
        let d := d.srchPoison w.poison (shardKey index shard)
        let row := (w.res.filter fun e => d.slotState h e.2 == 3 || d.slotState h e.2 == 2).map fun e => (e.2, toF16 e.1)
        let d := d.setRow h i row
        let d := row.foldl (fun d e =>
          if reachState (d.slotState h e.1) then d.setRow h e.1 (placeEdge (shDegree h) (d.rowEdges h e.1) (i, e.2)) else d) d
        let a := d.attr h i
        let isEntry := decide (x.entries.length < field h 19 1)
        let deadAt := x.entries.findIdx? fun e => d.slotState h e == 4
        let x' : ShardRec := if isEntry then { x with entries := x.entries ++ [i] }
          else match deadAt with
            | some k => if (List.range (shCap h)).any fun y => d.slotState h y == 3 then x
                else { x with entries := x.entries.set k i, replaced := Tbl.put x.replaced (x.entries.getD k 0) x.epoch }
            | none => x
        let entryNow : Bool := x'.entries.contains i
        let d := if entryNow && !isEntry then (x.entries.filter fun e => !x'.entries.contains e).foldl (fun d e =>
            d.setAttr h e (attrFlags (d.attr h e) (bitClear (field (d.attr h e) 1 1) 0))) d else d
        let fl := if entryNow then 1 else 0
        let d := d.setAttr h i (attrBytes 3 fl 0 d.now (field a 16 8) (field a 24 4))
        let dels := x'.delWait.filter fun w => w.1 == i
        let x' := { x' with delWait := x'.delWait.filter fun w => w.1 != i }
        let d := d.putShard index shard x'
        let d := (d.count F.SRCH_M_CNT_INSERTS).mutApplied m i d.now C.OK
        let d := dels.foldl (fun d w => match d.shard? index shard with
          | some y => if d.slotState h i = 3 then d.toTomb y i w.2 else d.mutApplied w.2 i 0 C.OK
          | none => d) d
        d.finishDetach
    | _ => d

/-- MUTATION_ANSWER (R296): at the sequencer, ALT has applied a record, so its answer goes out; at the issuer, an answer is written. -/
def execMutationAnswer (a : MutAnswer) (s : State) : Out :=
  s.onDev fun d =>
    match a with
    | .answer cmd pos body => d.mutAnswered cmd pos body
    | .applied index shard issuer mtag =>
      match d.shard? index shard with
      | none => d
      | some x =>
        match x.applied.find? fun y => y.1 == (issuer, mtag) with
        | some (_, _, some ans) => d.send .mutationAnswer issuer [] ans
        | _ => d

/-! ## The groom's sweep (R299 to R302) -/

/-- Sweeping one row (R300): edges to `tomb` or `free` targets go; the live entries of a removed tombstone's row are offered. -/
def Dev.sweepEdges (d : Dev) (h : Bytes) (i : Nat) : Dev :=
  let es := d.rowEdges h i
  let gone := es.filter fun e => d.slotState h e.1 == 4 || d.slotState h e.1 == 0
  let kept := es.filter fun e => !(d.slotState h e.1 == 4 || d.slotState h e.1 == 0)
  let offers := (gone.filter fun e => d.slotState h e.1 == 4).flatMap fun e => (d.rowEdges h e.1).map (·.1)
  let row := offers.foldl (fun es t =>
    if d.slotState h t = 3 && t != i && !es.any (·.1 == t) then placeEdge (shDegree h) es (t, toF16 (d.codeDist h i t)) else es) kept
  if gone.isEmpty then d else (d.setRow h i row).count F.SRCH_GROOM_CNT_REWIRED gone.length

/-- A tombstoned entry point met by the sweep (R299): the first live slot of its row replaces it, else the next live slot above it, wrapping. -/
def Dev.sweepEntry (d : Dev) (index shard i : Nat) : Dev :=
  match d.shard? index shard with
  | none => d
  | some x =>
    let h := x.hdr
    if !x.entries.contains i || d.slotState h i != 4 then d
    else
      let cap := shCap h
      let live := fun (y : Nat) => d.slotState h y == 3 && !x.entries.contains y
      let inRow := ((d.rowEdges h i).map (·.1)).find? live
      let above := ((List.range cap).map fun k => (i + 1 + k) % cap).find? live
      match inRow.or above with
      | none => d
      | some y =>
        let x := { x with entries := x.entries.map fun e => if e = i then y else e, replaced := Tbl.put x.replaced i x.epoch }
        let d := d.setAttr h i (attrFlags (d.attr h i) (bitClear (field (d.attr h i) 1 1) 0))
        (d.setAttr h y (attrFlags (d.attr h y) (bitSet (field (d.attr h y) 1 1) 0))).putShard index shard x

/-- Sweeping one row of a shard. -/
def Dev.sweepRow (d : Dev) (index shard i : Nat) : Dev :=
  match d.shard? index shard with
  | none => d
  | some x =>
    let d := if reachState (d.slotState x.hdr i) then d.sweepEdges x.hdr i else d
    d.sweepEntry index shard i

/-- The end of a sweep epoch (R299, R302): a tombstone of the epoch before, or an older one, that is no entry point becomes free; one that
was an entry point, only after the epoch that follows its replacement. -/
def Dev.epochEnd (d : Dev) (index shard : Nat) : Dev :=
  match d.shard? index shard with
  | none => d
  | some x =>
    let h := x.hdr
    let frees := (List.range (shCap h)).filter fun i =>
      d.slotState h i == 4 && !x.entries.contains i &&
        (match Tbl.at? x.replaced i with
         | none => decide (field (d.attr h i) 4 4 + 1 ≤ x.epoch)
         | some e => decide (field (d.attr h i) 4 4 + 2 ≤ x.epoch) && decide (e + 1 ≤ x.epoch))
    let d := frees.foldl (fun d i => ((d.setRow h i []).setFilts h i 0).setAttr h i (List.replicate 32 0)) d
    let x := { x with epoch := x.epoch + 1, row := 0, replaced := x.replaced.filter fun e => !frees.contains e.1 }
    (d.putShard index shard x).count F.SRCH_GROOM_CNT_FREED frees.length

/-- Sweeping n rows of a shard on from where the sweep stands. -/
def Dev.sweepRows (d : Dev) (index shard : Nat) : Nat → Dev
  | 0 => d
  | n + 1 =>
    match d.shard? index shard with
    | none => d
    | some x =>
      let d := d.sweepRow index shard x.row
      let d := match d.shard? index shard with
        | some y => d.putShard index shard { y with row := y.row + 1 }
        | none => d
      let d := if shCap x.hdr ≤ x.row + 1 then d.epochEnd index shard else d
      d.sweepRows index shard n

/-- GROOM_SWEEP_ROWS (R301): with GROOM_EN set, SRCH_GROOM.ROWS rows of each attached shard. -/
def execGroomSweepRows (s : State) : Out :=
  s.onDev fun d =>
    if !d.flag F.SRCH_CTRL_GROOM_EN then d
    else d.srch.shards.foldl (fun d x => d.sweepRows (x.1 / 2 ^ 16) (x.1 % 2 ^ 16) (d.fld F.SRCH_GROOM_ROWS)) d

end Sys2Proof.Machine
end

