-- ==== Sys2Proof/Machine/Hayloft.lean ====
section
/-!
DEFINITION. Machine/Hayloft.lean: the hayloft's states, writes and durability, journal, checkpoints, rebuild, collection and media care
(spec/12_hayloft.md). Media operations the part starts go out as `Put.media`: 0 an answer (LBA, status), 2 a program, 3 an erase, 4 a
flush, 5 a checkpoint round, 6 a probe.
-/

namespace Sys2Proof.Machine

/-- Changing the hayloft. -/
def Dev.onHay (d : Dev) (f : Hay → Hay) : Dev := { d with hay := f d.hay }

/-! ## Enabling, probing, formatting, rebuilding (R334, R337, R347, R348) -/

/-- Taking frames of order 1 for the hayloft's tables as far as they are free (R312, R339). -/
def Dev.hayFrames (d : Dev) (n : Nat) : Dev :=
  match d.takeFrames n 1 with
  | some (l, d) => d.onHay fun h => { h with frames := h.frames ++ l }
  | none => d

/-- A unit that has been programmed with pass status lies on the flash: its tag and its data. -/
def Dev.landUnit (d : Dev) (p : HayProg) : Dev :=
  (d.fillRange (flashKey p.ppa) 4096 p.cells).onHay fun h =>
    { h with media.tags := Tbl.put h.media.tags p.ppa p.tag
             media.pages := if p.tag.kind = 2 then
                 Tbl.put h.media.pages p.ppa ((Tbl.at? h.media.pages p.tag.src).getD (h.map.filter fun e => e.1 / 512 == p.tag.key))
               else h.media.pages }

/-- Ending the checkpoints written to the hayloft (R463) whose bytes are all durable, or that were refused: with `code`, those a test picks. -/
def Dev.ckptsEnd (d : Dev) (f : Nat → Bool) (code : Nat) : Dev :=
  let ended := d.hlt.ckpts.filter fun (x : Nat × CmdRef × Nat × Option Nat) => f x.1
  let d := { d with hlt.ckpts := d.hlt.ckpts.filter fun (x : Nat × CmdRef × Nat × Option Nat) => !f x.1 }
  (ended.foldl (fun (d : Dev) (x : Nat × CmdRef × Nat × Option Nat) =>
    d.completeCmd x.2.1 code (if code = C.OK then leBytes 8 x.2.2.1 else [])) d).finishDetach
def Dev.ckptsDurable (d : Dev) : Dev := if d.hlt.ckpts.isEmpty then d else d.ckptsEnd (fun n => !d.hayPending (.image n)) C.OK

/-- Stopping the hayloft (R348): in-flight programs complete on the flash; everything the yard die held of it is gone. -/
def Dev.hayOff (d : Dev) : Dev :=
  let d := d.hay.points.foldl (fun d p => p.2.progs.foldl (fun d x => d.landUnit x) d) d
  let d := d.giveFrames d.hay.frames
  let d := { d with hay := { media := d.hay.media, failedOwners := d.hay.queue.map fun (w : HayWrite) => w.owner } }
  d.ckptsEnd (fun _ => true) C.HAY_NOT_READY

/-- What a write of HAY_CTRL does once its fields are stored (R348). -/
def Dev.hayCtrlWritten (d : Dev) : Dev :=
  if d.flag F.HAY_CTRL_EN then
    if d.hay.state == .off then
      ((d.onHay fun h => { h with state := .probe, since := d.now }).hayFrames (d.fld F.HAY_MAPC_GIB * 2 ^ 14)).put (.media 6 [] [])
    else d
  else if d.hay.state == .off then d else d.hayOff

/-- R334's conditions on one target. -/
def targetOk (t : TargetReport) : Bool :=
  t.dataBytes == 16384 && decide (2048 ≤ t.spareBytes) && decide (1 ≤ t.luns) && decide (t.luns ≤ 4) && decide (2 ≤ t.planes)
    && decide (t.planes ≤ 8) && decide (t.pages ≤ 4096) && decide (t.blocks ≤ 16384) && (t.cell == 1 || t.cell == 2) && t.slc
    && decide (t.target < 256)
def targetGeom (t : TargetReport) : HayGeom :=
  { luns := t.luns, planes := t.planes, cell := t.cell, pages := t.pages, blocks := t.blocks }

/-- The raw bytes of a target. -/
def HayGeom.raw (g : HayGeom) : Nat := g.luns * g.planes * g.blocks * g.pages * 16384

/-- Accepting targets in channel order (R334): those that pass, agree with the first accepted one, and fit 256 TiB together. -/
def acceptTargets : List TargetReport → Option HayGeom → List Nat → Option HayGeom × List Nat
  | [], g, acc => (g, acc)
  | t :: ts, g, acc =>
    if targetOk t && (match g with | some x => x == targetGeom t | none => true) && decide ((acc.length + 1) * (targetGeom t).raw ≤ 2 ^ 48) then
      acceptTargets ts (some (targetGeom t)) (acc ++ [t.target])
    else acceptTargets ts g acc

/-- MEDIA_PROBE_COMPLETE (R334, R347, R348). -/
def execMediaProbeComplete (targets : List TargetReport) (anchorOk : Bool) (s : State) : Out :=
  s.onDev fun d =>
    if d.hay.state != .probe then d
    else
      let ts := sortBy (fun (a b : TargetReport) => decide (a.target < b.target)) targets
      let (g, acc) := acceptTargets ts none []
      let out := ts.filter fun t => !acc.contains t.target
      let d := out.foldl (fun d t => (d.raise E.HAY_MEDIA 6 t.target).charge .fail 6 t.target) d
      match g with
      | none => (if out.isEmpty then d.raise E.HAY_MEDIA else d).onHay fun h => { h with state := .failed, noTarget := true }
      | some g =>
        let usable := anchorOk && (match d.hay.media.anchor with | some a => a.geom == g && a.targets == acc | none => false)
        d.onHay fun h => { h with state := if usable then .rebuild else .blank, geom := g, accepted := acc }

/-- A plane block of a block replaced from its plane's spare range (R359): the hayloft, or none where the range is used up. -/
def Hay.substitute (h : Hay) (b plane : Nat) : Option Hay :=
  let k := blockTarget b * 64 + plane
  let used := Tbl.rd (fun _ => 0) h.spare k
  if h.geom.spares ≤ used then none
  else
    let x := h.blk b
    some { (h.setBlk b { x with marks := x.marks.filter (· != plane), subst := addOnce x.subst plane }) with
      spare := Tbl.wr (fun _ => 0) h.spare k (used + 1) }

/-- Replacing every marked plane block of a block, or marking it bad (R356, R359). -/
def Hay.substituteAll (h : Hay) (b : Nat) : Hay :=
  (h.blk b).marks.foldl (fun h p => match h.substitute b p with
    | some h => h
    | none => h.logBlk b { h.blk b with state := .bad }) h

/-- Reserving the lowest n good blocks that are free (R346). -/
def Hay.reserve (h : Hay) (n : Nat) : Hay :=
  (h.freeBlocks.take n).foldl (fun h b => h.setBlk b { h.blk b with reserved := true, slc := true, state := .open }) h

/-- The blocks that hold two checkpoints (R346). Their number is open; a checkpoint takes at most 8 bytes for each map page and 4 KiB for
each block (PRESUMED, log entry 14). -/
def Hay.ckptRoom (h : Hay) (units : Nat) : Nat :=
  min (Config.ckptBlocks units h.good)
    (2 * ceilDiv (8 * ceilDiv units 512 + 4096 * (h.allBlocks.length + 1)) (4096 * max 1 (h.geom.cap true)))

/-- The hayloft as HAY_FORMAT erases its blocks (R337, R346, R359): factory marks (block * 64 + plane block) substituted or the block
bad; two anchor blocks and the journal ring reserved. -/
def Hay.erased (h : Hay) (marks : List Nat) (ring : Nat) : Hay :=
  let kept := h.blocks.filterMap fun x => if x.2.erases = 0 then none else some (x.1, ({ erases := x.2.erases + 1 } : HBlk))
  let h := { h with blocks := kept, map := [], dir := [], dirty := [], queue := [], points := [], copyQ := [], copies := [], jrn := []
                    flushing := none, durable := [], force := false, jrnSince := 0, jrnFull := false, spare := [], nextSeq := 1
                    lastSeq := 0, erasable := [], collecting := false }
  let h := marks.foldl (fun h m => let x := h.blk (m / 64); h.setBlk (m / 64) { x with marks := addOnce x.marks (m % 64) }) h
  let h := (h.blocks.map (·.1)).foldl (fun h b => h.substituteAll b) h
  let low := fun (h : Hay) (t : Nat) => match h.freeBlocks.find? fun b => blockTarget b == t with
    | some b => h.setBlk b { h.blk b with reserved := true, slc := true, state := .open }
    | none => h
  (low (low h 0) 8).reserve ring

/-- The hayloft after HAY_FORMAT: with the checkpoints' blocks set aside too (R346). -/
def Hay.formatted (h : Hay) (marks : List Nat) (ring units : Nat) : Hay :=
  let h := h.erased marks ring
  { (h.reserve (h.ckptRoom units)) with jrn := [] }

/-- A flush record with a new scan set, written and durable at once: how format and rebuild end. -/
def Hay.firstFlush (h : Hay) (beat : Nat) : Hay :=
  let h := h.reserveNext
  let f : HFlush := { seq := h.flushSeq + 1, lastSeq := h.lastSeq, beat := beat, entries := h.jrn, scan := h.scanSet.take 64 }
  { h with media.flushes := h.media.flushes ++ [f], durable := f.scan, flushSeq := f.seq, lastFlush := beat, jrn := [] }

/-- The anchor of the hayloft now, with REPLAY_FROM the next flush. -/
def Hay.anchorNow (h : Hay) (units ring : Nat) : HAnchor :=
  { seq := ((h.media.anchor.map (·.seq)).getD 0) + 1, dir := h.dir, blocks := h.blocks, replay := h.flushSeq + 1, geom := h.geom
    targets := h.accepted, units := units, ring := ring }

/-- The frames of the directory (R339): 8 bytes for each map page. -/
def dirFrames (units : Nat) : Nat := ceilDiv (8 * ceilDiv units 512) 65536

/-- Formatting (R337). -/
def Dev.hayFormat (d : Dev) (marks : List Nat) : Dev × CmdRes :=
  let units := d.fld F.HAY_CAP_UNITS
  let ring := d.fld F.HAY_JRN_BLOCKS
  let st := d.hay.state
  if st == .off || st == .probe then (d, .done C.HAY_NOT_READY [])
  else if st == .rebuild || (st == .failed && d.hay.noTarget) || units = 0 || d.memt.regions.any (fun r => r.2.lba.isSome) then
    (d, .done C.HAY_FORMAT_BAD [])
  else
    let h := d.hay.formatted marks ring units
    if h.good * h.geom.native * 119 / 128 < units then (d, .done C.HAY_FORMAT_BAD [])
    else
      let h := { h with media := { anchor := d.hay.media.anchor }, flushSeq := 0, state := .ready, roundAt := d.now }
      let h := { h with media.anchor := some (h.anchorNow units ring) }
      let d := { d with hay := h.firstFlush d.now, mem := d.mem.filter fun c => c.1 / 2 ^ 64 != 3 }
      let d := d.hayFrames (dirFrames units)
      (d.onHay fun h => { h with target := d.slcTarget }, .ok)

/-- HAY_FORMAT (R337, R348). `marks`: the factory bad-block marks read. -/
def execHayFormat (c : HostCmd) (marks : List Nat) (s : State) : Out :=
  s.onDev fun d => d.hostCmd (argSpec 0 0 0) c fun d => d.hayFormat marks

/-- What a rebuild works on. -/
structure Replay where
  map : Tbl Nat
  dir : Tbl Nat
  blocks : Tbl HBlk
  tags : Nat := 0
  deriving DecidableEq, Repr

/-- The block state a journal value spells. -/
def blkOfValue (x : HBlk) (v : Nat) : HBlk :=
  { x with state := (match v % 8 with | 0 => .free | 1 => .open | 2 => .closed | 3 => .victim | 4 => .erasing | _ => .bad)
           slc := bit v 3, erases := v / 16 % 2 ^ 32 }

/-- Applying a journal entry (R343, R347 step 2). -/
def Replay.entry (r : Replay) (e : JEntry) : Replay :=
  match e.kind with
  | 0 => { r with map := Tbl.put r.map e.key (e.value % 2 ^ 41) }
  | 2 => { r with dir := Tbl.put r.dir e.key (e.value % 2 ^ 41) }
  | 6 => { r with map := Tbl.del r.map e.key }
  | 7 => { r with blocks := Tbl.wr (fun _ => {}) r.blocks e.key (blkOfValue (Tbl.rd (fun _ => {}) r.blocks e.key) e.value) }
  | _ => r

/-- Applying a scanned tag (R347 step 3). -/
def Replay.tag (r : Replay) (p : Nat) (t : FlashTag) : Replay :=
  match t.kind with
  | 0 => { r with map := Tbl.put r.map t.key p, tags := r.tags + 1 }
  | 1 => if Tbl.at? r.map t.key == some t.src then { r with map := Tbl.put r.map t.key p, tags := r.tags + 1 } else r
  | 2 => { r with dir := Tbl.put r.dir t.key p, tags := r.tags + 1 }
  | _ => r

/-- The flushes of a run that starts at a number and follows without a gap. -/
def flushRun : Nat → List HFlush → List HFlush
  | _, [] => []
  | n, f :: t => if f.seq = n then f :: flushRun (n + 1) t else if f.seq < n then flushRun n t else []

/-- The rebuild from the flash (R347). -/
def Media.rebuild (m : Media) (a : HAnchor) : Replay :=
  let start : Replay := { map := a.dir.foldl (fun t e => ((Tbl.at? m.pages e.2).getD []).foldl (fun t x => Tbl.put t x.1 x.2) t) []
                          dir := a.dir, blocks := a.blocks }
  let run := flushRun a.replay m.flushes
  let r := run.foldl (fun r f => f.entries.foldl Replay.entry r) start
  match (m.flushes.filter fun f => decide (f.seq < a.replay) || run.contains f).getLast? with
  | none => r
  | some last =>
    let tags := m.tags.filter fun t => last.scan.any (fun b => b.1 == ppaBlock t.1) && decide (last.lastSeq < t.2.seq) && !m.bad.contains t.1
    (sortBy (fun (x y : Nat × FlashTag) => decide (x.2.seq < y.2.seq)) tags).foldl (fun r t => r.tag t.1 t.2) r

/-- The refresh threshold of a block's mode (R352). -/
def Dev.rdThreshold (d : Dev) (slc : Bool) : Nat :=
  if slc then d.fld F.HAY_RDREF_SLC else if d.hay.geom.cell = 2 then d.fld F.HAY_RDREF_QLC else d.fld F.HAY_RDREF_TLC

/-- REBUILD_COMPLETE (R347, R348): `ok`: the checkpoint and the directory were readable. -/
def execRebuildComplete (ok : Bool) (s : State) : Out :=
  s.onDev fun d =>
    match d.hay.state == .rebuild, d.hay.media.anchor with
    | true, some a =>
      if !ok then (d.onHay fun h => { h with state := .failed, noTarget := false }).raise E.HAY_REBUILD_FAIL
      else
        let r := d.hay.media.rebuild a
        let used := fun (b : Nat) => r.map.any (fun e => ppaBlock e.2 == b) || r.dir.any fun e => ppaBlock e.2 == b
        let fix := fun (b : Nat) (x : HBlk) =>
          let x := { x with reads := max x.reads (d.rdThreshold x.slc / 2) }
          if x.state == .bad || x.reserved then x
          else if used b then { x with state := .closed } else { x with state := .free }
        let blocks := (r.map.map (fun e => ppaBlock e.2) ++ r.dir.map fun e => ppaBlock e.2).foldl (fun (t : Tbl HBlk) b =>
          if (Tbl.at? t b).isNone then Tbl.put t b {} else t) r.blocks
        let last := (d.hay.media.flushes.getLast?.map (·.seq)).getD 0
        let top := maxOf (d.hay.media.tags.map fun t => t.2.seq)
        let h := { d.hay with map := r.map, dir := r.dir, blocks := Tbl.mapv (fun _ => {}) fix blocks, state := .ready, flushSeq := last
                              nextSeq := top + 1, lastSeq := top, roundAt := d.now }
        let d := { d with hay := h.firstFlush d.now }
        let d := ((d.setFld F.HAY_CAP_UNITS a.units).setFld F.HAY_REBUILD_BEATS (min (d.now - d.hay.since) 0xFFFFFFFF)).setFld
          F.HAY_REBUILD_TAGS (min r.tags 0xFFFFFFFF)
        let d := d.hayFrames (dirFrames a.units)
        d.onHay fun h => { h with target := d.slcTarget }
    | _, _ => d

/-! ## Reads and writes (R337, R338, R341, R342, R352, R361) -/

/-- A unit of the hayloft that no retry recovers (R361): its plane block is marked bad, its block queued for refresh; the bytes it holds for
a unit of the unified range are poisoned, a parked region it holds is lost to its holder. -/
def Dev.unitBad (d : Dev) (lba p : Nat) : Dev :=
  if d.hay.media.bad.contains p then d
  else
    let b := ppaBlock p
    let d := ((d.onHay fun h => { h with media.bad := h.media.bad ++ [p] }).count F.HAY_ERR_CNT_UE).charge .ue 6 (blockTarget b)
    let d := (d.markPlane b (ppaPlane p)).raise E.HAY_UE 6 (blockTarget b) lba
    let d := d.onHay fun h => h.setBlk b { h.blk b with refresh := true }
    let d := (d.memt.regions.filter fun r => match r.2.lba with
        | some l => decide (l ≤ lba) && decide (lba < l + r.2.size / 4096)
        | none => false).foldl (fun d r =>
      let a := r.2.base + 4096 * (lba - r.2.lba.getD 0)
      let u := d.unit (a / memUnit)
      if u.state == .hay || (u.state == .moving && u.src == .hay) then d.setPoison (memKey 4 a) 4096 true else d) d
    (d.pan.held.filter fun h => h.desc.tier == 2 && decide (h.desc.addr ≤ lba) && decide (lba < h.desc.addr + ceilDiv h.size 4096)).foldl
      (fun d h => d.heldLost h) d

/-- HAY_READ (R337, R338, R352, R361): reading one LBA for the memory-tier manager. -/
def execHayRead (lba : Nat) (how : FlashRead) (s : State) : Out :=
  s.onDev fun d =>
    match d.hayRefuses lba false with
    | some c => d.put (.media 0 [lba, c] [])
    | none =>
      let d := d.count F.HAY_IO_CNT_READS
      match Tbl.at? d.hay.map lba with
      | none => d.put (.media 0 [lba, C.OK] [])
      | some p =>
        let b := ppaBlock p
        let x := d.hay.blk b
        let reached := decide (d.rdThreshold x.slc ≤ x.reads + 1)
        let d := d.onHay fun h => h.setBlk b { x with reads := x.reads + 1, refresh := x.refresh || reached || how != .clean }
        let d := match how with
          | .clean => d
          | .retried => (d.count F.HAY_ERR_CNT_RETRY).charge .retry 6 (blockTarget b)
          | .bad => (d.count F.HAY_ERR_CNT_RETRY).unitBad lba p
        d.put (.media 0 [lba, if how == .bad then C.HAY_UE else C.OK] [])

/-- HAY_WRITE (R341, R342, R346, R362): the write that has waited longest is issued through write point w; one the hayloft refuses fails
its owner. Host writes wait while the journal ring is full. -/
def execHayWrite (w : Nat) (s : State) : Out :=
  s.onDev fun d =>
    match d.hay.queue with
    | [] => d
    | x :: t =>
      match d.hayRefuses x.lba true with
      | some c =>
        let d := (d.onHay fun h => { h with queue := t, failedOwners := addOnce h.failedOwners x.owner }).put (.media 0 [x.lba, c] [])
        match x.owner with
        | .image n => (d.onHay fun h => { h with queue := h.queue.filter fun (y : HayWrite) => y.owner != x.owner }).ckptsEnd (· == n) c
        | _ => d
      | none =>
        if d.hay.jrnFull || decide (30 ≤ w) then d
        else match d.program w 0 x.lba 0 x.cells (some x.owner) with
          | some d => d.onHay fun h => { h with queue := t }
          | none => d.openPoint w

/-- A write point whose block is full and fully programmed closes it (R356); the point takes its successor when it next opens. -/
def Hay.closeFull (h : Hay) (w : Nat) : Hay :=
  let p := h.point w
  match p.block with
  | none => h
  | some b =>
    let x := h.blk b
    if h.geom.cap x.slc ≤ x.written && p.progs.isEmpty then (h.logBlk b { x with state := .closed }).setPoint w { p with block := none } else h

/-- One unit programmed with pass status (R341): host data are durable and mapped; a copy waits for its verification; a map page's
directory entry is set. -/
def Dev.unitDone (d : Dev) (p : HayProg) : Dev :=
  let d := d.landUnit p
  let b := ppaBlock p.ppa
  let d := d.onHay fun h => h.setBlk b { h.blk b with last := d.now }
  if p.tag.kind = 0 then
    (d.onHay fun h => { h.setMap p.tag.key p.ppa with lastSeq := max h.lastSeq p.tag.seq }).count F.HAY_IO_CNT_WRITES
  else d.onHay fun h => { h with copies := h.copies ++ [p] }

/-- PROGRAM_COMPLETE (R341): the first n units of write point w, a page or a word line, were programmed with pass status. -/
def execProgramComplete (w n : Nat) (s : State) : Out :=
  s.onDev fun d =>
    let p := d.hay.point w
    let d := d.onHay fun h => h.setPoint w { p with progs := p.progs.drop n }
    let d := (p.progs.take n).foldl (fun d x => d.unitDone x) d
    let d := d.onHay fun h => h.closeFull w
    (d.pumpCopies d.hay.copyQ).ckptsDurable

/-- Retiring the open block of a write point (R356, R357): its failing plane block is marked bad and its durable units move out; what was
being programmed is programmed again on the successor. -/
def Dev.retireOpen (d : Dev) (w plane : Nat) : Dev :=
  let p := d.hay.point w
  match p.block with
  | none => d
  | some b =>
    let writes := p.progs.filterMap fun x => match x.owner with
      | some o => if x.tag.kind = 0 then some ({ lba := x.tag.key, cells := x.cells, owner := o } : HayWrite) else none
      | none => none
    let lost := d.hay.copies.filter fun c => ppaBlock c.ppa == b
    let again := (lost ++ p.progs.filter fun x => x.tag.kind != 0).map fun x => x.tag.src
    let d := d.onHay fun h => { h.setPoint w { p with block := none, progs := [] } with
      queue := writes ++ h.queue, copies := h.copies.filter fun c => ppaBlock c.ppa != b
      copyQ := h.copyQ ++ again.filter fun q => !h.copyQ.contains q }
    let d := (d.markPlane b plane).raise E.HAY_BLOCK_RETIRED 6 (blockTarget b) b
    d.makeVictim b

/-- PROGRAM_FAIL (R356, R357). -/
def execProgramFail (w plane : Nat) (s : State) : Out := s.onDev fun d => d.retireOpen w plane

/-! ## Journal and checkpoints (R343 to R346) -/

/-- Bytes a flush writes to the ring. -/
def HFlush.bytes (f : HFlush) : Nat := 16 * f.entries.length + 320

/-- Bytes the journal ring holds. -/
def Hay.ringBytes (h : Hay) : Nat := ((h.media.anchor.map (·.ring)).getD 0) * h.geom.cap true * 4096

/-- JOURNAL_FLUSH (R343 to R345, R350): at its interval, or when forced. SLC_TARGET is recomputed. -/
def execJournalFlush (s : State) : Out :=
  s.onDev fun d =>
    let h := d.hay
    if !h.serves || h.flushing.isSome || !(h.force || decide (h.lastFlush + d.fld F.HAY_JRN_INTERVAL ≤ d.now)) then d
    else
      let h := { h with target := d.slcTarget }.reserveNext
      let f : HFlush := { seq := h.flushSeq + 1, lastSeq := h.lastSeq, beat := d.now, entries := h.jrn, scan := h.scanSet.take 64 }
      if h.ringBytes < h.jrnSince + f.bytes then
        if h.jrnFull then d else ({ d with hay := { h with jrnFull := true } }).raise E.HAY_JRN_FULL
      else
        let done := (h.blocks.filter fun x => x.2.state == .victim && (h.validIn x.1).isEmpty).map (·.1)
        { d with hay := { h with flushing := some f, jrn := [], erasable := done } }.put (.media 4 [f.seq, f.lastSeq, f.entries.length] [])

/-- JOURNAL_FLUSH_DURABLE (R345, R355, R356): write points may open the blocks it lists, and victims whose last change it holds are
erased. -/
def execJournalFlushDurable (s : State) : Out :=
  s.onDev fun d =>
    match d.hay.flushing with
    | none => d
    | some f =>
      let old := (d.hay.media.anchor.map (·.replay)).getD 0
      let erase := d.hay.erasable.filter fun b => (d.hay.blk b).state == .victim && (d.hay.validIn b).isEmpty
      let d := d.onHay fun h =>
        { h with media.flushes := (h.media.flushes.filter fun x => decide (old ≤ x.seq + 1)) ++ [f], durable := f.scan, flushSeq := f.seq
                 lastFlush := f.beat, jrnSince := h.jrnSince + f.bytes, flushing := none, force := false, erasable := [] }
      let d := erase.foldl (fun d b => (d.onHay fun h => h.setBlk b { h.blk b with state := .erasing }).put (.media 3 [b] [])) d
      d.pumpCopies d.hay.copyQ

/-- CHECKPOINT_ROUND (R346): every 2^ROUND_LOG2 beats, when the journal since REPLAY_FROM exceeds JRN_MAX_GIB, or when the ring is full: the
dirty map pages are written, then a checkpoint and an anchor. -/
def execCheckpointRound (s : State) : Out :=
  s.onDev fun d =>
    let h := d.hay
    let due := decide (h.roundAt + 2 ^ d.fld F.HAY_CKPT_ROUND_LOG2 ≤ d.now) || decide (d.fld F.HAY_CKPT_JRN_MAX_GIB * 2 ^ 30 < h.jrnSince)
      || h.jrnFull
    match h.serves && due, h.media.anchor with
    | true, some a =>
      let d := (sortBy (· < ·) h.dirty).foldl (fun d m =>
        match d.program 31 2 m 0 [] none with
        | none => d
        | some d =>
          let p := d.hay.point 31
          match p.progs.getLast? with
          | none => d
          | some x =>
            (d.landUnit x).onHay fun h =>
              ({ (h.setPoint 31 { p with progs := p.progs.dropLast }) with
                dir := Tbl.put h.dir m x.ppa, dirty := h.dirty.erase m }.journal ⟨2, m, mapEntry x.ppa⟩).closeFull 31) d
      (d.onHay fun h => { h with media.anchor := some (h.anchorNow a.units a.ring), jrnSince := 0, jrnFull := false, roundAt := d.now }).put
        (.media 5 [a.seq + 1] [])
    | _, _ => d

/-! ## Collection and media care (R351, R353 to R362) -/

/-- COPY_VERIFY (R355, R357): the first n copies programmed and not yet verified read back well; each is mapped where its source is still
mapped, and else discarded. `fail`: the next read-back failed in this plane block of the collection point's block. -/
def execCopyVerify (n : Nat) (fail : Option Nat) (s : State) : Out :=
  s.onDev fun d =>
    let cs := d.hay.copies.take n
    let d := d.onHay fun h => { h with copies := h.copies.drop n }
    let d := cs.foldl (fun d c =>
      if c.tag.kind = 2 then
        if Tbl.at? d.hay.dir c.tag.key == some c.tag.src then
          (d.onHay fun h => { h with dir := Tbl.put h.dir c.tag.key c.ppa }.journal ⟨2, c.tag.key, mapEntry c.ppa⟩).count F.HAY_GC_CNT_MOVED
        else d.count F.HAY_GC_CNT_DISCARD
      else if Tbl.at? d.hay.map c.tag.key == some c.tag.src then
        (d.onHay fun h => { h.setMap c.tag.key c.ppa with lastSeq := max h.lastSeq c.tag.seq }).count F.HAY_GC_CNT_MOVED
      else d.count F.HAY_GC_CNT_DISCARD) d
    match fail with
    | none => d
    | some plane => d.retireOpen 30 plane

/-- A block that is free again may end `readonly` (R348). -/
def Dev.freedBlock (d : Dev) : Dev :=
  if d.hay.state == .readonly && decide (d.fld F.HAY_GC_HIGH ≤ d.hay.freeCount) then d.onHay fun h => { h with state := .ready } else d

/-- ERASE_COMPLETE (R356, R359, R360): `fail`: the erase failed in this plane block. -/
def execEraseComplete (block : Nat) (fail : Option Nat) (s : State) : Out :=
  s.onDev fun d =>
    if (d.hay.blk block).state != .erasing then d
    else
      let d := match fail with
        | some p => (d.markPlane block p).raise E.HAY_BLOCK_RETIRED 6 (blockTarget block) block
        | none => d
      let x := d.hay.blk block
      if x.marks.isEmpty then
        let d := d.onHay fun h =>
          { h.logBlk block { x with state := .free, written := 0, reads := 0, erases := x.erases + 1, refresh := false } with
            media.tags := h.media.tags.filter (fun t => ppaBlock t.1 != block), media.pages := h.media.pages.filter (fun t => ppaBlock t.1 != block)
            media.bad := h.media.bad.filter (fun p => ppaBlock p != block) }
        let d := { d with mem := d.mem.filter fun c => !(decide (flashKey (block * 2 ^ 19) ≤ c.1) && decide (c.1 < flashKey ((block + 1) * 2 ^ 19))) }
        let d := d.count F.HAY_GC_CNT_ERASED
        let d := if d.fld F.HAY_WEAR_PE_LIMIT < x.erases + 1 then d.charge .ce 6 (blockTarget block) else d
        d.freedBlock
      else
        let d := d.onHay fun h => h.substituteAll block
        if (d.hay.blk block).state == .bad then d else d.put (.media 3 [block] [])

/-- The closed block of highest score among some, ties to the lower BLOCK_ID (R354). -/
def Dev.bestVictim (d : Dev) (f : Nat → HBlk → Bool) : Option (Nat × Nat) :=
  ((d.hay.blocks.filter fun x => x.2.state == .closed && f x.1 x.2).map fun x => (x.1, d.gcScore x.1)).foldl
    (fun b x => match b with
      | none => some x
      | some y => if y.2 < x.2 then some x else some y) none

/-- GC_START (R352 to R354, R362): a block queued for refresh comes first, then the victim of highest score; with free blocks below LOW and no
block that has an invalid unit, the hayloft becomes read-only. -/
def execGcStart (s : State) : Out :=
  s.onDev fun d =>
    let free := d.hay.freeCount
    let low := decide (free < d.fld F.HAY_GC_LOW)
    let coll := low || (d.hay.collecting && decide (free < d.fld F.HAY_GC_HIGH))
    if !d.hay.serves then d
    else
      let d := d.onHay fun h => { h with collecting := coll }
      match d.hay.blocks.find? fun x => x.2.state == .closed && x.2.refresh with
      | some x => d.makeVictim x.1
      | none =>
        if !coll && !(d.flag F.HAY_CTRL_GROOM_EN && d.hay.queue.isEmpty) then d
        else match d.bestVictim (fun _ _ => true) with
          | some (b, sc) => if 0 < sc then d.makeVictim b else if low && d.hay.state == .ready
              && !d.hay.blocks.any (fun x => x.2.state == .victim || x.2.state == .erasing) then
                ((d.onHay fun h => { h with state := .readonly }).raise E.HAY_READONLY).charge .fail 0 0 else d
          | none => if low && d.hay.state == .ready && !d.hay.blocks.any (fun x => x.2.state == .victim || x.2.state == .erasing) then
                ((d.onHay fun h => { h with state := .readonly }).raise E.HAY_READONLY).charge .fail 0 0 else d

/-- FOLD (R351): while more SLC blocks are in use than the target, the closed SLC block of highest score is folded. -/
def execFold (s : State) : Out :=
  s.onDev fun d =>
    if !d.hay.serves || !d.flag F.HAY_CTRL_GROOM_EN || decide (d.hay.slcUsed ≤ d.hay.target) then d
    else match d.bestVictim fun _ x => x.slc && !x.reserved with
      | some (b, _) => d.makeVictim b
      | none => d

/-- WEAR_LEVEL (R360): the units of the least-worn closed block move into the most-worn free block. -/
def execWearLevel (s : State) : Out :=
  s.onDev fun d =>
    let h := d.hay
    let live := h.allBlocks.filter fun b => (h.blk b).state != .bad
    let counts := live.map fun b => (h.blk b).erases
    let gap := maxOf counts - counts.foldl min (maxOf counts)
    if !h.serves || !d.flag F.HAY_CTRL_WL_EN || decide (gap ≤ d.fld F.HAY_WEAR_WEAR_GAP) then d
    else
      let least := (live.filter fun b => (h.blk b).state == .closed && !(h.blk b).reserved).foldl (fun (m : Option Nat) b => match m with
        | none => some b
        | some y => if (h.blk b).erases < (h.blk y).erases then some b else some y) none
      let most := (h.freeBlocks.filter fun b => !h.claimed.contains b).foldl (fun (m : Option Nat) b => match m with
        | none => some b
        | some y => if (h.blk y).erases < (h.blk b).erases then some b else some y) none
      match least, most with
      | some l, some m => (d.onHay fun h => { h.setPoint 30 { h.point 30 with next := some m } with force := true }).makeVictim l
      | _, _ => d

end Sys2Proof.Machine
end

