-- ==== Sys2Proof/Machine/FabPorts.lean ====
section
/-!
DEFINITION. Machine/FabPorts.lean: lanes and ports going down and coming up (R365 to R368) and the replay of flits (R369)
(spec/13_azrun_memory_fabric.md).
-/

namespace Sys2Proof.Machine

/-- Lanes in a mask. -/
def laneCount (mask : Nat) : Nat := ((List.range 8).filter fun i => bit mask i).length

/-- A port goes down (R368): the error is charged and the event raised; what its replay buffer held is lost to the link; its control messages and
streams take another route, and its cadence field is gone. -/
def Dev.portDown (d : Dev) (port : Nat) : Dev :=
  let q := d.azPort port
  if !q.linked then d
  else
    let d := d.setAzPort port { q with state := 0, lanes := 0, replay := [], ctl := [], paused := [], tx := 0, rx := 0, fails := 0, want := none
                                       trained := some d.now }
    let d := ((d.charge .ue 4 port).count F.AZF_LINK_CNT_PORT_DOWN).raise E.FAB_PORT_DOWN 4 port q.neighbour
    let d := q.ctl.foldl (fun d m => match m with
      | .ack _ dst _ _ _ | .nak _ dst _ _ | .roundAsk _ dst _ _ | .roundDone _ dst _ _ _ => d.sendCtl dst m
      | .vote _ | .decisions _ _ => d) d
    (d.reroute).cadPortLost port

/-- PORT_DOWN (R368). -/
def execPortDown (port : Nat) (s : State) : Out := s.onDev fun d => if port < 16 then d.portDown port else d

/-- PORT_UP (R366, R368, R371): a port with enough lanes and a round trip of at most 128 beats comes up (as the wake lane in `stabled`); the routes
that list it use it, and its neighbour gets this device's decisions (R456). A neighbour with this device's own SLOT_ID raises PWR_DUP_ID and the port stays down, as every port does with TEST_EN set
(R517). `rtt` in 1/16 beat. -/
def Dev.portUp (d : Dev) (port lanes neighbour rtt : Nat) : Dev :=
  let wake := d.pwr.state == .stabled
  if d.pwr.testEn then d
  else if port < 16 && neighbour = d.me then d.raise E.PWR_DUP_ID 4 port
  else if port < 16 && lanes < 256 && rtt ≤ 2048 && neighbour < 2 ^ 15 && (d.azPort port).state != 2 &&
      (if wake then bit lanes 0 else decide (d.fld F.AZF_CTRL_MIN_LANES ≤ laneCount lanes)) then
    let q := d.azPort port
    let q := { q with state := if wake then 3 else 2, lanes := if wake then 1 else lanes, neighbour := neighbour, rtt := rtt, replay := []
                      tx := 0, rx := 0, fails := 0, want := none, trained := some d.now
                      ctl := if d.hlt.decisions.isEmpty then [] else [.decisions neighbour d.hlt.decisions] }
    ((d.setAzPort port q).reroute).revive
  else d
def execPortUp (port lanes neighbour rtt : Nat) (s : State) : Out := s.onDev fun d => d.portUp port lanes neighbour rtt

/-- LANE_LOCK_LOSS (R367, R368): the lane leaves its port; with fewer than MIN_LANES the port goes down. -/
def execLaneLockLoss (port lane : Nat) (s : State) : Out :=
  s.onDev fun d =>
    let q := d.azPort port
    if port < 16 && lane < 8 && q.linked && bit q.lanes lane then
      let left := q.lanes - 2 ^ lane
      let d := d.setAzPort port { q with lanes := left }
      let d := ((d.charge .retrain 5 (8 * port + lane)).count F.AZF_LINK_CNT_LANE_DROP).raise E.FAB_LANE_DOWN 5 (8 * port + lane)
      if laneCount left < d.fld F.AZF_CTRL_MIN_LANES || left = 0 then d.portDown port else d
    else d

/-- LANE_RETRAIN (R367, R442): every 2^26 beats a removed lane is retrained; it rejoins when it passes, and four failures in a row mark it
failed. -/
def execLaneRetrain (port lane : Nat) (pass : Bool) (s : State) : Out :=
  s.onDev fun d =>
    let q := d.azPort port
    if port < 16 && lane < 8 && q.up && !bit q.lanes lane then
      let n := Tbl.rd (fun _ => 0) q.laneFails lane + 1
      let d := d.charge .retrain 5 (8 * port + lane)
      if pass then d.onAzPort port fun q => { q with lanes := q.lanes + 2 ^ lane, laneFails := Tbl.del q.laneFails lane }
      else
        let d := d.onAzPort port fun q => { q with laneFails := Tbl.wr (fun _ => 0) q.laneFails lane n }
        if n = 4 then d.charge .fail 5 (8 * port + lane) else d
    else d

/-! ## Replay (R369) -/

/-- Putting one flit of the replay buffer on the link again. -/
def Dev.resendFlit (d : Dev) (port : Nat) (x : Nat × Sent) : Dev :=
  match x.2 with
  | .packet p => d.put (.packet port (packetArgs p) p.body)
  | .control f => d.put (.flit port f)

/-- Whether a link sequence number of 12 bits lies before another. -/
def seqBefore (a b : Nat) : Bool := decide (a % 4096 ≠ b % 4096) && decide ((b + 4096 - a % 4096) % 4096 < 2048)

/-- Taking a cumulative acknowledgement: flits before it leave the replay buffer. -/
def Dev.linkAck (d : Dev) (port ack : Nat) : Dev :=
  d.onAzPort port fun q => { q with replay := q.replay.filter fun (x : Nat × Sent) => !seqBefore x.1 ack }

/-- Replaying from a flit. -/
def Dev.replayFrom (d : Dev) (port n : Nat) : Dev :=
  ((d.azPort port).replay.filter fun (x : Nat × Sent) => !seqBefore x.1 n).foldl (fun d x => d.resendFlit port x) d

/-- FLIT_CRC_FAIL (R369, R368, R442): replay is asked for from that flit; 8 replays in a row that fail take the port down. -/
def execFlitCrcFail (port seq : Nat) (s : State) : Out :=
  s.onDev fun d =>
    let q := d.azPort port
    if port < 16 && q.linked then
      let d := (d.setAzPort port { q with fails := q.fails + 1, want := some (seq % 4096) }).count F.AZF_LINK_CNT_REPLAY
      let d := d.charge .retry 4 port
      if 8 ≤ q.fails + 1 then d.portDown port else d
    else d

end Sys2Proof.Machine
end

