-- ==== Sys2Proof/Machine/Votes.lean ====
section
/-!
DEFINITION. Machine/Votes.lean: heartbeats and silence, votes and their decisions, what a loss does, spares as they are claimed, and the
tandem's paddocks as devices are lost (spec/16_health_faults_tandem.md R443 to R461, R471 to R475).
-/

namespace Sys2Proof.Machine

/-! ## Heartbeats and silence (R450, R451) -/

/-- Whether the condition of R448 holds: the device score at REPLACE, or the hayloft in readonly or failed. -/
def Dev.degraded (d : Dev) : Bool :=
  decide (d.fld F.HLT_THRESH_REPLACE ≤ d.score 0 0) || d.hay.state == .readonly || d.hay.state == .failed

/-- HB_STATE (R450); 7 before 6, the spare's states before 2 and 1 (DEDUCED, log entry 76). -/
def Dev.hbState (d : Dev) : Nat :=
  if d.hlt.stripped || (Tbl.at? d.hlt.aliases d.me).isSome then 7
  else if d.pwr.state == .stabled then 6
  else match d.hlt.spare with
    | .loading => 5
    | .ready => 4
    | .unready => 3
    | _ => if d.hlt.askReplace then 2 else if d.hlt.parts.any (fun (x : Nat × PartHealth) => x.2.failed) then 1 else 0

/-- The heartbeat of this device now. -/
def Dev.heartbeat (d : Dev) : Heartbeat :=
  { num := bits d.now 31 8, state := d.hbState, score := d.score 0 0, ports := d.upPorts.length, epoch := d.comp.cur.epoch }

/-- HEARTBEAT_SEND (R450): at a multiple of 256, every port that is up, or is a wake lane, owes a heartbeat. -/
def execHeartbeatSend (s : State) : Out :=
  s.onDev fun d =>
    if d.now % 256 = 0 then
      (List.range 16).foldl (fun (d : Dev) i => if (d.azPort i).linked then d.onAzPort i fun q => { q with hbDue := true, hbAt := d.now } else d) d
    else d

/-- The ports whose neighbour is a device. -/
def Dev.portsTo (d : Dev) (dev : Nat) : List Nat := (List.range 16).filter fun i => (d.azPort i).trained.isSome && (d.azPort i).neighbour == dev

/-- Whether a neighbour is silent (R451): electrical idle, or 1,088 beats since its last heartbeat on any port (since its port came up, where it
has sent none). -/
def Dev.silent (d : Dev) (dev : Nat) : Bool :=
  d.hlt.idle.contains dev ||
    (let up := maxOf ((d.portsTo dev).map fun i => ((d.azPort i).trained).getD 0)
     decide ((Tbl.at? d.fab.heardAt dev).getD up + 1088 ≤ d.now))

/-- Whether a port was trained to a device in the last 2^20 beats (R454). -/
def Dev.wasNeighbour (d : Dev) (dev : Nat) : Bool :=
  (d.portsTo dev).any fun i => (d.azPort i).linked || decide (d.now < ((d.azPort i).trained).getD 0 + 2 ^ 20)

/-- Whether this device is a spare in `ready` that a vote on a subject may claim. -/
def Dev.readyFor (d : Dev) (subject : Nat) : Bool := d.hlt.spare == .ready && d.me / 2 ^ 14 == subject / 2 ^ 14

/-! ## Votes (R453, R454, R475) -/

/-- Beats from the call to the close. -/
def voteWindow (vkind : Nat) : Nat := if vkind = 2 then 2 ^ 18 else 512

/-- Whether calls of two beats form one vote. -/
def nearCall (a b : Nat) : Bool := decide (a ≤ b + 512) && decide (b ≤ a + 512)

/-- The open vote a message belongs to. -/
def Dev.voteOf (d : Dev) (m : VoteMsg) : Option Vote :=
  d.hlt.votes.find? fun (v : Vote) => v.vkind == m.vkind && v.subject == m.subject && nearCall v.callBeat m.callBeat
def Dev.putVote (d : Dev) (old : Option Vote) (v : Vote) : Dev :=
  { d with hlt.votes := match old with
      | some o => d.hlt.votes.map fun (x : Vote) => if x == o then v else x
      | none => d.hlt.votes ++ [v] }

/-- LOSS and EXPEL open on one subject: the EXPEL is void (R475). -/
def Dev.voidVotes (d : Dev) : Dev :=
  { d with hlt.votes := d.hlt.votes.map fun (v : Vote) =>
      if v.vkind == 2 && d.hlt.votes.any (fun (w : Vote) => w.vkind == 1 && w.subject == v.subject) then { v with void := true } else v }

/-- A message goes out on every port that is up, once (R453). Answers whether it is new. -/
def Dev.flood (d : Dev) (m : VoteMsg) : Bool × Dev :=
  let k := [m.vmsg, m.vkind, m.subject, m.callBeat, m.caller, m.sender]
  if d.hlt.seen.contains k then (false, d)
  else
    let d := { d with hlt.seen := d.hlt.seen ++ [k] }
    (true, (List.range 16).foldl (fun (d : Dev) i => if (d.azPort i).linked then d.queueCtl i (.vote m) else d) d)

/-- The ballot of this device (R454): of a neighbour LOST or ALIVE, else READY of a ready spare of the subject's plane. -/
def Dev.ballotOn (d : Dev) (v : Vote) : Option Nat :=
  if v.subject = d.me then none
  else if v.vkind = 1 && d.wasNeighbour v.subject then some (if d.silent v.subject then 1 else 2)
  else if d.readyFor v.subject && (v.vkind != 1 || d.flag F.HLT_TANDEM_EN) then some 3
  else none

/-- Recording a ballot: one of each sender. -/
def Vote.record (v : Vote) (b : Ballot) : Vote :=
  if v.ballots.any (fun (x : Ballot) => x.sender == b.sender) then v else { v with ballots := v.ballots ++ [b] }

/-- Casting this device's ballot, once per vote. -/
def Dev.cast (d : Dev) (v : Vote) : Dev :=
  if v.own.isSome || !d.flag F.HLT_CTRL_EN || d.flag F.HLT_CTRL_COMPAT || d.hlt.stripped then d
  else match d.ballotOn v with
    | none => d
    | some b =>
      let d := d.putVote (some v) ({ v with own := some b }.record { sender := d.me, ballot := b, cast := d.now })
      (d.flood { vmsg := 2, vkind := v.vkind, subject := v.subject, sender := d.me, ballot := b, callBeat := v.callBeat, castBeat := d.now
                 caller := v.caller, epoch := d.comp.cur.epoch }).2

/-- A call: it joins its vote, which is identified by its lowest (CALL_BEAT, CALLER), or begins one; the device casts its ballot. -/
def Dev.called (d : Dev) (m : VoteMsg) : Dev :=
  if d.flag F.HLT_CTRL_COMPAT then d
  else
    let old := d.voteOf m
    let v : Vote := match old with
      | none => { vkind := m.vkind, subject := m.subject, callBeat := m.callBeat, caller := m.caller, score := m.score }
      | some o =>
        if m.callBeat < o.callBeat || (m.callBeat == o.callBeat && decide (m.caller ≤ o.caller)) then
          { o with callBeat := m.callBeat, caller := m.caller, score := m.score } else o
    ((d.putVote old v).cast v).voidVotes

/-- A ballot is recorded with its vote; one that comes before its call begins the record. -/
def Dev.balloted (d : Dev) (m : VoteMsg) : Dev :=
  if d.flag F.HLT_CTRL_COMPAT then d
  else
    let old := d.voteOf m
    let v : Vote := old.getD { vkind := m.vkind, subject := m.subject, callBeat := m.callBeat, caller := m.caller }
    (d.putVote old (v.record { sender := m.sender, ballot := m.ballot, cast := m.castBeat })).voidVotes

/-- A vote message, received or this device's own (R453): one whose CRC or reserved fields are wrong is dropped; a new one is forwarded and taken. -/
def Dev.voteMsg (d : Dev) (m : VoteMsg) : Dev :=
  if !m.ok then d
  else match d.flood m with
    | (false, d) => d
    | (true, d) =>
      match m.vmsg with
      | 1 => d.called m
      | 2 => d.balloted m
      | 3 => { d with hlt.declares := d.hlt.declares ++ [m] }
      | _ => d

/-- VOTE_CALL, VOTE_BALLOT and VOTE_DECLARE (R453, R458). -/
def execVoteCall (v : VoteMsg) (s : State) : Out := s.onDev fun d => if v.vmsg = 1 then d.voteMsg v else d
def execVoteBallot (v : VoteMsg) (s : State) : Out := s.onDev fun d => if v.vmsg = 2 then d.voteMsg v else d
def execVoteDeclare (v : VoteMsg) (s : State) : Out := s.onDev fun d => if v.vmsg = 3 then d.voteMsg v else d

/-- Calling a vote. -/
def Dev.callVote (d : Dev) (vkind subject score : Nat) : Dev :=
  d.voteMsg { vmsg := 1, vkind := vkind, subject := subject, sender := d.me, callBeat := d.now, score := score, caller := d.me, epoch := d.comp.cur.epoch }

/-- Whether a device may call votes at all. -/
def Dev.mayCall (d : Dev) : Bool := d.flag F.HLT_CTRL_EN && !d.flag F.HLT_CTRL_COMPAT && !d.hlt.stripped

/-- NEIGHBOUR_SILENT (R451, R454, R458): HLT_SUSPECT with COMPAT set; otherwise a LOSS call, unless such a vote on it is open or was decided in the
last 2^20 beats. A device treated as absent is not called. -/
def execNeighbourSilent (device : Nat) (idle : Bool) (s : State) : Out :=
  s.onDev fun d =>
    if (d.portsTo device).isEmpty || device = d.me then d
    else
      let d := if idle then { d with hlt.idle := addOnce d.hlt.idle device } else d
      if !d.silent device then d
      else if d.flag F.HLT_CTRL_COMPAT then d.raise E.HLT_SUSPECT 0 0 0 (some device)
      else if !d.mayCall || d.isLost device || d.hlt.votes.any (fun (v : Vote) => v.vkind == 1 && v.subject == device)
          || (match Tbl.at? d.hlt.lossEnd device with | some b => decide (d.now < b + 2 ^ 20) | none => false) then d
      else d.callVote 1 device (match Tbl.at? d.fab.heard device with | some h => h.score | none => 0)

/-- EXPEL_CALL (R449, R454, R475): a device in degraded service asks for replacement again and calls its own expulsion. -/
def execExpelCall (s : State) : Out :=
  s.onDev fun d =>
    if !d.degraded then d
    else
      let d := d.askForReplacement
      if !d.mayCall || d.pwr.state == .stabled || d.hlt.spare == .loading || d.hlt.loads.any (fun (x : Nat × Nat) => x.1 == d.me || x.2 == d.me)
          || d.hlt.votes.any (fun (v : Vote) => v.vkind == 2 && v.subject == d.me)
          || (Tbl.at? d.hlt.aliases d.me).isSome
          || (match d.hlt.expelKept with | some b => decide (d.now < b + 2 ^ 28) | none => false) then d
      else d.callVote 2 d.me (d.score 0 0)

/-- SUBST_CALL (R454): in a tandem, the partner of a device lost without substitution, every 2^24 beats. -/
def execSubstCall (s : State) : Out :=
  s.onDev fun d =>
    let p := partnerOf d.me
    if d.mayCall && d.flag F.HLT_TANDEM_EN && d.isLost p && (Tbl.at? d.hlt.aliases p).isNone
        && (match d.hlt.substAt with | some b => decide (b + 2 ^ 24 ≤ d.now) | none => true) then
      ({ d with hlt.substAt := some d.now }).callVote 3 p 0
    else d

/-! ## A tandem's paddocks as devices are lost (R468, R472, R473) -/

/-- Delivery moves to this home for the stalls a test picks. -/
def Dev.takeDeliveries (d : Dev) (f : Stall → Bool) : Dev :=
  (d.stl.stalls.filter fun (x : Nat × Stall) => x.2.side == 2 && f x.2).foldl (fun (d : Dev) (x : Nat × Stall) => d.takeDelivery x.1) d

/-- Delivery leaves this home for the stalls that execute on a paddock halted on this plane. -/
def Dev.loseDeliveries (d : Dev) (pad : Nat) : Dev :=
  (d.stl.stalls.filter fun (x : Nat × Stall) => x.2.side == 1 && x.2.phase.paddock == some pad).foldl
    (fun (d : Dev) (x : Nat × Stall) => d.onStall x.1 fun y => { y with side := 2 }) d

/-- A paddock goes from `mirrored` to `solo`: what is held is released without comparison; an invocation whose entries met an error here is
computed again first (R472, R475). -/
def Dev.goSolo (d : Dev) (pad : Nat) (t : TandemPad) : Dev :=
  let ids := (d.hlt.heldInvs.filter fun (h : HeldInv) => h.paddock == pad).map fun (h : HeldInv) => h.inv
  let d := { d with hlt.heldInvs := d.hlt.heldInvs.map fun (h : HeldInv) =>
      if h.paddock == pad && h.outcome.isNone then { h with outcome := some (if h.err then 1 else 0) } else h }
  let d := (d.setTpad pad { t with state := .solo }).raise E.HLT_SOLO 0 0 pad
  let d := ids.foldl (fun (d : Dev) i => d.reportInv i) d
  d.takeDeliveries fun x => x.phase.paddock == some pad

/-- A paddock goes from `mirrored` to `halted` on this plane: its schedule stops and what is held is discarded. -/
def Dev.goHalted (d : Dev) (pad : Nat) (t : TandemPad) : Dev :=
  let d := if d.inPaddock pad then d.stopMirrored pad else d
  (d.setTpad pad { t with state := .halted, again := [] }).loseDeliveries pad

/-- Both copies of a member are lost. -/
def Dev.doubleFault (d : Dev) (pad : Nat) (t : TandemPad) : Dev :=
  let d := if d.inPaddock pad then d.stopMirrored pad else d
  (d.setTpad pad { t with state := .halted, double := true }).raise E.DOUBLE_FAULT 0 0 pad

/-- A lost device's paddocks in a tandem. -/
def Dev.tandemLost (d : Dev) (dev : Nat) : Dev :=
  let x := d.placeDev dev
  d.hlt.tpads.foldl (fun (d : Dev) (p : Nat × TandemPad) =>
    let ms := d.paddockDevs p.1
    let own := ms.contains dev || ms.contains x
    let other := ms.contains (partnerOf x)
    match p.2.state with
    | .mirrored => if own then d.goHalted p.1 p.2 else if other then d.goSolo p.1 p.2 else d
    | .solo => if own then d.doubleFault p.1 p.2 else d
    | .loading => if other then d.doubleFault p.1 p.2 else d
    | .halted => if other then d.setTpad p.1 { p.2 with double := true } else d) d

/-! ## Spares (R455, R457, R459 to R461) -/

/-- A map with one device in another's place. -/
def CompMap.standIn (m : CompMap) (dev spare : Nat) : CompMap :=
  { m with members := m.members.map fun x => if x.device == dev then { x with device := spare } else x
           devices := m.devices.map fun e => if e.device == spare then { e with role := m.roleOf dev } else if e.device == dev then { e with role := 0 } else e }

/-- This spare takes a device's role, role epoch and memberships, and begins to load (R460). -/
def Dev.beginLoad (d : Dev) (dev src : Nat) : Dev :=
  let pads := (d.comp.cur.memberships dev).map fun (x : Member) => x.paddock
  let d := { d with comp.role := d.comp.cur.roleOf dev, comp.roleEpoch := d.roleEpochOf dev, comp.staged := some d.comp.asStaged
                    comp.cur := d.comp.cur.standIn dev d.me, comp.old := d.comp.old.map fun m => m.standIn dev d.me
                    hlt.spare := .loading, hlt.spareFor := some dev, hlt.spareSrc := some src }
  pads.foldl (fun (d : Dev) p => d.setSepPad p { d.sepPad p with halted := true }) d

/-- A decision claims a spare for a device (R455, R457, R461): every device enters the alias; the replaced device itself, when it is the source,
enters it at cutover. Paddocks halted for the lost member begin to load (R472). -/
def Dev.claim (d : Dev) (dev spare src : Nat) : Dev :=
  let d := { d with hlt.loads := d.hlt.loads ++ [(src, spare)] }
  let d := if dev = d.me then d else { d with hlt.aliases := Tbl.put d.hlt.aliases dev spare }
  let d := d.hlt.tpads.foldl (fun (d : Dev) (p : Nat × TandemPad) =>
    if p.2.state == .halted && !p.2.double && (d.paddockDevs p.1).contains dev then d.setTpad p.1 { p.2 with state := .loading } else d) d
  if spare = d.me && d.hlt.spare == .ready then (d.beginLoad dev src).wake else d

/-- SPARE_SELF_TEST_DONE (R459). -/
def execSpareSelfTestDone (pass : Bool) (s : State) : Out :=
  s.onDev fun d =>
    if d.hlt.spare == .unready && pass && d.flag F.HLT_CTRL_SPARE_EN && decide (d.score 0 0 < d.fld F.HLT_THRESH_WARN) then
      { d with hlt.spare := .ready }
    else d

/-! ## Decisions (R452, R455 to R458) -/

/-- This device learns that it has been declared lost, or has left its place to a spare: it takes role none. -/
def Dev.strip (d : Dev) : Dev :=
  let pads := (d.comp.cur.memberships d.me).map fun (x : Member) => x.paddock
  let d := { d with hlt.stripped := true, comp.role := 0, hlt.lost := Tbl.put d.hlt.lost d.me false }
  let d := (Tbl.keys d.sep.invs).foldl (fun (d : Dev) k => d.stopInv k) d
  (pads.foldl (fun (d : Dev) p => d.setSepPad p { d.sepPad p with halted := true }) d).askForReplacement

/-- The shard queries asked of a device go to ALT (R290). -/
def Dev.queriesLost (d : Dev) (dev : Nat) : Dev :=
  (d.srch.queries.flatMap fun (x : Nat × Query) => (x.2.subs.filter fun (y : SubQuery) => y.asked == dev && y.ans.isNone).map fun (y : SubQuery) => (x.1, y.shard)).foldl
    (fun (d : Dev) k => d.askAlt k.1 k.2) d

/-- A device is declared lost (R452). -/
def Dev.declareLost (d : Dev) (dev : Nat) : Dev :=
  if d.isLost dev then d
  else if dev = d.me then d.strip
  else
    let x := d.placeDev dev
    let d := { d with hlt.lost := Tbl.put d.hlt.lost dev false }
    let d := { d with fab.rounds := d.fab.rounds.map fun (r : Round) => if r.members.contains x then { r with lost := addOnce r.lost x } else r }
    let d := ((d.markDead dev).promote dev).shadowLost dev
    let d := (d.qpLost dev).queriesLost dev
    let d := (d.portsTo dev).foldl (fun (d : Dev) i => d.cadPortLost i) d
    let d := if d.hlt.active || !d.hlt.tpads.isEmpty then d.tandemLost dev else d
    let d := if partnerOf d.me = dev then d.takeDeliveries fun _ => true else d
    let gone := d.hlt.aliases.filter fun (a : Nat × Nat) => a.2 == dev
    let d := { d with hlt.aliases := d.hlt.aliases.filter (fun (a : Nat × Nat) => a.2 != dev)
                      hlt.loads := d.hlt.loads.filter fun (l : Nat × Nat) => l.1 != dev && l.2 != dev }
    let d := gone.foldl (fun (d : Dev) (a : Nat × Nat) => d.hlt.tpads.foldl (fun (d : Dev) (p : Nat × TandemPad) =>
      if p.2.state == .loading && (d.paddockDevs p.1).contains a.1 then d.setTpad p.1 { p.2 with state := .halted } else d) d) d
    if d.hlt.spare == .loading && d.hlt.spareSrc == some dev then d.dropLoad true else d

/-- Keeping a decision (R456): those within WINDOW, at most 1,024. -/
def Dev.keepDecision (d : Dev) (x : Decision) : Dev :=
  let l := (d.hlt.decisions ++ [x]).filter fun (y : Decision) => decide (d.now ≤ y.tally + d.fld F.HLT_EXPEL_WIN_WINDOW)
  { d with hlt.decisions := l.drop (l.length - 1024) }

/-- The devices that make the pool of a device: those not spare that hold its role in the current map. -/
def Dev.poolSize (d : Dev) (dev : Nat) : Nat :=
  (d.comp.asStaged.devices.filter fun (e : DevEntry) => !e.spare && e.role == d.comp.asStaged.roleOf dev).length

/-- The EXPEL decisions of a pool in the last WINDOW beats. -/
def Dev.expelled (d : Dev) (role : Nat) : Nat :=
  (d.hlt.decisions.filter fun (x : Decision) => x.vkind == 2 && x.role == role && decide (d.now ≤ x.tally + d.fld F.HLT_EXPEL_WIN_WINDOW)).length

/-- The spare a vote claims: the lowest READY device not claimed, while the alias table has room. -/
def Dev.claimable (d : Dev) (bs : List Ballot) : Option Nat :=
  if 256 ≤ d.hlt.aliases.length then none
  else (sortBy (fun (a b : Nat) => decide (a < b)) ((bs.filter fun (b : Ballot) => b.ballot == 3).map fun (b : Ballot) => b.sender)).find? fun s =>
    !d.hlt.aliases.any (fun (x : Nat × Nat) => x.2 == s) && !d.hlt.loads.any fun (x : Nat × Nat) => x.2 == s

/-- Applying a decision on every device (R457, R458). -/
def Dev.decided (d : Dev) (vkind subject callBeat : Nat) (spare : Option Nat) : Dev :=
  let d := d.keepDecision { tally := d.now, vkind := vkind, subject := subject, spare := spare, callBeat := callBeat, role := d.comp.asStaged.roleOf subject }
  let p := partnerOf subject
  match vkind with
  | 1 =>
    let d := (d.count F.HLT_VOTE_CNT_LOST).raise E.HLT_LOST 0 0 callBeat (some subject)
    let d := d.declareLost subject
    match spare with | some x => d.claim subject x p | none => d
  | 2 =>
    let d := (d.count F.HLT_VOTE_CNT_EXPELLED).raise E.HLT_EXPELLED 0 0 callBeat (some subject)
    let mirrored := (d.comp.cur.memberships subject).any fun (x : Member) => d.mirrored x.paddock
    match spare with | some x => d.claim subject x (if mirrored then p else subject) | none => d
  | _ =>
    let d := d.raise E.HLT_SUBST 0 0 callBeat (some subject)
    match spare with | some x => d.claim subject x p | none => d

/-- The tally of one vote (R455). -/
def Dev.tally (d : Dev) (v : Vote) : Dev :=
  let d := { d with hlt.votes := d.hlt.votes.filter fun (x : Vote) => x != v }
  let bs := v.ballots.filter fun (b : Ballot) => b.cast ≤ v.callBeat + voteWindow v.vkind
  let has := fun k => bs.any fun (b : Ballot) => b.ballot == k
  let d := d.count F.HLT_VOTE_CNT_CALLS
  match v.vkind with
  | 1 =>
    let d := { d with hlt.lossEnd := Tbl.put d.hlt.lossEnd v.subject d.now }
    if has 1 && has 2 then
      let d := d.raise E.HLT_SPLIT 0 0 v.callBeat (some v.subject)
      if v.own = some 1 then (d.portsTo v.subject).foldl (fun (d : Dev) i => d.portDown i) d else d
    else if has 1 then d.decided 1 v.subject v.callBeat (if d.flag F.HLT_TANDEM_EN then d.claimable bs else none)
    else d
  | 2 =>
    let n := d.expelled (d.comp.asStaged.roleOf v.subject) + 1
    let ok := decide (d.fld F.HLT_THRESH_REPLACE ≤ v.score) && decide (n * 10000 ≤ d.poolSize v.subject * d.fld F.HLT_EXPEL_LIMIT_BP)
    match (if v.void || !ok then none else d.claimable bs) with
    | some x => d.decided 2 v.subject v.callBeat (some x)
    | none =>
      if v.void then d
      else
        let d := d.count F.HLT_VOTE_CNT_HELD
        if v.subject = d.me then (({ d with hlt.expelKept := some d.now }).askForReplacement).raise E.HLT_EXPEL_HELD 0 0 v.callBeat else d
  | _ => match d.claimable bs with
    | some x => d.decided 3 v.subject v.callBeat (some x)
    | none => d

/-- What falls due at VOTE_TALLY: a vote, or a declare as if it were a tallied decision. -/
inductive Due where
  | vote (v : Vote)
  | declare (m : VoteMsg)
  deriving DecidableEq, Repr

/-- The beat at which something takes effect, and what orders equal ones. -/
def Due.key : Due → List Nat
  | .vote v => [v.callBeat + voteWindow v.vkind + 512, v.callBeat, v.subject]
  | .declare m => [m.callBeat + 512, m.callBeat, m.subject]

/-- VOTE_TALLY (R453, R455, R458, R475): what is due takes effect in the order of its beat, CALL_BEAT and SUBJECT. A declare's spare is its CALLER. -/
def execVoteTally (s : State) : Out :=
  s.onDev fun d =>
    let all := d.hlt.votes.map Due.vote ++ d.hlt.declares.map Due.declare
    let due := sortBy (fun (a b : Due) => decide (a.key < b.key)) (all.filter fun (x : Due) => decide (x.key.headD 0 ≤ d.now))
    due.foldl (fun (d : Dev) (x : Due) =>
      match x with
      | .vote v => if d.hlt.votes.contains v then d.tally v else d
      | .declare m =>
        ({ d with hlt.declares := d.hlt.declares.filter fun (y : VoteMsg) => y != m }).decided m.vkind m.subject m.callBeat
          (if m.caller = 0xFFFF then none else some m.caller)) d

/-- Whether a device may be named as a spare (R458): its map entry says so, nothing has claimed it, and it is in `ready` as far as this device
knows: its own state, or its last heartbeat where it is a neighbour. -/
def Dev.spareReady (d : Dev) (x : Nat) : Bool :=
  (match d.comp.cur.entry x with | some e => e.spare | none => false) && !d.isLost x && !d.hlt.aliases.any (fun (a : Nat × Nat) => a.2 == x)
    && (if x = d.me then d.hlt.spare == .ready else match Tbl.at? d.fab.heard x with | some h => h.state == 4 | none => true)

/-- HLT_DECLARE (R458, R475): flooded as a declare message, whose CALLER carries the spare. A device declared lost is absent from the map
(R452), except as the subject of a substitution, which is always a lost device. -/
def execHltDeclare (c : HostCmd) (s : State) : Out := s.onDev fun d =>
  d.hostCmd (argSpec 0xFF 0xFFFFFFFF 0) c fun d =>
    let vkind := c.a0
    let subject := c.a1 % 2 ^ 16
    let spare := bits c.a1 31 16
    if !d.flag F.HLT_CTRL_COMPAT || !(1 ≤ vkind && vkind ≤ 3) || (d.comp.cur.entry subject).isNone
        || (vkind != 3 && d.isLost subject)
        || (if spare = 0xFFFF then vkind != 1 else !d.spareReady spare || decide (256 ≤ d.hlt.aliases.length)) then (d, .done C.HLT_DECLARE_BAD [])
    else (d.voteMsg { vmsg := 3, vkind := vkind, subject := subject, sender := d.me, callBeat := d.now, caller := spare, epoch := d.comp.cur.epoch }, .ok)

/-! ## Health (R443, R448, R449) -/

/-- A after a decay, for a part. -/
def PartHealth.decayed (p : PartHealth) (floor : Nat) : PartHealth :=
  let a := p.acc - p.acc / 32
  { p with acc := if p.failed then max a (min p.acc floor) else a }

/-- HEALTH_DECAY (R443, R445): every accumulator decays, a failed part's not below REPLACE * 64; thresholds are armed again as scores fall. -/
def execHealthDecay (s : State) : Out :=
  s.onDev fun d =>
    let floor := d.fld F.HLT_THRESH_REPLACE * 64
    let ks := d.hlt.parts.map fun (x : Nat × PartHealth) => x.1
    let d := { d with hlt.parts := d.hlt.parts.map fun (x : Nat × PartHealth) => (x.1, x.2.decayed floor) }
    (ks.flatMap fun k => containers (k / 1024) (k % 1024)).foldl (fun (d : Dev) k => d.crossings k.1 k.2) d

/-- HLT_ASK_RELEASE (R449). -/
def Dev.askRelease (d : Dev) : Dev := if d.hlt.askReplace then ({ d with hlt.askReplace := false }).put (.pin .askReplace false) else d
end Sys2Proof.Machine
end

