-- ==== Sys2Proof/Machine/Tandem.lean ====
section
/-!
DEFINITION. Machine/Tandem.lean: mirroring as it begins and ends, digests of the partner, loads as they cut over, and checkpoints
(spec/16_health_faults_tandem.md R462 to R473).
-/

namespace Sys2Proof.Machine

/-! ## Mirroring (R467, R472) -/

/-- Clearing HLT_TANDEM.EN on this device (R472, R475): its mirrored paddocks halt here, a load is abandoned, and paddocks served alone go on
outside the tandem. -/
def Dev.tandemOff (d : Dev) : Dev :=
  let d := { d with hlt.active := false, hlt.enAt := none, hlt.tandemBad := false }
  let d := d.hlt.tpads.foldl (fun (d : Dev) (p : Nat × TandemPad) =>
    if !d.inPaddock p.1 || p.2.state == .solo then { d with hlt.tpads := Tbl.del d.hlt.tpads p.1 }
    else if p.2.state == .mirrored then d.goHalted p.1 p.2
    else d.setTpad p.1 { p.2 with state := .halted }) d
  d.dropLoad false

/-- What a write of HLT_TANDEM does, given EN before it. -/
def Dev.tandemWritten (d : Dev) (was : Bool) : Dev :=
  let en := d.flag F.HLT_TANDEM_EN
  if en && !was then { d with hlt.enAt := some d.now, hlt.tandemBad := false }
  else if !en && was then d.tandemOff
  else d

/-- HLT_TANDEM_BAD (R467). -/
def execHltTandemBad (s : State) : Out :=
  s.onDev fun d =>
    match d.hlt.enAt with
    | some b => if d.flag F.HLT_TANDEM_EN && !d.hlt.active && !d.hlt.tandemBad && decide (b + 2 ^ 20 ≤ d.now) then
        ({ d with hlt.tandemBad := true }).raise E.HLT_TANDEM_BAD else d
    | none => d

/-- The image of a map as its bytes (R26), with every device's plane bit exchanged where `flip`. -/
def CompMap.image (m : CompMap) (flip : Bool) : Bytes :=
  let x := fun (dev : Nat) => if flip then partnerOf dev else dev
  let head := leBytes 4 0x50414D43 ++ leBytes 4 m.epoch ++ leBytes 8 m.effBeat ++ leBytes 4 m.grace ++ leBytes 2 m.devices.length ++ leBytes 2 0
    ++ leBytes 4 m.members.length ++ leBytes 4 0 ++ List.replicate 32 0
  head ++ (m.devices.flatMap fun e => leBytes 2 (x e.device) ++ leBytes 1 e.role ++ leBytes 1 (b2n e.spare) ++ leBytes 4 e.roleEpoch
      ++ leBytes 2 (x e.shadow) ++ List.replicate 6 0)
    ++ m.members.flatMap fun e => leBytes 2 e.paddock ++ leBytes 2 (x e.device) ++ leBytes 2 e.rank ++ leBytes 2 e.model ++ leBytes 8 e.clusters
      ++ leBytes 4 e.chgrps ++ leBytes 2 e.ports ++ List.replicate 10 0

/-- The CRC a neighbour's map has when it agrees with a map of this device: of one plane the same, across planes that of the image with the plane
bits exchanged (R29, R466, R467; DEDUCED, log entry 79). -/
def Dev.crcSeen (d : Dev) (m : CompMap) (dev : Nat) : Nat :=
  if dev / 2 ^ 14 = d.me / 2 ^ 14 || m.epoch = 0 then m.crc else crc32c (m.image true)

/-- Whether the maps a partner announces agree with this device's. -/
def Dev.mapsAgree (d : Dev) (f : CtlFlit) : Bool :=
  let ann := fun (m : CompMap) => (m.epoch, d.crcSeen m f.src)
  f.cur == ann d.comp.asStaged && f.map == d.comp.pending.map ann

/-- A heartbeat of the partner on a direct port (R467): mirroring begins when every condition holds, and every paddock of the map is mirrored; the
partner's EN cleared leaves this device's mirrored paddocks alone (R472). -/
def Dev.tandemHeard (d : Dev) (f : CtlFlit) : Dev :=
  match f.hb with
  | none => d
  | some h =>
    let was := d.hlt.partnerEn
    let d := { d with hlt.partnerEn := f.tandem }
    if d.hlt.active then
      if was && !f.tandem then d.hlt.tpads.foldl (fun (d : Dev) (p : Nat × TandemPad) =>
        if p.2.state == .mirrored && d.inPaddock p.1 then d.goSolo p.1 p.2 else d) d
      else d
    else if d.flag F.HLT_TANDEM_EN && d.cad.detm && h.epoch == d.comp.cur.epoch && f.tandem && d.mapsAgree f then
      let d := { d with hlt.active := true }
      d.allPaddocks.foldl (fun (d : Dev) p => if (d.tpad p).isSome then d else d.setTpad p {}) d
    else d

/-! ## Digests (R470 to R472) -/

/-- DIGEST (R470, R472): the partner's digest of an invocation that is held, or still runs, here; any other is discarded and counted. -/
def execDigest (src : Nat) (body : Bytes) (s : State) : Out :=
  s.onDev fun d =>
    let pad := field body 0 2
    let base := field body 8 8
    let known := d.mirrored pad && src == partnerOf d.me && d.sep.invs.any fun (x : Nat × Inv) => x.2.paddock == pad && x.2.base == base && x.2.refused.isNone
    if !known then d.count F.HLT_MIRROR_CNT_STRAY
    else
      let x : DigestIn := { src := src, paddock := pad, rank := field body 2 2, base := base, digest := field body 16 8, err := bit (field body 4 1) 0
                            score := field body 24 2 }
      let d := { d with hlt.digests := d.hlt.digests ++ [x] }
      match d.hlt.heldInvs.find? (fun (h : HeldInv) => h.paddock == pad && h.base == base && h.outcome.isNone) with
      | some h => (d.compareHeld h.inv).reportInv h.inv
      | none => d

/-- HLT_LAG (R470): once for each held invocation whose partner digest is late. -/
def execHltLag (s : State) : Out :=
  s.onDev fun d =>
    let late := fun (h : HeldInv) => h.outcome.isNone && !h.lagged && decide (h.ended + 2 ^ d.fld F.HLT_TANDEM_LAG_LOG2 ≤ d.now)
    let pads := (d.hlt.heldInvs.filter late).map fun (h : HeldInv) => h.paddock
    let d := { d with hlt.heldInvs := d.hlt.heldInvs.map fun (h : HeldInv) => if late h then { h with lagged := true } else h }
    pads.foldl (fun (d : Dev) p => d.raise E.HLT_LAG 0 0 p) d

/-! ## Cutover (R459, R462, R472) -/

/-- What a region of a load holds. -/
def loadUse : Nat → RegionUse
  | 0 => .page
  | 1 => .opens
  | 2 => .ring
  | _ => .parked

/-- Taking what a load copied. -/
def Dev.install (d : Dev) (m : LoadImage) : Dev :=
  let d := m.mem.foldl (fun (d : Dev) (x : Nat × Bytes × Bool) => (d.store x.1 x.2.1).setPoison x.1 x.2.1.length x.2.2) d
  let d := m.models.foldl (fun (d : Dev) b => { d with kv.models := Tbl.put d.kv.models (field b 0 2) (KvModel.read b) }) d
  let d := m.pads.foldl (fun (d : Dev) b =>
    let r := KvPaddock.read b;
    { d with kv.paddocks := Tbl.put d.kv.paddocks (field b 0 2) { r with heapBase := r.heapBase % 2 ^ 40 } }) d
  let d := m.regions.foldl (fun (d : Dev) l => match l with
    | [pad, base, size, key, page, shard, use] => d.setHeap pad (d.heap pad ++ [({ base, size, key, page, shard, use := loadUse use } : Region)])
    | _ => d) d
  let d := m.slots.foldl (fun (d : Dev) (x : Nat × Nat × Nat × Bytes) =>
    d.setSepPad x.1 { d.sepPad x.1 with slots := Tbl.put (d.sepPad x.1).slots x.2.1 { img := x.2.2.2, base := x.2.2.1 } }) d
  let d := m.prefetch.foldl (fun (d : Dev) (x : Nat × Nat × List Bytes) =>
    d.setSepPad x.1 { d.sepPad x.1 with pf := Tbl.put (d.sepPad x.1).pf x.2.1 x.2.2 }) d
  let d := m.stalls.foldl (fun (d : Dev) (n : ShipNotice) =>
    let k := stallKey n.home n.stall
    let d := d.enterExec n
    { d with kv.execs := Tbl.upd d.kv.execs k fun x => { x with started := true } }) d
  let d := m.held.foldl (fun (d : Dev) (h : LoadHeld) =>
    match d.takeFrames (ceilDiv h.body.length 65536) 3 with
    | none => d
    | some (fs, d) =>
      let desc := { Desc.read h.desc with addr := fs.headD 0 * 16, holder := d.me, tier := 1 }
      { d with pan.held := d.pan.held ++ [({ home := h.home, stall := h.stall, page := h.page, shard := h.shard, desc := desc, size := h.body.length,
                                              paddock := none, frames := fs, poison := h.poison, body := h.body } : HeldRegion)] }) d
  m.shards.foldl (fun (d : Dev) h =>
    let ents := ((List.range (field h 19 1)).map fun i => field h (32 + 4 * i) 4).filter (· != noSlot)
    (d.adoptShard h).putShard (field h 4 1) (field h 6 2) { hdr := h, entries := ents }) d

/-- A paddock's schedule goes on here. -/
def Dev.unhalt (d : Dev) (pad : Nat) : Dev := d.setSepPad pad { d.sepPad pad with halted := false }

/-- LOAD_CUTOVER (R459, R462, R471, R472): the spare (or, with `subject` itself as spare, a member that reloads) serves from the next launch; an
expelled subject takes role none; the paddocks are mirrored again. -/
def execLoadCutover (subject spare : Nat) (image : LoadImage) (s : State) : Out :=
  s.onDev fun d =>
    let pads := d.hlt.tpads.filter fun (p : Nat × TandemPad) => let ms := d.paddockDevs p.1
      ms.contains subject || ms.contains (partnerOf subject) || (spare == d.me && ms.contains spare)
    let loaded := if spare = d.me && subject != spare then d.hlt.spare == .loading && d.hlt.spareFor == some subject
      else spare == d.me && pads.any fun (p : Nat × TandemPad) => p.2.state == .loading
    if spare = d.me && (!loaded || d.pwr.state == .waking) then d
    else
      let d := { d with hlt.loads := d.hlt.loads.filter fun (x : Nat × Nat) => x.2 != spare }
      let mine := (d.comp.cur.memberships d.me).map fun (x : Member) => x.paddock
      let d :=
        if spare = d.me then
          let d := d.install image
          let d := if subject = spare then d else { d with hlt.spare := .active, hlt.spareSrc := none }
          let again := if subject = spare then mine.filter fun p => pads.any fun (x : Nat × TandemPad) => x.1 == p && x.2.state == .loading else mine
          (again.foldl (fun (d : Dev) p => d.unhalt p) d).raise E.HLT_REJOINED 0 0 0 (some subject)
        else if subject = d.me then
          ({ d with hlt.aliases := Tbl.put d.hlt.aliases d.me spare }).strip
        else d
      let d := pads.foldl (fun (d : Dev) (p : Nat × TandemPad) =>
        if p.2.state == .loading || p.2.state == .solo then d.setTpad p.1 { p.2 with state := .mirrored, again := [], rejoin := some d.now } else d) d
      d.retryAll none

/-! ## Checkpoints (R463 to R465) -/

/-- The penalty count table as its bytes (R261, R262). -/
def penTableBytes (vocab limit from_ : Nat) (toks : List Nat) : Bytes :=
  let cnt := fun (v : Nat) => ((toks.drop from_).filter (· == v)).length
  let big := (List.range vocab).filter fun v => 255 ≤ cnt v
  let body := leBytes 4 vocab ++ leBytes 4 (ceilDiv limit 255) ++ leBytes 4 big.length ++ leBytes 4 from_ ++ List.replicate 48 0
    ++ ((List.range vocab).map fun v => BitVec.ofNat 8 (min 255 (cnt v))) ++ List.replicate (ceilDiv vocab 64 * 64 - vocab) 0
    ++ big.flatMap fun v => leBytes 4 v ++ leBytes 4 (cnt v)
  body ++ List.replicate (penBytes vocab limit - body.length) 0

/-- The sampling copy's 512 bytes (R259). -/
def sampCopyBytes (x : Stall) : Bytes :=
  let b := x.sampCopy.take 36 ++ leBytes 1 (min 84 x.stops.length) ++ (x.sampCopy.drop 37).take 91 ++ (x.stops.take 84).flatMap (leBytes 4)
  b ++ List.replicate (512 - b.length) 0

/-- A page list as its bytes (R196). -/
def PageList.bytes (p : PageList) : Bytes :=
  let b := leBytes 4 p.npage ++ leBytes 4 p.kvEnd ++ leBytes 2 p.model ++ leBytes 2 p.shards ++ leBytes 1 p.pageLog2 ++ List.replicate 51 0
    ++ ((List.range p.shards).flatMap fun s => (Tbl.rd (fun _ => {}) p.opens s).bytes)
    ++ (List.range p.npage).flatMap fun i => (List.range p.shards).flatMap fun s => (p.ent i s).bytes
  b ++ List.replicate (up64k b.length - b.length) 0

/-- The parked regions of a stall, in page-list order. -/
def PageList.parkedKeys (p : PageList) : List (Nat × Nat) :=
  (List.range p.npage).flatMap fun i => ((List.range p.shards).filter fun s => (p.ent i s).state == .parked).map fun s => (i, s)

/-- The body of a checkpoint, or the code that refuses it. Regions of a stall held elsewhere come from their holders, as `regions`. -/
def Dev.ckptBody (d : Dev) (kind subject size : Nat) (regions : List Bytes) : Nat ⊕ Bytes :=
  match kind with
  | 1 =>
    if 2 ^ 24 ≤ subject || size != 0 then .inl C.HLT_CKPT_BAD
    else match d.shard? (subject % 2 ^ 8) (subject / 2 ^ 8) with
      | none => .inl C.HLT_CKPT_BAD
      | some x =>
        if d.hlt.ckpts.any (fun (y : Nat × CmdRef × Nat × Option Nat) => y.2.2.2 == some (shardKey (subject % 2 ^ 8) (subject / 2 ^ 8))) then .inl C.HLT_CKPT_BUSY
        else .inr (x.hdr ++ (shardRanges x.hdr).dropLast.flatMap fun r => d.load (memKey 4 r.1) r.2)
  | 2 =>
    let id := subject % 2 ^ 17
    if 2 ^ 32 ≤ subject || size != 0 || bits subject 31 17 != d.me then .inl C.HLT_CKPT_BAD
    else match d.stall? id with
      | none => .inl C.HLT_CKPT_BAD
      | some x =>
        if !x.r.resting then .inl C.HLT_CKPT_BUSY
        else
          let toks := d.toks x.r 0 x.r.lenCommit
          .inr (x.r.bytes ++ sampCopyBytes x ++ toks.flatMap (leBytes 4)
            ++ penTableBytes (field x.sampCopy 4 4) x.r.lenLimit x.penFrom toks ++ x.pages.bytes ++ regions.flatten)
  | 3 =>
    if 2 ^ 48 ≤ subject || 2 ^ 48 < subject + size || !d.mapped subject size then .inl C.HLT_CKPT_BAD
    else .inr (d.load (memKey 4 subject) size)
  | _ => .inl C.HLT_CKPT_BAD

/-- A checkpoint image (R463). -/
def ckptImage (kind beat subject size : Nat) (body : Bytes) : Bytes :=
  let h := leBytes 4 0x54504B43 ++ leBytes 1 kind ++ [0, 0, 0] ++ leBytes 8 beat ++ leBytes 8 body.length ++ leBytes 8 subject ++ leBytes 8 size
    ++ leBytes 4 0 ++ leBytes 4 (crc32c body)
  h ++ leBytes 4 (crc32c (h ++ List.replicate 16 0)) ++ List.replicate 12 0 ++ body

/-- The writes that put bytes at an LBA of the hayloft. -/
def imageWrites (n lba : Nat) (b : Bytes) : List HayWrite :=
  (List.range (ceilDiv b.length 4096)).map fun k =>
    { lba := lba + k, cells := (slice b (4096 * k) 4096).zipIdx.filterMap (fun x => if x.1 = 0 then none else some (x.2, x.1)), owner := .image n }

/-- HLT_CKPT (R463, R464): the copy is taken as one step; on the hayloft it completes when durable. -/
def execHltCkpt (c : HostCmd) (regions : List Bytes) (s : State) : Out := s.onDev fun d =>
  d.hostCmd { rsvOk := argMask true 0x1FF (2 ^ 64 - 1) (2 ^ 64 - 1) (2 ^ 64 - 1) } c fun d =>
    let kind := c.a0 % 2 ^ 8
    match d.ckptBody kind c.a1 c.a2 regions with
    | .inl code => (d, .done code [])
    | .inr body =>
      let img := ckptImage kind d.now c.a1 (if kind = 3 then c.a2 else 0) body
      if c.a3 < img.length then (d, .done C.HLT_CKPT_BAD [])
      else if bit c.a0 8 then
        match (List.range (ceilDiv img.length 4096)).findSome? fun k => d.hayRefuses (c.haddr + k) true with
        | some code => (d, .done code [])
        | none =>
          let n := d.hlt.nextCkpt
          let key := if kind = 1 then some (shardKey (c.a1 % 2 ^ 8) (c.a1 / 2 ^ 8)) else none
          ({ d with hlt.nextCkpt := n + 1, hlt.ckpts := d.hlt.ckpts ++ [(n, cmdRef c, img.length, key)]
                    hay.queue := d.hay.queue ++ imageWrites n c.haddr img }, .wait)
      else (d.put (.hostWrite c.haddr img), .done C.OK (leBytes 8 img.length))

/-- One appended mutation of a shard's image, applied to the slot it names (R465). -/
def Dev.restoreMut (d : Dev) (h m : Bytes) : Dev :=
  let i := field m 4 4
  if shCap h ≤ i then d
  else match field m 0 1 with
    | 1 => (d.setAttr h i (attrBytes 3 0 0 d.now (field m 24 8) (field m 32 4))).setFilts h i (field m 36 4)
    | 2 => d.setAttr h i (attrState (d.attr h i) 4)
    | _ => d.setFilts h i (field m 36 4)

/-- Restoring a shard to the ranges its target header names. -/
def Dev.restoreShard (d : Dev) (nlog : Nat) (body h : Bytes) : Dev × CmdRes :=
  let from_ := (shardRanges (body.take 128)).dropLast
  let dest := (shardRanges h).dropLast
  let n := from_.foldl (fun a r => a + r.2) 128
  if !d.flag F.SRCH_CTRL_EN || d.comp.role != 3 || !shardHdrOk h || !shardHdrOk (body.take 128) || !dest.all (fun r => d.pinnedHbm r.1 r.2)
      || from_.map (fun r => r.2) != dest.map (fun r => r.2) || body.length != n + 48 * nlog || (d.shard? (field h 4 1) (field h 6 2)).isSome
      || decide (64 ≤ d.srch.shards.length) then (d, .done C.HLT_RESTORE_BAD [])
  else
    let x := dest.foldl (fun (a : Dev × Nat) r => ((a.1.storeP (memKey 4 r.1) (slice body a.2 r.2) false).touchKey (memKey 4 r.1) r.2 true, a.2 + r.2)) (d, 128)
    let d := (List.range (shCap h)).foldl (fun (d : Dev) i =>
      if d.slotState h i = 1 || d.slotState h i = 2 then d.setAttr h i (attrState (d.attr h i) 0) else d) x.1
    let d := (chunks 48 nlog (body.drop n)).foldl (fun (d : Dev) m => d.restoreMut h m) d
    let ents := ((List.range (field h 19 1)).map fun i => field h (32 + 4 * i) 4).filter (· != noSlot)
    (d.putShard (field h 4 1) (field h 6 2) { hdr := h, entries := ents }, .done C.OK (leBytes 4 0))

/-- Restoring a stall in `park` on this device; its regions are parked by R222. -/
def Dev.restoreStall (d : Dev) (body : Bytes) : Dev × CmdRes :=
  let bad : Dev × CmdRes := (d, .done C.HLT_RESTORE_BAD [])
  let r := StallRec.read body
  let samp := slice body 128 512
  let vocab := field samp 4 4
  match d.lowestStall, d.model? r.model with
  | some id, some m =>
    let pen := penBytes vocab r.lenLimit
    let p0 := 640 + 4 * r.lenCommit
    let l0 := p0 + pen
    let npage := field body l0 4
    let shards := field body (l0 + 10) 2
    let ents := l0 + 64 + 16 * shards
    let g0 := l0 + up64k (64 + 16 * shards + 32 * npage * shards)
    let keys := ((List.range npage).flatMap fun i => (List.range shards).map fun s => (i, s)).filter fun k =>
      (Desc.read (slice body (ents + 32 * (k.1 * shards + k.2) + 16) 16)).tier != 0
    if !r.resting || shards != m.shards || field body (l0 + 12) 1 != m.pageLog2 || body.length != g0 + m.regionBytes * keys.length then bad
    else match d.poolAlloc (tokLogBytes r.lenLimit) id with
      | none => bad
      | some (tokLog, d) => match d.poolAlloc (pageListBytes m r.lenLimit) id with
        | none => bad
        | some (list, d) => match d.poolAlloc pen id with
          | none => bad
          | some (penAt, d) =>
            let shadow := d.pickShadow 0xFFFF
            let r := { r with id := id, home := d.me, state := .park, shadow := shadow.getD d.me, shadowOk := false, promoted := false, execValid := false
                              tokLog := tokLog, pageList := list, penTable := penAt, samp := Config.sampAddr id, lenParked := 0 }
            let pages : PageList := keys.foldl (fun (p : PageList) k => p.setEnt k.1 k.2 { state := .full, work := { holder := d.me, fill := (Desc.read (slice body (ents + 32 * (k.1 * shards + k.2) + 16) 16)).fill } })
              { npage := npage, kvEnd := field body (l0 + 4) 4, model := r.model, shards := shards, pageLog2 := m.pageLog2 }
            let held := keys.zipIdx.map fun k =>
              ({ home := d.me, stall := id, page := k.1.1, shard := k.1.2, desc := {}, size := m.regionBytes, paddock := none, frames := [], poison := false
                 body := slice body (g0 + m.regionBytes * k.2) m.regionBytes } : HeldRegion)
            let x : Stall := { r := r, pages := pages, sampDone := true, penDone := true, penFrom := field body (p0 + 12) 4, acked := true
                               sampCopy := samp.take 128, restBeat := d.now, lenMax := r.lenLimit - r.lenPrompt
                               stops := (List.range (field samp 36 1 % 2 ^ 7)).map fun i => field samp (128 + 4 * i) 4 }
            let d := { d with pan.held := d.pan.held ++ held }
            let d := (d.putToks r 0 ((List.range r.lenCommit).map fun i => field body (640 + 4 * i) 4)).putStall id x
            let d := match shadow with | some sh => d.createShadow id sh | none => d.noShadow
            (keys.foldl (fun (d : Dev) k => d.askPark id k.1 k.2) d, .done C.OK (leBytes 4 id))
  | _, _ => bad

/-- HLT_RESTORE (R465). `image`: the bytes at HADDR in host memory; `header`: the target shard header at A1. -/
def execHltRestore (c : HostCmd) (image header : Bytes) (s : State) : Out := s.onDev fun d =>
  d.hostCmd { rsvOk := argMask true 0x100 (2 ^ 64 - 1) 0 0 } c fun d =>
    let unit := fun k => (List.range 4096).map fun o => ((Tbl.at? (d.hayCells (c.haddr + k)) o).getD 0 : Byte)
    let n := if bit c.a0 8 then field (unit 0) 16 8 else field image 16 8
    let img := if bit c.a0 8 then ((List.range (ceilDiv (64 + n) 4096)).flatMap unit).take (64 + n) else image
    let body := img.drop 64
    let h := img.take 64
    let lost := bit c.a0 8 && (List.range (ceilDiv (64 + n) 4096)).any fun k => (d.hayRefuses (c.haddr + k) false).isSome || d.hayBad (c.haddr + k)
    if lost || field h 0 4 != 0x54504B43 || crc32c (h.take 48 ++ [0, 0, 0, 0] ++ h.drop 52) != field h 48 4 || body.length != n || crc32c body != field h 44 4
    then (d, .done C.HLT_RESTORE_BAD [])
    else match field h 4 1 with
      | 1 => d.restoreShard (field h 40 4) body header
      | 2 => d.restoreStall body
      | 3 =>
        let a := field h 24 8
        if 2 ^ 48 ≤ a || 2 ^ 48 < a + n || !d.mapped a n || field h 32 8 != n then (d, .done C.HLT_RESTORE_BAD [])
        else ((d.storeP (memKey 4 a) body false).touchKey (memKey 4 a) n true, .done C.OK (leBytes 4 0))
      | _ => (d, .done C.HLT_RESTORE_BAD [])

end Sys2Proof.Machine
end

