-- ==== Sys2Proof/Machine/FabLink.lean ====
section
/-!
DEFINITION. Machine/FabLink.lean: link control flits, as they are sent and taken (spec/13_azrun_memory_fabric.md R370, R371;
spec/01_pools_and_roles.md R29; spec/02_cadence_and_determinism.md R47).
-/

namespace Sys2Proof.Machine

/-! ## Sending -/

/-- Whether a class is paused toward the neighbour (R371, R418): from XOFF_KIB until the occupancy has fallen to XON_KIB, and while the miss buffer of
queue pairs pauses it. -/
def Dev.pauses (d : Dev) (q : Port) (cls : Nat) : Bool :=
  let n := q.occupancy cls
  decide (d.fld F.AZF_PAUSE_XOFF_KIB * 1024 ≤ n) || (bit q.xoff cls && decide (d.fld F.AZF_PAUSE_XON_KIB * 1024 < n)) || bit d.qpx.pausing cls

/-- The control flit a port sends now (R47: the cadence field in every fourth). -/
def Dev.controlFlit (d : Dev) (port : Nat) (q : Port) (mask : Nat) : CtlFlit :=
  { src := d.me, port := port, seq := q.tx, ack := q.rx, replay := q.want
    pauses := (List.range 8).map fun c => if bit mask c then 2 ^ d.fld F.AZF_PAUSE_PAUSE_LOG2 else 0
    cad := if q.flits % 4 = 0 then some (d.cad.count, d.cad.stratum) else none
    map := d.comp.pending.map fun m => (m.epoch, m.crc), cur := (d.comp.asStaged.epoch, d.comp.asStaged.crc)
    hb := if q.hbDue then some d.heartbeat else none, tandem := d.flag F.HLT_TANDEM_EN, msgs := q.ctl.take 3 }

/-- CONTROL_FLIT_SEND (R369, R370). -/
def execControlFlitSend (port : Nat) (s : State) : Out :=
  s.onDev fun d =>
    let d := d.answerAsks
    let q := d.azPort port
    if port < 16 && q.linked && q.replay.length < 4096 then
      let mask := natOfBits ((List.range 8).map fun c => d.pauses q c)
      let f := d.controlFlit port q mask
      (d.setAzPort port { q with tx := (q.tx + 1) % 4096, replay := q.replay ++ [(q.tx, .control f)], flits := q.flits + 1, hbDue := false
                                 ctl := q.ctl.drop 3, xoff := mask, want := none }).put (.flit port f)
    else d

/-! ## Taking one -/

/-- The neighbour's map announcement (R29): the same epoch as the pending map with another CRC is a conflict, raised once for each port. -/
def Dev.mapAnnounced (d : Dev) (port : Nat) (f : CtlFlit) : Dev :=
  match f.map, d.comp.pending with
  | some (e, crc), some m =>
    if e == m.epoch && crc != d.crcSeen m f.src && !d.comp.conflicts.contains port then
      ({ d with comp.conflicts := d.comp.conflicts ++ [port] }).raise E.MAP_CONFLICT 0 0 e (some f.src)
    else d
  | _, _ => d

/-- A heartbeat (R450, R451, R467). -/
def Dev.heartbeatHeard (d : Dev) (f : CtlFlit) : Dev :=
  match f.hb with
  | none => d
  | some h =>
    let d := { d with fab.heard := Tbl.put d.fab.heard f.src h, fab.heardAt := Tbl.put d.fab.heardAt f.src d.now
                      hlt.idle := d.hlt.idle.filter fun x => x != f.src }
    if f.src = partnerOf d.me then d.tandemHeard f else d

/-- Decisions a neighbour hands on (R456): those not yet known here. -/
def Dev.decisionsHeard (d : Dev) (l : List Decision) : Dev :=
  l.foldl (fun (d : Dev) (x : Decision) => if d.hlt.decisions.contains x then d else d.keepDecision x) d

/-- A fabric control message (R370): taken where it is for this device, otherwise passed on along its route. -/
def Dev.controlMsg (d : Dev) (m : CtlMsg) : Dev :=
  match m with
  | .ack src dst cls ssn fails => if dst = d.me then d.streamAck src cls ssn fails else d.sendCtl dst m
  | .nak src dst cls kind => if dst = d.me then d.streamNak src cls kind else d.sendCtl dst m
  | .roundAsk src dst pad issue => if dst = d.me then d.roundAsk src pad issue else d.sendCtl dst m
  | .roundDone src dst pad issue last => if dst = d.me then d.roundDone src pad issue last else d.sendCtl dst m
  | .vote v => d.voteMsg v
  | .decisions _ l => d.decisionsHeard l

/-- CONTROL_FLIT_RECEIVE (R370, R371). -/
def execControlFlitReceive (port : Nat) (f : CtlFlit) (s : State) : Out :=
  s.onDev fun d =>
    let q := d.azPort port
    if port < 16 && q.linked && f.src = d.me then (d.raise E.PWR_DUP_ID 4 port).portDown port
    else if port < 16 && q.linked then
      let d := d.setAzPort port { q with rx := (f.seq + 1) % 4096, fails := 0, neighbour := f.src
                                         paused := (List.range 8).map fun c => match f.pauses[c]? with
                                           | some t => d.now + t
                                           | none => (q.paused[c]?).getD 0 }
      let d := d.linkAck port f.ack
      let d := match f.replay with | some n => d.replayFrom port n | none => d
      let d := match f.cad with | some (v, st) => d.cadField port (16 * v + q.rtt / 2) st | none => d
      let d := (d.mapAnnounced port f).heartbeatHeard f
      f.msgs.foldl (fun (d : Dev) m => d.controlMsg m) d
    else d

end Sys2Proof.Machine
end

