-- ==== Sys2Proof/Machine/Pelotons.lean ====
section
/-!
DEFINITION. Machine/Pelotons.lean: model and paddock records and the launch of decode steps and their drafts
(spec/07_kv_state_and_attention.md R188, R189, R206 to R213, R551; spec/08_panniers.md R225).
-/

namespace Sys2Proof.Machine

/-! ## Records -/

/-- A model is in use on this device: some stall of it is not free, or a slot holds an image of it (R189). -/
def Dev.modelInUse (d : Dev) (m : Nat) : Bool :=
  d.stl.stalls.any (fun x => x.2.r.model == m) || d.kv.execs.any (fun x => x.2.record.model == m)
    || d.sep.pads.any fun p => p.2.slots.any fun x => imgModel x.2.img == m

/-- KV_MODEL (R188, R189). -/
def execKvModel (c : HostCmd) (s : State) : Out := s.onDev fun d =>
  d.hostCmd (recSpec 64 0 0) c fun d =>
    if !kvModelOk c.data then (d, .done C.KV_MODEL_BAD [])
    else
      let m := KvModel.read c.data
      match d.model? m.model with
      | some old =>
        if old.raw == c.data then (d, .ok)
        else if d.modelInUse m.model then (d, .done C.KV_MODEL_BUSY [])
        else ({ d with kv.models := Tbl.put d.kv.models m.model m }, .ok)
      | none => ({ d with kv.models := Tbl.put d.kv.models m.model m }, .ok)

/-- A peloton of a paddock on this device. -/
def Dev.peloton (d : Dev) (pad entry : Nat) : Peloton := Tbl.rd (fun _ => {}) d.kv.pelotons (pad * 32 + entry)
def Dev.setPeloton (d : Dev) (pad entry : Nat) (p : Peloton) : Dev :=
  { d with kv.pelotons := Tbl.wr (fun _ => {}) d.kv.pelotons (pad * 32 + entry) p }

/-- The first beat PHASE + k PERIOD at or after a beat (R209). -/
def nextStep (e : PelEntry) (now : Nat) : Nat :=
  if now ≤ e.phase then e.phase else e.phase + ceilDiv (now - e.phase) e.period * e.period

/-- Announcing the enable mask of a paddock from its rank 0 to every device of the plane (R551). -/
def Dev.announceMask (d : Dev) (pad : Nat) : Dev :=
  match Tbl.at? d.kv.paddocks pad with
  | none => d
  | some p =>
    if d.rankIn pad != some 0 then d
    else d.comp.cur.devices.foldl (fun d e =>
      if e.device / 2 ^ 14 == d.me / 2 ^ 14 then d.send .pelotonMask e.device [pad, p.mask] else d) d

/-- The stalls of a paddock after a peloton entry is disabled: they leave it and wait. -/
def leaveEntry (pad k : Nat) (l : Tbl ExecStall) : Tbl ExecStall :=
  l.map fun x => if x.2.paddock == pad && (pelOf x.2.record.lenCommit x.2.record.cls == k) then (x.1, { x.2 with member := false }) else x

/-- A peloton entry of the waiting record takes effect (R207, R209): stalls of a peloton that is disabled leave it. -/
def Dev.takeEntry (d : Dev) (pad k : Nat) : Dev :=
  match Tbl.at? d.kv.pendingPad pad, Tbl.at? d.kv.paddocks pad with
  | some new, some cur =>
    let e := new.pels.getD k {}
    let d := { d with kv.paddocks := Tbl.put d.kv.paddocks pad { cur with pels := cur.pels.set k e } }
    let d := d.setPeloton pad k { d.peloton pad k with next := if e.en then nextStep e d.now else 0 }
    let d := if e.en then d else { d with kv.execs := leaveEntry pad k d.kv.execs }
    let same := ((Tbl.at? d.kv.paddocks pad).map (fun (q : KvPaddock) => q.pels)) == some new.pels
    let d := if same then { d with kv.pendingPad := Tbl.del d.kv.pendingPad pad } else d
    if (cur.pels.getD k {}).en != e.en then d.announceMask pad else d
  | _, _ => d

/-- KV_PADDOCK (R206, R207, R551): the record is checked; its heap and slots apply at once, each peloton entry at that peloton's next
step boundary, which for an entry not enabled is now. -/
def execKvPaddock (c : HostCmd) (s : State) : Out := s.onDev fun d =>
  d.hostCmd (recSpec 512 0 0) c fun d =>
    let pad := field c.data 0 2
    match d.shapeIn d.comp.cur pad with
    | none => (d, .done C.KV_PADDOCK_BAD [])
    | some p =>
      let r := KvPaddock.read c.data
      let heap := (r.heapBase % 2 ^ 40, r.heapSize)
      if !kvPaddockFieldsOk c.data || (heap.2 != 0 && !ownHbmOk p (field c.data 16 8) heap.2)
          || (p.saveArea :: d.slotRanges pad none).any (overlaps heap) then (d, .done C.KV_PADDOCK_BAD [])
      else
        let old := ((Tbl.at? d.kv.paddocks pad).map (·.pels)).getD (List.replicate 26 {})
        let first := (Tbl.at? d.kv.paddocks pad).isNone
        let d := { d with kv.paddocks := Tbl.put d.kv.paddocks pad { r with heapBase := heap.1, pels := old }
                          kv.pendingPad := Tbl.put d.kv.pendingPad pad { r with heapBase := heap.1 } }
        let now := (List.range 26).filter fun k => !(old.getD k {}).en
        let d := now.foldl (fun d k => d.takeEntry pad k) d
        (if first then d.announceMask pad else d, .ok)

/-! ## Steps -/

/-- The order in which waiting stalls join (R209): class, ARRIVE, home, stall. -/
def joinBefore (a b : Nat × ExecStall) : Bool :=
  let k := fun (x : Nat × ExecStall) => [x.2.record.cls, x.2.record.arrive, x.1 / 2 ^ 17, x.1 % 2 ^ 17]
  decide (k a < k b)

/-- The stalls started in a paddock that belong to a peloton entry now (R208), apart from those of a running step. -/
def Dev.pelStalls (d : Dev) (pad k : Nat) : List (Nat × ExecStall) :=
  d.kv.execs.filter fun x => x.2.paddock == pad && x.2.started && !x.2.bound && pelOf x.2.record.lenCommit x.2.record.cls == k

/-- Drafts a step takes for a stall (R213). -/
def draftsOf (p : KvPaddock) (x : ExecStall) : Nat :=
  if p.draftEn then min (field x.samp 9 1) (x.record.lenLimit - x.record.lenCommit) else 0

/-- The bind slot of a stall in a step. -/
def stepBind (key : Nat) (x : ExecStall) (n k : Nat) (m : KvModel) : Bind :=
  { key := key, posFirst := x.kvEnd, posCount := n + 1, lenCommit := x.record.lenCommit, kvEnd := x.kvEnd, ndraft := n
    bucket := k % 13, windowed := m.windowed, tokLog := x.record.tokLog }

/-- Choosing the stalls of a step among the candidates in order (R164, R210, R225): one past its deadline is told to its home and leaves;
one whose pages cannot be allocated or whose gate is closed is left out and keeps its place; the others are bound. Places end at
MAX_SEQ. -/
def Dev.fillStep (d : Dev) (pad k base : Nat) (p : KvPaddock) (m : KvModel) : List (Nat × ExecStall) → Nat → Dev × List Bind
  | [], _ => (d, [])
  | (key, x) :: t, room =>
    let out := fun (d : Dev) => { d.setPeloton pad k { d.peloton pad k with leftOut := min ((d.peloton pad k).leftOut + 1) 0xFFFF } with
      kv.execs := Tbl.put d.kv.execs key { x with member := true } }
    if room = 0 then (d, [])
    else if x.record.passed base then
      let d := { d with kv.execs := Tbl.put d.kv.execs key { x with started := false, member := false } }
      (d.tellHome key pad 1 C.STL_DEADLINE 0 base [] []).fillStep pad k base p m t room
    else if !gateOpen m.np x.parkedNote x.kvEnd then ((out d).count F.PAN_RECOVER_CNT_GATE_WAIT).fillStep pad k base p m t (room - 1)
    else
      let n := draftsOf p x
      match d.allocAll pad key (d.missingPages pad m key x.kvEnd (n + 1)) with
      | none => ((out d).heapLow pad).fillStep pad k base p m t (room - 1)
      | some d =>
        let y := { x with member := true, bound := true, record := { x.record with lenTent := x.record.lenCommit + n } }
        let d := { d with kv.execs := Tbl.put d.kv.execs key y }
        let (d, bs) := d.fillStep pad k base p m t (room - 1)
        (d, stepBind key y n k m :: bs)

/-- Putting an invocation of the yard die's own scheduler into effect: taken here and carried to the other members. -/
def Dev.schedule (d : Dev) (i : Inv) (crc : Nat) : Dev :=
  let id := d.sep.nextInv
  let rec_ := schedRecord i.paddock i.slot i.cls crc i.base i.binds.length false i.epoch
  (d.addInv i (d.unitCheck i.paddock (((d.comp.cur.paddock i.paddock).head?.map (·.model)).getD 0)) true).carryInv i.paddock id rec_

/-- Whether a step of a peloton runs (R210). -/
def Dev.stepRuns (d : Dev) (pad k : Nat) : Bool := d.sep.invs.any fun x => x.2.tag == .step k && x.2.paddock == pad

/-- A step held behind the one that runs: counted once (R210). -/
def Dev.holdStep (d : Dev) (pad k : Nat) : Dev :=
  let q := d.peloton pad k
  if q.heldAt == some q.next then d else d.setPeloton pad k { q with heldAt := some q.next, held := min (q.held + 1) 0xFFFF }

/-- Whether a peloton has reached a step boundary, where a waiting record takes effect (R207). -/
def Dev.atBoundary (d : Dev) (pad k : Nat) : Bool :=
  match Tbl.at? d.kv.paddocks pad with
  | some p => !(p.pels.getD k {}).en || decide ((d.peloton pad k).next ≤ d.now)
  | none => true

/-- PELOTON_STEP_LAUNCH (R207 to R210, R213, R225, R18): at the step's BASE_BEAT the peloton is filled and its step is launched; while the
step before it runs it is held; a step that R18 refuses sends its stalls back to their homes. -/
def execPelotonStepLaunch (paddock entry : Nat) (s : State) : Out :=
  s.onDev fun d =>
    if d.rankIn paddock != some 0 || d.comp.role != 2 || 26 ≤ entry then d
    else
      let d := if d.atBoundary paddock entry then d.takeEntry paddock entry else d
      match Tbl.at? d.kv.paddocks paddock, d.padModel paddock with
      | some p, some m =>
        let e := p.pels.getD entry {}
        let q := d.peloton paddock entry
        if !e.en || d.now < q.next then d
        else if d.stepRuns paddock entry then d.holdStep paddock entry
        else
          let base := q.next
          let d := d.setPeloton paddock entry { q with next := base + e.period }
          let all := d.pelStalls paddock entry
          let cands := sortBy joinBefore (all.filter (·.2.member)) ++ sortBy joinBefore (all.filter fun x => !x.2.member)
          match d.slotImg paddock p.decSlot with
          | none => all.foldl (fun d x => d.tellHome x.1 paddock 0 C.SEP_NOT_LOADED 0 base [] []) d
          | some img =>
            if !d.admits paddock (base + imgPeriod img.img) then
              cands.foldl (fun d x =>
                ({ d with kv.execs := Tbl.put d.kv.execs x.1 { x.2 with started := false, member := false } }).tellHome
                  x.1 paddock 2 C.SEP_ABANDONED 0 base [] []) d
            else
              let (d, bs) := d.fillStep paddock entry base p m cands e.maxSeq
              if bs.isEmpty then d
              else
                let key := fun (b : Bind) => (b.key, (Tbl.rd (fun _ => ({} : ExecStall)) d.kv.execs b.key))
                let bs := sortBy (fun a b => joinBefore (key a) (key b)) bs
                let q := d.peloton paddock entry
                let d := d.setPeloton paddock entry { q with steps := min (q.steps + 1) (2 ^ 32 - 1), members := bs.length }
                d.schedule { paddock := paddock, slot := p.decSlot, cls := if entry < 13 then 0 else 4, crc := imgCrc img.img
                             base := base, bound := true, binds := bs, epoch := d.comp.cur.epoch, tag := .step entry } (imgCrc img.img)
      | _, _ => d

/-- DRAFT_LAUNCH (R209, R213): DRAFT_LEAD beats before a step, the drafts of the stalls the step may bind. -/
def execDraftLaunch (paddock entry : Nat) (s : State) : Out :=
  s.onDev fun d =>
    if d.rankIn paddock != some 0 || d.comp.role != 2 || 26 ≤ entry then d
    else match Tbl.at? d.kv.paddocks paddock, d.padModel paddock with
      | some p, some m =>
        let e := p.pels.getD entry {}
        let base := (d.peloton paddock entry).next - p.draftLead
        let all := d.pelStalls paddock entry
        let cands := (sortBy joinBefore (all.filter (·.2.member)) ++ sortBy joinBefore (all.filter fun x => !x.2.member)).take e.maxSeq
        let some_ := cands.filter fun x => draftsOf p x.2 != 0
        match d.slotImg paddock p.draftSlot with
        | none => d
        | some img =>
          if !e.en || !p.draftEn || some_.isEmpty || d.now < base then d
          else
            let d := some_.zipIdx.foldl (fun d x =>
              { d with kv.execs := Tbl.put d.kv.execs x.1.1 { x.1.2 with draftBuf := some (draftOff x.2) } }) d
            let bs := some_.map fun x => stepBind x.1 x.2 (draftsOf p x.2) entry m
            d.schedule { paddock := paddock, slot := p.draftSlot, cls := if entry < 13 then 0 else 4, crc := imgCrc img.img
                         base := base, bound := true, binds := bs, epoch := d.comp.cur.epoch, tag := .draft entry } (imgCrc img.img)
      | _, _ => d

end Sys2Proof.Machine
end

