-- ==== Sys2Proof/Machine/MapSwitch.lean ====
section
/-!
DEFINITION. Machine/MapSwitch.lean: staging a composition map, its switch, the end of grace, and bounces (spec/01_pools_and_roles.md R18 to
R20, R28 to R31; spec/08_panniers.md R233 to R238).
-/

namespace Sys2Proof.Machine

/-! ## Staging (R28) -/

/-- Whether a map lets a paddock serve a model in a role. -/
def CompMap.serves (m : CompMap) (role model pad : Nat) : Bool :=
  match m.paddock pad with
  | a :: _ => m.roleOf a.device == role && a.model == model
  | [] => false

/-- The channel groups a map places in paddocks of this device. -/
def Dev.claimedGroups (d : Dev) (m : CompMap) : Nat := (m.memberships d.me).foldl (fun a (x : Member) => Nat.lor a x.chgrps) 0

/-- R28 check 6: a pool group the map claims holds a frame of an order-1 user or of a pinned region. -/
def Dev.poolBusy (d : Dev) (m : CompMap) : Bool :=
  let g := Nat.land (d.claimedGroups m) (d.fld F.MEM_POOL_GRP_MASK)
  d.memt.frames.any fun (x : Nat × Nat) => bit g (x.1 / 2 ^ 19) && decide (x.2 ≤ 2)

/-- What R28 answers to an image: a refusal's status, none for OK with no effect (check 3), or the map to stage. `margin`: the beats by
which EFF_BEAT must lie ahead. -/
def Dev.stageCheck (d : Dev) (img : Bytes) (margin : Nat) : Nat ⊕ Option CompMap :=
  let m := CompMap.read img
  if !mapValid d.comp img then .inl C.MAP_INVALID
  else if m.epoch != (d.comp.cur.epoch + 1) % 2 ^ 32 then .inl C.MAP_EPOCH
  else match d.comp.pending with
    | some p => if p.epoch == m.epoch && p.crc == m.crc then .inr none else .inl C.MAP_PENDING
    | none =>
      if m.effBeat < d.now + margin then .inl C.MAP_LATE
      else if m.effBeat < d.comp.graceEnd then .inl C.MAP_TOO_SOON
      else if d.poolBusy m then .inl C.MAP_POOL_BUSY
      else .inr (some m)

/-- The targets R236 chooses for the decoding stalls whose paddock the staged map takes away, with the pulls they start at once. -/
def Dev.prePulls (d : Dev) (m : CompMap) : Dev :=
  (Tbl.keys d.stl.stalls).foldl (fun (d : Dev) id =>
    match d.stall? id with
    | none => d
    | some x =>
      match x.phase with
      | .decode p =>
        if m.serves 2 x.r.model p then d
        else match d.chooseGen ((d.servers 2 x.r.model).filter (m.serves 2 x.r.model)) x.r with
          | none => d
          | some q => (d.putStall id { x with prePull := some q }).prePullNow id
      | _ => d) d

/-- Staging a map (R28 to R30): what was declared lost before it returns at its switch (R452); the moves of R236 and R238 and the drain of
R312 begin. -/
def Dev.stageMap (d : Dev) (m : CompMap) : Dev :=
  let d := { d with comp := d.comp.stage m, hlt.lost := d.hlt.lost.map fun (x : Nat × Bool) => (x.1, true) }
  ((d.prePulls m).reparkNext).drainGroups

/-- COMP_STAGE's effect. -/
def Dev.stageBody (d : Dev) (img : Bytes) (margin : Nat) : Dev × CmdRes :=
  match d.stageCheck img margin with
  | .inl c => (d, .done c [])
  | .inr none => (d, .ok)
  | .inr (some m) => (d.stageMap m, .ok)

/-- What R483 asks of COMP_STAGE: an image whose length its counts give. -/
def stageSpec : CmdSpec := { rsvOk := argMask true 0 0 0 0, lenOk := fun c => c.hlen == mapImageLen c.data }

/-- COMP_STAGE (R28). -/
def execCompStage (c : HostCmd) (s : State) : Out := s.onDev fun d => d.hostCmd stageSpec c fun d => d.stageBody c.data (2 ^ 16)

/-! ## Messages held for the switch (R31 row 1) -/

/-- A held message is checked again and taken as on arrival. -/
def Dev.deliverRole (d : Dev) (x : RoleMsg) : Dev :=
  match x with
  | .park p => d.receive (panHdr p) false 1 x fun d => d.parkArrived p
  | .ack a => d.receive a.h true 2 x fun d => d.ackSeen a.body
  | .ship n => d.receive n.h false 4 x fun d => d.shipArrived n
  | .pull q => d.receive q.h true 3 x fun d => d.servePull q
  | .reply p => d.receive (panHdr p) true 1 x fun d => d.replyArrived p
  | .refusal r => d.receive r.h true 3 x fun d => d.refusalArrived r
  | .done r => d.receive r.h true 5 x fun d => d.pullReported r
  | .release r => d.receive r.h true 6 x fun d => d.releaseArrived r
  | .repark r => d.receive r.h true 7 x fun d => d.reparkArrived r
  | .invoke m => d.receive m.h false 4 x fun d => d.takeInvMsg m
  | .query q => d.receive q.h false 12 x fun d => d.queryArrived q
  | .mutation m => d.receive m.h false 13 x fun d => d.recordArrived m
  | .hostInvoke c =>
    match d.verdict (d.hostInvHdr c) true with
    | .hold => { d with comp.held := d.comp.held ++ [x] }
    | .process => d.takeHostInv c
    | _ => d.completeCmd (cmdRef c) C.NACK_EPOCH []

/-- Releasing what was held. -/
def Dev.releaseHeld (d : Dev) : Dev := d.comp.held.foldl (fun (d : Dev) x => d.deliverRole x) { d with comp.held := [] }

/-! ## Bounces (R235) -/

/-- Dropping an invocation of this device whose carried copy is lost: its cores are free again and its stalls' homes are told, or its host
command completes with SEP_ABANDONED (R109, R239). -/
def Dev.dropInv (d : Dev) (id : Nat) : Dev :=
  match d.inv? id with
  | none => d
  | some i =>
    let d := (d.sep.cores.filter fun (x : Nat × Core) => x.2.job.any fun (j : Job) => j.inv == id).foldl (fun (d : Dev) x => d.clearJob x.1) d
    let d := { d with sep.invs := Tbl.del d.sep.invs id }
    let d := i.binds.foldl (fun (d : Dev) b => d.tellHome b.key i.paddock 3 C.SEP_ABANDONED 0 d.now [] []) d
    (match i.tag with | .host c => d.completeCmd c C.SEP_ABANDONED [] | _ => d).placeAll

/-- The record of an invocation as a member receives it (R144). -/
def Inv.record (i : Inv) (epoch : Nat) : Bytes :=
  leBytes 2 i.paddock ++ leBytes 1 i.slot ++ leBytes 1 i.cls ++ leBytes 4 i.crc ++ leBytes 8 i.base ++ leBytes 8 0 ++ leBytes 2 i.binds.length
    ++ leBytes 1 (b2n i.bound + 2 * b2n (i.binds.any (·.rebuild))) ++ [0] ++ leBytes 4 i.pstep ++ leBytes 8 i.result ++ leBytes 4 epoch
    ++ List.replicate 20 0

/-- A stall placed afresh, but not in a paddock: a bounced ship or chunk that its receiver's loss leaves (R228, R239). -/
def Dev.placeElsewhere (d : Dev) (id : Nat) : Dev :=
  match d.stall? id with
  | none => d
  | some x =>
    match x.phase.paddock, d.model? x.r.model with
    | some p, some m =>
      let role := if x.r.state == .ship then 2 else 1
      let d := d.cancelPull id x.phase
      let d := d.putStall id { x with phase := if role == 2 then .waitGen else .waitPrompt }
      let others := (d.servers role x.r.model).filter (· != p)
      match if role == 2 then d.chooseGen others x.r else others.head? with
      | some q => d.startPull id q m
      | none => d
    | _, _ => d

/-- Resolving a bounced message's target again from the current map, and sending it there (R235 rows 1, 2, 3, 5). `dst`: the receiver. -/
def Dev.resolveAgain (d : Dev) (what : BouncedWhat) (dst : Nat) : Dev :=
  match what with
  | .park stall page shard => d.askPark stall page shard
  | .ship stall | .chunk stall =>
    match d.stall? stall with
    | none => d
    | some x =>
      let d := (d.cancelPull stall x.phase).putStall stall { x with phase := .none }
      if x.r.state == .ship then d.placeGen stall else if x.r.state == .prefill then d.placePrompt stall else d.putStall stall x
  | .pull home stall pullId =>
    match (d.pull? (stallKey home stall)).bind fun (p : Pull) => p.req pullId with
    | some q => d.sendPull home stall q
    | none => match d.pan.reparks.find? (fun (x : Repark) => x.pullId == pullId) with
      | some r => d.sendPull r.msg.home r.msg.stall { mkReq r.msg.departing r.msg.page 1 r.msg.shard 1 false false with pullId := pullId }
      | none => d
  | .query qid shard =>
    match Tbl.at? d.srch.queries qid with
    | some q => match q.subs.find? (fun (x : SubQuery) => x.shard == shard && x.ans.isNone) with
      | some x => d.sendQuery qid q shard x.asked
      | none => d
    | none => d
  | .invocation id =>
    match d.inv? id with
    | some i => if (d.paddockDevs i.paddock).contains dst then d.sendRole .invoke dst i.paddock [id] (i.record d.comp.cur.epoch) else d.dropInv id
    | none => d
  | .mutation cmd pos r => d.sendRecord cmd pos r
  | .other => d

/-- Treating the receiver as lost for one message (R235). -/
def Dev.lostFor (d : Dev) (what : BouncedWhat) (dst : Nat) : Dev :=
  match what with
  | .park stall page shard =>
    match d.stall? stall with
    | none => d
    | some x =>
      let e := x.pages.ent page shard
      let rank := (d.cachePaddock x.r.model).bind fun p => (d.paddockDevs p).findIdx? (· == dst)
      let e := { e with refused := match rank with | some r => addOnce e.refused r | none => e.refused }
      (d.putStall stall { x with pages := x.pages.setEnt page shard e }).askPark stall page shard
  | .ship stall | .chunk stall => d.placeElsewhere stall
  | .pull home stall pullId =>
    match (d.pull? (stallKey home stall)).bind fun (p : Pull) => p.req pullId with
    | some q => d.notHeld (stallKey home stall) q
    | none => d.refusalArrived { h := { src := dst, epoch := 0, roleEpoch := 0 }, home := home, stall := stall, pullId := pullId
                                 status := C.PAN_NOT_HELD, page := 0, shard := 0 }
  | .query qid shard => d.askAlt qid shard
  | .invocation id => d.dropInv id
  | .mutation cmd pos r =>
    match d.shardOwner (field r 1 1) (field r 2 2) with
    | some (_, alt) => if alt == 0xFFFF || alt == dst then d else d.sendRole .mutation alt 0 [cmd, pos] r
    | none => d
  | .other => d

/-- The bounced message this device keeps for a receiver, if any. -/
def Dev.bouncedFor (d : Dev) (what : BouncedWhat) (dst : Nat) : Option BouncedMsg :=
  d.pan.bounced.find? fun (x : BouncedMsg) => x.what == what && x.dst == dst
def Dev.forget (d : Dev) (what : BouncedWhat) (dst : Nat) : Dev :=
  { d with pan.bounced := d.pan.bounced.filter fun (x : BouncedMsg) => !(x.what == what && x.dst == dst) }
def Dev.keep (d : Dev) (what : BouncedWhat) (dst : Nat) (h : BounceHold) : Dev :=
  let d := d.forget what dst
  { d with pan.bounced := d.pan.bounced ++ [({ what := what, dst := dst, hold := h } : BouncedMsg)] }

/-- The retry interval (R243). -/
def Dev.retryBeats (d : Dev) : Nat := 2 ^ d.fld F.PAN_RETRY_INTERVAL_LOG2

/-- A bounce whose receiver is on an older epoch: one more try after the interval, or, with every try made, the limit (R235). -/
def Dev.bouncedOlder (d : Dev) (what : BouncedWhat) (dst : Nat) : Dev :=
  let made := match (d.bouncedFor what dst).map (fun (x : BouncedMsg) => x.hold) with | some (.resend _ n) => n | _ => 0
  if d.fld F.PAN_RETRY_MAX_M1 + 1 ≤ made then ((d.forget what dst).raise E.PAN_BOUNCE_LIMIT 0 0 dst).lostFor what dst
  else d.keep what dst (.resend (d.now + d.retryBeats) made)

/-- BOUNCE (R234, R235): counted, then by R235's table. -/
def execBounce (b : BounceMsg) (s : State) : Out :=
  s.onDev fun d =>
    let newer := (b.epoch + 2 ^ 32 - d.comp.cur.epoch) % 2 ^ 32
    if b.code = C.NACK_ROLE then
      let d := d.count F.PAN_BOUNCE_CNT_ROLE_RCVD
      if d.roleEpochOf b.src = b.msgRoleEpoch then d.keep b.what b.src .nextSwitch
      else (d.forget b.what b.src).resolveAgain b.what b.src
    else if b.code = C.NACK_EPOCH then
      let d := d.count F.PAN_BOUNCE_CNT_EPOCH_RCVD
      if newer = 0 then (d.forget b.what b.src).resolveAgain b.what b.src
      else if newer < 2 ^ 31 then d.keep b.what b.src (.untilEpoch b.epoch)
      else d.bouncedOlder b.what b.src
    else d

/-- BOUNCE_RETRY (R235): the messages due are sent again. -/
def execBounceRetry (s : State) : Out :=
  s.onDev fun d =>
    let due := d.pan.bounced.filter fun (x : BouncedMsg) => match x.hold with | .resend b _ => b != 0 && decide (b ≤ d.now) | _ => false
    due.foldl (fun (d : Dev) x => match x.hold with
      | .resend _ n => (d.keep x.what x.dst (.resend 0 (n + 1))).resolveAgain x.what x.dst
      | _ => d) d

/-- Whether a kept message waits no longer once this device's epoch is e (R235). -/
def BounceHold.over (h : BounceHold) (e : Nat) : Bool :=
  match h with
  | .nextSwitch => true
  | .untilEpoch x => decide ((e + 2 ^ 32 - x) % 2 ^ 32 < 2 ^ 31)
  | .resend b _ => b == 0

/-- The kept messages that waited for this device's switch are resolved again; those sent again and not bounced since are forgotten. -/
def Dev.releaseBounced (d : Dev) : Dev :=
  let go := d.pan.bounced.filter fun (x : BouncedMsg) => x.hold.over d.comp.cur.epoch
  let d := { d with pan.bounced := d.pan.bounced.filter fun (x : BouncedMsg) => !x.hold.over d.comp.cur.epoch }
  go.foldl (fun (d : Dev) x => match x.hold with | .resend .. => d | _ => d.resolveAgain x.what x.dst) d

/-! ## The end of grace (R19, R20, R30, R138, R272) -/

/-- Detaching every shard of the device (R272): the work in flight of them ends, and detaches under way complete. -/
def Dev.detachAll (d : Dev) : Dev :=
  let cs := d.srch.shards.filterMap fun (x : Nat × ShardRec) => x.2.detaching
  let d := { d with srch.shards := [], srch.contexts := [], srch.waiting := [] }
  cs.foldl (fun (d : Dev) c => d.completeCmd c C.OK []) d

/-- The paddocks of this device under a map. -/
def Dev.padsIn (d : Dev) (m : CompMap) : List Nat := (m.memberships d.me).map fun (x : Member) => x.paddock

/-- The end of grace (R30): a device that has left the cache role releases what it holds parked and detaches its shards; of the paddocks it
has left, the slots are emptied and the regions freed; waiting stalls try again (R549). -/
def Dev.endGrace (d : Dev) : Dev :=
  match d.comp.old with
  | none => d
  | some o =>
    let left := (d.padsIn o).filter fun p => !(d.padsIn d.comp.cur).contains p
    let atEnd := d.comp.cur.effBeat + d.comp.cur.grace
    let was := o.roleOf d.me
    let gone := d.pan.held.filter fun (h : HeldRegion) => (was == 3 && d.comp.role != 3) || h.paddock.any left.contains
    let d := gone.foldl (fun (d : Dev) h => d.heldLost h) d
    let d := if was == 3 && d.comp.role != 3 then d.detachAll else d
    let d := left.foldl (fun (d : Dev) p => (d.emptySlots p).setHeap p []) d
    (({ d with comp := d.comp.graceOver }).retryAll (some atEnd)).tryPulls

/-- GRACE_END (R30). -/
def execGraceEnd (s : State) : Out :=
  s.onDev fun d => if d.comp.old.isSome && decide (d.comp.cur.effBeat + d.comp.cur.grace ≤ d.now) then d.endGrace else d

/-! ## The switch (R18, R19, R30) -/

/-- Pulls into a paddock that the new map no longer lets serve are cancelled; their stalls wait to be placed (R242). -/
def Dev.cancelMoved (d : Dev) (m : CompMap) : Dev :=
  (Tbl.keys d.stl.stalls).foldl (fun (d : Dev) id =>
    match d.stall? id with
    | none => d
    | some x =>
      let gen := x.r.state == .ship
      match x.phase with
      | .ship p _ | .pulled p =>
        if m.serves (if gen then 2 else 1) x.r.model p then d
        else (d.cancelPull id x.phase).putStall id { x with phase := if gen then .waitGen else .waitPrompt }
      | _ => d) d

/-- Whether an invocation is a peloton step of a generation device, on rank 0 or on another member (R19). -/
def Dev.isStep (d : Dev) (i : Inv) : Bool :=
  match i.tag with
  | .step _ => true
  | .member .. => i.bound && i.binds.all (fun b => !b.rebuild) && (Tbl.at? d.kv.paddocks i.paddock).any fun (p : KvPaddock) => p.decSlot == i.slot
  | _ => false

/-- What a change of this device's role does at B (R18, R19): old-role units stop, but a peloton step completes; the stalls that decode here
and are in no running step go back to their homes. -/
def Dev.leaveRole (d : Dev) (was : Nat) : Dev :=
  let stop := (d.sep.invs.filter fun (x : Nat × Inv) => !(was == 2 && d.isStep x.2)).map fun (x : Nat × Inv) => x.1
  let d := stop.foldl (fun (d : Dev) k => d.stopInv k) d
  if was != 2 then d
  else (d.kv.execs.filter fun (x : Nat × ExecStall) => x.2.started && !x.2.bound).foldl (fun (d : Dev) x =>
    ({ d with kv.execs := Tbl.put d.kv.execs x.1 { x.2 with started := false, member := false } }).tellHome
      x.1 x.2.paddock 2 C.SEP_ABANDONED 0 d.now [] []) d

/-- A spare at a switch (R459 to R461): one that serves a place goes on serving it while the new map still lists both it as SPARE and the
place; otherwise it holds what the map gives it. -/
def Dev.spareSwitch (d : Dev) (m : CompMap) : Dev :=
  let sp := (m.entry d.me).any fun (e : DevEntry) => e.spare
  match d.hlt.spare with
  | .none => if sp && d.flag F.HLT_CTRL_SPARE_EN then { d with hlt.spare := .unready } else d
  | .unready | .ready => if sp then d else { d with hlt.spare := .none }
  | .loading | .active =>
    if !sp then { d with hlt.spare := .none, hlt.spareFor := none, hlt.spareSrc := none }
    else match d.hlt.spareFor with
      | none => d
      | some x =>
        if (m.entry x).isNone then d
        else { d with comp.cur := m.standIn x d.me, comp.staged := some m, comp.role := m.roleOf x
                      comp.roleEpoch := Tbl.rd (fun _ => 0) d.comp.epochs x }

/-- The health monitor at a switch: devices declared lost before the map was staged count again (R452); aliases whose device the map leaves
out are dropped where the spare is not SPARE (R461); the paddocks of the tandem follow the map (R467). -/
def Dev.healthSwitch (d : Dev) (m : CompMap) : Dev :=
  let mine := (Tbl.at? d.hlt.lost d.me) == some true
  let d := { d with hlt.lost := d.hlt.lost.filter fun (x : Nat × Bool) => !x.2
                    hlt.stripped := d.hlt.stripped && !mine
                    hlt.aliases := d.hlt.aliases.filter fun (x : Nat × Nat) => (m.entry x.1).isSome || (m.entry x.2).any fun (e : DevEntry) => e.spare
                    hlt.tpads := d.hlt.tpads.filter fun (x : Nat × TandemPad) => !(m.paddock x.1).isEmpty }
  if d.hlt.active then d.allPaddocks.foldl (fun (d : Dev) p => if (d.tpad p).isSome then d else d.setTpad p {}) d else d

/-- The pool groups a map claims at its switch (R312): their bits are cleared, and what was not drained is lost. -/
def Dev.claimGroups (d : Dev) (m : CompMap) : Dev :=
  let gs := (List.range 32).filter fun g => bit (d.claimedGroups m) g && bit (d.fld F.MEM_POOL_GRP_MASK) g
  if gs.isEmpty then d
  else (gs.foldl (fun (d : Dev) g => (d.groupLost g).setFld F.MEM_POOL_GRP_MASK (bitClear (d.fld F.MEM_POOL_GRP_MASK) g)) d).settled

/-- The enable masks at a switch (R551): those of paddocks that no longer exist are cleared; rank 0 announces those of paddocks the switch
changes. -/
def Dev.maskSwitch (d : Dev) (o m : CompMap) : Dev :=
  let d := { d with kv.masks := d.kv.masks.filter fun (x : Nat × Nat) => !(m.paddock x.1).isEmpty }
  ((d.padsIn m).filter fun p => o.paddock p != m.paddock p).foldl (fun (d : Dev) p => d.announceMask p) d

/-- The switch to the pending map (R30): pulls it strands are cancelled; the map, role, role epoch and paddocks are adopted; old-role work
stops; everything that waited for the switch goes on. -/
def Dev.switchTo (d : Dev) (m : CompMap) : Dev :=
  let d := d.cancelMoved m
  let d := if d.hlt.spare == .loading && !((m.entry d.me).any fun (e : DevEntry) => e.spare) then d.dropLoad false else d
  let o := d.comp.asStaged
  let was := d.comp.role
  let d := { d with comp := d.comp.switch m d.me, cad.detm := d.cad.detmReq }
  let d := (d.spareSwitch m).healthSwitch m
  let d := if d.comp.role == was then d else d.leaveRole was
  let d := ((d.claimGroups m).maskSwitch o m).revive
  let d := (d.releaseHeld.releaseBounced).pumpIngress
  let d := (d.retryAll (some m.effBeat)).reparkNext
  if m.grace = 0 then d.endGrace else d

/-- EFFECTIVE_BEAT (R30): the cadence count has reached B; a grace period that ends by then ends first. -/
def execEffectiveBeat (s : State) : Out :=
  s.onDev fun d =>
    match d.comp.pending with
    | none => d
    | some m => if d.now < m.effBeat then d else (d.endGrace).switchTo m

end Sys2Proof.Machine
end

