-- ==== Sys2Proof/Machine/Standby.lean ====
section
/-!
DEFINITION. Machine/Standby.lean: start-up's last milestone, `idle` and `stabled`, SMBus reads, and HBM refresh
(spec/18_package_power_startup.md R516, R518 to R523, R529; spec/02_cadence_and_determinism.md R55).
-/

namespace Sys2Proof.Machine

/-! ## Ready for composition (R529) -/

/-- Whether the cadence state counts as acquired (PWR_STAT.CAD_OK). -/
def Dev.cadOk (d : Dev) : Bool := d.cad.state == .locked || d.cad.state == .refonly || d.cad.state == .follow

/-- A core that fails its test at start-up is marked (R106, R529). -/
def Dev.coreFailed (d : Dev) (core : Nat) : Dev :=
  if 544 ≤ core then d else if (d.core core).state == .spare then d.spareFailed core else d.faultCore core

/-- READY_FOR_COMPOSITION (R529): what start-up has found so far is recorded: failed cores, failed channels, trained ports; once every part has
ended and the cadence is acquired the part enters `run`. -/
def execReadyForComposition (u : StartUp) (s : State) : Out :=
  s.onDev fun d =>
    if d.pwr.state != .start || !d.pwr.readyFw || d.pwr.testEn then d
    else
      let d := if u.eng && !d.pwr.engOk then { u.failedCores.foldl (fun (d : Dev) k => d.coreFailed k) d with pwr.engOk := true } else d
      let d := if u.hbm && !d.pwr.hbmOk then
          { u.failedChannels.foldl (fun (d : Dev) k => if k < 256 then d.failChannel k else d) d with pwr.hbmOk := true } else d
      let d := if u.azf && !d.pwr.azfOk then
          { u.ports.foldl (fun (d : Dev) p => d.portUp p.1 p.2.1 p.2.2.1 p.2.2.2) d with pwr.azfOk := true } else d
      if d.pwr.engOk && d.pwr.hbmOk && d.pwr.azfOk && d.cadOk then { d with pwr.readyComp := true, pwr.state := .run } else d

/-! ## Requests (R520, R522) -/

/-- R520's conditions for `stabled`. -/
def Dev.mayStable (d : Dev) : Bool :=
  d.comp.role == 0 && (d.comp.cur.memberships d.me).isEmpty && d.comp.pending.isNone
    && d.stl.stalls.all (fun (x : Nat × Stall) => x.2.r.resting || x.2.r.state == .free) && d.stl.shadow.isEmpty
    && d.pan.held.isEmpty && d.srch.shards.isEmpty && d.qpx.qps.all (fun (x : Nat × Qp) => x.2.state != .ready)
    && d.hif.outstanding.isEmpty

/-- The part holds a request's status. -/
def Dev.pwrStatus (d : Dev) (st : Nat) : Dev := { d with pwr.status := st }

/-- A write of PWR_CTRL (R520, R522, R545): a TARGET that is accepted is stored; a refused one is not. -/
def Dev.pwrCtrlWritten (d : Dev) (value : Nat) : Dev :=
  let take := fun (d : Dev) => ({ d with pwr.target := value % 8 }).pwrStatus C.OK
  match value % 8 with
  | 1 => (take d).wake
  | 4 =>
    match d.pwr.state with
    | .stabled => take d
    | .run | .idle => if d.mayStable then { take d with pwr.state := .entering, hay.force := true } else d.pwrStatus C.PWR_STATE_BUSY
    | _ => d.pwrStatus C.PWR_STATE_BUSY
  | _ => d.pwrStatus C.PWR_STATE_BAD

/-! ## Entering and leaving `stabled` (R521 to R523) -/

/-- Whether entry is complete: no move, no write-back, nothing in the hayloft's journal. -/
def Dev.quiet (d : Dev) : Bool :=
  d.moves == 0 && d.memt.wbs.isEmpty && d.memt.spills.isEmpty && d.hay.jrn.isEmpty && d.hay.flushing.isNone

/-- STABLED_ENTRY_COMPLETE (R522): lane coefficients are saved, the engine rails go off with what the scratchpads held, VDD_Y goes to 0.55 V,
HBM refreshes itself, and every port keeps its wake lane only (R368). -/
def execStabledEntryComplete (s : State) : Out :=
  s.onDev fun d =>
    if d.pwr.state != .entering || !d.quiet then d
    else
      let d := { d with pwr.state := .stabled, therm.lanesSaved := true, therm.engPwrEn := false, therm.vddYLow := true, therm.hbmSelfRefresh := true
                        mem := d.mem.filter fun (c : Host.Cell) => c.1 / 2 ^ 64 != 0 }
      let d := d.put (.pin .engPwrEn false)
      (List.range 16).foldl (fun (d : Dev) i => d.onAzPort i fun (q : Port) => if q.state = 2 then { q with state := 3 } else q) d

/-- The end of a wake: HBM is active, the ports use their lanes again, and the part runs (R522). -/
def Dev.awake (d : Dev) : Dev :=
  let d := { d with pwr.state := .run, therm.hbmSelfRefresh := false, therm.lanesSaved := false }
  (List.range 16).foldl (fun (d : Dev) i => d.onAzPort i fun (q : Port) => if q.state = 3 then { q with state := 2 } else q) d

/-- WAKE_COMPLETE (R522, R523). -/
def execWakeComplete (s : State) : Out := s.onDev fun d => if d.pwr.state == .waking then d.awake else d

/-- WAKE_TIMEOUT (R522): parts not up 200,000 beats after the wake event are marked failed (R442), PWR_WAKE_FAIL is raised, and the part runs; a
port that is not up goes down. -/
def execWakeTimeout (parts : List (Nat × Nat)) (s : State) : Out :=
  s.onDev fun d =>
    if d.pwr.state != .waking || d.now < d.therm.wakeBeat + 200000 then d
    else
      let d := d.awake
      let d := parts.foldl (fun (d : Dev) p => let d := d.charge .fail p.1 p.2; if p.1 = 4 && p.2 < 16 then d.portDown p.2 else d) d
      d.raise E.PWR_WAKE_FAIL

/-- What the firmware does with a command found on ring 0 in `stabled` (R521): COMP_STAGE is executed, with 2^18 beats asked of a map that gives
this device a role, and such a map, accepted, wakes the device; any other command wakes it and waits. -/
def Dev.stabledCmd (d : Dev) (c : HostCmd) : Dev :=
  if c.opcode != 0x11 then d.wake
  else
    let gives := (CompMap.read c.data).roleOf d.me != 0
    let e := d.comp.pending
    let d := d.takeCmd stageSpec c fun d => d.stageBody c.data (if gives then 2 ^ 18 else 2 ^ 16)
    if gives && e.isNone && d.comp.pending.isSome then d.wake else d

/-- STABLED_RING0_SCAN (R521): in `stabled` the doorbell of command ring 0 is scanned; `prod`: its producer index, where its bit was set; `c`: the
command read from the ring, where one waits. -/
def execStabledRing0Scan (prod : Option Nat) (c : Option HostCmd) (s : State) : Out :=
  s.onDev fun d =>
    if d.pwr.state != .stabled || !d.flag F.HIF_CTRL_EN then d
    else
      let d := match prod with
        | some p => foundRing { summary := [], bitmap := [], prod := [(0, p)] } d 0
        | none => d
      match c with
      | some c => if c.ring = 0 && d.ringReady 0 then d.stabledCmd c else d
      | none => d

/-! ## Gating (R519) -/

/-- The beats of the launches due on a die: entries not launched of the invocations here, and the next steps of the pelotons whose rank 0 is
this device. -/
def Dev.dueOn (d : Dev) (die : Nat) : List Nat :=
  (d.sep.invs.flatMap fun (x : Nat × Inv) => match d.invImg x.2 with
    | none => []
    | some img => ((List.range (d.invEntries x.2)).filter fun k => x.2.refused.isNone && !x.2.stopping && !(x.2.ent k).launched
        && (d.rangeCores x.2 (imgEntry img k)).any fun c => c / 136 == die).map fun k => launchBeat x.2 (imgEntry img k))
  ++ d.kv.execs.filterMap fun (x : Nat × ExecStall) =>
      let k := pelOf x.2.record.lenCommit x.2.record.cls
      let here := (d.comp.cur.member x.2.paddock d.me).any fun (m : Member) => m.clusters / 2 ^ (16 * die) % 2 ^ 16 != 0
      if x.2.started && here then some (d.peloton x.2.paddock k).next else none

/-- Whether a core of a die holds work. -/
def Dev.dieWorks (d : Dev) (die : Nat) : Bool :=
  (List.range 136).any fun k => let c := d.core (136 * die + k); c.job.isSome || c.saving.isSome || c.yield.isSome || c.state == .loading

/-- Setting a die's gate; with every die gated the part is `idle`, otherwise it runs. -/
def Dev.setGate (d : Dev) (die : Nat) (g : Bool) : Dev :=
  let d := { d with therm.dies := Vector.ofFn fun (i : Fin 4) => if i.val = die then { d.therm.dies[i] with gated := g } else d.therm.dies[i] }
  if d.pwr.state == .run || d.pwr.state == .idle then
    { d with pwr.state := if d.therm.dies.toList.all (fun (c : DieClk) => c.gated) then .idle else .run }
  else d

/-- DIE_GATE (R519): no work on the die, and no launch on it due within 1,024 beats. -/
def execDieGate (die : Nat) (s : State) : Out :=
  s.onDev fun d =>
    if die < 4 && !d.dieGated die && !d.dieWorks die && (d.dueOn die).all fun b => decide (d.now + 1024 < b) then d.setGate die true else d

/-- DIE_UNGATE (R519): 256 beats before a launch on the die, or once one is past. -/
def execDieUngate (die : Nat) (s : State) : Out :=
  s.onDev fun d =>
    if die < 4 && d.dieGated die && (d.dieWorks die || (d.dueOn die).any fun b => decide (b ≤ d.now + 256)) then d.setGate die false else d

/-! ## SMBus and refresh -/

/-- SMBUS_BLOCK_READ (R516): answered whatever the power state; `off` has no VDD_AON. -/
def execSmbusBlockRead (cmd : Nat) (s : State) : Out :=
  s.always fun d =>
    if d.pwr.state == .off then d
    else match d.smbus d.hbState cmd with
      | some b => d.put (.smbus b)
      | none => d

/-- HBM_REFRESH (R55): a channel is refreshed every 975 beats, every 487 while its stack is above 85 °C; in self-refresh the controller issues
none. -/
def execHbmRefresh (channel : Nat) (s : State) : Out :=
  s.onDev fun d =>
    let hot := decide (85 < d.therm.stackTemp.getD (channel / 32) 0)
    if channel < 256 && !d.therm.hbmSelfRefresh && decide (Tbl.rd (fun _ => 0) d.memt.refresh channel ≤ d.now) then
      { d with memt.refresh := Tbl.wr (fun _ => 0) d.memt.refresh channel (d.now + if hot then 487 else 975) }
    else d

end Sys2Proof.Machine
end

