-- ==== Sys2Proof/Machine/RegView.lean ====
section
/-!
DEFINITION. Machine/RegView.lean: what a register reads as, and what a read and a write of BAR0 do (spec/19_register_reference.md
R535 to R548, spec/00_scope.md R6, R7, R10): the fields the other blocks hold are laid over the stored ones.
-/

namespace Sys2Proof.Machine

/-! ## What the fields held elsewhere read as -/

/-- Fields with the values they read as. -/
abbrev View := List (Fld × Nat)

/-- A field that is one bit. -/
def one (f : Fld) (b : Bool) : Fld × Nat := (f, b2n b)

/-- The cadence state's code (R70). -/
def CadState.code : CadState → Nat
  | .unset => 0 | .acquire => 1 | .locked => 2 | .refonly => 3 | .follow => 4 | .slew => 5 | .holdover => 6

/-- The composition state's code (R32). -/
def CompState.code : CompState → Nat
  | .steady => 0 | .staged => 1 | .grace => 2 | .graceStaged => 3

/-- How many of the cores in a range are in a state. -/
def Dev.coresIn (d : Dev) (st : CoreState) : Nat := ((List.range 544).filter fun k => (d.core k).state == st).length

/-- The logical core positions served by an active core (R540). -/
def Dev.served (d : Dev) : Nat :=
  ((List.range 544).filter fun k => decide (k % 136 < 128) && (d.core (d.servedBy k)).state == .active).length

/-- GLB (R32, R71, R540). -/
def Dev.viewGlb (d : Dev) : View :=
  (if d.pwr.readyComp then
    [(F.GLB_CAP_CORES, d.served), (F.GLB_CAP_SPARES, d.coresIn .spare), (F.GLB_CAP_CH_GROUPS, 32 - d.memt.badGroups.length),
     (F.GLB_CAP_PORTS, ((List.range 16).filter fun i => (d.azPort i).state == 2).length)] else [])
  ++ [one F.GLB_MODE_DETM d.cad.detm, one F.GLB_MODE_DETM_REQ d.cad.detmReq, one F.GLB_MODE_DETM_PEND (d.cad.detm != d.cad.detmReq),
      (F.GLB_COMP_EPOCH_MAP_EPOCH, d.comp.cur.epoch), (F.GLB_COMP_EPOCH_ROLE_EPOCH, d.comp.roleEpoch),
      (F.GLB_COMP_STATE_ROLE, d.comp.role), (F.GLB_COMP_STATE_STATE, d.comp.state.code),
      (F.GLB_COMP_STATE_PEND_ROLE, match d.comp.pending with | some m => m.roleOf d.me | none => 0),
      (F.GLB_COMP_STATE_PADDOCKS, d.myMembers.length), (F.GLB_COMP_STATE_GRACE_BEATS, d.comp.cur.grace),
      (F.GLB_COMP_BEAT_EFF_BEAT, match d.comp.pending with | some m => m.effBeat | none => d.comp.cur.effBeat)]

/-- CAD (R70). -/
def Dev.viewCad (d : Dev) : View :=
  [(F.CAD_COUNT_COUNT, d.cad.count), (F.CAD_STATE_STATE, d.cad.state.code), (F.CAD_STATE_STRATUM, d.cad.stratum),
   (F.CAD_STATE_SRC_PORT, if d.cad.state == .follow || d.cad.acquiredFrom then d.cad.srcPort else 0),
   (F.CAD_STATE_OFFSET, toTwos 16 d.cad.offset16), one F.CAD_LOAD_ARM d.cad.arm]

/-- INTK (R185). -/
def Dev.viewIntk (d : Dev) : View :=
  [(F.INTK_STAT_COUNT, d.queued), (F.INTK_STAT_XOFF, natOfBits d.stl.xoff), one F.INTK_STAT_OPEN d.stl.openLvl.isSome]
  ++ (List.range 8).map (fun l => (F.INTK_LVL_COUNT l, d.levelCount l))
  ++ (List.range 8).map fun w => (F.INTK_POP_ITEM w, field d.stl.pop (8 * w) 8)

/-- What STL_DATA shows of the entry STL_SEL names (R186); what a free entry holds is open, drawn at each copy. -/
def Dev.stlEntry (d : Dev) : Bytes :=
  let i := d.fld F.STL_SEL_STALL
  let free := (List.range 16).flatMap fun w =>
    let v := Config.freeStall d.fresh i w
    leBytes 8 (if w = 0 then i + bits v 31 17 * 2 ^ 17 + bits v 63 40 * 2 ^ 40 else v)
  if d.flag F.STL_SEL_SHADOW then
    match (Config.shadowAt (Tbl.keys d.stl.shadow) i).bind (Tbl.at? d.stl.shadow) with
    | some e => e.r.bytes
    | none => free
  else match d.stall? i with
    | some x => x.r.bytes
    | none => free

/-- STL (R186): the counts by state, and the record copied at the last read of STL_DATA[0]. -/
def Dev.viewStl (d : Dev) : View :=
  let inState := fun (c : Nat) => (d.stl.stalls.filter fun (x : Nat × Stall) => x.2.r.state.code == c).length
  [(F.STL_SHADOW_HELD, d.stl.shadow.length), (F.STL_STATE_CNT_COUNT 0, d.freeStalls + inState 0)]
  ++ (List.range 9).map (fun c => (F.STL_STATE_CNT_COUNT (c + 1), inState (c + 1)))
  ++ (List.range 16).map fun w => (F.STL_DATA_WORD w, field d.stl.dataCopy (8 * w) 8)

/-- PAN (R243). -/
def Dev.viewPan (d : Dev) : View :=
  [(F.PAN_HELD_REGIONS, d.pan.held.length),
   (F.PAN_PULLS_OPEN, (d.pan.pulls.filter fun (x : Nat × Pull) =>
      x.2.waitHeap || x.2.state == .eager || x.2.state == .main || x.2.state == .rebuild).length)]

/-- A pair's field of ENG_SPARE_MAP (R541): the core in `spare` that is the pair's, else the one that holds another's L, else the
one the pair was made with. -/
def Dev.pairField (d : Dev) (pair : Nat) : Nat :=
  let ks := pairCores pair
  let sp := match d.pairSpare pair with
    | some k => k
    | none => match ks.find? (fun k => (d.core k).subst.isSome && (d.core k).state != .failed) with
      | some k => k
      | none => (ks.find? fun k => (d.core k).subst.isSome).getD (pair / 8 * 136 + 128 + pair % 8)
  let c := d.core sp
  let st := match c.state with | .spare => 0 | .loading => 1 | .active => 2 | .failed => 3
  match c.subst with
  | some h => sp % 136 + h % 136 % 8 * 2 ^ 8 + h % 136 / 8 % 2 * 2 ^ 11 + 2 ^ 12 + st * 2 ^ 13
  | none => sp % 136 + st * 2 ^ 13

/-- Whether a core's clocks are gated (R106, R519): its die is gated, it rests as a spare, or its cluster lies in no paddock. -/
def Dev.coreGated (d : Dev) (core : Nat) : Bool :=
  let c := d.core core
  d.dieGated (core / 136) || c.state == .spare || (c.subst.isNone && decide (core % 136 < 128) && !d.inAnyPaddock (clusterBit core))

/-- ENG (R541), for the core ENG_SEL names. -/
def Dev.selCore (d : Dev) : Nat := d.fld F.ENG_SEL_DIE * 136 + d.fld F.ENG_SEL_CORE
def Dev.viewEng (d : Dev) : View :=
  let k := d.selCore
  let c := d.core k
  let place := if c.state == .failed || d.servedBy (c.subst.getD k) != k then none else d.placeOf k
  (if d.pwr.engOk then
    [(F.ENG_STAT_ACTIVE, d.coresIn .active), (F.ENG_STAT_SPARES, d.coresIn .spare), (F.ENG_STAT_FAILED, d.coresIn .failed)] else [])
  ++ [(F.ENG_STAT_GATED, natOfBits ((List.range 4).map d.dieGated))]
  ++ (List.range 8).map (fun i => (F.ENG_SPARE_MAP_PAIRS i,
      (List.range 4).foldl (fun a q => a + d.pairField (i / 2 * 8 + i % 2 * 4 + q) * 2 ^ (16 * q)) 0))
  ++ [(F.ENG_CORE_STAT_STATE, match c.state with | .active => 0 | .spare => 1 | .loading => 2 | .failed => 3),
      one F.ENG_CORE_STAT_GATED (d.coreGated k), one F.ENG_CORE_STAT_SUBST (c.subst.isSome && c.state != .failed),
      one F.ENG_CORE_STAT_L_VALID place.isSome, (F.ENG_CORE_STAT_L, (place.map (·.2)).getD 0),
      (F.ENG_CORE_STAT_PADDOCK_ID, (place.map (·.1)).getD 0),
      (F.ENG_CORE_CNT_ROUNDED, c.rounded), (F.ENG_ROUNDED_SUM_ROUNDED, d.sep.roundedSum)]

/-- CMP (R543). -/
def Dev.viewCmp (d : Dev) : View :=
  (List.range 4).map fun i => (F.CMP_TABLE_MAP_LOADED i,
    natOfBits ((List.range 64).map fun j => 64 * i + j == 0 || (Tbl.at? d.cmp (64 * i + j)).isSome))

/-- SEP (R544), for the paddock, slot and peloton entry SEP_SEL names; zero where this device is no member of the paddock. -/
def Dev.viewSep (d : Dev) : View :=
  let pad := d.fld F.SEP_SEL_PADDOCK_ID
  let k := d.fld F.SEP_SEL_PEL
  let m := d.inPaddock pad
  let z := fun (n : Nat) => if m then n else 0
  let p := d.sepPad pad
  let img := (d.slotImg pad (d.fld F.SEP_SEL_SLOT)).map (·.img)
  let q := d.peloton pad k
  let en := (Tbl.at? d.kv.paddocks pad).any fun (x : KvPaddock) => (x.pels.getD k {}).en
  let waits := (d.kv.execs.filter fun (x : Nat × ExecStall) =>
    x.2.paddock == pad && x.2.started && !x.2.member && pelOf x.2.record.lenCommit x.2.record.cls == k).length
  [(F.SEP_PD_ENUM_PADDOCK_ID, ((d.myMembers[d.fld F.SEP_PD_ENUM_INDEX]?).map (·.paddock)).getD 0),
   (F.SEP_MODE_MODE, z p.mode), one F.SEP_MODE_PEND (m && p.mode != p.cur), one F.SEP_MODE_MEMBER m, (F.SEP_MODE_CUR, z p.cur),
   (F.SEP_SLOTS_LOADED, z (natOfBits ((List.range 16).map fun s => (d.slotImg pad s).isSome))),
   (F.SEP_SLOTS_BUSY, z (natOfBits ((List.range 16).map fun s => d.slotBusy pad s))),
   (F.SEP_SLOTS_LAST, z (p.last.getD 0)), one F.SEP_SLOTS_LAST_VALID (m && p.last.isSome),
   (F.SEP_SLOT_INFO_IMAGE_CRC, z ((img.map imgCrc).getD 0)), (F.SEP_SLOT_INFO_P, z ((img.map imgP).getD 0)),
   (F.SEP_SLOT_INFO_ROLE_MASK, z ((img.map fun b => imgN b 6 1).getD 0)),
   (F.SEP_INV_CNT_DONE, z p.done), (F.SEP_INV_CNT_YIELDS, z p.yields), (F.SEP_INV_CNT_ABANDONED, z p.abandoned),
   (F.SEP_PEL_STAT_MEMBERS, z q.members), one F.SEP_PEL_STAT_EN (m && en), (F.SEP_PEL_STAT_WAITING, z waits),
   (F.SEP_PEL_CNT_STEPS, z q.steps), (F.SEP_PEL_CNT_LEFT_OUT, z q.leftOut), (F.SEP_PEL_CNT_HELD, z q.held),
   (F.SEP_PEL_NEXT_BASE_BEAT, if m && en then q.next else 0)]

/-- SRCH (R304), with the shard SRCH_SEL names. -/
def Dev.viewSrch (d : Dev) : View :=
  let sel := d.shard? (d.fld F.SRCH_SEL_INDEX) (d.fld F.SRCH_SEL_SHARD)
  let n := fun (st : Nat) => match sel with
    | some s => ((List.range (shCap s.hdr)).filter fun i => d.slotState s.hdr i == st).length
    | none => 0
  let key := shardKey (d.fld F.SRCH_SEL_INDEX) (d.fld F.SRCH_SEL_SHARD)
  let waits := ((d.srch.waiting ++ d.srch.contexts).filter fun (x : Nat × WalkWork) => match x.2 with
    | .insert index shard _ _ => shardKey index shard == key
    | .query _ => false).length + (match sel with | some s => s.delWait.length | none => 0)
  [(F.SRCH_STAT_CTX_USED, d.srch.contexts.length), (F.SRCH_STAT_SHARDS, d.srch.shards.length),
   (F.SRCH_STAT_POOL_FREE, 2 ^ 18 - d.poolUsed), (F.SRCH_QUEUE_WAITING, d.srch.waiting.length), (F.SRCH_DIR_N_ENTRIES, d.srch.dir.length),
   (F.SRCH_SH_CNT_LIVE, n 2), (F.SRCH_SH_CNT_TOMB, n 3),
   (F.SRCH_SH_SWEEP_EPOCH, (sel.map (·.epoch)).getD 0), (F.SRCH_SH_SWEEP_ROW, (sel.map (·.row)).getD 0),
   (F.SRCH_SH_FREE_FREE, n 0), (F.SRCH_SH_FREE_MUT_Q, if sel.isSome then waits else 0)]

/-- MEM (R331), with the unit of MEM_LOOKUP and the channel of MEM_ECC_SEL. -/
def Dev.viewMem (d : Dev) : View :=
  let u := d.fld F.MEM_LOOKUP_ADDR / memUnit
  let r := d.memt.regions.find? fun (x : Nat × MemRegion) => x.2.holdsUnit u
  let x := d.unit u
  let st := match x.state with | .absent => 0 | .hbm => 1 | .hay => 2 | .host => 3 | .moving => 4 | .lost => 5
  let e := Tbl.rd (fun _ => (0, 0, 0)) d.memt.ecc (d.fld F.MEM_ECC_SEL_CHANNEL)
  let z := fun (n : Nat) => if r.isSome then n else 0
  [(F.MEM_STAT_HBM_FREE, d.framesFree), (F.MEM_STAT_HOST_FREE, d.hostFree), (F.MEM_STAT2_REGIONS, d.memt.regions.length),
   (F.MEM_STAT2_MOVES, d.moves), (F.MEM_STAT2_WB, d.memt.wbs.length),
   (F.MEM_LOOKUP_DATA_STATE, if r.isSome then st else 7), (F.MEM_LOOKUP_DATA_DIRTY, z (b2n x.dirty)),
   (F.MEM_LOOKUP_DATA_HAY_VALID, z (b2n x.hayValid)), (F.MEM_LOOKUP_DATA_HEAT, z x.heat),
   (F.MEM_LOOKUP_DATA_REGION, (r.map (·.1)).getD 0), (F.MEM_LOOKUP_DATA_FRAME, z x.frame),
   (F.MEM_ECC_CNT_CE, e.1), (F.MEM_ECC_CNT_UE, e.2.1), (F.MEM_ECC_CNT_REPAIRED, e.2.2)]

/-- The hayloft state's code (R348). -/
def HayState.code : HayState → Nat
  | .off => 0 | .probe => 1 | .blank => 2 | .rebuild => 3 | .ready => 4 | .readonly => 5 | .failed => 6

/-- HAY (R363). -/
def Dev.viewHay (d : Dev) : View :=
  let h := d.hay
  [(F.HAY_STATE_STATE, h.state.code), (F.HAY_STATE_CH_MASK, natOfBits ((List.range 32).map fun c => h.accepted.any fun t => t / 8 == c)),
   (F.HAY_GEOM_LUNS_M1, h.geom.luns - 1), (F.HAY_GEOM_PLANES_M1, h.geom.planes - 1), (F.HAY_GEOM_CELL, h.geom.cell),
   (F.HAY_GEOM_PAGES, h.geom.pages), (F.HAY_GEOM_BLOCKS, h.geom.blocks), (F.HAY_GEOM_TARGETS, h.accepted.length),
   (F.HAY_STAT_FREE, h.freeCount), (F.HAY_STAT_SLC, h.slcUsed),
   (F.HAY_STAT_OPEN, (h.blocks.filter fun (x : Nat × HBlk) => x.2.state == .open).length),
   (F.HAY_STAT2_MAPPED, h.map.length), (F.HAY_STAT2_BAD, (h.blocks.filter fun (x : Nat × HBlk) => x.2.state == .bad).length)]

/-- AZF (R399). -/
def Dev.viewAzf (d : Dev) : View :=
  ((List.range 16).flatMap fun i => let p := d.azPort i
    [(F.AZF_PORT_STATE i, p.state), (F.AZF_PORT_LANES i, p.lanes), (F.AZF_PORT_NEIGHBOUR i, p.neighbour), (F.AZF_PORT_RTT i, p.rtt)])
  ++ [(F.AZF_ORDER_RECORDS, recordsOf d.heldOps), (F.AZF_ORDER_HOT, d.hotLines.length),
      (F.AZF_ORDER_ROUNDS, min d.fab.rounds.length 0xFFFF)]

/-- QPX (R421), with the pair QPX_SEL names. -/
def Dev.viewQpx (d : Dev) : View :=
  let q := d.qp? (d.fld F.QPX_SEL_QPN)
  let z := fun (f : Qp → Nat) => (q.map f).getD 0
  [(F.QPX_STAT_RESIDENT, (d.qpx.qps.filter fun (x : Nat × Qp) => x.2.cache == .resident).length), (F.QPX_STAT_MISS, d.qpx.miss.length),
   one F.QPX_STAT_PAUSING (d.qpx.pausing != 0),
   (F.QPX_STAT_WATCHES, (d.qpx.qps.filter fun (x : Nat × Qp) => x.2.cache == .evicted && !x.2.wqes.isEmpty).length),
   (F.QPX_QP_STAT_STATE, z fun q => match q.state with | .reset => 1 | .ready => 2 | .error => 3),
   (F.QPX_QP_STAT_CACHE, z fun q => match q.cache with | .evicted => 0 | .fetching => 1 | .resident => 2 | .writing => 3),
   (F.QPX_QP_STAT_SPSN, z (·.spsn)), (F.QPX_QP_STAT_EPSN, z (·.epsn)), (F.QPX_QP_CNT_SCNT, z (·.scnt)), (F.QPX_QP_CNT_RCNT, z (·.rcnt))]

/-- SHP (R439), for the shaper or policer SHP_SEL names; tokens in whole bytes, rounded down. -/
def Dev.viewShp (d : Dev) : View :=
  let i := d.fld F.SHP_SEL_INDEX
  let pl := d.flag F.SHP_SEL_PL
  let m := if pl then d.policer i else d.shaper i
  let b := m.buckets d.now
  let defers := (List.range 16).foldl (fun n p => n + ((d.azPort p).ingress.filter fun (x : InPkt) => x.pol.any (·.contains i)).length) 0
  [(F.SHP_TOKENS_TC, if pl then b.1 / 4096 else toTwos 32 ((m.tokens d.now) / 4096)), (F.SHP_TOKENS_TX, if pl then b.2 / 4096 else 0),
   (F.SHP_HELD_PKTS, if pl then defers else (d.heldBy i).length)]
  ++ (List.range 3).map fun c => (F.SHP_CNT_BYTES c, m.bytes.getD c 0)

/-- HLT (R476), with the part HLT_SEL names. -/
def Dev.viewHlt (d : Dev) : View :=
  let k := d.fld F.HLT_SEL_KIND
  let i := d.fld F.HLT_SEL_INDEX
  let p := d.part k i
  [(F.HLT_STAT_SCORE, d.score 0 0), (F.HLT_STAT_HB_STATE, d.hbState), one F.HLT_STAT_ASK_REPLACE d.hlt.askReplace,
   (F.HLT_STAT_SPARE_STATE, match d.hlt.spare with | .none => 0 | .unready => 1 | .ready => 2 | .loading => 3 | .active => 4),
   (F.HLT_STAT_ALIASES, d.hlt.aliases.length), one F.HLT_ASK_ASK_REPLACE d.hlt.askReplace,
   (F.HLT_EXPEL_COUNT, d.expelled d.comp.role), (F.HLT_PART_SCORE, d.score k i), one F.HLT_PART_FAILED p.failed, (F.HLT_PART_ACC, p.acc),
   (F.HLT_PART_CNT_CE, p.ce), (F.HLT_PART_CNT_RETRY, p.retry), (F.HLT_PART_CNT_RETRAIN, p.retrain), (F.HLT_PART_CNT_UE, p.ue),
   one F.HLT_TANDEM_ACTIVE d.hlt.active]

/-- HIF (R499), with the ring HIF_SEL names. -/
def Dev.viewHif (d : Dev) : View :=
  let r := d.fld F.HIF_SEL_RING
  let c := d.cmdRing r
  let q := d.cplRing r
  let cpl := d.flag F.HIF_SEL_CPL
  [(F.HIF_STAT_OUTSTANDING, d.hif.outstanding.length), (F.HIF_STAT_RINGS, (d.hif.cmd.filter fun (x : Nat × CmdRing) => x.2.en).length),
   one F.HIF_RING_STAT_EN (if cpl then q.en else c.en), (F.HIF_RING_STAT_LOG2, if cpl then q.log2 else c.log2),
   one F.HIF_RING_STAT_ADMIN (!cpl && c.admin), one F.HIF_RING_STAT_INTAKE (if cpl then q.intakeOk else c.intake),
   (F.HIF_RING_STAT_TENANT, if cpl then 0 else c.tenant),
   (F.HIF_RING_IDX_PROD, if cpl then q.prod else c.prod), (F.HIF_RING_IDX_CONS, if cpl then q.cons else c.cons)]

/-- PWR (R545, R546). -/
def Dev.viewPwr (d : Dev) : View :=
  let p := d.pwr
  let t := d.therm
  let pack := fun (w : Nat) (l : List Nat) => l.reverse.foldl (fun a x => a * 2 ^ w + x % 2 ^ w) 0
  [(F.PWR_CTRL_TARGET, p.target), (F.PWR_STAT_STATE, p.state.code), one F.PWR_STAT_READY_FW p.readyFw,
   one F.PWR_STAT_READY_COMP p.readyComp, one F.PWR_STAT_ENG_OK p.engOk, one F.PWR_STAT_HBM_OK p.hbmOk, one F.PWR_STAT_AZF_OK p.azfOk,
   one F.PWR_STAT_CAD_OK d.cadOk, (F.PWR_STAT_STATUS, p.status),
   (F.PWR_STRAP_SLOT_ID, p.slotId), (F.PWR_STRAP_BOOT_MODE, p.bootMode), one F.PWR_STRAP_TEST_EN p.testEn,
   one F.PWR_BOOT_BUSY p.bootBusy, one F.PWR_BOOT_RECOVERY p.recovery, (F.PWR_BOOT_SLOT, p.bootSlot),
   one F.PWR_BOOT_FROM_WINDOW p.fromWindow, (F.PWR_BOOT_RESULT_A, p.resultA), (F.PWR_BOOT_RESULT_B, p.resultB),
   (F.PWR_BOOT_RESULT_WIN, p.resultWin), (F.PWR_FW_FW_VERSION, p.fwVersion), (F.PWR_FW_SEC_VER, p.secVer),
   (F.PWR_FW_FUSED_SVN, p.fuses.svn), (F.PWR_FW_KEY_INDEX, p.keyIndex), (F.PWR_FW_REVOKED, p.fuses.revoked),
   (F.PWR_CLK_STEP, pack 4 (t.dies.toList.map fun (c : DieClk) => c.step)), one F.PWR_CLK_THROTTLE t.throttle,
   one F.PWR_CLK_PROCHOT (!t.prochotN), one F.PWR_CLK_CAPPED t.capped,
   one F.PWR_CLK_AVS_HOLD (t.dies.toList.any fun (c : DieClk) => c.avsHold.isSome), one F.PWR_CLK_HBM_HALF (!t.hbmHalf.isEmpty),
   (F.PWR_TEMP_DIE, pack 8 t.dieTemp), (F.PWR_TEMP_HBM_STACK, pack 8 t.stackTemp)]

/-- DBG (R533). -/
def Dev.viewDbg (d : Dev) : View :=
  [one F.DBG_CTRL_TEST_EN d.pwr.testEn, (F.DBG_TAP_IR, d.tap.ir), (F.DBG_TAP_TAP_STATE, d.tap.tapState), one F.DBG_TAP_ACTIVE d.tap.active]

/-- The fields of a block that are not stored in its registers, by block window (R535). -/
def Dev.view (d : Dev) (block : Nat) : View :=
  match block with
  | 0 => d.viewGlb | 1 => d.viewCad | 2 => d.viewIntk | 3 => d.viewStl | 4 => d.viewPan | 5 => d.viewEng | 6 => d.viewCmp
  | 7 => d.viewSep | 8 => d.viewSrch | 9 => d.viewMem | 10 => d.viewHay | 11 => d.viewAzf | 12 => d.viewQpx | 13 => d.viewShp
  | 14 => d.viewHlt | 15 => d.viewHif | 16 => d.viewPwr | 17 => d.viewDbg | _ => []

/-- What the register at an offset reads as. -/
def Dev.readReg (d : Dev) (off : Nat) : Word :=
  (d.view (off / 0x100000)).foldl (fun w x => if x.1.off == off then x.1.put w x.2 else w) (d.reg off)

/-! ## Observation (R532) -/

/-- The word that OBS carries: zero while OBS_EN is clear. -/
def Dev.obs (d : Dev) : Nat :=
  let arg := d.fld F.DBG_OBS_SEL_ARG
  let steps := d.therm.dies.toList.map fun (c : DieClk) => c.step
  if !d.flag F.DBG_CTRL_OBS_EN then 0
  else match d.fld F.DBG_OBS_SEL_SRC with
  | 0x01 => d.cad.count % 2 ^ 32
  | 0x02 => d.cad.state.code + d.cad.stratum * 2 ^ 4 + min d.cad.slipLast 255 * 2 ^ 8 + toTwos 16 d.cad.offset16 * 2 ^ 16
  | 0x03 => d.pwr.state.code + (List.range 4).foldl (fun a i => a + steps.getD i 0 * 2 ^ (8 + 4 * i)) 0
      + b2n (!d.therm.prochotN) * 2 ^ 24 + b2n d.therm.capped * 2 ^ 25
  | 0x04 => d.therm.dieTemp.getD arg 0 + d.therm.dieSensor.getD arg 0 % 32 * 2 ^ 8
  | 0x05 => d.queued + natOfBits d.stl.xoff * 2 ^ 17 + b2n d.stl.openLvl.isSome * 2 ^ 21
  | 0x06 => d.hlt.lastCode + d.score 0 0 * 2 ^ 16
  | 0x07 => if 16 ≤ arg then 0
      else (d.azPort arg).lanes + (d.azPort arg).state * 2 ^ 8 + d.fld F.AZF_LINK_CNT_REPLAY % 2 ^ 16 * 2 ^ 16
  | 0x08 => if 8 ≤ arg then 0
      else d.therm.stackTemp.getD arg 0 + b2n (decide (85 < d.therm.stackTemp.getD arg 0)) * 2 ^ 8
        + (List.range 32).foldl (fun a c => a + (Tbl.rd (fun _ => (0, 0, 0)) d.memt.ecc (32 * arg + c)).1) 0 % 2 ^ 16 * 2 ^ 16
  | 0x09 => d.comp.role + d.comp.state.code * 2 ^ 2 + d.comp.cur.epoch % 2 ^ 24 * 2 ^ 8
  | _ => 0

/-! ## Access (R6, R536 to R539) -/

/-- How BAR0 is served (R538). -/
inductive Served where
  | notYet | recovery | all | held
  deriving DecidableEq, Repr

/-- How BAR0 is served now; the states that serve nothing at all are those in which the part is out of service. -/
def Dev.serving (d : Dev) : Served :=
  if d.pwr.state == .entering || d.pwr.state == .stabled || d.pwr.state == .waking then .held
  else if d.pwr.readyFw then .all
  else if d.pwr.recovery then .recovery
  else .notYet

/-- The image window (R535). -/
def inWindow (off : Nat) : Bool := off / 0x1000000 == 2

/-- What recovery serves (R538). -/
def bootServed (off : Nat) : Bool := off / 0x100000 == 16 || off / 0x100000 == 17 || inWindow off

/-- Whether an access at an offset is one that GLB_ACC_ERR counts: not before firmware is ready, and in recovery only where it serves. -/
def Dev.accCounts (d : Dev) (off : Nat) : Bool :=
  match d.serving with
  | .all | .held => true
  | .recovery => bootServed off
  | .notYet => false

/-- Counting an access, where accesses are counted. -/
def Dev.countAcc (d : Dev) (pcie : Bool) (kind off : Nat) (write : Bool) : Dev :=
  if pcie && d.accCounts off then d.accErr kind off write else d

/-- What reading a register does besides: its RC fields clear, here and in the blocks (R10); STL_DATA[0] takes its copy (R186). -/
def Dev.readEffects (d : Dev) (clear : Bool) (r : RegSpec) : Dev :=
  let o := r.off
  let d := if o == (F.STL_DATA_WORD 0).off then { d.draw.2 with stl.dataCopy := d.stlEntry } else d
  if !clear then d
  else
    let d := d.clearRc r
    let pad := d.fld F.SEP_SEL_PADDOCK_ID
    let pel := d.fld F.SEP_SEL_PEL
    let sel := d.fld F.SHP_SEL_INDEX
    let ch := d.fld F.MEM_ECC_SEL_CHANNEL
    let kind := d.fld F.HLT_SEL_KIND
    let idx := d.fld F.HLT_SEL_INDEX
    let m := d.inPaddock pad
    let zero := fun (m : Meter) (c : Nat) => { m with bytes := m.bytes.set c 0 }
    if o == F.ENG_CORE_CNT_ROUNDED.off then d.setCore d.selCore { d.core d.selCore with rounded := 0 }
    else if o == F.ENG_ROUNDED_SUM_ROUNDED.off then { d with sep.roundedSum := 0 }
    else if m && o == F.SEP_INV_CNT_DONE.off then d.setSepPad pad { d.sepPad pad with done := 0, yields := 0, abandoned := 0 }
    else if m && o == F.SEP_PEL_CNT_STEPS.off then d.setPeloton pad pel { d.peloton pad pel with steps := 0, leftOut := 0, held := 0 }
    else if o == F.MEM_ECC_CNT_CE.off then { d with memt.ecc := Tbl.wr (fun _ => (0, 0, 0)) d.memt.ecc ch (0, 0, 0) }
    else if o == F.HLT_PART_CNT_CE.off then d.setPart kind idx { d.part kind idx with ce := 0, retry := 0, retrain := 0, ue := 0 }
    else match (List.range 3).find? fun c => o == (F.SHP_CNT_BYTES c).off with
      | some c => if d.flag F.SHP_SEL_PL then d.setPolicer sel (zero (d.policer sel) c) else d.setShaper sel (zero (d.shaper sel) c)
      | none => d

/-- A read of BAR0 (R6, R10, R536, R538): the data and what the read does. `pcie`: from host software; else from the TAP, whose reads clear
nothing and are never counted (R539). -/
def Dev.busRead (d : Dev) (pcie : Bool) (off : Nat) : Word × Dev :=
  if d.serving = .notYet then (BitVec.allOnes 64, d)
  else if off % 8 ≠ 0 then (BitVec.allOnes 64, d.countAcc pcie 0 off false)
  else if d.serving = .recovery && !bootServed off then (0, d)
  else match regAt off with
    | none => (0, d.countAcc pcie 1 off false)
    | some r =>
      let e := d.readEffects pcie r
      (if off == (F.STL_DATA_WORD 0).off then e.readReg off else d.readReg off, e)

/-- The bytes of CMP_DEFAULT_LO or HI that are held at zero: those of reserved format codes and of LONG (R543). -/
def cmpDefaultMask (first v : Nat) : Nat :=
  natOfBits ((List.range 64).map fun i => bit v i && fmtBits (first + i / 8) != 0 && first + i / 8 != 0xF)

/-- What a write does once its fields are stored, at the registers that have behaviour of their own. `before`: the part before the write. -/
def Dev.writeEffects (before d : Dev) (off v : Nat) : Dev :=
  let pad := d.fld F.SEP_SEL_PADDOCK_ID
  if off == F.GLB_MODE_DETM_REQ.off then d.detmWritten (bit v F.GLB_MODE_DETM_REQ.lo)
  else if off == F.CAD_LOAD_ARM.off then d.cadLoadWritten
  else if off == F.INTK_CTRL_EN.off || (List.range 4).any (fun i => off == (F.INTK_WM_HI i).off) then d.xoffEval
  else if off == F.INTK_CMD_NEXT.off then d.intkCmd (bit v F.INTK_CMD_NEXT.lo) (bit v F.INTK_CMD_DROP_REST.lo)
  else if off == F.CMP_DEFAULT_LO_TABLE0.off then d.setReg off (BitVec.ofNat 64 (cmpDefaultMask 0 (d.reg off).toNat))
  else if off == F.CMP_DEFAULT_HI_TABLE0.off then d.setReg off (BitVec.ofNat 64 (cmpDefaultMask 8 (d.reg off).toNat))
  else if off == F.SEP_MODE_MODE.off then
    let d := d.setReg off (before.reg off)
    if d.inPaddock pad then d.setSepPad pad { d.sepPad pad with mode := v % 4 } else d
  else if off == F.MEM_CTRL_EN.off || off == F.MEM_POOL_GRP_MASK.off || off == F.MEM_HOST_SIZE_SIZE.off then d.settled
  else if off == F.HAY_CTRL_EN.off then d.hayCtrlWritten
  else if off == F.SHP_CMD_APPLY.off then
    let d := if bit v F.SHP_CMD_APPLY.lo then d.shpApply else d
    if bit v F.SHP_CMD_READ.lo then d.shpRead else d
  else if off == F.HLT_CTRL_EN.off then (d.spareCheck).drainEvents d.hlt.events
  else if off == F.HLT_THRESH_WARN.off then d.spareCheck
  else if off == F.HLT_ASK_ASK_REPLACE.off then if bit v 0 then d.askRelease else d
  else if off == F.HLT_TANDEM_EN.off then d.tandemWritten (before.flag F.HLT_TANDEM_EN)
  else if off == F.HIF_CTRL_EN.off then Dev.hifCtrlWritten before d
  else if off == F.PWR_CTRL_TARGET.off then (d.setReg off (before.reg off)).pwrCtrlWritten v
  else if off == F.PWR_RESET_WARM.off then if bit v F.PWR_RESET_WARM.lo then d.warm F.PWR_RST_CAUSE_WARM_REG else d
  else d

/-- A write of BAR0 (R6, R10, R536 to R538). A GO or PROGRAM of PWR_BOOT is the commands PWR_BOOT_GO and PWR_BOOT_PROGRAM. -/
def Dev.busWrite (d : Dev) (pcie : Bool) (off v : Nat) : Dev :=
  let all := fun (_ : Acc) => true
  let put := fun (r : RegSpec) (pick : Acc → Bool) =>
    let s := d.storeReg r v pick
    let e := if s.1 then s.2.countAcc pcie 2 off true else s.2
    Dev.writeEffects d e off v
  if d.serving = .notYet then d
  else if off % 8 ≠ 0 then d.countAcc pcie 0 off true
  else if d.serving = .recovery && !bootServed off then d
  else if inWindow off then
    if d.serving = .held then d.countAcc pcie 2 off true
    else { d with pwr.window := Tbl.wr (fun _ => 0) d.pwr.window ((off - 0x2000000) / 8) (BitVec.ofNat 64 v) }
  else match regAt off with
    | none => d.countAcc pcie 1 off true
    | some r =>
      if d.serving = .held && !(off == F.PWR_CTRL_TARGET.off || off == F.PWR_RESET_WARM.off || off == F.GLB_SCRATCH_VALUE.off
          || off / 0x100000 == 17) then
        let open_ := fun (a : Acc) => a == .w1c || a == .w1s
        if r.fields.any fun f => open_ f.acc then
          let e := put r open_
          if r.fields.all fun f => open_ f.acc then e else e.countAcc pcie 2 off true
        else d.countAcc pcie 2 off true
      else put r all

/-! ## The commands -/

/-- REGISTER_WRITE (R10, R537, R538): an aligned write of a value at an offset of BAR0. -/
def execRegisterWrite (off value : Nat) (s : State) : Out := s.onDev fun d => d.busWrite true off value

/-- RC_READ (R10): an aligned read of the register at an offset. -/
def execRcRead (off : Nat) (s : State) : Out :=
  s.onDev fun d => let x := d.busRead true off; x.2.put (.regData off x.1)

/-- NARROW_ACCESS (R6): a read returns all-ones, a write is discarded; it is counted. -/
def execNarrowAccess (off : Nat) (write : Bool) (s : State) : Out :=
  s.onDev fun d =>
    let e := d.countAcc true 0 off write
    if write then e else e.put (.regData off (BitVec.allOnes 64))

/-- UNMAPPED_ACCESS (R536): an aligned access to an offset that names no register. -/
def execUnmappedAccess (off : Nat) (write : Bool) (s : State) : Out :=
  s.onDev fun d =>
    if off % 8 ≠ 0 || (regAt off).isSome || (write && inWindow off) then d
    else if write then d.busWrite true off 0
    else let x := d.busRead true off; x.2.put (.regData off x.1)

/-- DBG_ACCESS (R531, R539): the TAP instruction 0x20 is in effect, and one access is made; a write needs JTAG_RW. -/
def execDbgAccess (write : Bool) (off value : Nat) (s : State) : Out :=
  s.always fun d =>
    if d.pwr.state == .off then d
    else
      let d := { d with tap := { d.tap with ir := 0x20, tapState := 15, active := false } }
      if !d.alive then d
      else if write then if d.flag F.DBG_CTRL_JTAG_RW then d.busWrite false off value else d
      else let x := d.busRead false off; x.2.put (.regData off x.1)

/-! ### The writes that have a row of their own -/

/-- PWR_RESET_WARM (R524): a write of 1 to PWR_RESET.WARM. -/
def execPwrResetWarm (s : State) : Out := s.onDev fun d => d.busWrite true F.PWR_RESET_WARM.off 1

/-- TARGET_STABLED (R520, R522): a write of PWR_CTRL whose TARGET is `stabled`. -/
def execTargetStabled (value : Nat) (s : State) : Out :=
  s.onDev fun d => if value % 8 = 4 then d.busWrite true F.PWR_CTRL_TARGET.off value else d

/-- TARGET_RUN (R522): a write of PWR_CTRL whose TARGET is `run`. -/
def execTargetRun (s : State) : Out := s.onDev fun d => d.busWrite true F.PWR_CTRL_TARGET.off 1

/-- HIF_EN_SET (R481): a write of HIF_CTRL with EN set. A value with EN clear is no setting of EN. -/
def execHifEnSet (value : Nat) (s : State) : Out :=
  s.onDev fun d => if bit value 0 then d.busWrite true F.HIF_CTRL_EN.off value else d

/-- CAD_LOAD_ARM (R49): a write of CAD_LOAD with ARM set. -/
def execCadLoadArm (value : Nat) (s : State) : Out :=
  s.onDev fun d => if bit value 0 then d.busWrite true F.CAD_LOAD_ARM.off value else d

/-- DETM_REQ_WRITE (R62): a write of GLB_MODE. -/
def execDetmReqWrite (req : Bool) (s : State) : Out :=
  s.onDev fun d => d.busWrite true F.GLB_MODE_DETM_REQ.off (b2n req * 2 ^ F.GLB_MODE_DETM_REQ.lo)

/-- INTK_CMD_NEXT (R183): a write of 1 to INTK_CMD.NEXT. -/
def execIntkCmdNext (s : State) : Out := s.onDev fun d => d.busWrite true F.INTK_CMD_NEXT.off 1

/-- INTK_CMD_DROP_REST (R175, R183): a write of 1 to INTK_CMD.DROP_REST. -/
def execIntkCmdDropRest (s : State) : Out := s.onDev fun d => d.busWrite true F.INTK_CMD_NEXT.off 2

/-- SHP_CMD_APPLY (R437): a write of 1 to SHP_CMD.APPLY. -/
def execShpCmdApply (s : State) : Out := s.onDev fun d => d.busWrite true F.SHP_CMD_APPLY.off 1

/-- SHP_CMD_READ (R437): a write of 1 to SHP_CMD.READ. -/
def execShpCmdRead (s : State) : Out := s.onDev fun d => d.busWrite true F.SHP_CMD_APPLY.off 2

/-- HAY_EN_SET (R348): a write of HAY_CTRL with EN set. -/
def execHayEnSet (value : Nat) (s : State) : Out :=
  s.onDev fun d => if bit value 0 then d.busWrite true F.HAY_CTRL_EN.off value else d

/-- HAY_EN_CLEAR (R348): a write of HAY_CTRL with EN clear. -/
def execHayEnClear (value : Nat) (s : State) : Out :=
  s.onDev fun d => if bit value 0 then d else d.busWrite true F.HAY_CTRL_EN.off value

/-- HLT_TANDEM_EN (R467): a write of HLT_TANDEM. -/
def execHltTandemEn (value : Nat) (s : State) : Out := s.onDev fun d => d.busWrite true F.HLT_TANDEM_EN.off value

/-- HLT_ASK_RELEASE (R449): a write of 1 to HLT_ASK.ASK_REPLACE. -/
def execHltAskRelease (s : State) : Out := s.onDev fun d => d.busWrite true F.HLT_ASK_ASK_REPLACE.off 1

end Sys2Proof.Machine
end

