-- ==== Sys2Proof/Machine/Selection.lean ====
section
/-!
DEFINITION. Machine/Selection.lean: the SELECT and MERGE operators on the yard die's top-k units (R245 to R254, R256).
-/

namespace Sys2Proof.Machine

/-- Reading n bytes at a paddock address: this member's memory with its poison, or the bytes that arrived from another member. -/
def Dev.readAddr (d : Dev) (i : Inv) (a n : Nat) (remote : Tbl Bytes) : Bytes × Bool := d.copyRead i a 0 n remote

/-- Ending a selection: the result is written, with poison where anything it read was poisoned (R253), and the entry takes its status;
a refused descriptor writes nothing (R250). -/
def Dev.endSelect (d : Dev) (inv entry : Nat) (desc : Bytes) (status : Nat) (res : Option (Bytes × Bool)) : Dev :=
  match d.inv? inv with
  | none => d
  | some i =>
    let d := match res, d.localKey i (field desc 16 8) with
      | some (b, p), some k => (d.storeP k b p).touchKey k b.length true
      | some (b, p), none => match d.remoteOf i (field desc 16 8) with
        | some dev => d.sendCopy dev i.paddock (field desc 16 8) i.base b p (d.kindClass (if i.cls ≤ 3 then 0 else 1))
        | none => d
      | none, _ => d
    let poison := match res with | some (_, p) => p | none => false
    let x := i.ent entry
    d.putInv inv (i.setEnt entry { x with
      status := if x.status = 0 then status else x.status
      eflags := if poison then bitSet x.eflags 0 else x.eflags })

/-- SELECT (R245 to R253): one descriptor of an entry, at the paddock address `desc`. -/
def execSelect (inv entry desc : Nat) (remote : Tbl Bytes) (s : State) : Out :=
  s.onDev fun d =>
    match d.inv? inv with
    | none => d
    | some i =>
      let (r, p0) := d.readAddr i desc 64 remote
      match selDescCheck false r with
      | some c => d.endSelect inv entry r c none
      | none =>
        let n := field r 32 4
        let k := field r 36 1
        let fmt := field r 37 1
        let size := if fmt = 2 then 2 else 4
        let (row, p1) := d.readAddr i (field r 0 8) (size * n) remote
        let filt := field r 8 8
        let (fb, p2) := if filt = 0 then ([], false) else d.readAddr i filt (ceilDiv n 8) remote
        let scores := rowScores fmt n row (if filt = 0 then none else some fb)
        let m := selModeOf r
        let res := selectPass m (bits (field r 38 1) 2 1) (field r 40 4) (field r 24 6) k scores
        d.endSelect inv entry r (selStatus (n == 0) res.entries.length k) (some (res.bytes m k, p0 || p1 || p2))

/-- MERGE (R250 to R256): one merge descriptor of an entry. -/
def execMerge (inv entry desc : Nat) (remote : Tbl Bytes) (s : State) : Out :=
  s.onDev fun d =>
    match d.inv? inv with
    | none => d
    | some i =>
      let (r, p0) := d.readAddr i desc 64 remote
      match selDescCheck true r with
      | some c => d.endSelect inv entry r c none
      | none =>
        let n := field r 32 4
        let k := field r 36 1
        let (addrs, p1) := d.readAddr i (field r 0 8) (8 * n) remote
        let ins := (List.range n).map fun j => d.readAddr i (field addrs (8 * j) 8) (32 + 16 * k) remote
        if !ins.all (fun x => selInputOk r x.1) then d.endSelect inv entry r C.SEL_DESC_BAD none
        else
          let m := selModeOf r
          let rs := ins.map fun x => SelRes.read x.1
          let res := selMerge m (bits (field r 38 1) 2 1) k rs
          d.endSelect inv entry r (selStatus (rs.all fun x => x.entries.isEmpty) res.entries.length k)
            (some (res.bytes m k, p0 || p1 || ins.any (·.2)))

end Sys2Proof.Machine
end

