-- ==== Sys2Proof/Machine/Dispatch.lean ====
section
/-! DEFINITION. Machine/Dispatch.lean: the meaning of every command, one arm per constructor of Instr, each one direct call. -/

namespace Sys2Proof.Machine

def exec (i : Instr) (s : State) : Host.Outcome State Fault Refusal :=
  match i with
  | .por slotId bootMode testEn => Sys2Proof.Machine.execPor slotId bootMode testEn s
  | .powerLoss => Sys2Proof.Machine.execPowerLoss s
  | .wrstNLow => Sys2Proof.Machine.execWrstNLow s
  | .pwrResetWarm => Sys2Proof.Machine.execPwrResetWarm s
  | .firmwareWatchdog => Sys2Proof.Machine.execFirmwareWatchdog s
  | .firmwareVerify a b retained => Sys2Proof.Machine.execFirmwareVerify a b retained s
  | .pwrBootGo m => Sys2Proof.Machine.execPwrBootGo m s
  | .pwrBootProgram m norOk => Sys2Proof.Machine.execPwrBootProgram m norOk s
  | .firmwareReady => Sys2Proof.Machine.execFirmwareReady s
  | .readyForComposition u => Sys2Proof.Machine.execReadyForComposition u s
  | .targetStabled value => Sys2Proof.Machine.execTargetStabled value s
  | .targetRun => Sys2Proof.Machine.execTargetRun s
  | .stabledEntryComplete => Sys2Proof.Machine.execStabledEntryComplete s
  | .wakeComplete => Sys2Proof.Machine.execWakeComplete s
  | .wakeTimeout parts => Sys2Proof.Machine.execWakeTimeout parts s
  | .stabledRing0Scan prod c => Sys2Proof.Machine.execStabledRing0Scan prod c s
  | .dieGate die => Sys2Proof.Machine.execDieGate die s
  | .dieUngate die => Sys2Proof.Machine.execDieUngate die s
  | .sensorRead sensors => Sys2Proof.Machine.execSensorRead sensors s
  | .prochotNLow => Sys2Proof.Machine.execProchotNLow s
  | .powerCapCheck avg => Sys2Proof.Machine.execPowerCapCheck avg s
  | .avsTransaction rail ok step => Sys2Proof.Machine.execAvsTransaction rail ok step s
  | .smbusBlockRead cmd => Sys2Proof.Machine.execSmbusBlockRead cmd s
  | .extest => Sys2Proof.Machine.execExtest s
  | .samplePreload => Sys2Proof.Machine.execSamplePreload s
  | .idcode => Sys2Proof.Machine.execIdcode s
  | .clamp => Sys2Proof.Machine.execClamp s
  | .highz => Sys2Proof.Machine.execHighz s
  | .extestPulse => Sys2Proof.Machine.execExtestPulse s
  | .extestTrain => Sys2Proof.Machine.execExtestTrain s
  | .dbgAccess write off value => Sys2Proof.Machine.execDbgAccess write off value s
  | .scan => Sys2Proof.Machine.execScan s
  | .bypass code => Sys2Proof.Machine.execBypass code s
  | .trstNReset => Sys2Proof.Machine.execTrstNReset s
  | .hostLinkEvent => Sys2Proof.Machine.execHostLinkEvent s
  | .dbScan d => Sys2Proof.Machine.execDbScan d s
  | .hifEnSet value => Sys2Proof.Machine.execHifEnSet value s
  | .intakePartialTimeout ring => Sys2Proof.Machine.execIntakePartialTimeout ring s
  | .cplConsPoll ring cons => Sys2Proof.Machine.execCplConsPoll ring cons s
  | .hifDmaRetry ok => Sys2Proof.Machine.execHifDmaRetry ok s
  | .msixSignal ring => Sys2Proof.Machine.execMsixSignal ring s
  | .registerWrite off value => Sys2Proof.Machine.execRegisterWrite off value s
  | .narrowAccess off write => Sys2Proof.Machine.execNarrowAccess off write s
  | .unmappedAccess off write => Sys2Proof.Machine.execUnmappedAccess off write s
  | .rcRead off => Sys2Proof.Machine.execRcRead off s
  | .cadLoadArm value => Sys2Proof.Machine.execCadLoadArm value s
  | .intkCmdNext => Sys2Proof.Machine.execIntkCmdNext s
  | .intkCmdDropRest => Sys2Proof.Machine.execIntkCmdDropRest s
  | .shpCmdApply => Sys2Proof.Machine.execShpCmdApply s
  | .shpCmdRead => Sys2Proof.Machine.execShpCmdRead s
  | .detmReqWrite req => Sys2Proof.Machine.execDetmReqWrite req s
  | .hayEnSet value => Sys2Proof.Machine.execHayEnSet value s
  | .hayEnClear value => Sys2Proof.Machine.execHayEnClear value s
  | .hltTandemEn value => Sys2Proof.Machine.execHltTandemEn value s
  | .hltAskRelease => Sys2Proof.Machine.execHltAskRelease s
  | .newItem q => Sys2Proof.Machine.execNewItem q s
  | .continueItem q => Sys2Proof.Machine.execContinueItem q s
  | .allocatorRead r => Sys2Proof.Machine.execAllocatorRead r s
  | .shadowEntryCreate m => Sys2Proof.Machine.execShadowEntryCreate m s
  | .intakeAcknowledgement stall status => Sys2Proof.Machine.execIntakeAcknowledgement stall status s
  | .samplingRecordCheck stall record => Sys2Proof.Machine.execSamplingRecordCheck stall record s
  | .endOfIntake stall tokens => Sys2Proof.Machine.execEndOfIntake stall tokens s
  | .chunkDispatch stall base period works => Sys2Proof.Machine.execChunkDispatch stall base period works s
  | .chunkEnd u => Sys2Proof.Machine.execChunkEnd u s
  | .stepEnd u => Sys2Proof.Machine.execStepEnd u s
  | .stallRetire stall => Sys2Proof.Machine.execStallRetire stall s
  | .parkExpiry stall => Sys2Proof.Machine.execParkExpiry stall s
  | .replication m => Sys2Proof.Machine.execReplication m s
  | .replicationAck stall version => Sys2Proof.Machine.execReplicationAck stall version s
  | .replicationRefused stall code => Sys2Proof.Machine.execReplicationRefused stall code s
  | .pelotonStepLaunch paddock entry => Sys2Proof.Machine.execPelotonStepLaunch paddock entry s
  | .draftLaunch paddock entry => Sys2Proof.Machine.execDraftLaunch paddock entry s
  | .gateNotice home stall lenParked start => Sys2Proof.Machine.execGateNotice home stall lenParked start s
  | .pelotonMask paddock mask => Sys2Proof.Machine.execPelotonMask paddock mask s
  | .entryLaunch inv entry work => Sys2Proof.Machine.execEntryLaunch inv entry work s
  | .poolTaskPlace core work => Sys2Proof.Machine.execPoolTaskPlace core work s
  | .entryComplete inv entry status poison work rows => Sys2Proof.Machine.execEntryComplete inv entry status poison work rows s
  | .invocationMessage m => Sys2Proof.Machine.execInvocationMessage m s
  | .invocationComplete inv reports => Sys2Proof.Machine.execInvocationComplete inv reports s
  | .primeCopiesComplete inv => Sys2Proof.Machine.execPrimeCopiesComplete inv s
  | .cheapPoint core pc context => Sys2Proof.Machine.execCheapPoint core pc context s
  | .saveComplete core => Sys2Proof.Machine.execSaveComplete core s
  | .copyComplete inv desc remote => Sys2Proof.Machine.execCopyComplete inv desc remote s
  | .coreFault core => Sys2Proof.Machine.execCoreFault core s
  | .coreWatchdog core => Sys2Proof.Machine.execCoreWatchdog core s
  | .spareRestoreComplete core => Sys2Proof.Machine.execSpareRestoreComplete core s
  | .spareSelfTest core pass => Sys2Proof.Machine.execSpareSelfTest core pass s
  | .engRetest c pass => Sys2Proof.Machine.execEngRetest c pass s
  | .coreRemoteIssue core o => Sys2Proof.Machine.execCoreRemoteIssue core o s
  | .fence core dst => Sys2Proof.Machine.execFence core dst s
  | .select inv entry desc remote => Sys2Proof.Machine.execSelect inv entry desc remote s
  | .merge inv entry desc remote => Sys2Proof.Machine.execMerge inv entry desc remote s
  | .hifRing c => Sys2Proof.Machine.execHifRing c s
  | .hifRingDisable c => Sys2Proof.Machine.execHifRingDisable c s
  | .compStage c => Sys2Proof.Machine.execCompStage c s
  | .cmpTableLoad c => Sys2Proof.Machine.execCmpTableLoad c s
  | .sepLoad c => Sys2Proof.Machine.execSepLoad c s
  | .sepUnload c => Sys2Proof.Machine.execSepUnload c s
  | .sepInvoke c => Sys2Proof.Machine.execSepInvoke c s
  | .kvModel c => Sys2Proof.Machine.execKvModel c s
  | .kvPaddock c => Sys2Proof.Machine.execKvPaddock c s
  | .stlCancel c => Sys2Proof.Machine.execStlCancel c s
  | .stlRelease c => Sys2Proof.Machine.execStlRelease c s
  | .stlSpill c => Sys2Proof.Machine.execStlSpill c s
  | .srchAttach c => Sys2Proof.Machine.execSrchAttach c s
  | .srchDetach c => Sys2Proof.Machine.execSrchDetach c s
  | .srchDir c => Sys2Proof.Machine.execSrchDir c s
  | .srchQuery c => Sys2Proof.Machine.execSrchQuery c s
  | .srchMutate c => Sys2Proof.Machine.execSrchMutate c s
  | .memRegion c => Sys2Proof.Machine.execMemRegion c s
  | .memRegionRemove c => Sys2Proof.Machine.execMemRegionRemove c s
  | .memFlush c => Sys2Proof.Machine.execMemFlush c s
  | .memPfLoad c => Sys2Proof.Machine.execMemPfLoad c s
  | .hayFormat c marks => Sys2Proof.Machine.execHayFormat c marks s
  | .azfRoute c => Sys2Proof.Machine.execAzfRoute c s
  | .azfRegion c => Sys2Proof.Machine.execAzfRegion c s
  | .azfRegionRemove c => Sys2Proof.Machine.execAzfRegionRemove c s
  | .azfJob c => Sys2Proof.Machine.execAzfJob c s
  | .azfJobRemove c => Sys2Proof.Machine.execAzfJobRemove c s
  | .azfTeardown c => Sys2Proof.Machine.execAzfTeardown c s
  | .qpPd c => Sys2Proof.Machine.execQpPd c s
  | .qpCreate c => Sys2Proof.Machine.execQpCreate c s
  | .qpModify c => Sys2Proof.Machine.execQpModify c s
  | .qpDestroy c => Sys2Proof.Machine.execQpDestroy c s
  | .qpPost c bulk => Sys2Proof.Machine.execQpPost c bulk s
  | .qpRecv c descs => Sys2Proof.Machine.execQpRecv c descs s
  | .hltCkpt c regions => Sys2Proof.Machine.execHltCkpt c regions s
  | .hltRestore c image header => Sys2Proof.Machine.execHltRestore c image header s
  | .hltDeclare c => Sys2Proof.Machine.execHltDeclare c s
  | .evgSyncPulse => Sys2Proof.Machine.execEvgSyncPulse s
  | .syncPulseAbsent => Sys2Proof.Machine.execSyncPulseAbsent s
  | .evgRefLost => Sys2Proof.Machine.execEvgRefLost s
  | .beatClockLocked => Sys2Proof.Machine.execBeatClockLocked s
  | .followTimeout => Sys2Proof.Machine.execFollowTimeout s
  | .slewCorrection => Sys2Proof.Machine.execSlewCorrection s
  | .hbmRefresh channel => Sys2Proof.Machine.execHbmRefresh channel s
  | .effectiveBeat => Sys2Proof.Machine.execEffectiveBeat s
  | .graceEnd => Sys2Proof.Machine.execGraceEnd s
  | .bounce b => Sys2Proof.Machine.execBounce b s
  | .bounceRetry => Sys2Proof.Machine.execBounceRetry s
  | .laneLockLoss port lane => Sys2Proof.Machine.execLaneLockLoss port lane s
  | .laneRetrain port lane pass => Sys2Proof.Machine.execLaneRetrain port lane pass s
  | .portDown port => Sys2Proof.Machine.execPortDown port s
  | .portUp port lanes neighbour rtt => Sys2Proof.Machine.execPortUp port lanes neighbour rtt s
  | .controlFlitSend port => Sys2Proof.Machine.execControlFlitSend port s
  | .controlFlitReceive port f => Sys2Proof.Machine.execControlFlitReceive port f s
  | .flitCrcFail port seq => Sys2Proof.Machine.execFlitCrcFail port seq s
  | .packetForward port p => Sys2Proof.Machine.execPacketForward port p s
  | .packetAged => Sys2Proof.Machine.execPacketAged s
  | .egressSend port => Sys2Proof.Machine.execEgressSend port s
  | .load port p => Sys2Proof.Machine.execLoad port p s
  | .store port p => Sys2Proof.Machine.execStore port p s
  | .add port p => Sys2Proof.Machine.execAdd port p s
  | .fetchAdd port p => Sys2Proof.Machine.execFetchAdd port p s
  | .cas port p => Sys2Proof.Machine.execCas port p s
  | .fadd port p => Sys2Proof.Machine.execFadd port p s
  | .copyWrite port p => Sys2Proof.Machine.execCopyWrite port p s
  | .copyWriteCoded port p => Sys2Proof.Machine.execCopyWriteCoded port p s
  | .msg port p m => Sys2Proof.Machine.execMsg port p m s
  | .loadRsp port p => Sys2Proof.Machine.execLoadRsp port p s
  | .addRsp port p => Sys2Proof.Machine.execAddRsp port p s
  | .casRsp port p => Sys2Proof.Machine.execCasRsp port p s
  | .ack src cls ssn fails => Sys2Proof.Machine.execAck src cls ssn fails s
  | .nak src cls kind => Sys2Proof.Machine.execNak src cls kind s
  | .streamTimer dst cls => Sys2Proof.Machine.execStreamTimer dst cls s
  | .streamContextRetire device cls sending => Sys2Proof.Machine.execStreamContextRetire device cls sending s
  | .roundAsk src paddock issue => Sys2Proof.Machine.execRoundAsk src paddock issue s
  | .roundDone src paddock issue last => Sys2Proof.Machine.execRoundDone src paddock issue last s
  | .roundClose paddock issue => Sys2Proof.Machine.execRoundClose paddock issue s
  | .deadPoisonTimer dst => Sys2Proof.Machine.execDeadPoisonTimer dst s
  | .qpRequestPacket port p => Sys2Proof.Machine.execQpRequestPacket port p s
  | .qpAck port p => Sys2Proof.Machine.execQpAck port p s
  | .qpNak port p => Sys2Proof.Machine.execQpNak port p s
  | .readRsp port p => Sys2Proof.Machine.execReadRsp port p s
  | .atomicRsp port p => Sys2Proof.Machine.execAtomicRsp port p s
  | .qpTimer qpn => Sys2Proof.Machine.execQpTimer qpn s
  | .rnrWaitExpiry qpn => Sys2Proof.Machine.execRnrWaitExpiry qpn s
  | .contextEvict => Sys2Proof.Machine.execContextEvict s
  | .contextWriteComplete qpn => Sys2Proof.Machine.execContextWriteComplete qpn s
  | .contextFetchComplete qpn ok => Sys2Proof.Machine.execContextFetchComplete qpn ok s
  | .contextFetchTimeout qpn => Sys2Proof.Machine.execContextFetchTimeout qpn s
  | .waitSatisfied qpn => Sys2Proof.Machine.execWaitSatisfied qpn s
  | .shpHeldLong index => Sys2Proof.Machine.execShpHeldLong index s
  | .policerMeter port cls => Sys2Proof.Machine.execPolicerMeter port cls s
  | .parkPannier p => Sys2Proof.Machine.execParkPannier p s
  | .parkAck a => Sys2Proof.Machine.execParkAck a s
  | .parkRetry stall page shard => Sys2Proof.Machine.execParkRetry stall page shard s
  | .shipNotice n => Sys2Proof.Machine.execShipNotice n s
  | .pullRequest q => Sys2Proof.Machine.execPullRequest q s
  | .pullReply p => Sys2Proof.Machine.execPullReply p s
  | .pullRefusal r => Sys2Proof.Machine.execPullRefusal r s
  | .pullTimeout home stall pullId => Sys2Proof.Machine.execPullTimeout home stall pullId s
  | .pullComplete r => Sys2Proof.Machine.execPullComplete r s
  | .releaseNotice r => Sys2Proof.Machine.execReleaseNotice r s
  | .reparkNotice r => Sys2Proof.Machine.execReparkNotice r s
  | .lossParkWaitEnd device => Sys2Proof.Machine.execLossParkWaitEnd device s
  | .tailRebuildComplete home stall status => Sys2Proof.Machine.execTailRebuildComplete home stall status s
  | .shardQuery q => Sys2Proof.Machine.execShardQuery q s
  | .walkAdmit => Sys2Proof.Machine.execWalkAdmit s
  | .walkEnd walk => Sys2Proof.Machine.execWalkEnd walk s
  | .shardAnswer qid shard a => Sys2Proof.Machine.execShardAnswer qid shard a s
  | .altResend qid => Sys2Proof.Machine.execAltResend qid s
  | .queryTimeout qid => Sys2Proof.Machine.execQueryTimeout qid s
  | .ownerContextExpiry walk => Sys2Proof.Machine.execOwnerContextExpiry walk s
  | .passageRead stall reads => Sys2Proof.Machine.execPassageRead stall reads s
  | .mutationRecord m => Sys2Proof.Machine.execMutationRecord m s
  | .insertWalkEnd walk => Sys2Proof.Machine.execInsertWalkEnd walk s
  | .mutationAnswer a => Sys2Proof.Machine.execMutationAnswer a s
  | .groomSweepRows => Sys2Proof.Machine.execGroomSweepRows s
  | .space4Read who addr len => Sys2Proof.Machine.execSpace4Read who addr len s
  | .space4Write who addr data sharp poison => Sys2Proof.Machine.execSpace4Write who addr data sharp poison s
  | .moveComplete m => Sys2Proof.Machine.execMoveComplete m s
  | .heatDecay => Sys2Proof.Machine.execHeatDecay s
  | .watermarkDemotion => Sys2Proof.Machine.execWatermarkDemotion s
  | .frameWaitTimeout who => Sys2Proof.Machine.execFrameWaitTimeout who s
  | .writeBackDurable unit => Sys2Proof.Machine.execWriteBackDurable unit s
  | .flushAge unit => Sys2Proof.Machine.execFlushAge unit s
  | .prefetchStart inv e => Sys2Proof.Machine.execPrefetchStart inv e s
  | .evictDemotion inv e => Sys2Proof.Machine.execEvictDemotion inv e s
  | .scrubRead channel row found => Sys2Proof.Machine.execScrubRead channel row found s
  | .channelFail channel => Sys2Proof.Machine.execChannelFail channel s
  | .hostTierLost => Sys2Proof.Machine.execHostTierLost s
  | .hmapPageFail page => Sys2Proof.Machine.execHmapPageFail page s
  | .stackTempRead temps => Sys2Proof.Machine.execStackTempRead temps s
  | .mediaProbeComplete targets anchorOk => Sys2Proof.Machine.execMediaProbeComplete targets anchorOk s
  | .rebuildComplete ok => Sys2Proof.Machine.execRebuildComplete ok s
  | .hayRead lba how => Sys2Proof.Machine.execHayRead lba how s
  | .hayWrite w => Sys2Proof.Machine.execHayWrite w s
  | .programComplete w n => Sys2Proof.Machine.execProgramComplete w n s
  | .programFail w plane => Sys2Proof.Machine.execProgramFail w plane s
  | .journalFlush => Sys2Proof.Machine.execJournalFlush s
  | .journalFlushDurable => Sys2Proof.Machine.execJournalFlushDurable s
  | .checkpointRound => Sys2Proof.Machine.execCheckpointRound s
  | .copyVerify n fail => Sys2Proof.Machine.execCopyVerify n fail s
  | .eraseComplete block fail => Sys2Proof.Machine.execEraseComplete block fail s
  | .gcStart => Sys2Proof.Machine.execGcStart s
  | .fold => Sys2Proof.Machine.execFold s
  | .wearLevel => Sys2Proof.Machine.execWearLevel s
  | .healthDecay => Sys2Proof.Machine.execHealthDecay s
  | .heartbeatSend => Sys2Proof.Machine.execHeartbeatSend s
  | .neighbourSilent device idle => Sys2Proof.Machine.execNeighbourSilent device idle s
  | .voteCall v => Sys2Proof.Machine.execVoteCall v s
  | .voteBallot v => Sys2Proof.Machine.execVoteBallot v s
  | .voteDeclare v => Sys2Proof.Machine.execVoteDeclare v s
  | .voteTally => Sys2Proof.Machine.execVoteTally s
  | .expelCall => Sys2Proof.Machine.execExpelCall s
  | .substCall => Sys2Proof.Machine.execSubstCall s
  | .spareSelfTestDone pass => Sys2Proof.Machine.execSpareSelfTestDone pass s
  | .loadCutover subject spare image => Sys2Proof.Machine.execLoadCutover subject spare image s
  | .digest src body => Sys2Proof.Machine.execDigest src body s
  | .hltLag => Sys2Proof.Machine.execHltLag s
  | .hltTandemBad => Sys2Proof.Machine.execHltTandemBad s
  | .msixVectorUnmask vector => Sys2Proof.Machine.execMsixVectorUnmask vector s
  | .prochotNHigh => Sys2Proof.Machine.execProchotNHigh s

end Sys2Proof.Machine
end

