-- ==== Sys2Proof/Safety.lean ====
section
/-!
DEFINITION. Safety.lean: what counts as a safe run: the part never stops, and its memory keeps one canonical form; and what it means
that a command leaves a part of the state as it was.
-/

namespace Sys2Proof.Machine

/-- The invariant of the block: the part's memory is in its canonical form. -/
def State.Canonical (s : State) : Prop := Memory.wf s.dev.mem = true

/-- An outcome is safe: it is a next state, neither a fault nor a refusal. -/
def Out.safe (o : Out) : Prop := ∃ t, o = .next t

/-- The pieces of the part's state, one for each field of `Dev`. -/
inductive Blk where
  | regs | mem | poison | out | fresh | pwr | therm | tap | cad | comp | hif | hlt
  | stl | kv | pan | srch | memt | hay | fab | shp | qpx | cmp | sep
  deriving DecidableEq, Repr

/-- Two parts agree on a piece. They agree on memory where every byte reads the same. -/
def Blk.same : Blk → Dev → Dev → Prop
  | .regs, x, y => x.regs = y.regs
  | .mem, x, y => ∀ a, x.byte a = y.byte a
  | .poison, x, y => x.poison = y.poison
  | .out, x, y => x.out = y.out
  | .fresh, x, y => x.fresh = y.fresh
  | .pwr, x, y => x.pwr = y.pwr
  | .therm, x, y => x.therm = y.therm
  | .tap, x, y => x.tap = y.tap
  | .cad, x, y => x.cad = y.cad
  | .comp, x, y => x.comp = y.comp
  | .hif, x, y => x.hif = y.hif
  | .hlt, x, y => x.hlt = y.hlt
  | .stl, x, y => x.stl = y.stl
  | .kv, x, y => x.kv = y.kv
  | .pan, x, y => x.pan = y.pan
  | .srch, x, y => x.srch = y.srch
  | .memt, x, y => x.memt = y.memt
  | .hay, x, y => x.hay = y.hay
  | .fab, x, y => x.fab = y.fab
  | .shp, x, y => x.shp = y.shp
  | .qpx, x, y => x.qpx = y.qpx
  | .cmp, x, y => x.cmp = y.cmp
  | .sep, x, y => x.sep = y.sep

/-- The frame of a command: every piece but those listed is the same before (`x`) and after (`y`). -/
def Dev.keeps (x y : Dev) (changed : List Blk) : Prop := ∀ b, b ∉ changed → b.same x y

/-- A command completes: it answers a next state, in which the queue is as it was and the part satisfies P. -/
def State.does (s : State) (c : Instr) (P : Dev → Prop) : Prop := ∃ t, exec c s = .next t ∧ t.pending = s.pending ∧ P t.dev

/-- The part once a host command is consumed, before its own chapter acts on it (R485). -/
def Dev.taken (d : Dev) (c : HostCmd) : Dev := d.consume (cmdRef c) 1

/-- A host command is taken and passes R484: its ring has the turn, it asks for no fence, no partly read intake request precedes it on
its ring, and no check of R484 refuses it. -/
def Dev.takes (d : Dev) (k : CmdSpec) (c : HostCmd) : Prop :=
  d.consuming = true ∧ d.nextRing = some c.ring ∧ bit c.cflags 0 = false ∧ Tbl.at? d.hif.partials c.ring = none ∧
    check484 k c (d.taken c) = none

/-- A host command completes: the part is e when its chapter has acted, and then the completion with a status and its data is written
(R487), or, where the command is quiet and the status is a success, left out (R485). -/
def State.completes (s : State) (i : Instr) (c : HostCmd) (status : Nat) (data : Bytes) (P : Dev → Prop) : Prop :=
  ∃ e, exec i s = .next { s with dev := (e.completeCmd (cmdRef c) status data).tidy } ∧ P e

/-- Every unit of an open region is pinned in HBM and has no backing, so that an access moves nothing (R312, R314). -/
def Dev.flat (d : Dev) : Prop :=
  ∀ u r, d.openRegion u = some r → r.pinned = true ∧ r.lba = none ∧ (d.unit u).state = .hbm

/-- No packet waits in any port's ingress. -/
def Dev.calm (d : Dev) : Prop := ∀ i, i < 16 → (d.azPort i).ingress = []

/-- A packet for this device that its stream accepts at once, through a port that is up, with nothing waiting before it and no policer
to pass (R374, R434); its reserved fields are zero, and it is a response, a MSG, or of no paddock, so that no round orders it (R382). -/
def Dev.inOrder (d : Dev) (port : Nat) (p : Packet) : Prop :=
  port < 16 ∧ (d.azPort port).up = true ∧ p.dst = d.me ∧ p.cls < 8 ∧ d.calm ∧ d.flag F.SHP_CTRL_EN = false ∧ p.rsv = false ∧
    (p.paddock = 0 ∨ p.op = 0x20 ∨ 0x80 ≤ p.op) ∧ ∃ r, d.recv? (streamKey p.src p.cls) = some r ∧ (p.sync = true ∨ r.e = p.ssn)

/-- The stream of a packet has accepted it: it expects the number after its own (R374). -/
def Dev.accepted (d : Dev) (p : Packet) : Prop := (d.recv? (streamKey p.src p.cls)).map (·.e) = some ((p.ssn + 1) % 2 ^ 32)

/-- A stream to a destination that is not dead has a context or room for one, and leaves through port i (R373, R377). -/
def Dev.reaches (d : Dev) (dst cls i : Nat) : Prop :=
  d.routePort dst = some i ∧ d.isDead dst = false ∧
    ((Tbl.at? d.fab.sends (streamKey dst cls)).isSome = true ∨ d.fab.sends.length < 65536)

/-- A response to a packet waits in a port's queue (R381): its status, its data, and the number it answers. -/
def Dev.responds (d : Dev) (i : Nat) (p : Packet) (status : Nat) (data : Bytes) : Prop :=
  ∃ e ∈ (d.azPort i).queue, e.p.op = p.op + 0x80 ∧ e.p.dst = p.src ∧ e.p.re = p.ssn ∧ e.p.status = status ∧ e.p.body = data

/-- The commands that act whatever the power state: resets, power loss, SMBus reads, and the TAP's instructions (R516, R524, R531). Every other
command needs a part that is in service. -/
def needsService : Instr → Bool
  | .por .. | .powerLoss | .wrstNLow | .firmwareWatchdog | .smbusBlockRead .. | .dbgAccess .. | .extest | .samplePreload | .idcode | .clamp
  | .highz | .extestPulse | .extestTrain | .scan | .bypass .. | .trstNReset => false
  | _ => true

/-- The completion a write to host memory carries. -/
def Put.cplOf : Put → Option Cpl
  | .cpl _ _ c => some c
  | _ => none

end Sys2Proof.Machine
end

