-- ==== Sys2Proof/WellFormed.lean ====
section
/-!
DEFINITION. WellFormed.lean: the checks a command meets before it is one the part could be sent: every operand within the width or the
range its layout gives it (spec/17_host_interface.md R482, spec/13_azrun_memory_fabric.md R370, R380, spec/16_health_faults_tandem.md R453,
spec/19_register_reference.md R535, and the layouts of the messages).
-/

namespace Sys2Proof

/-- A number below a bound. -/
def lt (a b : Nat) : Bool := decide (a < b)

/-- A host command (R482): each field within its width; a command whose record was read carries that many bytes. -/
def HostCmd.wf (c : HostCmd) : Bool :=
  lt c.ring (2 ^ 14) && lt c.opcode 256 && lt c.cflags 256 && lt c.tag (2 ^ 16) && lt c.rsv4 (2 ^ 32) && lt c.haddr (2 ^ 64) && lt c.hlen (2 ^ 32)
    && lt c.a0 (2 ^ 32) && lt c.a1 (2 ^ 64) && lt c.a2 (2 ^ 64) && lt c.a3 (2 ^ 64) && lt c.rsv48 (2 ^ 128)
    && (!c.readOk || c.data.length == c.hlen)

/-- A fabric packet (R380): each header field within its width, and a payload a packet can carry (R379). -/
def Packet.wf (p : Packet) : Bool :=
  lt p.op 256 && lt p.cls 8 && lt p.src (2 ^ 16) && lt p.dst (2 ^ 16) && lt p.job (2 ^ 16) && lt p.ssn (2 ^ 32) && lt p.rkey (2 ^ 32)
    && lt p.addr (2 ^ 64) && lt p.issue (2 ^ 64) && lt p.len (2 ^ 16) && lt p.status (2 ^ 16) && lt p.ord (2 ^ 32) && lt p.epoch (2 ^ 32)
    && lt p.paddock (2 ^ 16) && lt p.hops 256 && lt p.re (2 ^ 32) && lt p.body.length 512

/-- A vote message (R453). -/
def VoteMsg.wf (v : VoteMsg) : Bool :=
  lt v.vmsg 256 && lt v.vkind 256 && lt v.subject (2 ^ 16) && lt v.sender (2 ^ 16) && lt v.ballot 256 && lt v.callBeat (2 ^ 64)
    && lt v.castBeat (2 ^ 64) && lt v.score (2 ^ 16) && lt v.caller (2 ^ 16) && lt v.epoch (2 ^ 32)

/-- A link control flit (R369, R370): at most three messages, and one pause time a class. -/
def CtlFlit.wf (f : CtlFlit) : Bool :=
  lt f.src (2 ^ 15) && lt f.port 16 && lt f.seq 4096 && lt f.ack 4096 && f.replay.all (lt · 4096)
    && (f.pauses.length == 8 || f.pauses.isEmpty) && f.pauses.all (lt · (2 ^ 16)) && lt f.msgs.length 4

/-- The fields of R31 that every role-work message carries. -/
def RoleHdr.wf (h : RoleHdr) : Bool :=
  lt h.src (2 ^ 15) && lt h.epoch (2 ^ 32) && lt h.roleEpoch (2 ^ 32) && h.paddock.all (lt · (2 ^ 16))

/-- A bounce (R234). -/
def BounceMsg.wf (b : BounceMsg) : Bool :=
  lt b.src (2 ^ 15) && lt b.code (2 ^ 16) && lt b.epoch (2 ^ 32) && lt b.roleEpoch (2 ^ 32) && lt b.msgEpoch (2 ^ 32) && lt b.msgRoleEpoch (2 ^ 32)

/-- An intake request (R177): items of 64 bytes. -/
def IntakeReq.wf (q : IntakeReq) : Bool :=
  q.ring.all (lt · (2 ^ 14)) && lt q.src (2 ^ 15) && !q.items.isEmpty && q.items.all fun b => b.length == 64

/-- An invocation message (R144): a record of 64 bytes. -/
def InvMsg.wf (m : InvMsg) : Bool := m.h.wf && m.record.length == 64

/-- A pannier (R219): a header of 64 bytes. -/
def Pannier.wf (p : Pannier) : Bool := p.hdr.length == 64

/-- A ship notice (R228): a record of 128 bytes. -/
def ShipNotice.wf (n : ShipNotice) : Bool := n.h.wf && lt n.stall (2 ^ 17) && lt n.home (2 ^ 15) && lt n.paddock (2 ^ 16) && n.record.length == 128

/-- A pull request (R229). -/
def PullRequest.wf (q : PullRequest) : Bool := q.h.wf && lt q.stall (2 ^ 17) && lt q.home (2 ^ 15) && lt q.pullId (2 ^ 32)

/-- A park acknowledgement (R223): 32 bytes. -/
def ParkAck.wf (a : ParkAck) : Bool := a.h.wf && a.body.length == 32

/-- A refusal of a pull request (R229). -/
def PullNo.wf (r : PullNo) : Bool := r.h.wf && lt r.home (2 ^ 15) && lt r.stall (2 ^ 17) && lt r.pullId (2 ^ 32) && lt r.status (2 ^ 16)

/-- A member's report of its pull (R230). -/
def PullDone.wf (r : PullDone) : Bool := r.h.wf && lt r.stall (2 ^ 17) && lt r.member (2 ^ 15) && lt r.status (2 ^ 16)

/-- A release notice (R230). -/
def ReleaseMsg.wf (r : ReleaseMsg) : Bool := r.h.wf && lt r.home (2 ^ 15) && lt r.stall (2 ^ 17)

/-- A re-park notice (R238). -/
def ReparkMsg.wf (r : ReparkMsg) : Bool := r.h.wf && lt r.home (2 ^ 15) && lt r.stall (2 ^ 17) && lt r.model (2 ^ 16) && lt r.departing (2 ^ 15)

/-- A shard query (R290): a query vector of its dimension. -/
def ShardQuery.wf (q : ShardQuery) : Bool := q.h.wf && lt q.index 256 && lt q.shard (2 ^ 16) && q.vec.length == q.dim

/-- A mutation record (R296): 48 bytes. -/
def MutMsg.wf (m : MutMsg) : Bool := m.h.wf && lt m.issuer (2 ^ 15) && m.record.length == 48

/-- What reaches a home at the end of a unit of work. -/
def UnitEnd.wf (u : UnitEnd) : Bool := lt u.stall (2 ^ 17) && lt u.exec (2 ^ 15) && lt u.epoch (2 ^ 32) && lt u.status (2 ^ 16)

/-- A copy of a stall for its shadow (R168): a record of 128 bytes. -/
def ReplMsg.wf (m : ReplMsg) : Bool := lt m.src (2 ^ 15) && lt m.stall (2 ^ 17) && m.record.length == 128

/-- Whether a command is one the part could be sent. -/
def Instr.wf : Instr → Bool
  | .por slotId bootMode _ => lt slotId (2 ^ 15) && lt bootMode 4
  | .powerLoss => true
  | .wrstNLow => true
  | .pwrResetWarm => true
  | .firmwareWatchdog => true
  | .firmwareVerify _ _ _ => true
  | .pwrBootGo _ => true
  | .pwrBootProgram _ _ => true
  | .firmwareReady => true
  | .readyForComposition _ => true
  | .targetStabled value => lt value (2 ^ 64)
  | .targetRun => true
  | .stabledEntryComplete => true
  | .wakeComplete => true
  | .wakeTimeout _ => true
  | .stabledRing0Scan _ c => c.all HostCmd.wf
  | .dieGate die => lt die 4
  | .dieUngate die => lt die 4
  | .sensorRead sensors => sensors.length == 13 && sensors.all fun l => l.all fun t => t.all (lt · 256)
  | .prochotNLow => true
  | .powerCapCheck avg => lt avg 4096
  | .avsTransaction rail _ step => lt rail 5 && lt step 13
  | .smbusBlockRead cmd => lt cmd 256
  | .extest => true
  | .samplePreload => true
  | .idcode => true
  | .clamp => true
  | .highz => true
  | .extestPulse => true
  | .extestTrain => true
  | .dbgAccess _ off value => lt off (2 ^ 26) && lt value (2 ^ 64)
  | .scan => true
  | .bypass code => lt code 256
  | .trstNReset => true
  | .hostLinkEvent => true
  | .dbScan _ => true
  | .hifEnSet value => lt value (2 ^ 64)
  | .intakePartialTimeout ring => lt ring (2 ^ 14)
  | .cplConsPoll ring cons => lt ring (2 ^ 14) && lt cons (2 ^ 32)
  | .hifDmaRetry _ => true
  | .msixSignal ring => lt ring (2 ^ 14)
  | .registerWrite off value => lt off (2 ^ 26) && lt value (2 ^ 64)
  | .narrowAccess off _ => lt off (2 ^ 26)
  | .unmappedAccess off _ => lt off (2 ^ 26)
  | .rcRead off => lt off (2 ^ 26)
  | .cadLoadArm value => lt value (2 ^ 64)
  | .intkCmdNext => true
  | .intkCmdDropRest => true
  | .shpCmdApply => true
  | .shpCmdRead => true
  | .detmReqWrite _ => true
  | .hayEnSet value => lt value (2 ^ 64)
  | .hayEnClear value => lt value (2 ^ 64)
  | .hltTandemEn value => lt value (2 ^ 64)
  | .hltAskRelease => true
  | .newItem q => q.wf
  | .continueItem q => q.wf
  | .allocatorRead _ => true
  | .shadowEntryCreate m => m.wf
  | .intakeAcknowledgement stall status => lt stall (2 ^ 17) && lt status (2 ^ 16)
  | .samplingRecordCheck stall _ => lt stall (2 ^ 17)
  | .endOfIntake stall _ => lt stall (2 ^ 17)
  | .chunkDispatch stall base period _ => lt stall (2 ^ 17) && lt base (2 ^ 64) && lt period (2 ^ 64)
  | .chunkEnd u => u.wf
  | .stepEnd u => u.wf
  | .stallRetire stall => lt stall (2 ^ 17)
  | .parkExpiry stall => lt stall (2 ^ 17)
  | .replication m => m.wf
  | .replicationAck stall version => lt stall (2 ^ 17) && lt version (2 ^ 32)
  | .replicationRefused stall code => lt stall (2 ^ 17) && lt code (2 ^ 16)
  | .pelotonStepLaunch paddock entry => lt paddock (2 ^ 16) && lt entry 26
  | .draftLaunch paddock entry => lt paddock (2 ^ 16) && lt entry 26
  | .gateNotice home stall lenParked _ => lt home (2 ^ 15) && lt stall (2 ^ 17) && lt lenParked (2 ^ 32)
  | .pelotonMask paddock mask => lt paddock (2 ^ 16) && lt mask (2 ^ 26)
  | .entryLaunch _ _ _ => true
  | .poolTaskPlace core _ => lt core 544
  | .entryComplete _ _ status _ _ _ => lt status (2 ^ 16)
  | .invocationMessage m => m.wf
  | .invocationComplete _ _ => true
  | .primeCopiesComplete _ => true
  | .cheapPoint core pc _ => lt core 544 && lt pc (2 ^ 32)
  | .saveComplete core => lt core 544
  | .copyComplete _ _ _ => true
  | .coreFault core => lt core 544
  | .coreWatchdog core => lt core 544
  | .spareRestoreComplete core => lt core 544
  | .spareSelfTest core _ => lt core 544
  | .engRetest c _ => c.wf
  | .coreRemoteIssue core _ => lt core 544
  | .fence core dst => lt core 544 && dst.all (lt · (2 ^ 15))
  | .select _ _ _ _ => true
  | .merge _ _ _ _ => true
  | .hifRing c => c.wf
  | .hifRingDisable c => c.wf
  | .compStage c => c.wf
  | .cmpTableLoad c => c.wf
  | .sepLoad c => c.wf
  | .sepUnload c => c.wf
  | .sepInvoke c => c.wf
  | .kvModel c => c.wf
  | .kvPaddock c => c.wf
  | .stlCancel c => c.wf
  | .stlRelease c => c.wf
  | .stlSpill c => c.wf
  | .srchAttach c => c.wf
  | .srchDetach c => c.wf
  | .srchDir c => c.wf
  | .srchQuery c => c.wf
  | .srchMutate c => c.wf
  | .memRegion c => c.wf
  | .memRegionRemove c => c.wf
  | .memFlush c => c.wf
  | .memPfLoad c => c.wf
  | .hayFormat c _ => c.wf
  | .azfRoute c => c.wf
  | .azfRegion c => c.wf
  | .azfRegionRemove c => c.wf
  | .azfJob c => c.wf
  | .azfJobRemove c => c.wf
  | .azfTeardown c => c.wf
  | .qpPd c => c.wf
  | .qpCreate c => c.wf
  | .qpModify c => c.wf
  | .qpDestroy c => c.wf
  | .qpPost c _ => c.wf
  | .qpRecv c _ => c.wf
  | .hltCkpt c _ => c.wf
  | .hltRestore c _ _ => c.wf
  | .hltDeclare c => c.wf
  | .evgSyncPulse => true
  | .syncPulseAbsent => true
  | .evgRefLost => true
  | .beatClockLocked => true
  | .followTimeout => true
  | .slewCorrection => true
  | .hbmRefresh channel => lt channel 256
  | .effectiveBeat => true
  | .graceEnd => true
  | .bounce b => b.wf
  | .bounceRetry => true
  | .laneLockLoss port lane => lt port 16 && lt lane 8
  | .laneRetrain port lane _ => lt port 16 && lt lane 8
  | .portDown port => lt port 16
  | .portUp port lanes neighbour rtt => lt port 16 && lt lanes 256 && lt neighbour (2 ^ 15) && lt rtt (2 ^ 16)
  | .controlFlitSend port => lt port 16
  | .controlFlitReceive port f => lt port 16 && f.wf
  | .flitCrcFail port seq => lt port 16 && lt seq 4096
  | .packetForward port p => lt port 16 && p.wf
  | .packetAged => true
  | .egressSend port => lt port 16
  | .load port p => lt port 16 && p.wf
  | .store port p => lt port 16 && p.wf
  | .add port p => lt port 16 && p.wf
  | .fetchAdd port p => lt port 16 && p.wf
  | .cas port p => lt port 16 && p.wf
  | .fadd port p => lt port 16 && p.wf
  | .copyWrite port p => lt port 16 && p.wf
  | .copyWriteCoded port p => lt port 16 && p.wf
  | .msg port p _ => lt port 16 && p.wf
  | .loadRsp port p => lt port 16 && p.wf
  | .addRsp port p => lt port 16 && p.wf
  | .casRsp port p => lt port 16 && p.wf
  | .ack src cls ssn _ => lt src (2 ^ 15) && lt cls 8 && lt ssn (2 ^ 32)
  | .nak src cls _ => lt src (2 ^ 15) && lt cls 8
  | .streamTimer dst cls => lt dst (2 ^ 15) && lt cls 8
  | .streamContextRetire device cls _ => lt device (2 ^ 15) && lt cls 8
  | .roundAsk src paddock issue => lt src (2 ^ 15) && lt paddock (2 ^ 16) && lt issue (2 ^ 64)
  | .roundDone src paddock issue _ => lt src (2 ^ 15) && lt paddock (2 ^ 16) && lt issue (2 ^ 64)
  | .roundClose paddock issue => lt paddock (2 ^ 16) && lt issue (2 ^ 64)
  | .deadPoisonTimer dst => lt dst (2 ^ 15)
  | .qpRequestPacket port p => lt port 16 && p.wf
  | .qpAck port p => lt port 16 && p.wf
  | .qpNak port p => lt port 16 && p.wf
  | .readRsp port p => lt port 16 && p.wf
  | .atomicRsp port p => lt port 16 && p.wf
  | .qpTimer qpn => lt qpn (2 ^ 16)
  | .rnrWaitExpiry qpn => lt qpn (2 ^ 16)
  | .contextEvict => true
  | .contextWriteComplete qpn => lt qpn (2 ^ 16)
  | .contextFetchComplete qpn _ => lt qpn (2 ^ 16)
  | .contextFetchTimeout qpn => lt qpn (2 ^ 16)
  | .waitSatisfied qpn => lt qpn (2 ^ 16)
  | .shpHeldLong _ => true
  | .policerMeter port cls => lt port 16 && lt cls 8
  | .parkPannier p => p.wf
  | .parkAck a => a.wf
  | .parkRetry stall page shard => lt stall (2 ^ 17) && lt page (2 ^ 32) && lt shard (2 ^ 16)
  | .shipNotice n => n.wf
  | .pullRequest q => q.wf
  | .pullReply p => p.wf
  | .pullRefusal r => r.wf
  | .pullTimeout home stall pullId => lt home (2 ^ 15) && lt stall (2 ^ 17) && lt pullId (2 ^ 32)
  | .pullComplete r => r.wf
  | .releaseNotice r => r.wf
  | .reparkNotice r => r.wf
  | .lossParkWaitEnd device => lt device (2 ^ 15)
  | .tailRebuildComplete home stall status => lt home (2 ^ 15) && lt stall (2 ^ 17) && lt status (2 ^ 16)
  | .shardQuery q => q.wf
  | .walkAdmit => true
  | .walkEnd _ => true
  | .shardAnswer _ shard _ => lt shard (2 ^ 16)
  | .altResend _ => true
  | .queryTimeout _ => true
  | .ownerContextExpiry _ => true
  | .passageRead stall _ => lt stall (2 ^ 17)
  | .mutationRecord m => m.wf
  | .insertWalkEnd _ => true
  | .mutationAnswer _ => true
  | .groomSweepRows => true
  | .space4Read _ addr len => lt addr (2 ^ 48) && lt len (2 ^ 32)
  | .space4Write _ addr _ _ _ => lt addr (2 ^ 48)
  | .moveComplete _ => true
  | .heatDecay => true
  | .watermarkDemotion => true
  | .frameWaitTimeout _ => true
  | .writeBackDurable unit => lt unit (2 ^ 32)
  | .flushAge unit => lt unit (2 ^ 32)
  | .prefetchStart _ _ => true
  | .evictDemotion _ _ => true
  | .scrubRead channel row _ => lt channel 256 && lt row (2 ^ 32)
  | .channelFail channel => lt channel 256
  | .hostTierLost => true
  | .hmapPageFail page => lt page (2 ^ 32)
  | .stackTempRead temps => temps.length == 8 && temps.all (lt · 256)
  | .mediaProbeComplete _ _ => true
  | .rebuildComplete _ => true
  | .hayRead lba _ => lt lba (2 ^ 37)
  | .hayWrite w => lt w 32
  | .programComplete w _ => lt w 32
  | .programFail w plane => lt w 32 && lt plane 32
  | .journalFlush => true
  | .journalFlushDurable => true
  | .checkpointRound => true
  | .copyVerify _ _ => true
  | .eraseComplete block _ => lt block (2 ^ 22)
  | .gcStart => true
  | .fold => true
  | .wearLevel => true
  | .healthDecay => true
  | .heartbeatSend => true
  | .neighbourSilent device _ => lt device (2 ^ 15)
  | .voteCall v => v.wf
  | .voteBallot v => v.wf
  | .voteDeclare v => v.wf
  | .voteTally => true
  | .expelCall => true
  | .substCall => true
  | .spareSelfTestDone _ => true
  | .loadCutover subject spare _ => lt subject (2 ^ 15) && lt spare (2 ^ 15)
  | .digest src _ => lt src (2 ^ 15)
  | .hltLag => true
  | .hltTandemBad => true
  | .msixVectorUnmask vector => lt vector 2048
  | .prochotNHigh => true

end Sys2Proof
end

