-- ==== Sys2Proof/Certificates/Slice0/Obligations.lean ====
section
/-!
DEFINITION. Certificates/Slice0/Obligations.lean: the statements for the provers.
-/

open Sys2Proof Sys2Proof.Machine

/-- For every command c and state s, the step of s with c at the front of its queue is exec of c on s with the queue's rest. On an empty
queue one beat of the cadence count passes and nothing else (the model's choice, log entry 2): a count that has been acquired advances by
one unless this increment is omitted, and one that has not stands. -/
def Obligations.AStepRunsTheFrontCommand : Prop :=
  (∀ (s : State) (c : Instr) (rest : List Instr), s.pending = c :: rest → step s = exec c { s with pending := rest }) ∧
  (∀ s : State, s.pending = [] → s.dev.counting = true → s.dev.cad.skip = false →
    step s = .next { s with dev := { s.dev with cad.count := (s.dev.cad.count + 1) % 2 ^ 64 } }) ∧
  (∀ s : State, s.pending = [] → s.dev.counting = true → s.dev.cad.skip = true →
    step s = .next { s with dev := { s.dev with cad.skip := false } }) ∧
  ∀ s : State, s.pending = [] → s.dev.counting = false → step s = .next s

/-- In the state after reset the queue is empty and the memory is in its canonical form with nothing listed; the cadence count is 0 and
does not advance; the device holds role none and no map; no coding table is loaded and no part has a score; every register reads the value
its table gives, such as the identity of R2 and the thresholds of the health monitor. -/
def Obligations.ResetLeavesTheSpecsValues : Prop :=
  State.reset.pending = [] ∧ State.reset.Canonical ∧ State.reset.dev.mem = [] ∧
  State.reset.dev.cad.count = 0 ∧ State.reset.dev.counting = false ∧
  State.reset.dev.comp.role = 0 ∧ State.reset.dev.comp.pending = none ∧ State.reset.dev.cmp = [] ∧ State.reset.dev.score 0 0 = 0 ∧
  (∀ o, State.reset.dev.reg o = regReset o) ∧
  State.reset.dev.fld F.GLB_ID_PART_NUM = 0x4416 ∧ bits (State.reset.dev.reg F.GLB_ID_PART_NUM.off).toNat 23 16 = 0xB1 ∧
  bits (State.reset.dev.reg F.GLB_ID_PART_NUM.off).toNat 31 24 = 0x0E ∧
  State.reset.dev.fld F.HLT_THRESH_WARN = 0x200 ∧ State.reset.dev.fld F.HLT_THRESH_REPLACE = 0x300 ∧ State.reset.dev.flag F.HIF_CTRL_EN = false

/-- Whatever the state and the operands, no command ends in a fault or a refusal, and none changes the queue of waiting commands. In a
part that is off, has tripped, or whose service a boundary-scan instruction has stopped, every command but resets, power loss, SMBus reads
and TAP instructions leaves every piece of state as it was. -/
def Obligations.EveryCommandAnswersANextState : Prop :=
  (∀ (s : State) (c : Instr), s.does c fun _ => True) ∧
  ∀ (s : State) (c : Instr), s.dev.alive = false → needsService c = true → s.does c fun d => s.dev.keeps d []

/-- The memory's canonical form is an invariant: whatever command waits at the front of the queue, with whatever operands, the step
answers a next state in which addresses rise strictly and no entry equals what an unlisted address reads as, and exactly the front command
has left the queue. So two parts whose bytes all read the same have equal memories after any number of steps. -/
def Obligations.EveryStepKeepsTheCanonicalForm : Prop :=
  (∀ s t : State, s.Canonical → step s = .next t → t.Canonical ∧ t.pending = s.pending.tail) ∧
  (∀ s : State, Out.safe (step s)) ∧
  ∀ s t : State, s.Canonical → t.Canonical → (∀ a, s.dev.byte a = t.dev.byte a) → s.dev.mem = t.dev.mem

/-- Every reset and a power loss leave each block at its reset state and keep the fuses and the flash media; outside the flash every byte
of memory reads zero (the model's choice for memory nothing has written, log entry 3). POR samples the straps and, out of a thermal trip,
sets PWR_RST_CAUSE.TRIP; the warm resets (the pin, the firmware's watchdog, and PWR_RESET.WARM in a part that serves registers) keep the
straps, the causes recorded so far and what the boot recorded, and set their own cause bit; power loss leaves the power state off. -/
def Obligations.ResetsKeepFusesAndFlash : Prop :=
  (∀ (s : State) (slot boot : Nat) (te : Bool), s.does (.por slot boot te) fun d =>
    Dev.reset.keeps d [.regs, .mem, .out, .fresh, .pwr, .hay] ∧
    d.pwr = { Dev.reset.pwr with fuses := s.dev.pwr.fuses, slotId := slot % 2 ^ 15, bootMode := boot % 4, testEn := te
                                 tripEvt := s.dev.pwr.state == .trip } ∧
    d.hay = { Dev.reset.hay with media := s.dev.hay.media } ∧
    d.regs = (if s.dev.pwr.state = .trip then Dev.reset.setFld F.PWR_RST_CAUSE_TRIP 1 else Dev.reset).regs ∧
    ∀ a, d.byte a = if a / 2 ^ 64 = 3 then s.dev.byte a else 0) ∧
  (∀ s : State, s.does .powerLoss fun d =>
    Dev.reset.keeps d [.mem, .out, .fresh, .pwr, .hay] ∧
    d.pwr = { Dev.reset.pwr with fuses := s.dev.pwr.fuses, state := .off } ∧
    d.hay = { Dev.reset.hay with media := s.dev.hay.media } ∧
    ∀ a, d.byte a = if a / 2 ^ 64 = 3 then s.dev.byte a else 0) ∧
  ∀ (s : State) (c : Instr) (cause : Fld), s.dev.pwr.state ≠ .off → s.dev.pwr.state ≠ .trip →
    (c = .wrstNLow ∧ cause = F.PWR_RST_CAUSE_WARM_PIN ∨ c = .firmwareWatchdog ∧ cause = F.PWR_RST_CAUSE_WATCHDOG ∨
      c = .pwrResetWarm ∧ cause = F.PWR_RST_CAUSE_WARM_REG ∧ s.dev.alive = true ∧ (s.dev.serving = .all ∨ s.dev.serving = .held)) → s.does c fun d =>
    Dev.reset.keeps d [.regs, .mem, .out, .fresh, .pwr, .hay] ∧
    d.pwr.fuses = s.dev.pwr.fuses ∧ d.pwr.slotId = s.dev.pwr.slotId ∧ d.pwr.bootMode = s.dev.pwr.bootMode ∧
    d.pwr.testEn = s.dev.pwr.testEn ∧ d.pwr.state = .start ∧ d.pwr.fwRunning = false ∧
    d.hay = { Dev.reset.hay with media := s.dev.hay.media } ∧
    d.fld cause = 1 ∧ (∀ o, o ≠ F.PWR_RST_CAUSE_POR.off → d.reg o = regReset o) ∧
    ∀ a, d.byte a = if a / 2 ^ 64 = 3 then s.dev.byte a else 0

/-- FIRMWARE_VERIFY in start-up runs the one slot whose header and body pass and records its identity and the results; where both headers
fail it enters recovery; BOOT_MODE 1 enters recovery without reading a slot. PWR_BOOT_GO runs a window image whose body passes and records
a failing check. PWR_BOOT_PROGRAM writes a passing window image into the slot that did not boot and records the result. FIRMWARE_READY
opens the registers and enables the engine rails. READY_FOR_COMPOSITION enters run once every part has ended and the cadence is acquired.
What the boot ROM measures of an image is an operand, and the two PWR_BOOT writes are rows of their own (log entries 94 and 101). -/
def Obligations.FirmwareBootsAndReports : Prop :=
  (∀ (s : State) (a b : SlotRead) (rb : Nat), s.dev.alive = true → s.dev.pwr.state = .start → s.dev.pwr.fwRunning = false →
    s.dev.pwr.recovery = false → s.dev.pwr.bootMode = 0 → s.dev.pwr.testEn = false → s.dev.pwr.warmRetained = false →
    headerCheck s.dev.pwr.fuses a = none → bodyCheck a = none → headerCheck s.dev.pwr.fuses b = some rb →
    s.does (.firmwareVerify a b false) fun d =>
      d.pwr = { s.dev.pwr with
        fwRunning := true, recovery := false, bootSlot := 0, fromWindow := false, resultA := 1, resultB := rb
        fwVersion := field a.hdr 8 4, secVer := field a.hdr 12 2, keyIndex := field a.hdr 6 2
        fuses := { s.dev.pwr.fuses with
          svn := if bit (field a.hdr 14 2) 0 then max s.dev.pwr.fuses.svn (field a.hdr 12 2) else s.dev.pwr.fuses.svn } } ∧
      s.dev.keeps d [.pwr]) ∧
  (∀ (s : State) (a b : SlotRead) (ra rb : Nat), s.dev.alive = true → s.dev.pwr.state = .start → s.dev.pwr.fwRunning = false →
    s.dev.pwr.recovery = false → s.dev.pwr.bootMode = 0 → s.dev.pwr.testEn = false → s.dev.pwr.warmRetained = false →
    headerCheck s.dev.pwr.fuses a = some ra → headerCheck s.dev.pwr.fuses b = some rb →
    s.does (.firmwareVerify a b false) fun d =>
      d.pwr = { s.dev.pwr with resultA := ra, resultB := rb, recovery := true, fwRunning := false } ∧
      d.fld F.PWR_RST_CAUSE_RECOVERY = 1 ∧ s.dev.keeps d [.pwr, .regs]) ∧
  (∀ (s : State) (a b : SlotRead) (r : Bool), s.dev.alive = true → s.dev.pwr.state = .start → s.dev.pwr.fwRunning = false →
    s.dev.pwr.recovery = false → s.dev.pwr.bootMode = 1 → s.dev.pwr.testEn = false →
    s.does (.firmwareVerify a b r) fun d =>
      d.pwr = { s.dev.pwr with recovery := true, fwRunning := false } ∧ d.fld F.PWR_RST_CAUSE_RECOVERY = 1 ∧
      s.dev.keeps d [.pwr, .regs]) ∧
  (∀ (s : State) (m : Measured), s.dev.alive = true → s.dev.pwr.recovery = true → s.dev.pwr.testEn = false →
    (bodyCheck { hdr := s.dev.windowBytes 512, m := m } = none → s.does (.pwrBootGo m) fun d =>
      d.pwr.fwRunning = true ∧ d.pwr.recovery = false ∧ d.pwr.fromWindow = true ∧ d.pwr.resultWin = 1 ∧
      d.pwr.fwVersion = field (s.dev.windowBytes 512) 8 4 ∧ s.dev.keeps d [.pwr]) ∧
    ∀ r, bodyCheck { hdr := s.dev.windowBytes 512, m := m } = some r → s.does (.pwrBootGo m) fun d =>
      d.pwr = { s.dev.pwr with resultWin := r } ∧ s.dev.keeps d [.pwr]) ∧
  (∀ (s : State) (m : Measured) (ok : Bool), s.dev.alive = true → s.dev.pwr.fwRunning = true →
    headerCheck s.dev.pwr.fuses { hdr := s.dev.windowBytes 512, m := m } = none →
    bodyCheck { hdr := s.dev.windowBytes 512, m := m } = none → s.does (.pwrBootProgram m ok) fun d =>
      d.pwr = { s.dev.pwr with resultWin := if ok then 1 else 8 } ∧
      d.out = s.dev.out ++ [.norWrite (if s.dev.pwr.bootSlot = 0 then 1 else 0)
        (s.dev.windowBytes (512 + field (s.dev.windowBytes 512) 16 4))] ∧
      s.dev.keeps d [.pwr, .out]) ∧
  (∀ s : State, s.dev.alive = true → s.dev.pwr.fwRunning = true → s.dev.pwr.readyFw = false → s.dev.pwr.fwSlotEvt = false →
    s.dev.pwr.tripEvt = false → s.does .firmwareReady fun d =>
      d.pwr = { s.dev.pwr with readyFw := true, fwSlotEvt := false, tripEvt := false } ∧
      d.therm = { s.dev.therm with engPwrEn := true } ∧ d.out = s.dev.out ++ [.pin .engPwrEn true] ∧
      s.dev.keeps d [.pwr, .therm, .out]) ∧
  (∀ (s : State) (u : StartUp), s.dev.alive = true → s.dev.pwr.state = .start → s.dev.pwr.readyFw = true → s.dev.pwr.testEn = false →
    s.dev.pwr.engOk = true → s.dev.pwr.hbmOk = true → s.dev.pwr.azfOk = true → s.dev.cadOk = true →
    s.does (.readyForComposition u) fun d =>
      d.pwr = { s.dev.pwr with readyComp := true, state := .run } ∧ s.dev.keeps d [.pwr])

/-- A write of TARGET stabled that R520 accepts begins entry and asks for a journal flush, and one that R520 refuses records
PWR_STATE_BUSY and changes nothing else; a write of TARGET run wakes a stabled part. Entry completes once the part is quiet: scratchpads
read zero, the engine rails go off, trained ports keep their wake lane. A wake that completes, or times out, returns the part to run with
its ports in use; a timeout raises PWR_WAKE_FAIL. Ring 0 of a stabled part is scanned, and a command there other than COMP_STAGE wakes the
part. What refuses a request in start and recovery and what must be at rest for entry to end are read by inference (log entries 88 and
90). -/
def Obligations.StabledEntersAndWakes : Prop :=
  (∀ (s : State) (v : Nat), s.dev.alive = true → s.dev.serving = .all → v % 8 = 4 → (s.dev.pwr.state = .run ∨ s.dev.pwr.state = .idle) →
    (s.dev.mayStable = true → s.does (.targetStabled v) fun d =>
      d.pwr = { s.dev.pwr with target := 4, status := C.OK, state := .entering } ∧ d.hay = { s.dev.hay with force := true } ∧
      (∀ o, d.reg o = s.dev.reg o) ∧ s.dev.keeps d [.regs, .pwr, .hay]) ∧
    (s.dev.mayStable = false → s.does (.targetStabled v) fun d =>
      d.pwr = { s.dev.pwr with status := C.PWR_STATE_BUSY } ∧ (∀ o, d.reg o = s.dev.reg o) ∧ s.dev.keeps d [.regs, .pwr])) ∧
  (∀ s : State, s.dev.alive = true → s.dev.pwr.state = .stabled → s.does .targetRun fun d =>
    d.pwr = { s.dev.pwr with target := 1, status := C.OK, state := .waking } ∧
    d.therm = { s.dev.therm with wakeBeat := s.dev.now, vddYLow := false, engPwrEn := true } ∧
    d.out = s.dev.out ++ [.pin .engPwrEn true] ∧ (∀ o, d.reg o = s.dev.reg o) ∧ s.dev.keeps d [.regs, .pwr, .therm, .out]) ∧
  (∀ s : State, s.dev.alive = true → s.dev.pwr.state = .entering → s.dev.quiet = true → s.does .stabledEntryComplete fun d =>
    d.pwr = { s.dev.pwr with state := .stabled } ∧
    d.therm = { s.dev.therm with lanesSaved := true, engPwrEn := false, vddYLow := true, hbmSelfRefresh := true } ∧
    (∀ a, d.byte a = if a / 2 ^ 64 = 0 then 0 else s.dev.byte a) ∧
    (∀ i, i < 16 → d.azPort i = if (s.dev.azPort i).state = 2 then { s.dev.azPort i with state := 3 } else s.dev.azPort i) ∧
    s.dev.keeps d [.pwr, .therm, .mem, .fab, .out]) ∧
  (∀ s : State, s.dev.alive = true → s.dev.pwr.state = .waking → s.does .wakeComplete fun d =>
    d.pwr = { s.dev.pwr with state := .run } ∧ d.therm = { s.dev.therm with hbmSelfRefresh := false, lanesSaved := false } ∧
    (∀ i, i < 16 → d.azPort i = if (s.dev.azPort i).state = 3 then { s.dev.azPort i with state := 2 } else s.dev.azPort i) ∧
    s.dev.keeps d [.pwr, .therm, .fab]) ∧
  (∀ s : State, s.dev.alive = true → s.dev.pwr.state = .waking → s.dev.therm.wakeBeat + 200000 ≤ s.dev.now →
    s.does (.wakeTimeout []) fun d =>
      d.pwr = { s.dev.pwr with state := .run } ∧ d.therm = { s.dev.therm with hbmSelfRefresh := false, lanesSaved := false } ∧
      d.fld E.PWR_WAKE_FAIL.bit = 1 ∧ s.dev.keeps d [.regs, .pwr, .therm, .fab, .out, .hif, .hlt]) ∧
  (∀ (s : State) (c : HostCmd), s.dev.alive = true → s.dev.pwr.state = .stabled → s.dev.flag F.HIF_CTRL_EN = true →
    c.ring = 0 → s.dev.ringReady 0 = true → c.opcode ≠ 0x11 → s.does (.stabledRing0Scan none (some c)) fun d =>
      d.pwr = { s.dev.pwr with state := .waking } ∧
      d.therm = { s.dev.therm with wakeBeat := s.dev.now, vddYLow := false, engPwrEn := true } ∧
      d.hif = s.dev.hif ∧ s.dev.keeps d [.pwr, .therm, .out])

/-- PROCHOT_N low caps every engine clock at 1,000 MHz (step 4) and is reported; high lifts the cap. A power average above PWR_CAP steps
every die down, one at or below it ends capping. A reading in which no sensor calls for a trip is recorded and steps each die by its own
rule; a trip stops the part with THERM_TRIP_N and SMBALERT_N low. A successful AVSBus transaction ends its rail's count and hold; a third
failure in a row holds the rail's die and raises PWR_AVS. An idle die is gated, a gated one with a launch near is ungated. A channel whose
refresh is due is refreshed, the next one half as far away above 85 C. Readings before the first are the model's choice (log entry 99). -/
def Obligations.ClocksFollowTheRules : Prop :=
  (∀ s : State, s.dev.alive = true → s.does .prochotNLow fun d =>
    d.therm = { s.dev.therm with prochotN := false, dies := s.dev.therm.dies.map fun c => { c with step := min c.step 4 } } ∧
    d.fld E.PWR_PROCHOT.bit = 1 ∧ s.dev.keeps d [.regs, .out, .hif, .hlt, .therm]) ∧
  (∀ s : State, s.dev.alive = true → s.does .prochotNHigh fun d =>
    d.therm = { s.dev.therm with prochotN := true } ∧ s.dev.keeps d [.therm]) ∧
  (∀ (s : State) (avg : Nat), s.dev.alive = true →
    (s.dev.fld F.PWR_CAP_WATTS < avg → s.dev.therm.capped = true → s.does (.powerCapCheck avg) fun d =>
      d.therm = { s.dev.therm with power := avg, dies := s.dev.therm.dies.map fun c => c.lower s.dev.now } ∧
      d.fld F.PWR_POWER_AVG = avg % 2 ^ 12 ∧ s.dev.keeps d [.regs, .therm]) ∧
    (s.dev.fld F.PWR_CAP_WATTS < avg → s.dev.therm.capped = false → s.does (.powerCapCheck avg) fun d =>
      d.therm = { s.dev.therm with power := avg, capped := true, dies := s.dev.therm.dies.map fun c => c.lower s.dev.now } ∧
      d.fld E.PWR_CAPPED.bit = 1 ∧ s.dev.keeps d [.regs, .out, .hif, .hlt, .therm]) ∧
    (avg ≤ s.dev.fld F.PWR_CAP_WATTS → s.does (.powerCapCheck avg) fun d =>
      d.therm = { s.dev.therm with power := avg, capped := false } ∧ s.dev.keeps d [.regs, .therm])) ∧
  (∀ (s : State) (l : List (List (Option Nat))), s.dev.alive = true → l.any tripping = true → s.does (.sensorRead l) fun d =>
    d.pwr = { s.dev.pwr with state := .trip } ∧ d.out = s.dev.out ++ [.pin .thermTripN false, .pin .smbAlertN false] ∧
    s.dev.keeps d [.pwr, .therm, .out]) ∧
  (∀ (s : State) (l : List (List (Option Nat))), s.dev.alive = true → l.any tripping = false →
    (∀ i, i < 5 → ((l.map hottest).getD i (0, 0)).1 ≤ 100) → s.does (.sensorRead l) fun d =>
      d.therm = { s.dev.therm with
        dieTemp := (List.range 5).map fun i => ((l.map hottest).getD i (0, 0)).1
        dieSensor := (List.range 5).map fun i => ((l.map hottest).getD i (0, 0)).2
        throttle := false
        dies := Vector.ofFn fun (i : Fin 4) => Therm.dieStep s.dev.therm s.dev.now false (l.getD i.val []) s.dev.therm.dies[i] } ∧
      s.dev.keeps d [.therm]) ∧
  (∀ (s : State) (rail step : Nat), s.dev.alive = true →
    (s.does (.avsTransaction rail true step) fun d =>
      d.therm.avsFails = s.dev.therm.avsFails.set rail 0 ∧
      (∀ i : Fin 4, d.therm.dies[i].avsHold = if i.val = rail then none else s.dev.therm.dies[i].avsHold) ∧
      s.dev.keeps d [.therm]) ∧
    (s.dev.therm.avsFails.getD rail 0 = 2 → s.does (.avsTransaction rail false step) fun d =>
      d.therm.avsFails = s.dev.therm.avsFails.set rail 3 ∧
      (∀ i : Fin 4, i.val = rail → d.therm.dies[i].avsHold = some step ∧ d.therm.dies[i].step = min s.dev.therm.dies[i].step step) ∧
      (∀ i : Fin 4, i.val ≠ rail → d.therm.dies[i] = s.dev.therm.dies[i]) ∧
      d.fld E.PWR_AVS.bit = 1 ∧ s.dev.keeps d [.regs, .out, .hif, .hlt, .therm])) ∧
  (∀ (s : State) (die : Nat), s.dev.alive = true → die < 4 → s.dev.dieGated die = false → s.dev.dieWorks die = false →
    (∀ b ∈ s.dev.dueOn die, s.dev.now + 1024 < b) → s.does (.dieGate die) fun d =>
      d.dieGated die = true ∧ (∀ k, k ≠ die → d.dieGated k = s.dev.dieGated k) ∧ s.dev.keeps d [.therm, .pwr]) ∧
  (∀ (s : State) (die : Nat), s.dev.alive = true → die < 4 → s.dev.dieGated die = true →
    (∃ b ∈ s.dev.dueOn die, b ≤ s.dev.now + 256) → s.does (.dieUngate die) fun d =>
      d.dieGated die = false ∧ (∀ k, k ≠ die → d.dieGated k = s.dev.dieGated k) ∧
      (s.dev.pwr.state = .idle → d.pwr.state = .run) ∧ s.dev.keeps d [.therm, .pwr]) ∧
  (∀ (s : State) (ch : Nat), s.dev.alive = true → ch < 256 → s.dev.therm.hbmSelfRefresh = false →
    Tbl.rd (fun _ => 0) s.dev.memt.refresh ch ≤ s.dev.now → s.does (.hbmRefresh ch) fun d =>
      Tbl.rd (fun _ => 0) d.memt.refresh ch =
        s.dev.now + (if 85 < s.dev.therm.stackTemp.getD (ch / 32) 0 then 487 else 975) ∧
      (∀ k, k ≠ ch → Tbl.rd (fun _ => 0) d.memt.refresh k = Tbl.rd (fun _ => 0) s.dev.memt.refresh k) ∧
      s.dev.keeps d [.memt])

/-- Once firmware is ready and no power change is under way: a write of GLB_SCRATCH stores 64 bits and touches nothing else; a read of an
RC register returns its value and leaves it zero; a narrow access returns all-ones or is discarded, and an aligned access that names no
register returns zero or is discarded, and each is counted and recorded; a write to AZF_CTRL while EN is set stores EN, keeps PROT_MODE
and is counted once where it carries another PROT_MODE. The debug port reads an RC register without clearing it, writes only under
JTAG_RW, and is never counted. -/
def Obligations.AccessesReachRegisters : Prop :=
  (∀ (s : State) (v : Nat), s.dev.alive = true → s.dev.serving = .all → s.does (.registerWrite F.GLB_SCRATCH_VALUE.off v) fun d =>
    d.reg F.GLB_SCRATCH_VALUE.off = BitVec.ofNat 64 v ∧ (∀ o, o ≠ F.GLB_SCRATCH_VALUE.off → d.reg o = s.dev.reg o) ∧
    s.dev.keeps d [.regs]) ∧
  (∀ s : State, s.dev.alive = true → s.dev.serving = .all → s.does (.rcRead F.HIF_DB_CNT_SCANS.off) fun d =>
    d.out = s.dev.out ++ [.regData F.HIF_DB_CNT_SCANS.off (s.dev.reg F.HIF_DB_CNT_SCANS.off)] ∧
    d.fld F.HIF_DB_CNT_SCANS = 0 ∧ d.fld F.HIF_DB_CNT_FOUND = 0 ∧
    (∀ o, o ≠ F.HIF_DB_CNT_SCANS.off → d.reg o = s.dev.reg o) ∧ s.dev.keeps d [.regs, .out]) ∧
  (∀ (s : State) (off : Nat), s.dev.alive = true → s.dev.serving = .all →
    (s.does (.narrowAccess off true) fun d =>
      d.fld F.GLB_ACC_ERR_NARROW = min (s.dev.fld F.GLB_ACC_ERR_NARROW + 1) (2 ^ 16 - 1) ∧
      d.fld F.GLB_ACC_LAST_OFFSET = off % 2 ^ 26 ∧ d.fld F.GLB_ACC_LAST_WRITE = 1 ∧ d.fld F.GLB_ACC_LAST_KIND = 0 ∧
      (∀ o, o ≠ F.GLB_ACC_ERR_NARROW.off → o ≠ F.GLB_ACC_LAST_OFFSET.off → d.reg o = s.dev.reg o) ∧ s.dev.keeps d [.regs]) ∧
    s.does (.narrowAccess off false) fun d =>
      d.fld F.GLB_ACC_ERR_NARROW = min (s.dev.fld F.GLB_ACC_ERR_NARROW + 1) (2 ^ 16 - 1) ∧
      d.out = s.dev.out ++ [.regData off (BitVec.allOnes 64)] ∧ d.fld F.GLB_ACC_LAST_WRITE = 0 ∧ s.dev.keeps d [.regs, .out]) ∧
  (∀ (s : State) (off : Nat), s.dev.alive = true → s.dev.serving = .all → off % 8 = 0 → regAt off = none →
    (inWindow off = false → s.does (.unmappedAccess off true) fun d =>
      d.fld F.GLB_ACC_ERR_UNMAPPED = min (s.dev.fld F.GLB_ACC_ERR_UNMAPPED + 1) (2 ^ 16 - 1) ∧
      d.fld F.GLB_ACC_LAST_OFFSET = off % 2 ^ 26 ∧ d.fld F.GLB_ACC_LAST_KIND = 1 ∧ s.dev.keeps d [.regs]) ∧
    s.does (.unmappedAccess off false) fun d =>
      d.fld F.GLB_ACC_ERR_UNMAPPED = min (s.dev.fld F.GLB_ACC_ERR_UNMAPPED + 1) (2 ^ 16 - 1) ∧
      d.out = s.dev.out ++ [.regData off 0] ∧ s.dev.keeps d [.regs, .out]) ∧
  (∀ (s : State) (v : Nat), s.dev.alive = true → s.dev.serving = .all → s.dev.flag F.AZF_CTRL_EN = true →
    s.does (.registerWrite F.AZF_CTRL_EN.off v) fun d =>
      d.fld F.AZF_CTRL_EN = v % 2 ∧ d.fld F.AZF_CTRL_PROT_MODE = s.dev.fld F.AZF_CTRL_PROT_MODE ∧
      (v / 2 % 2 ≠ s.dev.fld F.AZF_CTRL_PROT_MODE →
        d.fld F.GLB_ACC_ERR_LOCKED = min (s.dev.fld F.GLB_ACC_ERR_LOCKED + 1) (2 ^ 16 - 1)) ∧ s.dev.keeps d [.regs]) ∧
  (∀ (s : State) (v : Nat), s.dev.alive = true → s.dev.serving = .all → s.does (.dbgAccess false F.HIF_DB_CNT_SCANS.off v) fun d =>
    d.out = s.dev.out ++ [.regData F.HIF_DB_CNT_SCANS.off (s.dev.reg F.HIF_DB_CNT_SCANS.off)] ∧
    d.tap = { s.dev.tap with ir := 0x20, tapState := 15, active := false } ∧ s.dev.keeps d [.out, .tap]) ∧
  (∀ (s : State) (v : Nat), s.dev.alive = true → s.dev.serving = .all → s.dev.flag F.DBG_CTRL_JTAG_RW = true →
    s.does (.dbgAccess true F.GLB_SCRATCH_VALUE.off v) fun d =>
      d.reg F.GLB_SCRATCH_VALUE.off = BitVec.ofNat 64 v ∧ s.dev.keeps d [.regs, .tap])

/-- Loading a TAP instruction puts its code in the instruction register in every power state and touches nothing but the TAP; EXTEST,
SAMPLE/PRELOAD, CLAMP, HIGHZ, EXTEST_PULSE, EXTEST_TRAIN and SCAN with TEST_EN set stop the part's service, IDCODE and BYPASS do not, and
SCAN with TEST_EN clear acts as BYPASS; TRST_N resets the TAP alone and does not restart service. An SMBus block read of a command the
part answers puts the answer out; another one changes nothing. -/
def Obligations.TapInstructionsTakeEffect : Prop :=
  (∀ (s : State) (c : Instr) (ir : Nat),
    (c = .extest ∧ ir = 0x00 ∨ c = .samplePreload ∧ ir = 0x01 ∨ c = .clamp ∧ ir = 0x03 ∨ c = .highz ∧ ir = 0x04 ∨
      c = .extestPulse ∧ ir = 0x08 ∨ c = .extestTrain ∧ ir = 0x09 ∨ c = .scan ∧ ir = 0x30 ∧ s.dev.pwr.testEn = true) →
    s.does c fun d => d.tap = { ir := ir, tapState := 15, active := false, stopped := true } ∧ d.alive = false ∧ s.dev.keeps d [.tap]) ∧
  (∀ (s : State) (c : Instr) (ir : Nat),
    (c = .idcode ∧ ir = 0x02 ∨ (∃ k, c = .bypass k) ∧ ir = 0xFF ∨ c = .scan ∧ ir = 0xFF ∧ s.dev.pwr.testEn = false) →
    s.does c fun d => d.tap = { ir := ir, tapState := 15, active := false, stopped := s.dev.tap.stopped } ∧ s.dev.keeps d [.tap]) ∧
  (∀ s : State, s.does .trstNReset fun d => d.tap = { Dev.reset.tap with stopped := s.dev.tap.stopped } ∧ s.dev.keeps d [.tap]) ∧
  (∀ (s : State) (cmd : Nat) (b : Bytes), s.dev.pwr.state ≠ .off → s.dev.smbus s.dev.hbState cmd = some b →
    s.does (.smbusBlockRead cmd) fun d => d.out = s.dev.out ++ [.smbus b] ∧ s.dev.keeps d [.out]) ∧
  (∀ (s : State) (cmd : Nat), cmd = 0 ∨ 5 < cmd → s.does (.smbusBlockRead cmd) fun d => s.dev.keeps d [])

/-- Setting HIF_CTRL.EN takes ring 0 from the HIF_ADM registers with every index 0. A scan that finds one bit of an enabled ring, with a
producer index that is not ahead by more than the ring, takes the index and counts the scan and the ring. A partial intake request left
for 2^16 beats is forgotten, counted and answered. A poll takes the consumer index and writes the one completion that waits where there is
room. A retried write that succeeds releases what was held, one that fails raises HIF_DMA. A ring that is due signals its vector, or
leaves it pending while masked; unmasking sends a pending vector. A host-link event disables every ring, clears EN and drops partial
requests. -/
def Obligations.RingsDoorbellsAndInterrupts : Prop :=
  (∀ (s : State) (v : Nat), s.dev.alive = true → s.dev.serving = .all → s.dev.flag F.HIF_CTRL_EN = false → bit v 0 = true →
    (s.dev.cplRing 0).waiting = [] → s.does (.hifEnSet v) fun d =>
      d.flag F.HIF_CTRL_EN = true ∧
      d.cmdRing 0 = { en := true, base := (s.dev.reg F.HIF_ADM_CMD_BASE.off).toNat, log2 := s.dev.fld F.HIF_ADM_SIZE_CMD_LOG2
                      cpl := 0, admin := true } ∧
      (d.cplRing 0).en = true ∧ (d.cplRing 0).base = (s.dev.reg F.HIF_ADM_CPL_BASE.off).toNat ∧
      (d.cplRing 0).log2 = s.dev.fld F.HIF_ADM_SIZE_CPL_LOG2 ∧ (d.cplRing 0).prod = 0 ∧ (d.cplRing 0).cons = 0 ∧
      s.dev.keeps d [.regs, .hif]) ∧
  (∀ (s : State) (r p : Nat), s.dev.alive = true → s.dev.flag F.HIF_CTRL_EN = true →
    (s.dev.pwr.state = .run ∨ s.dev.pwr.state = .idle) → r < 64 → p < 2 ^ 32 → (s.dev.cmdRing r).en = true →
    (p + 2 ^ 32 - (s.dev.cmdRing r).cons) % 2 ^ 32 ≤ 2 ^ (s.dev.cmdRing r).log2 →
    s.does (.dbScan { summary := [some 1], bitmap := [(0, some (2 ^ r))], prod := [(r, p)] }) fun d =>
      d.cmdRing r = { s.dev.cmdRing r with prod := p } ∧ (∀ k, k ≠ r → d.cmdRing k = s.dev.cmdRing k) ∧
      d.fld F.HIF_DB_CNT_SCANS = min (s.dev.fld F.HIF_DB_CNT_SCANS + 1) (2 ^ 32 - 1) ∧
      d.fld F.HIF_DB_CNT_FOUND = min (s.dev.fld F.HIF_DB_CNT_FOUND + 1) (2 ^ 32 - 1) ∧ s.dev.keeps d [.regs, .hif]) ∧
  (∀ (s : State) (r : Nat) (p : PartialReq), s.dev.alive = true → Tbl.at? s.dev.hif.partials r = some p → p.since + 2 ^ 16 ≤ s.dev.now →
    s.does (.intakePartialTimeout r) fun d =>
      Tbl.at? d.hif.partials r = none ∧ d.fld F.INTK_EVT_REFUSED = 1 ∧ s.dev.keeps d [.regs, .out, .hif, .hlt]) ∧
  (∀ (s : State) (r cons : Nat) (c : Cpl), s.dev.alive = true → (s.dev.cplRing r).en = true →
    (s.dev.cplRing r).waiting = [(c, none)] → s.dev.hlt.events = [] → s.dev.hif.dmaFail = false →
    ((s.dev.cplRing r).prod + 2 ^ 32 - cons % 2 ^ 32) % 2 ^ 32 < 2 ^ (s.dev.cplRing r).log2 → s.does (.cplConsPoll r cons) fun d =>
      (d.cplRing r).cons = cons % 2 ^ 32 ∧ (d.cplRing r).waiting = [] ∧
      (d.cplRing r).prod = ((s.dev.cplRing r).prod + 1) % 2 ^ 32 ∧
      d.out = s.dev.out ++ [.cpl r ((s.dev.cplRing r).prod % 2 ^ (s.dev.cplRing r).log2) c,
        .cplProd r (((s.dev.cplRing r).prod + 1) % 2 ^ 32)] ∧ s.dev.keeps d [.out, .hif]) ∧
  (∀ s : State, s.dev.alive = true →
    (s.does (.hifDmaRetry true) fun d =>
      d.hif = { s.dev.hif with dmaFail := false, heldWrites := [] } ∧ d.out = s.dev.out ++ s.dev.hif.heldWrites ∧
      s.dev.keeps d [.hif, .out]) ∧
    s.does (.hifDmaRetry false) fun d =>
      d.hif.dmaFail = true ∧ d.fld E.HIF_DMA.bit = 1 ∧ s.dev.keeps d [.regs, .out, .hif, .hlt]) ∧
  (∀ (s : State) (r : Nat), s.dev.alive = true → (s.dev.cplRing r).due s.dev.now = true → s.dev.hif.dmaFail = false →
    s.does (.msixSignal r) fun d =>
      (d.cplRing r).unsignalled = 0 ∧
      (if s.dev.hif.msixOpen.contains (s.dev.cplRing r).vector
       then d.out = s.dev.out ++ [.msix (s.dev.cplRing r).vector] ∧ d.hif.msixPending = s.dev.hif.msixPending
       else d.out = s.dev.out ∧ (s.dev.cplRing r).vector ∈ d.hif.msixPending) ∧ s.dev.keeps d [.hif, .out]) ∧
  (∀ (s : State) (v : Nat), s.dev.alive = true → s.dev.hif.dmaFail = false → s.does (.msixVectorUnmask v) fun d =>
    v ∈ d.hif.msixOpen ∧
    (if s.dev.hif.msixPending.contains v
     then d.hif.msixPending = s.dev.hif.msixPending.erase v ∧ d.out = s.dev.out ++ [.msix v]
     else d.hif.msixPending = s.dev.hif.msixPending ∧ d.out = s.dev.out) ∧ s.dev.keeps d [.hif, .out]) ∧
  (∀ s : State, s.dev.alive = true → s.does .hostLinkEvent fun d =>
    d.flag F.HIF_CTRL_EN = false ∧ (∀ r, (d.cmdRing r).en = false ∧ (d.cplRing r).en = false) ∧ d.hif.partials = [] ∧
    d.fld E.HIF_LINK_DOWN.bit = 1 ∧ s.dev.keeps d [.regs, .hif, .hlt])

/-- A HIF_RING that is taken and passes its checks enables the command ring it names with every index 0 and its A0 and A1 fields; with
DISABLE it disables the ring. Either way the consumer index of the ring that carried it advances by one, the command is counted, and its
completion with status OK is written to that ring's default completion ring where there is room. A command that fails a check of R484 acts
on nothing but its own completion and the record of the refusal. That an argument a command does not use is reserved, and that only R484's
refusals are recorded, is read by inference (log entries 16 and 18). -/
def Obligations.RingCommandsAreTaken : Prop :=
  (∀ (s : State) (c : HostCmd), s.dev.alive = true → s.dev.takes { rsvOk := ringRsv } c → bit c.a0 15 = false → bit c.a0 14 = false →
    ringCheck (s.dev.taken c) c = none → s.does (.hifRing c) fun d =>
      d.cmdRing (bits c.a0 13 0) = { en := true, base := c.haddr, log2 := bits c.a0 20 16, cpl := bits c.a1 13 0
                                     admin := bit c.a1 16, intake := bit c.a1 17, tenant := bits c.a1 31 20 } ∧
      (∀ k, k ≠ bits c.a0 13 0 → k ≠ c.ring → d.cmdRing k = s.dev.cmdRing k) ∧ s.dev.keeps d [.regs, .out, .hif, .hlt]) ∧
  (∀ (s : State) (c : HostCmd), s.dev.alive = true → s.dev.takes { rsvOk := ringRsv } c → bit c.a0 15 = true → bit c.a0 14 = false →
    bits c.a0 13 0 ≠ 0 → (s.dev.cmdRing (bits c.a0 13 0)).en = true → Tbl.at? s.dev.hif.partials (bits c.a0 13 0) = none →
    s.does (.hifRingDisable c) fun d =>
      (d.cmdRing (bits c.a0 13 0)).en = false ∧ s.dev.keeps d [.regs, .out, .hif, .hlt]) ∧
  (∀ (s : State) (c : HostCmd), s.dev.alive = true → s.dev.takes { rsvOk := ringRsv } c → bit c.a0 15 = false → bit c.a0 14 = false →
    ringCheck (s.dev.taken c) c = none → bit c.cflags 1 = false → s.dev.hif.dmaFail = false →
    (s.dev.cplRing (s.dev.cmdRing c.ring).cpl).en = true → (s.dev.cplRing (s.dev.cmdRing c.ring).cpl).waiting = [] →
    (s.dev.cplRing (s.dev.cmdRing c.ring).cpl).room = true → s.does (.hifRing c) fun d =>
      (d.cmdRing c.ring).cons = ((s.dev.cmdRing c.ring).cons + 1) % 2 ^ 32 ∧
      d.fld F.HIF_CMD_CNT_CONSUMED = min (s.dev.fld F.HIF_CMD_CNT_CONSUMED + 1) (2 ^ 32 - 1) ∧
      d.out = s.dev.out ++ [.cmdCons c.ring (((s.dev.cmdRing c.ring).cons + 1) % 2 ^ 32),
        .cpl (s.dev.cmdRing c.ring).cpl
          ((s.dev.cplRing (s.dev.cmdRing c.ring).cpl).prod % 2 ^ (s.dev.cplRing (s.dev.cmdRing c.ring).cpl).log2)
          (.command C.OK c.tag c.opcode c.ring (List.replicate 24 0)),
        .cplProd (s.dev.cmdRing c.ring).cpl (((s.dev.cplRing (s.dev.cmdRing c.ring).cpl).prod + 1) % 2 ^ 32)]) ∧
  (∀ (s : State) (c : HostCmd) (code : Nat), s.dev.alive = true → s.dev.consuming = true → s.dev.nextRing = some c.ring →
    bit c.cflags 0 = false → Tbl.at? s.dev.hif.partials c.ring = none →
    check484 { rsvOk := ringRsv } c (s.dev.taken c) = some code → s.does (.hifRing c) fun d =>
      d.fld F.HIF_LAST_ERR_STATUS = code % 2 ^ 16 ∧ d.fld F.HIF_LAST_ERR_RING = c.ring % 2 ^ 14 ∧
      (∀ k, k ≠ c.ring → d.cmdRing k = s.dev.cmdRing k) ∧ s.dev.keeps d [.regs, .out, .hif, .hlt])

/-- A map that COMP_STAGE accepts becomes the pending map. A well-formed coding table is loaded under its number. SEP_LOAD puts an
accepted image in its slot and stores its bytes in the paddock's HBM, every other byte unchanged; SEP_UNLOAD empties a slot that is not
busy. SEP_INVOKE of an unbound invocation that the current map processes adds it, unrefused where R145 finds nothing, and stays
outstanding. ENG_RETEST returns a failed core that passes to spare. -/
def Obligations.MapsTablesAndProgramsAreLoaded : Prop :=
  (∀ (s : State) (c : HostCmd) (m : CompMap), s.dev.alive = true → s.dev.takes stageSpec c →
    (s.dev.taken c).stageCheck c.data (2 ^ 16) = .inr (some m) → s.dev.stl.stalls = [] → s.dev.memt.units = [] → s.dev.pan.held = [] →
    s.does (.compStage c) fun d =>
      d.comp = s.dev.comp.stage m ∧ d.comp.pending = some m ∧ s.dev.keeps d [.regs, .out, .hif, .hlt, .comp]) ∧
  (∀ (s : State) (c : HostCmd), s.dev.alive = true → s.dev.takes (recSpec 144 0 0) c → tableOk c.data = true →
    Tbl.at? s.dev.cmp (field c.data 0 1) = none → s.does (.cmpTableLoad c) fun d =>
      Tbl.at? d.cmp (field c.data 0 1) = some ⟨field c.data 1 1, (imageLengths c.data).take (field c.data 2 2)⟩ ∧
      (∀ k, k ≠ field c.data 0 1 → Tbl.at? d.cmp k = Tbl.at? s.dev.cmp k) ∧ s.dev.keeps d [.regs, .out, .hif, .hlt, .cmp]) ∧
  (∀ (s : State) (c : HostCmd), s.dev.alive = true →
    s.dev.takes { rsvOk := argMask true 0xFFFFF (2 ^ 64 - 1) 0 0, lenOk := fun c => c.hlen == field c.data 16 4 } c →
    s.dev.sepCheck (c.a0 % 2 ^ 16) (bits c.a0 19 16) c.a1 c.data = none → s.dev.slotImg (c.a0 % 2 ^ 16) (bits c.a0 19 16) = none →
    s.does (.sepLoad c) fun d =>
      d.slotImg (c.a0 % 2 ^ 16) (bits c.a0 19 16) = some { img := c.data, base := c.a1 } ∧
      (∀ a, a < s.dev.hbmKey (c.a0 % 2 ^ 16) (c.a1 % 2 ^ 40) ∨ s.dev.hbmKey (c.a0 % 2 ^ 16) (c.a1 % 2 ^ 40) + c.data.length ≤ a →
        d.byte a = s.dev.byte a) ∧
      (∀ k (h : k < c.data.length), d.byte (s.dev.hbmKey (c.a0 % 2 ^ 16) (c.a1 % 2 ^ 40) + k) = c.data[k]) ∧
      s.dev.keeps d [.regs, .mem, .poison, .out, .hif, .hlt, .sep]) ∧
  (∀ (s : State) (c : HostCmd), s.dev.alive = true → s.dev.takes (argSpec 0xFFFFF 0 0) c →
    s.dev.slotBusy (c.a0 % 2 ^ 16) (bits c.a0 19 16) = false → s.does (.sepUnload c) fun d =>
      d.slotImg (c.a0 % 2 ^ 16) (bits c.a0 19 16) = none ∧
      (∀ p k, p ≠ c.a0 % 2 ^ 16 ∨ k ≠ bits c.a0 19 16 → d.slotImg p k = s.dev.slotImg p k) ∧
      s.dev.keeps d [.regs, .out, .hif, .hlt, .sep]) ∧
  (∀ (s : State) (c : HostCmd), s.dev.alive = true →
    s.dev.takes { shared := true, rsvOk := argMask true 0 0 0 0, lenOk := fun c => c.hlen == 64 } c →
    s.dev.verdict (s.dev.hostInvHdr c) true = .process → bit (field c.data 26 1) 0 = false →
    s.dev.invCheck (field c.data 0 2) (field c.data 2 1 % 16) (field c.data 4 4) (invRecordOk c.data) = none →
    s.does (.sepInvoke c) fun d =>
      (∃ i, d.inv? s.dev.sep.nextInv = some i ∧ i.paddock = field c.data 0 2 ∧ i.slot = field c.data 2 1 % 16 ∧
        i.base = field c.data 8 8 ∧ i.refused = none ∧ i.tag = .host (cmdRef c)) ∧
      d.sep.nextInv = s.dev.sep.nextInv + 1 ∧ d.hif.outstanding = s.dev.hif.outstanding ++ [cmdRef c] ∧
      s.dev.keeps d [.regs, .out, .hif, .sep]) ∧
  (∀ (s : State) (c : HostCmd) (core : Nat), s.dev.alive = true → s.dev.takes (argSpec 0x3FF 0 0) c → bits c.a0 7 0 < 136 →
    core = bits c.a0 9 8 * 136 + bits c.a0 7 0 → (s.dev.core core).state = .failed →
    s.dev.inAnyPaddock (pairClusters (pairOf core)) = false → s.does (.engRetest c true) fun d =>
      (d.core core).state = .spare ∧ (d.core core).subst = none ∧ (d.core core).job = none ∧
      (∀ k, k ≠ core → d.core k = s.dev.core k) ∧ s.dev.keeps d [.regs, .out, .hif, .hlt, .sep])

/-- A write of CAD_LOAD with ARM set arms the load in `unset` and `acquire` and has no effect on the count in other states. A pulse in
`acquire` with the load armed loads the count and locks it; a pulse within 2 beats of the boundary in `locked` or `refonly` locks it with
stratum 0, records the offset in 1/16 beat and leaves it to slewing; a first pulse farther off, in `refonly`, is a glitch: it is recorded
and the count stands. A second absent pulse in `locked` leads to `refonly` and raises CAD_SYNC_LOSS, a first is only counted. Losing the
reference leads from `acquire` to `unset`, and from `locked`, `refonly` or `slew` without a source to `holdover`. The beat clock locking
leads from `unset` to `acquire` and from `follow` and `holdover` to `refonly`. FOLLOW_TIMEOUT leads to `holdover` after 2^12 beats without
a source. A due correction doubles or omits one increment. A write of GLB_MODE takes effect at once on a device with no paddock and no
staged map. -/
def Obligations.CadenceFollowsItsStates : Prop :=
  (∀ (s : State) (v : Nat), s.dev.alive = true → s.dev.serving = .all → bit v 0 = true → s.does (.cadLoadArm v) fun d =>
    d.cad = (if s.dev.cad.state = .unset ∨ s.dev.cad.state = .acquire then { s.dev.cad with arm := true } else s.dev.cad) ∧
    d.fld F.CAD_LOAD_HI = v / 2 ^ 20 % 2 ^ 44 ∧ d.fld F.CAD_LOAD_ARM = 0 ∧ s.dev.keeps d [.regs, .cad]) ∧
  (∀ s : State, s.dev.alive = true → s.dev.cad.state = .acquire → s.dev.cad.arm = true → s.does .evgSyncPulse fun d =>
    d.cad.state = .locked ∧ d.cad.count = s.dev.fld F.CAD_LOAD_HI * 2 ^ 20 ∧ d.cad.arm = false ∧ d.cad.stratum = 0 ∧
    s.dev.keeps d [.cad]) ∧
  (∀ s : State, s.dev.alive = true → (s.dev.cad.state = .locked ∨ s.dev.cad.state = .refonly) →
    (s.dev.cad.count % 2 ^ 20 ≤ 2 ∨ 2 ^ 20 - 2 ≤ s.dev.cad.count % 2 ^ 20) → s.does .evgSyncPulse fun d =>
    d.cad.state = .locked ∧ d.cad.stratum = 0 ∧ d.cad.absent = 0 ∧ d.cad.count = s.dev.cad.count ∧
    d.cad.slew = pulseOffset s.dev.cad.count ∧ d.cad.offset16 = 16 * pulseOffset s.dev.cad.count ∧ s.dev.keeps d [.cad]) ∧
  (∀ s : State, s.dev.alive = true → s.dev.cad.state = .refonly → s.dev.cad.glitch = none →
    2 < s.dev.cad.count % 2 ^ 20 → s.dev.cad.count % 2 ^ 20 < 2 ^ 20 - 2 → s.does .evgSyncPulse fun d =>
    d.cad.state = .refonly ∧ d.cad.count = s.dev.cad.count ∧ d.cad.glitch = some (pulseOffset s.dev.cad.count) ∧
    d.fld E.CAD_GLITCH.bit = 1 ∧ s.dev.keeps d [.regs, .out, .cad, .hif, .hlt]) ∧
  (∀ s : State, s.dev.alive = true → s.dev.cad.state = .locked →
    (s.dev.cad.absent = 0 → s.does .syncPulseAbsent fun d =>
      d.cad = { s.dev.cad with absent := 1, glitch := none } ∧ s.dev.keeps d [.cad]) ∧
    (1 ≤ s.dev.cad.absent → s.does .syncPulseAbsent fun d =>
      d.cad = { s.dev.cad with state := .refonly, stratum := 1, absent := 0, glitch := none } ∧
      d.fld E.CAD_SYNC_LOSS.bit = 1 ∧ s.dev.keeps d [.regs, .out, .cad, .hif, .hlt])) ∧
  (∀ s : State, s.dev.alive = true →
    (s.dev.cad.state = .acquire → s.does .evgRefLost fun d =>
      d.cad = { s.dev.cad with state := .unset, ref := false } ∧ d.fld E.CAD_REF_LOSS.bit = 1 ∧
      s.dev.keeps d [.regs, .out, .cad, .hif, .hlt]) ∧
    (s.dev.cad.state = .locked ∨ s.dev.cad.state = .refonly ∨ s.dev.cad.state = .slew → s.dev.cad.nbrs = [] →
      s.does .evgRefLost fun d =>
        d.cad.state = .holdover ∧ d.cad.stratum = 15 ∧ d.cad.srcPort = 0 ∧ d.cad.ref = false ∧ d.cad.count = s.dev.cad.count ∧
        d.fld E.CAD_HOLDOVER.bit = 1 ∧ s.dev.keeps d [.regs, .out, .cad, .hif, .hlt])) ∧
  (∀ s : State, s.dev.alive = true → s.does .beatClockLocked fun d =>
    d.cad.ref = true ∧ d.cad.count = s.dev.cad.count ∧
    d.cad.state = (if s.dev.cad.state = .unset then .acquire
      else if s.dev.cad.state = .follow ∨ s.dev.cad.state = .holdover then .refonly else s.dev.cad.state) ∧
    s.dev.keeps d [.cad]) ∧
  (∀ (s : State) (b : Nat), s.dev.alive = true → s.dev.cad.state = .follow → s.dev.cad.noSrc = some b → s.dev.cad.nbrs = [] →
    b + 2 ^ 12 ≤ s.dev.now → s.does .followTimeout fun d =>
    d.cad = { s.dev.cad with state := .holdover, stratum := 15, srcPort := 0, noSrc := none } ∧ d.fld E.CAD_HOLDOVER.bit = 1 ∧
    s.dev.keeps d [.regs, .out, .cad, .hif, .hlt]) ∧
  (∀ s : State, s.dev.alive = true → s.dev.cad.nextSlew ≤ s.dev.cad.count →
    (0 < s.dev.cad.slew → s.does .slewCorrection fun d =>
      d.cad.count = (s.dev.cad.count + 1) % 2 ^ 64 ∧ d.cad.slew = s.dev.cad.slew - 1 ∧ d.cad.skip = s.dev.cad.skip ∧
      s.dev.keeps d [.cad]) ∧
    (s.dev.cad.slew < 0 → s.does .slewCorrection fun d =>
      d.cad.count = s.dev.cad.count ∧ d.cad.slew = s.dev.cad.slew + 1 ∧ d.cad.skip = true ∧ s.dev.keeps d [.cad])) ∧
  (∀ (s : State) (req : Bool), s.dev.alive = true → s.dev.serving = .all → s.dev.myMembers = [] → s.dev.comp.pending = none →
    s.does (.detmReqWrite req) fun d => d.cad = { s.dev.cad with detmReq := req, detm := req } ∧ s.dev.keeps d [.regs, .cad])

/-- Before its effective beat a pending map changes nothing. At that beat a device with no work in flight and no membership in the new map
adopts it: the map, the map before it kept for grace, the role the map gives it, and the requested determinism mode. Grace ends at its
beat: the old map is dropped. A bounce for the role whose role epoch this device already has is counted and the message is kept until the
next switch; one from a receiver on a newer epoch is kept until that epoch; one from a receiver on an older epoch is kept to be sent again
after the retry interval. A kept message that is due is sent again and its try is counted. How bounces are counted for a message is read
by inference (log entry 85). -/
def Obligations.MapSwitchesGraceEndsAndBouncesAreKept : Prop :=
  (∀ (s : State) (m : CompMap), s.dev.alive = true → s.dev.comp.pending = some m → s.dev.now < m.effBeat →
    s.does .effectiveBeat fun d => s.dev.keeps d []) ∧
  (∀ (s : State) (m : CompMap), s.dev.alive = true →
    Dev.reset.keeps s.dev [.regs, .mem, .poison, .out, .fresh, .pwr, .therm, .tap, .cad, .comp, .hif] →
    s.dev.comp.pending = some m → s.dev.comp.old = none → s.dev.comp.staged = none → s.dev.comp.held = [] → m.effBeat ≤ s.dev.now →
    m.grace ≠ 0 → m.memberships s.dev.me = [] → ((m.entry s.dev.me).any fun (e : DevEntry) => e.spare) = false →
    s.does .effectiveBeat fun d =>
      d.comp = s.dev.comp.switch m s.dev.me ∧ d.comp.cur = m ∧ d.comp.old = some s.dev.comp.cur ∧ d.comp.pending = none ∧
      d.comp.role = m.roleOf s.dev.me ∧ d.comp.state = .grace ∧ d.cad = { s.dev.cad with detm := s.dev.cad.detmReq } ∧
      s.dev.keeps d [.comp, .cad]) ∧
  (∀ (s : State) (o : CompMap), s.dev.alive = true →
    Dev.reset.keeps s.dev [.regs, .mem, .poison, .out, .fresh, .pwr, .therm, .tap, .cad, .comp, .hif] →
    s.dev.comp.old = some o → s.dev.comp.state = .grace → o.memberships s.dev.me = [] →
    s.dev.comp.cur.effBeat + s.dev.comp.cur.grace ≤ s.dev.now → s.does .graceEnd fun d =>
      d.comp = { s.dev.comp with state := .steady, old := none } ∧ s.dev.keeps d [.comp]) ∧
  (∀ (s : State) (b : BounceMsg), s.dev.alive = true → s.dev.pan.bounced = [] →
    (b.code = C.NACK_ROLE → s.dev.roleEpochOf b.src = b.msgRoleEpoch → s.does (.bounce b) fun d =>
      d.pan = { s.dev.pan with bounced := [{ what := b.what, dst := b.src, hold := .nextSwitch }] } ∧
      d.fld F.PAN_BOUNCE_CNT_ROLE_RCVD = min (s.dev.fld F.PAN_BOUNCE_CNT_ROLE_RCVD + 1) (2 ^ F.PAN_BOUNCE_CNT_ROLE_RCVD.width - 1) ∧
      s.dev.keeps d [.regs, .pan]) ∧
    (b.code = C.NACK_EPOCH → (b.epoch + 2 ^ 32 - s.dev.comp.cur.epoch) % 2 ^ 32 ≠ 0 →
      (b.epoch + 2 ^ 32 - s.dev.comp.cur.epoch) % 2 ^ 32 < 2 ^ 31 → s.does (.bounce b) fun d =>
      d.pan = { s.dev.pan with bounced := [{ what := b.what, dst := b.src, hold := .untilEpoch b.epoch }] } ∧
      s.dev.keeps d [.regs, .pan]) ∧
    (b.code = C.NACK_EPOCH → 2 ^ 31 ≤ (b.epoch + 2 ^ 32 - s.dev.comp.cur.epoch) % 2 ^ 32 → s.does (.bounce b) fun d =>
      d.pan = { s.dev.pan with bounced :=
        [{ what := b.what, dst := b.src, hold := .resend (s.dev.now + 2 ^ s.dev.fld F.PAN_RETRY_INTERVAL_LOG2) 0 }] } ∧
      s.dev.keeps d [.regs, .pan])) ∧
  (∀ (s : State) (id dst b n : Nat) (i : Inv), s.dev.alive = true →
    s.dev.pan.bounced = [{ what := .invocation id, dst := dst, hold := .resend b n }] → b ≠ 0 → b ≤ s.dev.now →
    s.dev.inv? id = some i → (s.dev.paddockDevs i.paddock).contains dst = true → s.dev.hif.dmaFail = false →
    s.does .bounceRetry fun d =>
      d.pan = { s.dev.pan with bounced := [{ what := .invocation id, dst := dst, hold := .resend 0 (n + 1) }] } ∧
      d.out = s.dev.out ++ [.msg .invoke (s.dev.resolve dst) (s.dev.hdrFor dst i.paddock ++ [id]) (i.record s.dev.comp.cur.epoch)] ∧
      s.dev.keeps d [.pan, .out])

/-- A request from the fabric that passes R179 joins the end of its priority level with STAMP written, and the other levels stand; with
INTK_CTRL.EN clear it is counted as FULL and answered STL_INTK_FULL. A one-item request from a ring in turn is consumed and queued under
that ring. Under MANUAL, NEXT loads the next item of the open or the lowest level that holds one, or the idle item where there is none,
and DROP_REST discards the unread items of the open request and counts them. The allocator reads the request at the head: one that fails
R180 is removed, counted and answered; one that has no effect of its own completes; a NEW on a home with no stall in use gets STALL 0,
whose record holds the fields the item gives. -/
def Obligations.IntakeItemsAreQueuedAndRead : Prop :=
  (∀ (s : State) (q : IntakeReq) (c : Instr), (c = .newItem q ∨ c = .continueItem q) → s.dev.alive = true → q.ring = none →
    s.dev.pwr.state = .run →
    (check179 s.dev q.items = none → s.does c fun d =>
      d.level (itemPrio (q.items.headD [])) = s.dev.level (itemPrio (q.items.headD [])) ++
        q.items.map (fun it => { bytes := it.take 56 ++ leBytes 8 s.dev.now, ring := none, fabric := q.src }) ∧
      (∀ k, k ≠ itemPrio (q.items.headD []) → d.level k = s.dev.level k) ∧ d.stl.stalls = s.dev.stl.stalls ∧
      s.dev.keeps d [.out, .stl, .hif]) ∧
    (s.dev.flag F.INTK_CTRL_EN = false → s.dev.hif.dmaFail = false → s.does c fun d =>
      d.fld F.INTK_EVT_FULL = 1 ∧ d.fld F.INTK_REFUSE_CNT_FULL =
        min (s.dev.fld F.INTK_REFUSE_CNT_FULL + 1) (2 ^ F.INTK_REFUSE_CNT_FULL.width - 1) ∧
      d.out = s.dev.out ++ [.msg .intakeAnswer q.src [C.STL_INTK_FULL, field (q.items.headD []) 2 2, itemOp (q.items.headD []),
        0xFFFFFFFF, s.dev.me, 0, 0] []] ∧ s.dev.keeps d [.regs, .out])) ∧
  (∀ (s : State) (r src : Nat) (it : Bytes) (ref : CmdRef) (c : Instr),
    (c = .newItem { ring := some r, src := src, items := [it] } ∨ c = .continueItem { ring := some r, src := src, items := [it] }) →
    s.dev.alive = true → s.dev.consuming = true → s.dev.nextRing = some r → Tbl.at? s.dev.hif.partials r = none → itemMore it = false →
    ref = { ring := r, opcode := itemOp it, tag := field it 2 2, quiet := false } →
    check484Item (s.dev.consume ref 1) r it = none → check179 (s.dev.consume ref 1) [it] = none → s.does c fun d =>
      d.level (itemPrio it) = s.dev.level (itemPrio it) ++
        [{ bytes := it.take 56 ++ leBytes 8 s.dev.now, ring := some r, fabric := 0 }] ∧
      (d.cmdRing r).cons = ((s.dev.cmdRing r).cons + 1) % 2 ^ 32 ∧ s.dev.keeps d [.regs, .out, .hif, .stl]) ∧
  (∀ (s : State) (l : Nat) (q : QItem) (t : List QItem), s.dev.alive = true → s.dev.serving = .all →
    s.dev.flag F.INTK_CTRL_MANUAL = true → (s.dev.stl.openLvl = some l ∨ s.dev.stl.openLvl = none ∧ s.dev.headLevel = some l) →
    s.dev.level l = q :: t → s.does .intkCmdNext fun d =>
      d.stl.pop = q.bytes ∧ d.level l = t ∧ d.stl.openLvl = (if itemMore q.bytes then some l else none) ∧
      (∀ k, k ≠ l → d.level k = s.dev.level k) ∧ d.stl.stalls = s.dev.stl.stalls ∧ s.dev.keeps d [.regs, .out, .stl, .hif]) ∧
  (∀ s : State, s.dev.alive = true → s.dev.serving = .all → s.dev.flag F.INTK_CTRL_MANUAL = true → s.dev.stl.openLvl = none →
    s.dev.headLevel = none → s.does .intkCmdNext fun d =>
      d.stl = { s.dev.stl with pop := List.replicate 56 0 ++ leBytes 8 s.dev.now } ∧ s.dev.keeps d [.regs, .stl]) ∧
  (∀ (s : State) (l : Nat), s.dev.alive = true → s.dev.serving = .all → s.dev.flag F.INTK_CTRL_MANUAL = true →
    s.dev.stl.openLvl = some l → s.does .intkCmdDropRest fun d =>
      d.stl.openLvl = none ∧ d.level l = (splitRequest (s.dev.level l)).2 ∧ (∀ k, k ≠ l → d.level k = s.dev.level k) ∧
      d.fld F.INTK_DROP_CNT_DROPPED =
        min (s.dev.fld F.INTK_DROP_CNT_DROPPED + (splitRequest (s.dev.level l)).1.length) (2 ^ F.INTK_DROP_CNT_DROPPED.width - 1) ∧
      s.dev.keeps d [.regs, .out, .stl, .hif]) ∧
  (∀ (s : State) (r : AllocRead) (l : Nat) (q : QItem) (rest : List QItem), s.dev.alive = true → s.dev.flag F.STL_CTRL_EN = true →
    s.dev.flag F.INTK_CTRL_MANUAL = false → s.dev.pwr.state = .run → s.dev.stl.waiting = none → s.dev.stl.openLvl = none →
    s.dev.headLevel = some l → s.dev.level l = q :: rest → itemMore q.bytes = false →
    (∀ st, check180 (s.dev.setLevel l rest) q [q.bytes] r.handed = some st → s.does (.allocatorRead r) fun d =>
      d.level l = rest ∧ d.stl.stalls = s.dev.stl.stalls ∧ d.fld F.INTK_EVT_REFUSED = 1 ∧ s.dev.keeps d [.regs, .out, .hif, .hlt, .stl]) ∧
    (check180 (s.dev.setLevel l rest) q [q.bytes] r.handed = none → s.dev.stl.stalls = [] →
      (emptyRequest q.bytes = true → s.does (.allocatorRead r) fun d =>
        d.level l = rest ∧ d.stl.stalls = [] ∧ s.dev.keeps d [.regs, .out, .hif, .hlt, .stl]) ∧
      (∀ a b e1 e2, emptyRequest q.bytes = false → itemOp q.bytes = 1 → s.dev.hlt.active = false →
        s.dev.fld F.STL_CTRL_PROMOTE_RSV < 131072 →
        s.dev.poolAlloc (tokLogBytes (field q.bytes 16 4 + field q.bytes 20 4)) 0 = some (a, e1) →
        e1.poolAlloc (s.dev.listBytes (field q.bytes 6 2) (field q.bytes 16 4 + field q.bytes 20 4)) 0 = some (b, e2) →
        s.does (.allocatorRead r) fun d =>
          d.level l = rest ∧ (∀ k, k ≠ 0 → d.stall? k = none) ∧
          (∃ x, d.stall? 0 = some x ∧ x.r.id = 0 ∧ x.r.state = .intake ∧ x.r.home = s.dev.me ∧ x.r.model = field q.bytes 6 2 ∧
            x.r.tenant = bits (field q.bytes 4 2) 11 0 ∧ x.r.cls = bits (field q.bytes 4 2) 14 12 ∧ x.r.tag = field q.bytes 2 2 ∧
            x.r.deadline = field q.bytes 8 8 ∧ x.r.lenPrompt = field q.bytes 16 4 ∧ x.r.seed = field q.bytes 32 8 ∧
            x.r.arrive = field q.bytes 56 8 ∧ x.r.lenCommit = 0 ∧ x.r.tokLog = a ∧ x.r.pageList = b) ∧
          s.dev.keeps d [.regs, .out, .hif, .hlt, .stl])))

/-- A device with room stores a stall's copy and answers OK; one whose shadow table is full answers STL_SHADOW_FULL. A copy whose VERSION
follows the one held is stored, or clears the entry if it says free, and is acknowledged; one that does not follow changes nothing; one
for an entry not held is refused STL_UNKNOWN. At the home, OK sets SHADOW_OK and acknowledges the intake; an acknowledged version is taken
with nothing owed; a refusal STL_SHADOW_FULL leaves the stall unshadowed and raises the event. Messages for a stall not in use are
counted. A sampling record that passes becomes the sampling copy, one that fails retires the stall with SMP_RECORD_BAD. At the end of
intake the tokens lie in the token log, the lengths are set and the stall is in prefill, waiting for a prompt paddock where none serves
its model; a waiting cancel retires it instead. -/
def Obligations.ShadowsAndTheEndOfIntake : Prop :=
  (∀ (s : State) (m : ReplMsg), s.dev.alive = true → s.dev.hif.dmaFail = false →
    (s.dev.stl.shadow.length < 131072 ∨ (Tbl.at? s.dev.stl.shadow (stallKey m.src m.stall)).isSome = true →
      s.does (.shadowEntryCreate m) fun d =>
        (∃ e, Tbl.at? d.stl.shadow (stallKey m.src m.stall) = some e ∧ e.r = StallRec.read m.record ∧ e.samp = m.samp ∧
          e.parks = m.parks) ∧
        (∀ k, k ≠ stallKey m.src m.stall → Tbl.at? d.stl.shadow k = Tbl.at? s.dev.stl.shadow k) ∧
        d.out = s.dev.out ++ [.msg .shadowAnswer m.src [m.stall, C.OK] []] ∧ s.dev.keeps d [.stl, .out]) ∧
    (131072 ≤ s.dev.stl.shadow.length → Tbl.at? s.dev.stl.shadow (stallKey m.src m.stall) = none → s.does (.shadowEntryCreate m) fun d =>
      d.out = s.dev.out ++ [.msg .shadowAnswer m.src [m.stall, C.STL_SHADOW_FULL] []] ∧ s.dev.keeps d [.out])) ∧
  (∀ (s : State) (m : ReplMsg), s.dev.alive = true → s.dev.hif.dmaFail = false →
    (Tbl.at? s.dev.stl.shadow (stallKey m.src m.stall) = none → s.does (.replication m) fun d =>
      d.out = s.dev.out ++ [.msg .replicateRefused m.src [m.stall, C.STL_UNKNOWN] []] ∧ s.dev.keeps d [.out]) ∧
    (∀ e, Tbl.at? s.dev.stl.shadow (stallKey m.src m.stall) = some e →
      1 ≤ (field m.record 104 4 + 2 ^ 32 - e.r.version) % 2 ^ 32 → (field m.record 104 4 + 2 ^ 32 - e.r.version) % 2 ^ 32 < 2 ^ 31 →
      s.does (.replication m) fun d =>
        (if (StallRec.read m.record).state = .free then Tbl.at? d.stl.shadow (stallKey m.src m.stall) = none
         else ∃ x, Tbl.at? d.stl.shadow (stallKey m.src m.stall) = some x ∧ x.r = StallRec.read m.record) ∧
        d.out = s.dev.out ++ [.msg .replicateAck m.src [m.stall, field m.record 104 4] []] ∧ s.dev.keeps d [.stl, .out]) ∧
    (∀ e, Tbl.at? s.dev.stl.shadow (stallKey m.src m.stall) = some e →
      2 ^ 31 ≤ (field m.record 104 4 + 2 ^ 32 - e.r.version) % 2 ^ 32 → s.does (.replication m) fun d => s.dev.keeps d [])) ∧
  (∀ (s : State) (k st v : Nat) (toks : List Nat) (rec : Bytes) (c : Instr), s.dev.alive = true → s.dev.stall? k = none →
    (c = .intakeAcknowledgement k st ∨ c = .replicationAck k v ∨ c = .replicationRefused k st ∨ c = .samplingRecordCheck k rec ∨
      c = .endOfIntake k toks) → s.does c fun d =>
      d.fld F.STL_RETIRE_CNT_STALE = min (s.dev.fld F.STL_RETIRE_CNT_STALE + 1) (2 ^ F.STL_RETIRE_CNT_STALE.width - 1) ∧
      s.dev.keeps d [.regs]) ∧
  (∀ (s : State) (k : Nat) (x : Stall), s.dev.alive = true → s.dev.stall? k = some x → x.acked = false → x.waitMirror = false →
    s.does (.intakeAcknowledgement k C.OK) fun d =>
      (∃ y, d.stall? k = some y ∧ y.acked = true ∧ y.r.shadowOk = true ∧ y.r.state = x.r.state) ∧
      (∀ j, j ≠ k → d.stall? j = s.dev.stall? j) ∧ s.dev.keeps d [.regs, .out, .hif, .hlt, .stl]) ∧
  (∀ (s : State) (k v : Nat) (x : Stall), s.dev.alive = true → s.dev.stall? k = some x → x.owed = [] → x.turnEnd = none → x.side = 0 →
    s.does (.replicationAck k v) fun d => (∀ j, d.stall? j = s.dev.stall? j) ∧ s.dev.keeps d [.stl]) ∧
  (∀ (s : State) (k : Nat) (x : Stall), s.dev.alive = true → s.dev.stall? k = some x → x.r.shadowOk = true → x.owed = [] →
    x.turnEnd = none → x.side = 0 → s.does (.replicationRefused k C.STL_SHADOW_FULL) fun d =>
      d.stall? k = some { x with r := { x.r with shadowOk := false, shadow := s.dev.me } } ∧
      (∀ j, j ≠ k → d.stall? j = s.dev.stall? j) ∧ d.fld E.STL_SHADOW_FULL.bit = 1 ∧
      s.dev.keeps d [.regs, .out, .hif, .hlt, .stl]) ∧
  (∀ (s : State) (k : Nat) (x : Stall) (rec : Bytes), s.dev.alive = true → s.dev.stall? k = some x → x.r.state = .intake →
    x.sampDone = false → x.owed = [] → x.phase = .none → x.prev = none → x.side = 0 →
    (sampOk rec = true → s.does (.samplingRecordCheck k rec) fun d =>
      (∃ y, d.stall? k = some y ∧ y.sampDone = true ∧ y.sampCopy = rec ∧ y.r.state = .intake) ∧
      (∀ j, j ≠ k → d.stall? j = s.dev.stall? j) ∧ s.dev.keeps d [.out, .hif, .stl]) ∧
    (sampOk rec = false → s.does (.samplingRecordCheck k rec) fun d =>
      (∃ y, d.stall? k = some y ∧ y.r.state = .fail ∧ y.r.status = C.SMP_RECORD_BAD) ∧
      (∀ j, j ≠ k → d.stall? j = s.dev.stall? j) ∧ s.dev.keeps d [.regs, .out, .hif, .hlt, .stl])) ∧
  (∀ (s : State) (k : Nat) (x : Stall) (toks : List Nat), s.dev.alive = true → s.dev.stall? k = some x → x.copying = true →
    toks.length = x.given → x.sampDone = true → x.penDone = true → x.retrieve = none → x.side = 0 → x.owed = [] → x.phase = .none →
    x.prev = none → s.dev.flat →
    (∀ m, x.cancel = false → x.r.passed s.dev.now = false → s.dev.model? x.r.model = some m → s.dev.servers 1 x.r.model = [] →
      x.reTo = none → 0 < x.lenMax → x.pages.kvEnd + 1 < x.turnBase + toks.length →
      s.does (.endOfIntake k toks) fun d =>
        (∃ y, d.stall? k = some y ∧ y.r.state = .prefill ∧ y.phase = .waitPrompt ∧ y.r.lenCommit = x.turnBase + toks.length ∧
          y.r.lenPrompt = x.turnBase + toks.length ∧ y.r.lenLimit = x.turnBase + toks.length + x.lenMax ∧ y.copying = false) ∧
        (∀ j, j ≠ k → d.stall? j = s.dev.stall? j) ∧ s.dev.keeps d [.mem, .memt, .out, .hif, .stl]) ∧
    (x.cancel = true → s.does (.endOfIntake k toks) fun d =>
      (∃ y, d.stall? k = some y ∧ y.r.state = .late ∧ y.r.status = C.STL_CANCELLED) ∧
      s.dev.keeps d [.regs, .mem, .memt, .out, .hif, .hlt, .stl]))

/-- A chunk whose pull is complete is dispatched to the paddock's rank 0 with its first position and length, unless the deadline has
passed, which retires the stall late with STL_DEADLINE. Its end moves KV_END to the end of the chunk and the next chunk waits for
dispatch; a poisoned result leaves the chunk to be dispatched again. A step's end writes its token to the token log, moves LEN_COMMIT and
LEN_TENT, and, with no shadow, delivers it. With its final completion written a stall is freed: the stall and its pool ranges are gone. A
resting stall retires with STL_PARK_EXPIRED once its time has passed and stands before. What reaches the home of a unit that is not the
current one changes nothing. -/
def Obligations.UnitsOfWorkMoveTheStall : Prop :=
  (∀ (s : State) (k base period p : Nat) (x : Stall) (m : KvModel), s.dev.alive = true → s.dev.stall? k = some x → x.phase = .pulled p →
    x.copying = false → x.cancel = false →
    (x.r.passed base = false → s.dev.model? x.r.model = some m → s.dev.admits p (base + period) = true → s.dev.hif.dmaFail = false →
      s.does (.chunkDispatch k base period (some [])) fun d =>
        (∃ y, d.stall? k = some y ∧ y.phase = .chunk p x.pages.kvEnd (min m.chunk (x.prefillEnd - x.pages.kvEnd)) (base + period) ∧
          y.r.exec = (s.dev.rank0Of p).getD 0 ∧ y.r.execValid = true ∧ y.r.mapEpoch = s.dev.comp.cur.epoch ∧ y.r.state = x.r.state) ∧
        .msg .invoke (s.dev.resolve ((s.dev.rank0Of p).getD 0)) (s.dev.hdrFor ((s.dev.rank0Of p).getD 0) p ++
          [k, s.dev.me, x.pages.kvEnd, min m.chunk (x.prefillEnd - x.pages.kvEnd), base, 0]) [] ∈ d.out ∧
        (∀ j, j ≠ k → d.stall? j = s.dev.stall? j) ∧ s.dev.keeps d [.out, .stl]) ∧
    (∀ w, x.r.passed base = true → x.owed = [] → x.side = 0 → s.does (.chunkDispatch k base period w) fun d =>
      (∃ y, d.stall? k = some y ∧ y.r.state = .late ∧ y.r.status = C.STL_DEADLINE) ∧
      (∀ j, j ≠ k → d.stall? j = s.dev.stall? j) ∧ s.dev.keeps d [.regs, .out, .hif, .hlt, .stl])) ∧
  (∀ (s : State) (u : UnitEnd) (x y : Stall) (p first count sch : Nat) (m : KvModel), s.dev.alive = true →
    s.dev.stall? u.stall = some x → x.phase = .chunk p first count sch →
    (x.r.current u = false → s.does (.chunkEnd u) fun d => s.dev.keeps d []) ∧
    (x.r.current u = true → u.kind = .ended → u.status = C.FAB_POISON → s.does (.chunkEnd u) fun d =>
      d.stall? u.stall = some { x with phase := .pulled p } ∧ (∀ j, j ≠ u.stall → d.stall? j = s.dev.stall? j) ∧ s.dev.keeps d [.stl]) ∧
    (x.r.current u = true → u.kind = .ended → u.status = C.OK → u.poison = false → x.cancel = false → x.r.passed u.beat = false →
      x.commitTo (first + count) u.works = (y, []) → s.dev.model? x.r.model = some m → y.reTo = none → y.r.lenPrompt < y.r.lenLimit →
      first + count < y.r.lenPrompt - 1 → gateOpen m.np y.r.lenParked (first + count) = true → y.pages.kvEnd = first + count →
      y.r.model = x.r.model → (s.dev.servers 1 x.r.model).head? = some p → s.does (.chunkEnd u) fun d =>
        (∃ z, d.stall? u.stall = some z ∧ z.phase = .pulled p ∧ z.pages.kvEnd = first + count ∧ z.prev = some p) ∧
        (∀ j, j ≠ u.stall → d.stall? j = s.dev.stall? j) ∧ s.dev.keeps d [.out, .stl])) ∧
  (∀ (s : State) (u : UnitEnd) (x y : Stall) (p t : Nat), s.dev.alive = true → s.dev.stall? u.stall = some x → x.phase = .decode p →
    x.r.current u = true → u.kind = .ended → u.status = C.OK → u.poison = false → x.cancel = false → x.r.passed u.beat = false →
    u.tokens = [t] → t < 2 ^ 32 → x.stopTokens.contains t = false → x.r.lenCommit + 1 < x.r.lenLimit →
    (s.dev.servers 2 x.r.model).contains p = true → x.r.shadowOk = false → x.side = 0 → x.owed = [] → x.turnEnd = none →
    x.commitTo x.r.lenCommit u.works = (y, []) → y.r = x.r → y.owed = [] → y.turnEnd = none → y.side = 0 →
    s.dev.flat → s.does (.stepEnd u) fun d =>
      (∃ z, d.stall? u.stall = some z ∧ z.r.lenCommit = x.r.lenCommit + 1 ∧ z.r.lenTent = x.r.lenCommit + 1 ∧
        z.r.lenDeliv = x.r.lenCommit + 1 ∧ z.owed = [] ∧ z.r.state = x.r.state) ∧
      d.tok x.r x.r.lenCommit = t ∧
      (∀ a, a < tokKey x.r x.r.lenCommit ∨ tokKey x.r x.r.lenCommit + 4 ≤ a → d.byte a = s.dev.byte a) ∧
      (∀ j, j ≠ u.stall → d.stall? j = s.dev.stall? j) ∧ s.dev.keeps d [.regs, .mem, .memt, .out, .hif, .hlt, .stl]) ∧
  (∀ (s : State) (k : Nat) (x : Stall), s.dev.alive = true → s.dev.stall? k = some x →
    (x.r.state = .done ∨ x.r.state = .late ∨ x.r.state = .fail) → x.turnEnd = none → x.owed = [] → s.does (.stallRetire k) fun d =>
      d.stall? k = none ∧ (∀ j, j ≠ k → d.stall? j = s.dev.stall? j) ∧ d.stl.pool = s.dev.stl.pool.filter (fun r => r.2.2 != k) ∧
      s.dev.keeps d [.out, .hif, .stl]) ∧
  (∀ (s : State) (k : Nat) (x : Stall), s.dev.alive = true → s.dev.stall? k = some x → (x.r.state = .park ∨ x.r.state = .spill) →
    s.dev.pwr.state = .run →
    (s.dev.now < x.restBeat + (s.dev.reg F.STL_PARK_TTL_TTL.off).toNat → s.does (.parkExpiry k) fun d => s.dev.keeps d []) ∧
    ((s.dev.reg F.STL_PARK_TTL_TTL.off).toNat ≠ 0 → x.restBeat + (s.dev.reg F.STL_PARK_TTL_TTL.off).toNat ≤ s.dev.now →
      s.dev.continueWaits k = false → x.owed = [] → x.side = 0 → s.does (.parkExpiry k) fun d =>
        (∃ y, d.stall? k = some y ∧ y.r.state = .done ∧ y.r.status = C.STL_PARK_EXPIRED) ∧
        (∀ j, j ≠ k → d.stall? j = s.dev.stall? j) ∧ s.dev.keeps d [.regs, .out, .hif, .hlt, .stl]))

/-- A stall command that names no stall of its tenant completes with STL_UNKNOWN and changes no stall. STL_CANCEL marks an active stall
that is not waiting for a placement and completes OK. STL_RELEASE and STL_SPILL of a stall that does not rest complete with STL_STATE;
STL_RELEASE retires a resting stall as done; STL_SPILL of a parked stall with nothing parked in HBM moves it to spill. A mask is kept for
its paddock, as 26 bits. A PARK_RETRY of an entry that is not full changes nothing; of a full entry with no cache paddock it forgets the
refusals and leaves the entry full. When STL_SPILL completes is read by inference (log entry 29). -/
def Obligations.StallCommandsAndMasks : Prop :=
  (∀ (s : State) (c : HostCmd) (i : Instr), (i = .stlCancel c ∨ i = .stlRelease c ∨ i = .stlSpill c) → s.dev.alive = true →
    s.dev.takes stlSpec c → s.dev.namedStall c = none → s.completes i c C.STL_UNKNOWN [] fun e => (s.dev.taken c).keeps e []) ∧
  (∀ (s : State) (c : HostCmd) (x : Stall), s.dev.alive = true → s.dev.takes stlSpec c → s.dev.namedStall c = some x →
    (x.r.state = .intake ∨ x.r.state = .prefill ∨ x.r.state = .ship ∨ x.r.state = .decode) → x.phase ≠ .waitPrompt → x.phase ≠ .waitGen →
    s.completes (.stlCancel c) c C.OK [] fun e =>
      e.stall? (bits c.a0 16 0) = some { x with cancel := true } ∧ (∀ j, j ≠ bits c.a0 16 0 → e.stall? j = s.dev.stall? j) ∧
      (s.dev.taken c).keeps e [.stl]) ∧
  (∀ (s : State) (c : HostCmd) (x : Stall) (i : Instr), (i = .stlRelease c ∨ i = .stlSpill c) → s.dev.alive = true →
    s.dev.takes stlSpec c → s.dev.namedStall c = some x → x.r.resting = false →
    s.completes i c C.STL_STATE [] fun e => (s.dev.taken c).keeps e []) ∧
  (∀ (s : State) (c : HostCmd) (x : Stall), s.dev.alive = true → s.dev.takes stlSpec c → s.dev.namedStall c = some x →
    x.r.resting = true → s.dev.continueWaits (bits c.a0 16 0) = false →
    (x.owed = [] → x.side = 0 → s.completes (.stlRelease c) c C.OK [] fun e =>
      (∃ y, e.stall? (bits c.a0 16 0) = some y ∧ y.r.state = .done ∧ y.r.status = C.OK) ∧
      (∀ j, j ≠ bits c.a0 16 0 → e.stall? j = s.dev.stall? j) ∧ (s.dev.taken c).keeps e [.regs, .out, .hif, .hlt, .stl]) ∧
    (x.r.state = .park → x.pages.ents = [] → s.completes (.stlSpill c) c C.OK [] fun e =>
      (∃ y, e.stall? (bits c.a0 16 0) = some y ∧ y.r.state = .spill ∧ y.pages = x.pages) ∧
      (∀ j, j ≠ bits c.a0 16 0 → e.stall? j = s.dev.stall? j) ∧ (s.dev.taken c).keeps e [.out, .stl])) ∧
  (∀ (s : State) (pad mask : Nat), s.dev.alive = true → s.dev.stl.stalls = [] → s.does (.pelotonMask pad mask) fun d =>
    Tbl.rd (fun _ => 0) d.kv.masks pad = mask % 2 ^ 26 ∧
    (∀ q, q ≠ pad → Tbl.rd (fun _ => 0) d.kv.masks q = Tbl.rd (fun _ => 0) s.dev.kv.masks q) ∧ s.dev.keeps d [.kv]) ∧
  (∀ (s : State) (k page shard : Nat) (x : Stall), s.dev.alive = true → s.dev.stall? k = some x → (x.pages.ent page shard).state ≠ .full →
    s.does (.parkRetry k page shard) fun d => s.dev.keeps d []) ∧
  (∀ (s : State) (k page shard : Nat) (x : Stall), s.dev.alive = true → s.dev.stall? k = some x → (x.pages.ent page shard).state = .full →
    s.dev.cachePaddock x.r.model = none → s.does (.parkRetry k page shard) fun d =>
      (∃ y, d.stall? k = some y ∧ (y.pages.ent page shard).refused = [] ∧ (y.pages.ent page shard).state = .full ∧ y.r = x.r) ∧
      (∀ j, j ≠ k → d.stall? j = s.dev.stall? j) ∧ s.dev.keeps d [.regs, .out, .hif, .hlt, .stl])

/-- A model record is kept when it is well formed and new; a malformed one completes with KV_MODEL_BAD; one that differs from the record
of a model in use completes with KV_MODEL_BUSY. A paddock record for a paddock this device does not belong to completes with
KV_PADDOCK_BAD; the first record of a paddock sets its slots, its heap and its peloton entries. A gate notice sets the parked length of a
decoding stall and may start it. On rank 0 of a generation paddock a step is launched at its beat: the one started stall that waits is
bound, an invocation of the decode slot at that beat is added, and the next step is one period later; before that beat nothing happens.
The drafts of that stall are launched for the draft slot, the draft lead before the step. -/
def Obligations.ModelsPaddocksAndPelotons : Prop :=
  (∀ (s : State) (c : HostCmd), s.dev.alive = true → s.dev.takes (recSpec 64 0 0) c →
    (kvModelOk c.data = false → s.completes (.kvModel c) c C.KV_MODEL_BAD [] fun e => (s.dev.taken c).keeps e []) ∧
    (kvModelOk c.data = true → s.dev.model? (KvModel.read c.data).model = none → s.completes (.kvModel c) c C.OK [] fun e =>
      e.model? (KvModel.read c.data).model = some (KvModel.read c.data) ∧
      (∀ k, k ≠ (KvModel.read c.data).model → e.model? k = s.dev.model? k) ∧ (s.dev.taken c).keeps e [.kv]) ∧
    (∀ old, kvModelOk c.data = true → s.dev.model? (KvModel.read c.data).model = some old → old.raw ≠ c.data →
      s.dev.modelInUse (KvModel.read c.data).model = true →
      s.completes (.kvModel c) c C.KV_MODEL_BUSY [] fun e => (s.dev.taken c).keeps e [])) ∧
  (∀ (s : State) (c : HostCmd), s.dev.alive = true → s.dev.takes (recSpec 512 0 0) c →
    (s.dev.shapeIn s.dev.comp.cur (field c.data 0 2) = none → s.completes (.kvPaddock c) c C.KV_PADDOCK_BAD [] fun e =>
      (s.dev.taken c).keeps e []) ∧
    (∀ p, s.dev.shapeIn s.dev.comp.cur (field c.data 0 2) = some p → kvPaddockFieldsOk c.data = true →
      (KvPaddock.read c.data).heapSize = 0 → Tbl.at? s.dev.kv.paddocks (field c.data 0 2) = none →
      ((p.saveArea :: s.dev.slotRanges (field c.data 0 2) none).any
        (overlaps ((KvPaddock.read c.data).heapBase % 2 ^ 40, 0))) = false → s.completes (.kvPaddock c) c C.OK [] fun e =>
      (∃ r, Tbl.at? e.kv.paddocks (field c.data 0 2) = some r ∧ r.preSlot = field c.data 2 1 % 16 ∧
        r.decSlot = field c.data 3 1 % 16 ∧ r.draftSlot = field c.data 4 1 % 16 ∧ r.draftLead = field c.data 8 4 ∧
        r.heapBase = field c.data 16 8 % 2 ^ 40 ∧ r.heapSize = 0 ∧
        ∀ k, k < 26 → r.pels.getD k {} = (KvPaddock.read c.data).pels.getD k {}) ∧
      (∀ k, k ≠ field c.data 0 2 → Tbl.at? e.kv.paddocks k = Tbl.at? s.dev.kv.paddocks k) ∧
      (s.dev.taken c).keeps e [.out, .kv])) ∧
  (∀ (s : State) (home stall len : Nat) (start : Bool) (x : ExecStall), s.dev.alive = true →
    Tbl.at? s.dev.kv.execs (stallKey home stall) = some x → s.does (.gateNotice home stall len start) fun d =>
      Tbl.at? d.kv.execs (stallKey home stall) = some { x with parkedNote := len, started := x.started || start } ∧
      (∀ k, k ≠ stallKey home stall → Tbl.at? d.kv.execs k = Tbl.at? s.dev.kv.execs k) ∧ s.dev.keeps d [.kv]) ∧
  (∀ (s : State) (pad k key : Nat) (p : KvPaddock) (m : KvModel) (x : ExecStall) (img : SepSlot), s.dev.alive = true →
    s.dev.rankIn pad = some 0 → s.dev.comp.role = 2 → k < 26 → Tbl.at? s.dev.kv.pendingPad pad = none →
    Tbl.at? s.dev.kv.paddocks pad = some p → s.dev.padModel pad = some m → (p.pels.getD k {}).en = true →
    (s.dev.now < (s.dev.peloton pad k).next → s.does (.pelotonStepLaunch pad k) fun d => s.dev.keeps d []) ∧
    ((s.dev.peloton pad k).next ≤ s.dev.now → s.dev.slotImg pad p.decSlot = some img →
      s.dev.admits pad ((s.dev.peloton pad k).next + imgPeriod img.img) = true → 0 < (p.pels.getD k {}).maxSeq →
      s.dev.pelStalls pad k = [(key, x)] → x.record.passed (s.dev.peloton pad k).next = false →
      gateOpen m.np x.parkedNote x.kvEnd = true → s.dev.missingPages pad m key x.kvEnd (draftsOf p x + 1) = [] →
      s.dev.invCheck pad p.decSlot (imgCrc img.img) true = none →
      s.dev.unitCheck pad (((s.dev.comp.cur.paddock pad).head?.map (·.model)).getD 0) = none →
      s.does (.pelotonStepLaunch pad k) fun d =>
        (∃ i, d.inv? s.dev.sep.nextInv = some i ∧ i.paddock = pad ∧ i.slot = p.decSlot ∧ i.base = (s.dev.peloton pad k).next ∧
          i.tag = .step k ∧ i.binds = [stepBind key x (draftsOf p x) k m] ∧ i.refused = none) ∧
        (d.peloton pad k).next = (s.dev.peloton pad k).next + (p.pels.getD k {}).period ∧ (d.peloton pad k).members = 1 ∧
        (∃ y, Tbl.at? d.kv.execs key = some y ∧ y.bound = true ∧ y.member = true ∧ y.record.lenTent = x.record.lenCommit + draftsOf p x) ∧
        s.dev.keeps d [.out, .kv, .sep])) ∧
  (∀ (s : State) (pad k key : Nat) (p : KvPaddock) (m : KvModel) (x : ExecStall) (img : SepSlot), s.dev.alive = true →
    s.dev.rankIn pad = some 0 → s.dev.comp.role = 2 → k < 26 → Tbl.at? s.dev.kv.paddocks pad = some p →
    s.dev.padModel pad = some m → (p.pels.getD k {}).en = true → 0 < (p.pels.getD k {}).maxSeq → p.draftEn = true →
    s.dev.slotImg pad p.draftSlot = some img → s.dev.pelStalls pad k = [(key, x)] → draftsOf p x ≠ 0 →
    (s.dev.peloton pad k).next - p.draftLead ≤ s.dev.now → s.dev.invCheck pad p.draftSlot (imgCrc img.img) true = none →
    s.dev.unitCheck pad (((s.dev.comp.cur.paddock pad).head?.map (·.model)).getD 0) = none → s.does (.draftLaunch pad k) fun d =>
      (∃ i, d.inv? s.dev.sep.nextInv = some i ∧ i.slot = p.draftSlot ∧ i.base = (s.dev.peloton pad k).next - p.draftLead ∧
        i.tag = .draft k ∧ i.binds = [stepBind key x (draftsOf p x) k m]) ∧
      Tbl.at? d.kv.execs key = some { x with draftBuf := some (draftOff 0) } ∧ s.dev.keeps d [.out, .kv, .sep])

/-- An invocation message that R31 processes adds an invocation on this member; one for the next epoch is held. An entry before its launch
beat does not launch; at or after it, with its inputs ready and its cores free, a gang entry starts a job on every core of its range, its
slip is kept, and every other core stands. A core that ends a pool task takes the entry's next waiting task. An entry completes with its
record at RESULT plus 16 bytes per entry: status, flags, slip and end beat, every other byte of memory unchanged. When the prime copies of
a switch have completed, none is left to wait for. A host invocation whose entries have all ended here, on a paddock of one member,
completes its command with the outcome and is gone. That an entry with nothing to do ends with its launch is read by inference (log entry
38). -/
def Obligations.InvocationsAndEntriesRun : Prop :=
  (∀ (s : State) (m : InvMsg), s.dev.alive = true →
    (s.dev.verdict m.h false = .hold → s.does (.invocationMessage m) fun d =>
      d.comp = { s.dev.comp with held := s.dev.comp.held ++ [.invoke m] } ∧ s.dev.keeps d [.comp]) ∧
    (∀ id, s.dev.verdict m.h false = .process → m.kind = .member id [] → bit (field m.record 26 1) 0 = false →
      s.dev.invCheck (field m.record 0 2) (field m.record 2 1 % 16) (field m.record 4 4) (invRecordOk m.record) = none →
      s.does (.invocationMessage m) fun d =>
        (∃ i, d.inv? s.dev.sep.nextInv = some i ∧ i.paddock = field m.record 0 2 ∧ i.slot = field m.record 2 1 % 16 ∧
          i.base = field m.record 8 8 ∧ i.result = field m.record 32 8 ∧ i.tag = .member m.h.src id ∧ i.refused = none ∧ i.ents = []) ∧
        d.sep.nextInv = s.dev.sep.nextInv + 1 ∧ (∀ k, k ≠ s.dev.sep.nextInv → d.inv? k = s.dev.inv? k) ∧ s.dev.keeps d [.sep])) ∧
  (∀ (s : State) (inv k : Nat) (i : Inv) (img e : Bytes), s.dev.alive = true → s.dev.inv? inv = some i → s.dev.invImg i = some img →
    e = imgEntry img k →
    (s.dev.now < launchBeat i e → ∀ w, s.does (.entryLaunch inv k w) fun d => s.dev.keeps d []) ∧
    (k < s.dev.invEntries i → s.dev.canLaunch i k e = true → s.dev.outranked inv i (s.dev.rangeCores i e) = false →
      (s.dev.sepPad i.paddock).last = some i.slot → i.primeLeft = none → i.bound = false → field e 16 4 = 0 → field e 20 1 = 0 →
      field e 8 4 ≠ 0xFFFFFFFF → field e 32 4 ≠ 0 → s.dev.rangeCores i e ≠ [] → s.does (.entryLaunch inv k []) fun d =>
        (∀ c, c ∈ s.dev.rangeCores i e → (d.core c).job = some ⟨inv, k, 0⟩) ∧
        (∀ c, c ∉ s.dev.rangeCores i e → d.core c = s.dev.core c) ∧
        (∃ j, d.inv? inv = some j ∧ (j.ent k).launched = true ∧ (j.ent k).ended = false ∧ (j.ent k).slip = s.dev.now - launchBeat i e ∧
          (j.ent k).running = (s.dev.rangeCores i e).length ∧ ∀ q, q ≠ k → j.ent q = i.ent q) ∧
        d.cad.slipLast = s.dev.now - launchBeat i e ∧ s.dev.keeps d [.regs, .cad, .sep])) ∧
  (∀ (s : State) (core k t : Nat) (j : Job) (i : Inv) (x : EntState) (img : Bytes), s.dev.alive = true →
    (s.dev.core core).state = .active → (s.dev.core core).job = some j → (s.dev.core core).saving = none → (s.dev.core core).yield = none →
    s.dev.sep.invs = [(j.inv, i)] → s.dev.invImg i = some img → j.entry = k → i.ents = [(k, x)] → field (imgEntry img k) 20 1 = 1 →
    s.dev.rangeCores i (imgEntry img k) = [core] → x.launched = true → x.ended = false → i.stopping = false → x.yielded = [] →
    x.waiting = [t] → s.does (.poolTaskPlace core []) fun d =>
      (d.core core).job = some ⟨j.inv, k, t⟩ ∧ (∃ i', d.inv? j.inv = some i' ∧ (i'.ent k).waiting = []) ∧
      (∀ c, c ≠ core → d.core c = s.dev.core c) ∧ s.dev.keeps d [.sep]) ∧
  (∀ (s : State) (inv k : Nat) (i : Inv) (x : EntState) (r : CmdRef), s.dev.alive = true → s.dev.sep.invs = [(inv, i)] →
    i.ents = [(k, x)] → x.launched = true → x.ended = false → x.waiting = [] → x.yielded = [] → x.status = 0 → i.tag = .host r →
    s.dev.mirrored i.paddock = false → s.does (.entryComplete inv k C.OK false [] []) fun d =>
      (∃ j, d.inv? inv = some j ∧ (j.ent k).ended = true ∧ (j.ent k).endBeat = s.dev.now ∧ (j.ent k).running = 0) ∧
      d.load (s.dev.hbmKey i.paddock (i.result % 2 ^ 40 + 16 * k)) 16 = leBytes 2 0 ++ leBytes 2 x.eflags ++
        leBytes 4 (min x.slip 0xFFFFFFFF) ++ leBytes 8 s.dev.now ∧
      (∀ a, a < s.dev.hbmKey i.paddock (i.result % 2 ^ 40 + 16 * k) ∨ s.dev.hbmKey i.paddock (i.result % 2 ^ 40 + 16 * k) + 16 ≤ a →
        d.byte a = s.dev.byte a) ∧
      (∀ c, c ∈ s.dev.entryCores inv k → (d.core c).job = none) ∧ s.dev.keeps d [.mem, .sep]) ∧
  (∀ (s : State) (inv n : Nat) (i : Inv) (img : Bytes), s.dev.alive = true → s.dev.inv? inv = some i → i.primeLeft = some n →
    (s.dev.sep.copies.any fun c => c.inv == inv && c.prime) = false → s.dev.invImg i = some img →
    s.dev.now < launchBeat i (imgEntry img 0) → s.does (.primeCopiesComplete inv) fun d =>
      d.inv? inv = some { i with primeLeft := some 0 } ∧ (∀ k, k ≠ inv → d.inv? k = s.dev.inv? k) ∧ s.dev.keeps d [.sep]) ∧
  (∀ (s : State) (inv : Nat) (i : Inv) (img : Bytes) (r : CmdRef), s.dev.alive = true → s.dev.inv? inv = some i → i.tag = .host r →
    i.bound = false → s.dev.invImg i = some img → s.dev.invEnded i = true → s.dev.hlt.heldInvs = [] →
    (s.dev.paddockDevs i.paddock).length = 1 → s.dev.rankIn i.paddock = some 0 →
    ∃ e : Dev, exec (.invocationComplete inv []) s = .next { s with dev :=
        (e.completeCmd r (invOutcome [s.dev.ownReport i] (imgSchedN img) i.refusedAt).1
          (leBytes 4 (invOutcome [s.dev.ownReport i] (imgSchedN img) i.refusedAt).2.1 ++
            leBytes 4 (invOutcome [s.dev.ownReport i] (imgSchedN img) i.refusedAt).2.2.1 ++
            leBytes 8 (invOutcome [s.dev.ownReport i] (imgSchedN img) i.refusedAt).2.2.2.1 ++
            leBytes 4 (invOutcome [s.dev.ownReport i] (imgSchedN img) i.refusedAt).2.2.2.2)).tidy } ∧
      e.inv? inv = none ∧ (∀ k, k ≠ inv → e.inv? k = s.dev.inv? k) ∧
      (e.sepPad i.paddock).done = min ((s.dev.sepPad i.paddock).done + 1) (2 ^ 32 - 1) ∧ s.dev.keeps e [.sep])

/-- At a cheap point of work that never yields, a core with nothing of its own outstanding begins a save of its context and live ranges
into the slot that is not current. A complete save lies in its slot of the member's save area and is current. A fault fails an active
core: in no paddock the event alone is raised; with a spare in its pair the spare loads in its place and takes its job over. A fault of a
core already failed or spare changes nothing, and neither does the watchdog of a core without work. A loading spare whose restore
completes is active. A spare that fails its self-test is failed and the event is raised; one that passes stands. The layout of a save's
bytes is the model's choice (log entry 40). -/
def Obligations.CoresSaveFailAndAreReplaced : Prop :=
  (∀ (s : State) (core pc k : Nat) (ctx : Bytes) (j : Job) (i : Inv) (img : Bytes), s.dev.alive = true → (s.dev.core core).job = some j →
    (s.dev.core core).saving = none → s.dev.inv? j.inv = some i → i.stopping = false → i.setAside = false → neverYields i.level = true →
    s.dev.invImg i = some img → cheapAt img pc = some k → (s.dev.sep.copies.any fun r => r.inv == j.inv && r.cores == [core]) = false →
    s.dev.fab.ops = [] → s.does (.cheapPoint core pc ctx) fun d =>
      (∃ v, (d.core core).saving = some v ∧ v.yields = false ∧ v.job = j ∧ v.cheap = k ∧ v.body = s.dev.saveBytes core img ctx k ∧
        v.slot = (match (s.dev.core core).current with | some w => 1 - w.slot % 2 | none => 0)) ∧
      (d.core core).job = some j ∧ (∀ c, c ≠ core → d.core c = s.dev.core c) ∧ s.dev.keeps d [.sep]) ∧
  (∀ (s : State) (core a : Nat) (v : Save) (i : Inv), s.dev.alive = true → (s.dev.core core).saving = some v → v.yields = false →
    s.dev.inv? v.job.inv = some i → neverYields i.level = true → s.dev.saveKey core v.slot = some a → s.does (.saveComplete core) fun d =>
      (d.core core).saving = none ∧ (d.core core).current = some v ∧ (d.core core).job = (s.dev.core core).job ∧
      d.load a v.body.length = v.body ∧ (∀ b, b < a ∨ a + v.body.length ≤ b → d.byte b = s.dev.byte b) ∧
      (∀ c, c ≠ core → d.core c = s.dev.core c) ∧ s.dev.keeps d [.mem, .poison, .sep]) ∧
  (∀ (s : State) (core : Nat) (c : Instr), s.dev.alive = true → core < 544 →
    (c = .coreFault core ∨ c = .coreWatchdog core ∧ (s.dev.core core).job.isSome = true) → (s.dev.core core).state = .active →
    s.dev.hlt.spare = .none →
    (s.dev.inAnyPaddock (clusterBit ((s.dev.core core).subst.getD core)) = false → s.does c fun d =>
      (d.core core).state = .failed ∧ (d.core core).job = none ∧ d.fld E.ENG_CORE_FAULT.bit = 1 ∧
      (∀ k, k ≠ core → d.core k = s.dev.core k) ∧ s.dev.keeps d [.regs, .out, .hif, .hlt, .sep]) ∧
    (∀ sp, s.dev.inAnyPaddock (clusterBit ((s.dev.core core).subst.getD core)) = true → s.dev.pairSpare (pairOf core) = some sp →
      sp ≠ core → s.does c fun d =>
        (d.core core).state = .failed ∧ (d.core sp).state = .loading ∧ (d.core sp).subst = some ((s.dev.core core).subst.getD core) ∧
        (d.core sp).job = (s.dev.core core).job ∧ (d.core sp).current = (s.dev.core core).current ∧
        (∀ k, k ≠ core → k ≠ sp → d.core k = s.dev.core k) ∧ s.dev.keeps d [.regs, .out, .hif, .hlt, .fab, .sep])) ∧
  (∀ (s : State) (core : Nat), s.dev.alive = true →
    ((s.dev.core core).state = .failed ∨ (s.dev.core core).state = .spare → s.does (.coreFault core) fun d => s.dev.keeps d []) ∧
    ((s.dev.core core).job = none → s.does (.coreWatchdog core) fun d => s.dev.keeps d [])) ∧
  (∀ (s : State) (core : Nat), s.dev.alive = true → (s.dev.core core).state = .loading →
    ((s.dev.core core).job = none → s.dev.sep.invs = [] → s.does (.spareRestoreComplete core) fun d =>
      d.core core = { s.dev.core core with state := .active } ∧ (∀ k, k ≠ core → d.core k = s.dev.core k) ∧ s.dev.keeps d [.sep]) ∧
    (∀ j i, (s.dev.core core).job = some j → s.dev.inv? j.inv = some i → (s.dev.core core).current = none →
      s.does (.spareRestoreComplete core) fun d =>
        (d.core core).state = .active ∧ (∃ i', d.inv? j.inv = some i' ∧ bit (i'.ent j.entry).eflags 2 = true) ∧
        (∀ k, k ≠ core → d.core k = s.dev.core k) ∧ s.dev.keeps d [.sep])) ∧
  (∀ (s : State) (core : Nat), s.dev.alive = true → core < 544 → (s.dev.core core).state = .spare →
    s.dev.hlt.spare = .none →
    (s.does (.spareSelfTest core true) fun d => s.dev.keeps d []) ∧
    s.does (.spareSelfTest core false) fun d =>
      (d.core core).state = .failed ∧ d.fld E.ENG_SPARE_FAULT.bit = 1 ∧ (∀ k, k ≠ core → d.core k = s.dev.core k) ∧
      s.dev.keeps d [.regs, .out, .hif, .hlt, .sep])

/-- A contiguous copy between addresses of this member moves exactly its bytes, raises the completion counter of the core it was issued
for by one, and is no longer outstanding; every other byte stands. SELECT and MERGE with a descriptor that fails its checks record the
code as the entry's status; with one that passes, the result lies at its address and every other byte stands. A fence with nothing
outstanding is met at once with code 0; with an operation of the core outstanding it waits for it. An await with nothing outstanding
changes nothing. What a fence's code covers is read by inference (log entry 70). -/
def Obligations.CopiesAndSelectionsLand : Prop :=
  (∀ (s : State) (inv desc core a b : Nat) (i : Inv) (img c : Bytes) (r : CopyRun) (rem : Tbl Bytes), s.dev.alive = true →
    (s.dev.sep.copies.find? fun x => x.inv == inv && x.desc == desc) = some r → s.dev.inv? inv = some i → s.dev.invImg i = some img →
    c = imgCopy img desc → r.cores = [core] → r.prime = false → field c 24 1 = 0 → field c 25 1 = 0 → 0 < field c 16 8 →
    s.dev.localKey i (field c 0 8) = some a → s.dev.localKey i (field c 8 8) = some b → a / 2 ^ 64 = 1 → b / 2 ^ 64 = 1 →
    s.does (.copyComplete inv desc rem) fun d =>
      d.load b (field c 16 8) = s.dev.load a (field c 16 8) ∧
      (∀ m, m < b ∨ b + field c 16 8 ≤ m → d.byte m = s.dev.byte m) ∧
      Tbl.rd (fun _ => 0) (d.core core).ctrs (field c 28 1 % 16) =
        (Tbl.rd (fun _ => 0) (s.dev.core core).ctrs (field c 28 1 % 16) + 1) % 2 ^ 32 ∧
      (∀ k, k ≠ core → d.core k = s.dev.core k) ∧ d.sep.copies = s.dev.sep.copies.erase r ∧ s.dev.keeps d [.mem, .poison, .sep]) ∧
  (∀ (s : State) (inv k desc : Nat) (i : Inv) (r : Bytes) (rem : Tbl Bytes), s.dev.alive = true → s.dev.inv? inv = some i →
    r = (s.dev.readAddr i desc 64 rem).1 → (i.ent k).status = 0 →
    (∀ code, selDescCheck false r = some code → s.does (.select inv k desc rem) fun d =>
      (∃ j, d.inv? inv = some j ∧ (j.ent k).status = code ∧ ∀ q, q ≠ k → j.ent q = i.ent q) ∧ s.dev.keeps d [.sep]) ∧
    (∀ code, selDescCheck true r = some code → s.does (.merge inv k desc rem) fun d =>
      (∃ j, d.inv? inv = some j ∧ (j.ent k).status = code ∧ ∀ q, q ≠ k → j.ent q = i.ent q) ∧ s.dev.keeps d [.sep])) ∧
  (∀ (s : State) (inv k desc a : Nat) (i : Inv) (r row : Bytes) (res : SelRes) (rem : Tbl Bytes), s.dev.alive = true →
    s.dev.inv? inv = some i → r = (s.dev.readAddr i desc 64 rem).1 → selDescCheck false r = none → field r 8 8 = 0 →
    s.dev.localKey i (field r 16 8) = some a → a / 2 ^ 64 = 1 →
    row = (s.dev.readAddr i (field r 0 8) ((if field r 37 1 = 2 then 2 else 4) * field r 32 4) rem).1 →
    res = selectPass (selModeOf r) (bits (field r 38 1) 2 1) (field r 40 4) (field r 24 6) (field r 36 1)
      (rowScores (field r 37 1) (field r 32 4) row none) → s.does (.select inv k desc rem) fun d =>
        d.load a (res.bytes (selModeOf r) (field r 36 1)).length = res.bytes (selModeOf r) (field r 36 1) ∧
        (∀ m, m < a ∨ a + (res.bytes (selModeOf r) (field r 36 1)).length ≤ m → d.byte m = s.dev.byte m) ∧
        s.dev.keeps d [.mem, .poison, .sep]) ∧
  (∀ (s : State) (inv k desc a : Nat) (i : Inv) (r addrs : Bytes) (ins : List (Bytes × Bool)) (res : SelRes) (rem : Tbl Bytes),
    s.dev.alive = true → s.dev.inv? inv = some i → r = (s.dev.readAddr i desc 64 rem).1 → selDescCheck true r = none →
    addrs = (s.dev.readAddr i (field r 0 8) (8 * field r 32 4) rem).1 →
    ins = (List.range (field r 32 4)).map (fun j => s.dev.readAddr i (field addrs (8 * j) 8) (32 + 16 * field r 36 1) rem) →
    ins.all (fun x => selInputOk r x.1) = true → s.dev.localKey i (field r 16 8) = some a → a / 2 ^ 64 = 1 →
    res = selMerge (selModeOf r) (bits (field r 38 1) 2 1) (field r 36 1) (ins.map fun x => SelRes.read x.1) →
    s.does (.merge inv k desc rem) fun d =>
      d.load a (res.bytes (selModeOf r) (field r 36 1)).length = res.bytes (selModeOf r) (field r 36 1) ∧
      (∀ m, m < a ∨ a + (res.bytes (selModeOf r) (field r 36 1)).length ≤ m → d.byte m = s.dev.byte m) ∧
      s.dev.keeps d [.mem, .poison, .sep]) ∧
  (∀ (s : State) (core : Nat), s.dev.alive = true → core < 544 → (s.dev.core core).job.isSome = true → s.dev.fab.fences = [] →
    (∀ t, s.dev.fab.ops = [] → s.does (.fence core t) fun d =>
      d.fab.fences = [] ∧ Tbl.rd (fun _ => 0) d.fab.fenceCode core = 0 ∧ s.dev.keeps d [.fab]) ∧
    (∀ o : OutOp, s.dev.fab.ops = [o] → o.ref.core = core → o.acked = false → s.does (.fence core none) fun d =>
      d.fab = { s.dev.fab with fences := [{ core := core, ops := [o.ref.id], code := 0 }] } ∧ s.dev.keeps d [.fab])) ∧
  (∀ (s : State) (core ctr : Nat), s.dev.alive = true → s.dev.fab.ops = [] → s.does (.coreRemoteIssue core (.await ctr)) fun d =>
    s.dev.keeps d [])

/-- A directory entry replaces the entry of its shard, or removes it where its owner is 0xFFFF. A query whose descriptor fails its checks
completes with that code; one for a single known shard is sent to its owner and stays under way. The first answer of a shard is kept while
others are missing. After half the timeout a query without an answer goes to the shard's ALT, once; before that nothing is sent. At the
timeout the result record is written and the command completes with the status of the merge. The tokens of the passages read are spliced
into the waiting intake. A mutation command with no records completes at once; a well-formed record goes to its shard's owner; the last
answer of a command is written at its place and completes it with the count. Where a query's vector is read and how a code travels is read
by inference (log entry 53). -/
def Obligations.QueriesAndMutationsAtTheirIssuer : Prop :=
  (∀ (s : State) (c : HostCmd) (b : Bytes), s.dev.alive = true →
    s.dev.takes { rsvOk := argMask true 0 0 0 0, lenOk := fun c => c.hlen % 8 == 0 && decide (c.hlen ≤ 8 * 16384) } c →
    chunks 8 16384 c.data = [b] → field b 1 1 = 0 → s.dev.srch.dir.length < 16384 → s.completes (.srchDir c) c C.OK [] fun e =>
      e.shardOwner (field b 0 1) (field b 2 2) = (if field b 4 2 = 0xFFFF then none else some (field b 4 2, field b 6 2)) ∧
      (∀ k, k ≠ shardKey (field b 0 1) (field b 2 2) → Tbl.at? e.srch.dir k = Tbl.at? s.dev.srch.dir k) ∧
      (s.dev.taken c).keeps e [.srch]) ∧
  (∀ (s : State) (c : HostCmd), s.dev.alive = true →
    s.dev.takes { shared := true, rsvOk := argMask true 0 (2 ^ 64 - 1) 0 0, lenOk := fun c => c.hlen == 64 } c →
    (∀ st, queryCheck c.data = some st → s.completes (.srchQuery c) c st (slice c.data 56 8) fun e =>
      Tbl.at? e.srch.queries s.dev.srch.nextId = none ∧ (s.dev.taken c).keeps e [.regs, .out, .hif, .srch]) ∧
    (∀ sh o alt, queryCheck c.data = none → s.dev.flag F.SRCH_CTRL_EN = true → s.dev.hif.dmaFail = false → field c.data 2 2 = 1 →
      field c.data 1 1 ≠ 0 → s.dev.mapped (field c.data 48 8) 2 = true → field c.data 40 8 = 0 →
      s.dev.mapped (field c.data 32 8) (field c.data 12 2 * (if field c.data 14 1 = 0 then 4 else 2)) = true →
      field (s.dev.load (memKey 4 (field c.data 48 8)) 2) 0 2 = sh → s.dev.shardOwner (field c.data 0 1) sh = some (o, alt) →
      s.dev.isLost o = false → s.does (.srchQuery c) fun d =>
        (∃ q, Tbl.at? d.srch.queries s.dev.srch.nextId = some q ∧ q.subs = [{ shard := sh, asked := o }] ∧ q.desc = c.data ∧
          q.src = .host (cmdRef c) c.a1 ∧ q.issued = s.dev.now ∧
          .msg .shardQuery (s.dev.resolve o) (s.dev.hdrFor o 0 ++ [s.dev.srch.nextId, field c.data 0 1, sh, q.tenant, q.qbeat,
            q.issued + q.timeout]) (q.desc ++ q.vec.flatMap (leBytes 4) ++ q.code) ∈ d.out) ∧
        d.srch.nextId = s.dev.srch.nextId + 1 ∧ s.dev.keeps d [.regs, .out, .hif, .srch])) ∧
  (∀ (s : State) (qid sh : Nat) (a : ShardAns) (q : Query) (x y : SubQuery), s.dev.alive = true →
    Tbl.at? s.dev.srch.queries qid = some q → q.subs = [x, y] → x.shard = sh → y.shard ≠ sh → x.ans = none → y.ans = none →
    a.status ≠ C.SRCH_BUSY → s.does (.shardAnswer qid sh a) fun d =>
      Tbl.at? d.srch.queries qid = some { q with subs := [{ x with ans := some a }, y] } ∧ s.dev.keeps d [.srch]) ∧
  (∀ (s : State) (qid : Nat) (q : Query), s.dev.alive = true → Tbl.at? s.dev.srch.queries qid = some q →
    (s.dev.now < q.issued + q.timeout / 2 → s.does (.altResend qid) fun d => s.dev.keeps d []) ∧
    (∀ x o alt, q.issued + q.timeout / 2 ≤ s.dev.now → q.subs = [x] → x.ans = none → x.alt = false →
      s.dev.shardOwner (field q.desc 0 1) x.shard = some (o, alt) → alt ≠ 0xFFFF → s.dev.hif.dmaFail = false →
      s.does (.altResend qid) fun d =>
        Tbl.at? d.srch.queries qid = some { q with subs := [{ x with alt := true, asked := alt }] } ∧
        (∃ m, d.out = s.dev.out ++ [.msg .shardQuery (s.dev.resolve alt) (s.dev.hdrFor alt 0 ++ m)
          (q.desc ++ q.vec.flatMap (leBytes 4) ++ q.code)]) ∧ s.dev.keeps d [.out, .srch])) ∧
  (∀ (s : State) (qid addr : Nat) (q : Query) (r : CmdRef), s.dev.alive = true → Tbl.at? s.dev.srch.queries qid = some q →
    (s.dev.now < q.issued + q.timeout → s.does (.queryTimeout qid) fun d => s.dev.keeps d []) ∧
    (q.issued + q.timeout ≤ s.dev.now → q.src = .host r addr → s.dev.hif.dmaFail = false →
      ∃ e : Dev, exec (.queryTimeout qid) s = .next { s with dev := (e.completeCmd r (queryResult q).1 (slice q.desc 56 8)).tidy } ∧
        Tbl.at? e.srch.queries qid = none ∧
        e.out = s.dev.out ++ [.hostWrite addr (resultRecord q (queryResult q).1 (queryResult q).2)] ∧
        e.fld F.SRCH_Q_CNT_DONE = min (s.dev.fld F.SRCH_Q_CNT_DONE + 1) (2 ^ F.SRCH_Q_CNT_DONE.width - 1) ∧
        s.dev.keeps e [.regs, .out, .srch])) ∧
  (∀ (s : State) (k : Nat) (reads : List PassageRead) (x : Stall) (b : Bytes), s.dev.alive = true → s.dev.stall? k = some x →
    x.retrieve = some b → x.r.state = .intake → x.spliced = false → x.query = none → x.found ≠ [] → reads.map (·.global) = x.found →
    s.dev.flag F.HLT_TANDEM_EN = false → s.does (.passageRead k reads) fun d =>
      d.stall? k = some { x with passages := spliceTokens (field b 8 4) (field b 12 4) 0 reads, spliced := true } ∧
      (∀ j, j ≠ k → d.stall? j = s.dev.stall? j) ∧ s.dev.keeps d [.stl]) ∧
  (∀ (s : State) (c : HostCmd), s.dev.alive = true →
    s.dev.takes { shared := true, rsvOk := argMask true 0 (2 ^ 64 - 1) 0 0
                  lenOk := fun c => c.hlen % 48 == 0 && decide (c.hlen ≤ 48 * 4096) } c →
    (chunks 48 4096 c.data = [] → s.completes (.srchMutate c) c C.OK (leBytes 4 0) fun e => (s.dev.taken c).keeps e []) ∧
    (∀ b o alt, chunks 48 4096 c.data = [b] → s.dev.flag F.SRCH_CTRL_EN = true → mutOk b = true → s.dev.hif.dmaFail = false →
      s.dev.shardOwner (field b 1 1) (field b 2 2) = some (o, alt) → s.dev.isLost o = false → s.does (.srchMutate c) fun d =>
        Tbl.at? d.srch.muts s.dev.srch.nextId = some { cmd := cmdRef c, addr := c.a1, count := 1, missing := [0] } ∧
        .msg .mutation (s.dev.resolve o) (s.dev.hdrFor o 0 ++ [s.dev.srch.nextId, 0]) b ∈ d.out ∧
        s.dev.keeps d [.regs, .out, .hif, .srch])) ∧
  (∀ (s : State) (cmd pos : Nat) (body : Bytes) (m : MutCmd), s.dev.alive = true → Tbl.at? s.dev.srch.muts cmd = some m →
    m.missing = [pos] → s.dev.hif.dmaFail = false →
    ∃ e : Dev, exec (.mutationAnswer (.answer cmd pos body)) s =
        .next { s with dev := (e.completeCmd m.cmd C.OK (leBytes 4 m.count)).tidy } ∧
      Tbl.at? e.srch.muts cmd = none ∧ e.out = s.dev.out ++ [.hostWrite (m.addr + 32 * pos) body] ∧ s.dev.keeps e [.out, .srch])

/-- SRCH_ATTACH with search disabled completes with SRCH_NO_SHARD, off the cache role with SRCH_ROLE; a good fresh header attaches a shard
with no entry points. SRCH_DETACH of a shard not attached completes with SRCH_NO_SHARD; of an idle one it removes the shard and completes.
A query the owner may serve waits for a walk; the one that has waited is admitted to a free context; its walk's answer goes to the device
that asked. A query whose time has passed is dropped without an answer. A record for a device with search disabled is answered
SRCH_NO_SHARD; a delete of a free slot SRCH_NOT_FOUND; an insert whose walk ends is counted and no longer in a context. The groom sweeps
one row of a shard when it is asked for one, and none when it is disabled. That filling and linking follow each other in one step is read
by inference (log entry 54). -/
def Obligations.ShardsWalksAndMutationsAtTheOwner : Prop :=
  (∀ (s : State) (c : HostCmd), s.dev.alive = true → s.dev.takes (recSpec 128 0 0) c →
    (s.dev.flag F.SRCH_CTRL_EN = false → s.completes (.srchAttach c) c C.SRCH_NO_SHARD [] fun e => (s.dev.taken c).keeps e []) ∧
    (s.dev.flag F.SRCH_CTRL_EN = true → s.dev.comp.role ≠ 3 → s.completes (.srchAttach c) c C.SRCH_ROLE [] fun e =>
      (s.dev.taken c).keeps e []) ∧
    (s.dev.flag F.SRCH_CTRL_EN = true → s.dev.comp.role = 3 → shardHdrOk c.data = true → shProduct c.data = false →
      bit (field c.data 5 1) 1 = true → ((shardRanges c.data).dropLast.all fun r => s.dev.pinnedHbm r.1 r.2) = true →
      rangesApart (shardRanges c.data) = true → s.dev.shard? (field c.data 4 1) (field c.data 6 2) = none →
      s.dev.srch.shards.length < 64 → s.completes (.srchAttach c) c C.OK [] fun e =>
        e.shard? (field c.data 4 1) (field c.data 6 2) = some { hdr := c.data, entries := [] } ∧
        (∀ k, k ≠ shardKey (field c.data 4 1) (field c.data 6 2) → Tbl.at? e.srch.shards k = Tbl.at? s.dev.srch.shards k) ∧
        (s.dev.taken c).keeps e [.mem, .poison, .srch])) ∧
  (∀ (s : State) (c : HostCmd), s.dev.alive = true → s.dev.takes (argSpec 0xFFFFFF 0 0) c →
    (s.dev.shard? (bits c.a0 7 0) (bits c.a0 23 8) = none → s.completes (.srchDetach c) c C.SRCH_NO_SHARD [] fun e =>
      (s.dev.taken c).keeps e []) ∧
    (∀ x, s.dev.srch.shards = [(shardKey (bits c.a0 7 0) (bits c.a0 23 8), x)] → x.detaching = none →
      s.dev.shardBusy (shardKey (bits c.a0 7 0) (bits c.a0 23 8)) = false → s.completes (.srchDetach c) c C.OK [] fun e =>
        e.srch.shards = [] ∧ (s.dev.taken c).keeps e [.srch])) ∧
  (∀ (s : State) (q : ShardQuery), s.dev.alive = true → s.dev.verdict q.h false = .process →
    (s.dev.flag F.SRCH_CTRL_EN = false → s.dev.hif.dmaFail = false → s.does (.shardQuery q) fun d =>
      d.out = s.dev.out ++ [.msg .shardAnswer q.h.src [q.qid, q.shard, C.SRCH_NO_SHARD, 0, 0, 0] []] ∧ s.dev.keeps d [.out]) ∧
    (s.dev.shardCheck q = none → s.does (.shardQuery q) fun d =>
      d.srch = { s.dev.srch with nextId := s.dev.srch.nextId + 1, waiting := s.dev.srch.waiting ++ [(s.dev.srch.nextId, .query q)] } ∧
      s.dev.keeps d [.srch])) ∧
  (∀ (s : State) (k : Nat) (w : WalkWork), s.dev.alive = true → s.dev.srch.waiting = [(k, w)] → s.dev.srch.contexts.length < 16384 →
    s.dev.poolUsed + s.dev.walkUnits w ≤ 2 ^ 18 → s.does .walkAdmit fun d =>
      d.srch.waiting = [] ∧ Tbl.at? d.srch.contexts k = some w ∧ s.dev.keeps d [.srch]) ∧
  (∀ (s : State) (k : Nat) (q : ShardQuery) (x : ShardRec) (a : ShardAns), s.dev.alive = true →
    Tbl.at? s.dev.srch.contexts k = some (.query q) → (∀ y ∈ s.dev.srch.shards, y.2.detaching = none) → s.dev.hif.dmaFail = false →
    s.dev.shard? q.index q.shard = some x →
    ({ s.dev with srch := { s.dev.srch with contexts := Tbl.del s.dev.srch.contexts k } } : Dev).shardAnswer x q = (a, 0) →
    s.does (.walkEnd k) fun d =>
      Tbl.at? d.srch.contexts k = none ∧
      d.out = s.dev.out ++ [.msg .shardAnswer q.h.src ([q.qid, q.shard, a.status, a.tieOut, a.scored, a.expanded] ++
        a.entries.flatMap fun e => [e.1, e.2]) []] ∧ s.dev.keeps d [.out, .srch]) ∧
  (∀ (s : State) (k : Nat) (q : ShardQuery), s.dev.alive = true → Tbl.at? s.dev.srch.contexts k = some (.query q) →
    (s.dev.now ≤ q.expires → s.does (.ownerContextExpiry k) fun d => s.dev.keeps d []) ∧
    (q.expires < s.dev.now → (∀ y ∈ s.dev.srch.shards, y.2.detaching = none) → s.does (.ownerContextExpiry k) fun d =>
      Tbl.at? d.srch.contexts k = none ∧ d.out = s.dev.out ∧ s.dev.keeps d [.srch])) ∧
  (∀ (s : State) (m : MutMsg), s.dev.alive = true → s.dev.verdict m.h false = .process → s.dev.hif.dmaFail = false →
    (s.dev.flag F.SRCH_CTRL_EN = false → s.does (.mutationRecord m) fun d =>
      d.out = s.dev.out ++ [.msg .mutationAnswer m.issuer [m.cmd, m.pos] (mutBytes (field m.record 40 8) 0 0 C.SRCH_NO_SHARD)] ∧
      s.dev.keeps d [.out]) ∧
    (∀ x, s.dev.flag F.SRCH_CTRL_EN = true → s.dev.shard? (field m.record 1 1) (field m.record 2 2) = some x → x.detaching = none →
      mutOk m.record = true → m.forwarded = false → x.applied = [] → field m.record 0 1 = 2 →
      s.dev.slotState x.hdr (field m.record 4 4) = 0 → s.does (.mutationRecord m) fun d =>
        d.out = s.dev.out ++ [.msg .mutationAnswer m.issuer [m.cmd, m.pos] (mutBytes (field m.record 40 8)
          (globalId (field m.record 2 2) (field m.record 4 4)) 0 C.SRCH_NOT_FOUND)] ∧ s.dev.keeps d [.out, .srch])) ∧
  (∀ (s : State) (k index shard i : Nat) (m : MutMsg) (x : ShardRec), s.dev.alive = true → s.dev.flat →
    Tbl.at? s.dev.srch.contexts k = some (.insert index shard i m) → s.dev.shard? index shard = some x → x.delWait = [] →
    (∀ y ∈ s.dev.srch.shards, y.2.detaching = none) → s.does (.insertWalkEnd k) fun d =>
      Tbl.at? d.srch.contexts k = none ∧
      d.fld F.SRCH_M_CNT_INSERTS = min (s.dev.fld F.SRCH_M_CNT_INSERTS + 1) (2 ^ F.SRCH_M_CNT_INSERTS.width - 1) ∧
      s.dev.keeps d [.regs, .mem, .poison, .memt, .out, .hif, .hlt, .srch]) ∧
  (∀ s : State, s.dev.alive = true →
    (s.dev.flag F.SRCH_CTRL_GROOM_EN = false → s.does .groomSweepRows fun d => s.dev.keeps d []) ∧
    (∀ index shard x, s.dev.flag F.SRCH_CTRL_GROOM_EN = true → s.dev.fld F.SRCH_GROOM_ROWS = 1 → s.dev.flat → shard < 2 ^ 16 →
      s.dev.srch.shards = [(shardKey index shard, x)] → x.row + 1 < shCap x.hdr → s.does .groomSweepRows fun d =>
        (∃ y, d.shard? index shard = some y ∧ y.row = x.row + 1 ∧ y.epoch = x.epoch ∧ y.hdr = x.hdr) ∧
        s.dev.keeps d [.regs, .mem, .poison, .memt, .srch]))

/-- A bad MEM_REGION definition completes with MEM_REGION_BAD, one that meets another region with MEM_REGION_BUSY, one whose location
table finds no frames with MEM_REGION_FULL; a good one of an unbacked tiered region completes, the region is listed and its range reads as
zeros, and every other byte reads as before. A removal of an undefined ID completes with MEM_REGION_BAD; of a region at rest it completes
and the region is gone. MEM_FLUSH of no bytes, or of a mapped range with nothing dirty, completes at once; of a range that is not mapped
with MEM_UNMAPPED; with dirty units in the range it stays outstanding, waiting for exactly those. A bad prefetch table completes with
MEM_PF_BAD; a good one into a free slot is held. The code where frames run out, and what a table takes of them, are the model's choice
(log entry 31). -/
def Obligations.RegionsAreDefinedFlushedAndRemoved : Prop :=
  (∀ (s : State) (c : HostCmd), s.dev.alive = true → s.dev.takes (recSpec 64 0 0) c → bit (field c.data 3 1) 2 = false →
    (regionBad308 c.data (s.dev.fld F.HAY_CAP_UNITS) = true → s.completes (.memRegion c) c C.MEM_REGION_BAD [] fun e =>
      (s.dev.taken c).keeps e []) ∧
    (regionBad308 c.data (s.dev.fld F.HAY_CAP_UNITS) = false → bit (field c.data 3 1) 0 = false →
      (s.dev.regionBusy (field c.data 0 2) (field c.data 8 8) (field c.data 16 8) none = true →
        s.completes (.memRegion c) c C.MEM_REGION_BUSY [] fun e => (s.dev.taken c).keeps e []) ∧
      (s.dev.regionBusy (field c.data 0 2) (field c.data 8 8) (field c.data 16 8) none = false → field c.data 2 1 = 3 →
        bit (field c.data 3 1) 1 = false →
        ((s.dev.taken c).takeFrames (ceilDiv (8 * (field c.data 16 8 / memUnit)) memUnit) 1 = none →
          s.completes (.memRegion c) c C.MEM_REGION_FULL [] fun e => (s.dev.taken c).keeps e []) ∧
        (∀ t d1, (s.dev.taken c).takeFrames (ceilDiv (8 * (field c.data 16 8 / memUnit)) memUnit) 1 = some (t, d1) →
          s.completes (.memRegion c) c C.OK [] fun e =>
            Tbl.at? e.memt.regions (field c.data 0 2) =
              some { base := field c.data 8 8, size := field c.data 16 8, tiers := 3, table := t } ∧
            (∀ k, k < field c.data 16 8 → e.byte (memKey 4 (field c.data 8 8) + k) = 0) ∧
            (∀ a, (a < memKey 4 (field c.data 8 8) ∨ memKey 4 (field c.data 8 8) + field c.data 16 8 ≤ a) → e.byte a = s.dev.byte a) ∧
            (s.dev.taken c).keeps e [.mem, .poison, .memt])))) ∧
  (∀ (s : State) (c : HostCmd), s.dev.alive = true → s.dev.takes (recSpec 64 0 0) c → bit (field c.data 3 1) 2 = true →
    (Tbl.at? s.dev.memt.regions (field c.data 0 2) = none → s.completes (.memRegionRemove c) c C.MEM_REGION_BAD [] fun e =>
      (s.dev.taken c).keeps e []) ∧
    (∀ r, s.dev.memt.regions = [(field c.data 0 2, r)] → removalBad c.data = false → r.removing = none → r.tiers = 3 →
      s.dev.memt.units = [] → s.dev.memt.wbs = [] → s.dev.memt.waits = [] → r.lba = none →
      s.completes (.memRegionRemove c) c C.OK [] fun e =>
        e.memt.regions = [] ∧ (∀ k ∈ r.table, Tbl.at? e.memt.frames k = none) ∧
        (∀ a, (a < memKey 4 r.base ∨ memKey 4 r.base + r.size ≤ a) → e.byte a = s.dev.byte a) ∧
        (s.dev.taken c).keeps e [.mem, .poison, .memt])) ∧
  (∀ (s : State) (c : HostCmd) (us : List Nat), s.dev.alive = true →
    s.dev.takes { shared := true, rsvOk := argMask false 0 (2 ^ 48 - 1) (2 ^ 64 - 1) 0 } c →
    us = (s.dev.memt.units.filter fun x => x.2.dirty && decide (c.a1 < (x.1 + 1) * memUnit) && decide (x.1 * memUnit < c.a1 + c.a2)).map (·.1) →
    s.dev.memt.wbs = [] →
    (c.a2 = 0 → s.completes (.memFlush c) c C.OK [] fun e => (s.dev.taken c).keeps e []) ∧
    (c.a2 ≠ 0 → (2 ^ 48 < c.a1 + c.a2 ∨ s.dev.mapped c.a1 c.a2 = false) → s.completes (.memFlush c) c C.MEM_UNMAPPED [] fun e =>
      (s.dev.taken c).keeps e []) ∧
    (c.a2 ≠ 0 → c.a1 + c.a2 ≤ 2 ^ 48 → s.dev.mapped c.a1 c.a2 = true →
      (us = [] → s.completes (.memFlush c) c C.OK [] fun e => (s.dev.taken c).keeps e []) ∧
      (us ≠ [] → s.does (.memFlush c) fun d =>
        d.memt.flushes = s.dev.memt.flushes ++ [(cmdRef c, us)] ∧ (s.dev.taken c).keeps d [.memt, .hay]))) ∧
  (∀ (s : State) (c : HostCmd) (es : List Bytes), s.dev.alive = true →
    s.dev.takes { rsvOk := argMask true 0xFFFFF 0 0 0, lenOk := fun c => c.hlen % 32 == 0 && decide (c.hlen ≤ 32 * 4096) } c →
    es = chunks 32 4096 c.data →
    (es.all (pfEntryOk s.dev) = false ∨ needRises (es.map fun e => field e 0 4) = false → s.completes (.memPfLoad c) c C.MEM_PF_BAD [] fun e =>
      (s.dev.taken c).keeps e []) ∧
    (∀ fr d2, es.all (pfEntryOk s.dev) = true → needRises (es.map fun e => field e 0 4) = true → es ≠ [] →
      Tbl.at? (s.dev.sepPad (bits c.a0 15 0)).pfFrames (bits c.a0 19 16) = none →
      (s.dev.taken c).takeFrames (ceilDiv (32 * es.length) memUnit) 1 = some (fr, d2) → s.completes (.memPfLoad c) c C.OK [] fun e =>
        Tbl.at? (e.sepPad (bits c.a0 15 0)).pf (bits c.a0 19 16) = some es ∧
        (∀ p, p ≠ bits c.a0 15 0 → e.sepPad p = s.dev.sepPad p) ∧ (s.dev.taken c).keeps e [.memt, .sep]))

/-- A SPACE4_READ or SPACE4_WRITE of an address in no open region, or with MEM_CTRL.EN clear, is answered MEM_UNMAPPED and moves nothing.
In a unit that lies in HBM a read is answered its bytes; a write stores exactly its bytes, marks the unit of a backed region dirty and is
answered. Each warms a unit of a tiered region by one. A read of a unit in the hayloft begins a move to a frame and waits. An access that
has waited for 2^20 beats is answered MEM_NO_FRAME, a read with poisoned data, and the event is raised unless it was in the last 2^20
beats. That an access lies in one unit is read by inference (log entry 45). -/
def Obligations.AccessesOfTheUnifiedRange : Prop :=
  (∀ (s : State) (who addr len : Nat) (data : Bytes) (sharp poison : Bool), s.dev.alive = true →
    (s.dev.flag F.MEM_CTRL_EN = false ∨ s.dev.openRegion (addr % 2 ^ 48 / memUnit) = none →
      (s.does (.space4Read who addr len) fun d => d.out = s.dev.out ++ [.mem who C.MEM_UNMAPPED [] false] ∧ s.dev.keeps d [.out]) ∧
      (s.does (.space4Write who addr data sharp poison) fun d =>
        d.out = s.dev.out ++ [.mem who C.MEM_UNMAPPED [] false] ∧ s.dev.keeps d [.out])) ∧
    (∀ r, s.dev.flag F.MEM_CTRL_EN = true → s.dev.openRegion (addr % 2 ^ 48 / memUnit) = some r →
      (s.dev.unit (addr % 2 ^ 48 / memUnit)).state = .hbm →
      (s.does (.space4Read who addr len) fun d =>
        d.out = s.dev.out ++ [.mem who C.OK (s.dev.load (memKey 4 (addr % 2 ^ 48)) (min len (unitRoom (addr % 2 ^ 48))))
          (s.dev.poisoned (memKey 4 (addr % 2 ^ 48)) (min len (unitRoom (addr % 2 ^ 48))))] ∧
        (d.unit (addr % 2 ^ 48 / memUnit)).heat = (if r.pinned then (s.dev.unit (addr % 2 ^ 48 / memUnit)).heat
          else min 255 ((s.dev.unit (addr % 2 ^ 48 / memUnit)).heat + 1)) ∧
        (∀ v, v ≠ addr % 2 ^ 48 / memUnit → d.unit v = s.dev.unit v) ∧ s.dev.keeps d [.out, .memt]) ∧
      (data.length ≤ unitRoom (addr % 2 ^ 48) → s.does (.space4Write who addr data sharp poison) fun d =>
        d.out = s.dev.out ++ [.mem who C.OK [] false] ∧
        (∀ i (h : i < data.length), d.byte (memKey 4 (addr % 2 ^ 48) + i) = data[i]) ∧
        (∀ a, (a < memKey 4 (addr % 2 ^ 48) ∨ memKey 4 (addr % 2 ^ 48) + data.length ≤ a) → d.byte a = s.dev.byte a) ∧
        (r.lba.isSome = true → (d.unit (addr % 2 ^ 48 / memUnit)).dirty = true) ∧
        (∀ v, v ≠ addr % 2 ^ 48 / memUnit → d.unit v = s.dev.unit v) ∧ s.dev.keeps d [.mem, .poison, .out, .memt])) ∧
    (∀ r st k d1, s.dev.flag F.MEM_CTRL_EN = true → s.dev.openRegion (addr % 2 ^ 48 / memUnit) = some r →
      (s.dev.unit (addr % 2 ^ 48 / memUnit)).state = .hay → (s.dev.warmed (addr % 2 ^ 48 / memUnit) r).moves < 1024 →
      (s.dev.warmed (addr % 2 ^ 48 / memUnit) r).takeFrame r = some (st, k, d1) → s.does (.space4Read who addr len) fun d =>
        (d.unit (addr % 2 ^ 48 / memUnit)).state = .moving ∧ (d.unit (addr % 2 ^ 48 / memUnit)).src = .hay ∧
        (d.unit (addr % 2 ^ 48 / memUnit)).dst = st ∧ (d.unit (addr % 2 ^ 48 / memUnit)).dstFrame = k ∧
        d.memt.waits = s.dev.memt.waits ++ [{ who := who, addr := addr % 2 ^ 48, len := min len (unitRoom (addr % 2 ^ 48)), write := none
                                              sharp := false, poison := false, since := s.dev.now }] ∧
        s.dev.keeps d [.memt])) ∧
  (∀ (s : State) (who : Nat), s.dev.alive = true →
    ((∀ w ∈ s.dev.memt.waits, w.who = who → s.dev.now < w.since + 2 ^ 20) → s.does (.frameWaitTimeout who) fun d => s.dev.keeps d []) ∧
    (∀ w, s.dev.memt.waits = [w] → w.who = who → w.since + 2 ^ 20 ≤ s.dev.now → s.does (.frameWaitTimeout who) fun d =>
      .mem who C.MEM_NO_FRAME (if w.write.isNone then List.replicate w.len 0 else []) w.write.isNone ∈ d.out ∧
      d.memt.waits = [] ∧ s.dev.keeps d [.regs, .out, .hif, .hlt, .memt] ∧
      (rateOk s.dev.memt.noFrameEvt s.dev.now = true → d.fld E.MEM_NO_FRAME.bit = 1 ∧ d.memt.noFrameEvt = some s.dev.now) ∧
      (rateOk s.dev.memt.noFrameEvt s.dev.now = false → s.dev.keeps d [.out, .memt])))

/-- After a SPACE4_WRITE to a unit that lies in HBM, a SPACE4_READ of the same range is answered exactly the bytes written, and completes.
That an access lies in one unit is read by inference (log entry 45). -/
def Obligations.AStoreIsReadBack : Prop :=
  ∀ (s : State) (who addr : Nat) (data : Bytes) (sharp poison : Bool) (r : MemRegion), s.dev.alive = true →
    s.dev.flag F.MEM_CTRL_EN = true → s.dev.openRegion (addr % 2 ^ 48 / memUnit) = some r →
    (s.dev.unit (addr % 2 ^ 48 / memUnit)).state = .hbm → data.length ≤ unitRoom (addr % 2 ^ 48) →
    ∃ t, exec (.space4Write who addr data sharp poison) s = .next t ∧
      t.does (.space4Read who addr data.length) fun d =>
        (∃ p, d.out = t.dev.out ++ [.mem who C.OK data p]) ∧ t.dev.keeps d [.out, .memt]

/-- MOVE_COMPLETE ends a move from host to HBM whose copy saw no store: the unit's location switches and the promotion is counted; any
other copy, and a spill of a region not held, moves nothing. HEAT_DECAY halves every heat. A watermark demotion with too few free frames
sends the coldest clean unit with a valid hayloft copy back to the hayloft. A write-back becomes durable once: the copy is valid and the
flush that waited for it alone completes; a refused one leaves the unit dirty and raises MEM_WB_FAIL. A unit dirty for MEM_FLUSH_AGE beats
is written back, a younger one is not. A due prefetch entry starts once and its units in host are promoted or wait with heat 255; a due
EVICT entry demotes its units in HBM. The order and extent of demotion are read by inference (log entry 48). -/
def Obligations.UnitsMoveAndAreWrittenBack : Prop :=
  (∀ (s : State) (u pass : Nat) (x : MUnit), s.dev.alive = true → s.dev.unit u = x →
    (x.state ≠ .moving ∨ x.dst = .hay ∨ x.restarts ≠ pass → s.does (.moveComplete (.unit u pass)) fun d => s.dev.keeps d []) ∧
    (x.state = .moving → x.src = .host → x.dst = .hbm → x.restarts = pass → s.dev.memt.waits = [] → s.dev.memt.want = [] →
      (∀ y ∈ s.dev.memt.regions, y.2.removing = none) → s.does (.moveComplete (.unit u pass)) fun d =>
        (d.unit u).state = .hbm ∧ (d.unit u).frame = x.dstFrame ∧ (d.unit u).dirty = x.dirty ∧ (d.unit u).hayValid = x.hayValid ∧
        x.frame ∉ d.memt.host ∧ (∀ v, v ≠ u → d.unit v = s.dev.unit v) ∧
        d.fld F.MEM_MIG_CNT_PROMOTE = min (s.dev.fld F.MEM_MIG_CNT_PROMOTE + 1) (2 ^ F.MEM_MIG_CNT_PROMOTE.width - 1) ∧
        s.dev.keeps d [.regs, .memt])) ∧
  (∀ (s : State) (home stall page shard lba : Nat), s.dev.alive = true → s.dev.heldAt home stall page shard = none →
    s.does (.moveComplete (.parked home stall page shard lba)) fun d =>
      d.memt.spills = s.dev.memt.spills.erase (home, stall, page, shard, lba) ∧ s.dev.keeps d [.memt]) ∧
  (∀ s : State, s.dev.alive = true → Tbl.rising s.dev.memt.units = true → s.does .heatDecay fun d =>
    (∀ u, d.unit u = { s.dev.unit u with heat := (s.dev.unit u).heat / 2 }) ∧ s.dev.keeps d [.memt]) ∧
  (∀ s : State, s.dev.alive = true →
    (s.dev.memt.units = [] → s.dev.pan.held = [] → s.does .watermarkDemotion fun d => s.dev.keeps d []) ∧
    (∀ u x r, s.dev.memt.units = [(u, x)] → s.dev.pan.held = [] → s.dev.fld F.MEM_HOST_SIZE_SIZE = 0 →
      s.dev.framesFree < s.dev.fld F.MEM_WM_LOW → s.dev.framesFree < s.dev.fld F.MEM_WM_HIGH → s.dev.regionOf u = some r →
      r.pinned = false → r.allowsHost = false → r.allowsHay = true → x.state = .hbm → x.dirty = false → x.hayValid = true →
      x.still ≤ s.dev.now → s.dev.poolGroups.contains (x.frame / 2 ^ 19) = true → s.does .watermarkDemotion fun d =>
        d.unit u = { x with state := .hay, frame := 0, evict := false } ∧ Tbl.at? d.memt.frames x.frame = none ∧
        d.fld F.MEM_MIG_CNT_DEMOTE = min (s.dev.fld F.MEM_MIG_CNT_DEMOTE + 1) (2 ^ F.MEM_MIG_CNT_DEMOTE.width - 1) ∧
        s.dev.keeps d [.regs, .memt])) ∧
  (∀ (s : State) (u : Nat), s.dev.alive = true →
    (u ∉ s.dev.memt.wbs → s.does (.writeBackDurable u) fun d => s.dev.keeps d []) ∧
    (u ∈ s.dev.memt.wbs → (s.dev.unit u).state = .hbm → HayOwner.unit u ∈ s.dev.hay.failedOwners →
      s.does (.writeBackDurable u) fun d =>
        (d.unit u).dirty = true ∧ (d.unit u).state = .hbm ∧ u ∉ d.memt.wbs ∧ d.fld E.MEM_WB_FAIL.bit = 1 ∧
        s.dev.keeps d [.regs, .out, .hif, .hlt, .memt, .hay]) ∧
    (∀ c, u ∈ s.dev.memt.wbs → (s.dev.unit u).state = .hbm → HayOwner.unit u ∉ s.dev.hay.failedOwners →
      s.dev.hayPending (.unit u) = false → s.dev.memt.wbWant = [] → s.dev.memt.waits = [] → s.dev.memt.want = [] →
      (∀ y ∈ s.dev.memt.regions, y.2.removing = none) → s.dev.memt.flushes = [(c, [u])] →
      ∃ e : Dev, exec (.writeBackDurable u) s = .next { s with dev := (e.completeCmd c C.OK []).tidy } ∧
        (e.unit u).hayValid = true ∧ u ∉ e.memt.wbs ∧ e.memt.flushes = [] ∧ s.dev.keeps e [.regs, .memt])) ∧
  (∀ (s : State) (u lba : Nat) (r : MemRegion), s.dev.alive = true →
    (s.dev.fld F.MEM_FLUSH_AGE_AGE = 0 ∨ (s.dev.unit u).dirty = false ∨ u ∈ s.dev.memt.wbs ∨
        s.dev.now < (s.dev.unit u).since + s.dev.fld F.MEM_FLUSH_AGE_AGE →
      s.does (.flushAge u) fun d => s.dev.keeps d []) ∧
    (s.dev.fld F.MEM_FLUSH_AGE_AGE ≠ 0 → (s.dev.unit u).dirty = true → u ∉ s.dev.memt.wbs →
      (s.dev.unit u).since + s.dev.fld F.MEM_FLUSH_AGE_AGE ≤ s.dev.now → s.dev.regionOf u = some r → r.backing u = some lba →
      s.dev.poisoned (unitKey u) memUnit = false → s.dev.memt.wbWant = [] → s.dev.memt.wbs.length < 256 →
      s.does (.flushAge u) fun d =>
        d.memt.wbs = s.dev.memt.wbs ++ [u] ∧ (d.unit u).dirty = false ∧
        (d.hay.queue.drop s.dev.hay.queue.length).map (·.lba) = (List.range 16).map (lba + ·) ∧ s.dev.keeps d [.memt, .hay])) ∧
  (∀ (s : State) (inv e u : Nat) (i : Inv) (x : Bytes), s.dev.alive = true → s.dev.inv? inv = some i → (s.dev.pfOf i)[e]? = some x →
    (s.dev.now < i.base + field x 0 4 - s.dev.pfLead x ∨ (inv, e) ∈ s.dev.memt.pfStarted →
      s.does (.prefetchStart inv e) fun d => s.dev.keeps d []) ∧
    (i.base + field x 0 4 - s.dev.pfLead x ≤ s.dev.now → (inv, e) ∉ s.dev.memt.pfStarted → pfUnits x = [u] →
      (s.dev.unit u).state = .host → s.does (.prefetchStart inv e) fun d =>
        (d.unit u).heat = 255 ∧ ((d.unit u).state = .moving ∨ u ∈ d.memt.want) ∧
        d.memt.pfStarted = s.dev.memt.pfStarted ++ [(inv, e)] ∧ s.dev.keeps d [.memt])) ∧
  (∀ (s : State) (inv e u : Nat) (i : Inv) (x : Bytes) (r : MemRegion), s.dev.alive = true → s.dev.inv? inv = some i →
    (s.dev.pfOf i)[e]? = some x →
    (bit (field x 24 1) 0 = false → s.does (.evictDemotion inv e) fun d => s.dev.keeps d []) ∧
    (bit (field x 24 1) 0 = true → s.dev.pfOf i = [x] → pfUnits x = [u] → s.dev.memt.pfStarted = [] → s.dev.regionOf u = some r →
      r.pinned = false → r.allowsHost = false → r.allowsHay = true → (s.dev.unit u).state = .hbm → (s.dev.unit u).dirty = false →
      (s.dev.unit u).hayValid = true → (s.dev.unit u).still ≤ s.dev.now → s.dev.moves < 768 →
      (s.dev.now < i.base + field x 28 4 → s.does (.evictDemotion inv e) fun d => s.dev.keeps d []) ∧
      (i.base + field x 28 4 ≤ s.dev.now → s.does (.evictDemotion inv e) fun d =>
        d.unit u = { s.dev.unit u with state := .hay, frame := 0, evict := false } ∧
        Tbl.at? d.memt.frames (s.dev.unit u).frame = none ∧ s.dev.keeps d [.regs, .memt])))

/-- A clean scrub read moves the channel's scrub position by one line and changes nothing else; a corrected one is counted as well; none
happens with SCRUB_EN clear. CHANNEL_FAIL of a channel already failed changes nothing; of another it lists it, takes its group out of
service and raises MEM_CH_FAIL. When the host tier is lost a clean unit with a valid hayloft copy returns to the hayloft and MEM_HOST_LOST
is raised. A bad host map page is discarded once and its rebuilding asked for. Stack temperatures set the refresh marks, and 105 degrees
or more trips the part. -/
def Obligations.MemoryFaultsAreCounted : Prop :=
  (∀ (s : State) (channel row : Nat) (f : ScrubRes), s.dev.alive = true →
    (s.dev.flag F.MEM_CTRL_SCRUB_EN = false ∨ 256 ≤ channel → s.does (.scrubRead channel row f) fun d => s.dev.keeps d []) ∧
    (∀ p n, s.dev.flag F.MEM_CTRL_SCRUB_EN = true → channel < 256 → Tbl.rd (fun _ => (0, 0)) s.dev.memt.scrub channel = (n, p) →
      (s.does (.scrubRead channel row .clean) fun d =>
        Tbl.rd (fun _ => (0, 0)) d.memt.scrub channel = (if n + 1 = 2 ^ 26 then (0, p + 1) else (n + 1, p)) ∧
        d.memt.ecc = s.dev.memt.ecc ∧ s.dev.keeps d [.memt]) ∧
      (Tbl.at? s.dev.memt.ceRows (channel * 2 ^ 32 + row) = none → s.does (.scrubRead channel row .corrected) fun d =>
        Tbl.rd (fun _ => (0, 0)) d.memt.scrub channel = (if n + 1 = 2 ^ 26 then (0, p + 1) else (n + 1, p)) ∧
        (Tbl.rd (fun _ => (0, 0, 0)) d.memt.ecc channel).1 =
          min ((Tbl.rd (fun _ => (0, 0, 0)) s.dev.memt.ecc channel).1 + 1) 0xFFFFFFFF ∧
        Tbl.at? d.memt.ceRows (channel * 2 ^ 32 + row) = some (p + 1) ∧ s.dev.keeps d [.regs, .out, .comp, .hif, .hlt, .memt]))) ∧
  (∀ (s : State) (k : Nat), s.dev.alive = true →
    (256 ≤ k ∨ k ∈ s.dev.memt.failed → s.does (.channelFail k) fun d => s.dev.keeps d []) ∧
    (k < 256 → k ∉ s.dev.memt.failed → bit (s.dev.fld F.MEM_POOL_GRP_MASK) (k / 8) = false → s.dev.comp.cur.memberships s.dev.me = [] →
      s.dev.hlt.spare = .none → s.does (.channelFail k) fun d =>
        k ∈ d.memt.failed ∧ k / 8 ∈ d.memt.badGroups ∧ bit (d.fld (F.MEM_CH_FAIL_FAILED (k / 64))) (k % 64) = true ∧
        d.fld E.MEM_CH_FAIL.bit = 1 ∧ s.dev.keeps d [.regs, .out, .hif, .hlt, .memt])) ∧
  (∀ (s : State) (u : Nat) (x : MUnit), s.dev.alive = true → s.dev.memt.units = [(u, x)] → x.state = .host → x.dirty = false →
    x.hayValid = true → (∀ y ∈ s.dev.memt.regions, y.2.tiers ≠ 2 ∧ y.2.removing = none) → s.dev.memt.waits = [] → s.dev.memt.want = [] →
    s.does .hostTierLost fun d =>
      d.unit u = { x with state := .hay, frame := 0 } ∧ x.frame ∉ d.memt.host ∧ d.fld E.MEM_HOST_LOST.bit = 1 ∧
      s.dev.keeps d [.regs, .out, .hif, .hlt, .memt]) ∧
  (∀ (s : State) (page : Nat), s.dev.alive = true →
    (page ∈ s.dev.memt.hmapBad → s.does (.hmapPageFail page) fun d => s.dev.keeps d []) ∧
    (page ∉ s.dev.memt.hmapBad → s.does (.hmapPageFail page) fun d =>
      d.memt.hmapBad = s.dev.memt.hmapBad ++ [page] ∧ page ∈ d.hay.dirty ∧ d.fld E.MEM_HMAP_CRC.bit = 1 ∧
      s.dev.keeps d [.regs, .out, .hif, .hlt, .memt, .hay])) ∧
  (∀ (s : State) (t : List Nat), s.dev.alive = true → t.length = 8 →
    ((∀ x ∈ t, x ≤ 95) → s.does (.stackTempRead t) fun d =>
      d.therm.stackTemp = t ∧ d.therm.hbmHalf = [] ∧
      (∀ k, k < 8 → bit (d.fld F.MEM_THERM_HOT) k = decide (85 < t.getD k 0)) ∧ s.dev.keeps d [.regs, .therm]) ∧
    ((∃ x ∈ t, 105 ≤ x) → s.does (.stackTempRead t) fun d =>
      d.pwr.state = .trip ∧ d.out = s.dev.out ++ [.pin .thermTripN false, .pin .smbAlertN false] ∧
      s.dev.keeps d [.regs, .therm, .pwr, .out]))

/-- Setting HAY_CTRL.EN while the hayloft is off begins the probe; clearing it while no program is in flight leaves the flash as it is and
forgets the rest. A probe of targets that all pass decides between blank and rebuild by the anchor; one that finds no target fails the
hayloft. HAY_FORMAT before the probe has ended completes with HAY_NOT_READY, during a rebuild with HAY_FORMAT_BAD; a good one leaves the
hayloft ready, unmapped, with one flush and no byte on the flash. A rebuild that reads its directory leaves the hayloft ready with the map
the flash spells; one that does not fails it. The blocks set aside for checkpoints and the erase counts after a format are the model's
choice (log entries 14 and 51). -/
def Obligations.TheHayloftStartsFormatsAndRebuilds : Prop :=
  (∀ (s : State) (v : Nat), s.dev.alive = true → s.dev.serving = .all →
    (bit v 0 = true → s.dev.hay.state = .off → s.does (.hayEnSet v) fun d =>
      d.fld F.HAY_CTRL_EN = 1 ∧ d.hay.state = .probe ∧ d.hay.since = s.dev.now ∧ d.hay.media = s.dev.hay.media ∧
      d.out = s.dev.out ++ [.media 6 [] []] ∧ s.dev.keeps d [.regs, .out, .hay, .memt]) ∧
    (bit v 0 = false → s.dev.hay.state ≠ .off → s.dev.hay.points = [] → s.dev.hlt.ckpts = [] →
      (∀ y ∈ s.dev.srch.shards, y.2.detaching = none) → s.does (.hayEnClear v) fun d =>
        d.fld F.HAY_CTRL_EN = 0 ∧ d.hay = { media := s.dev.hay.media, failedOwners := s.dev.hay.queue.map fun w => w.owner } ∧
        s.dev.keeps d [.regs, .hay, .memt])) ∧
  (∀ (s : State) (ts : List TargetReport) (ok : Bool), s.dev.alive = true →
    (s.dev.hay.state ≠ .probe → s.does (.mediaProbeComplete ts ok) fun d => s.dev.keeps d []) ∧
    (∀ t, s.dev.hay.state = .probe → ts = [t] → targetOk t = true → (targetGeom t).raw ≤ 2 ^ 48 →
      s.does (.mediaProbeComplete ts ok) fun d =>
        d.hay.geom = targetGeom t ∧ d.hay.accepted = [t.target] ∧
        (d.hay.state = .rebuild ↔ ok = true ∧ ∃ a, s.dev.hay.media.anchor = some a ∧ a.geom = targetGeom t ∧ a.targets = [t.target]) ∧
        (d.hay.state = .rebuild ∨ d.hay.state = .blank) ∧ d.hay.media = s.dev.hay.media ∧ s.dev.keeps d [.hay]) ∧
    (s.dev.hay.state = .probe → s.does (.mediaProbeComplete [] ok) fun d =>
      d.hay.state = .failed ∧ d.hay.noTarget = true ∧ d.fld E.HAY_MEDIA.bit = 1 ∧ s.dev.keeps d [.regs, .out, .hif, .hlt, .hay])) ∧
  (∀ (s : State) (c : HostCmd) (marks : List Nat), s.dev.alive = true → s.dev.takes (argSpec 0 0 0) c →
    (s.dev.hay.state = .off ∨ s.dev.hay.state = .probe → s.completes (.hayFormat c marks) c C.HAY_NOT_READY [] fun e =>
      (s.dev.taken c).keeps e []) ∧
    (s.dev.hay.state = .rebuild → s.completes (.hayFormat c marks) c C.HAY_FORMAT_BAD [] fun e => (s.dev.taken c).keeps e []) ∧
    (s.dev.hay.state = .blank ∨ s.dev.hay.state = .ready → s.dev.fld F.HAY_CAP_UNITS ≠ 0 → s.dev.memt.regions = [] →
      s.dev.fld F.HAY_CAP_UNITS ≤ (s.dev.hay.formatted marks (s.dev.fld F.HAY_JRN_BLOCKS) (s.dev.fld F.HAY_CAP_UNITS)).good *
        s.dev.hay.geom.native * 119 / 128 →
      s.completes (.hayFormat c marks) c C.OK [] fun e =>
        e.hay.state = .ready ∧ e.hay.map = [] ∧ e.hay.dir = [] ∧ e.hay.media.flushes.length = 1 ∧ e.hay.media.tags = [] ∧
        (∃ a, e.hay.media.anchor = some a ∧ a.units = s.dev.fld F.HAY_CAP_UNITS ∧ a.seq = ((s.dev.hay.media.anchor.map (·.seq)).getD 0) + 1) ∧
        (∀ a, a / 2 ^ 64 = 3 → e.byte a = 0) ∧ (∀ a, a / 2 ^ 64 ≠ 3 → e.byte a = s.dev.byte a) ∧
        (s.dev.taken c).keeps e [.mem, .hay, .memt])) ∧
  (∀ (s : State) (ok : Bool), s.dev.alive = true →
    (s.dev.hay.state ≠ .rebuild → s.does (.rebuildComplete ok) fun d => s.dev.keeps d []) ∧
    (∀ a, s.dev.hay.state = .rebuild → s.dev.hay.media.anchor = some a →
      (s.does (.rebuildComplete false) fun d =>
        d.hay.state = .failed ∧ d.hay.media = s.dev.hay.media ∧ d.fld E.HAY_REBUILD_FAIL.bit = 1 ∧
        s.dev.keeps d [.regs, .out, .hif, .hlt, .hay]) ∧
      (s.does (.rebuildComplete true) fun d =>
        d.hay.state = .ready ∧ d.hay.map = (s.dev.hay.media.rebuild a).map ∧ d.hay.dir = (s.dev.hay.media.rebuild a).dir ∧
        d.hay.media.tags = s.dev.hay.media.tags ∧ d.fld F.HAY_CAP_UNITS = a.units % 2 ^ F.HAY_CAP_UNITS.width ∧
        s.dev.keeps d [.regs, .hay, .memt])))

/-- HAY_READ of a hayloft that does not serve is answered HAY_NOT_READY, beyond its capacity HAY_RANGE; of an unmapped LBA it is answered
and counted; of a mapped one the block's reads rise by one, and a unit no retry recovers is answered HAY_UE and listed as bad. HAY_WRITE
with nothing queued does nothing; a refused write leaves the queue and fails its owner; another is programmed at the next place of its
write point's open block with the next sequence number. A unit programmed with pass status lies on the flash, maps its LBA and is counted.
A failed program retires the block: it becomes a victim, its write is queued again at the front, and HAY_BLOCK_RETIRED is raised. The
order of places in a block and the numbering of write points are the model's choice (log entry 50). -/
def Obligations.HayloftReadsWritesAndPrograms : Prop :=
  (∀ (s : State) (lba : Nat) (how : FlashRead), s.dev.alive = true →
    (∀ k, s.dev.hayRefuses lba false = some k → s.does (.hayRead lba how) fun d =>
      d.out = s.dev.out ++ [.media 0 [lba, k] []] ∧ s.dev.keeps d [.out]) ∧
    (s.dev.hay.serves = false → s.dev.hayRefuses lba false = some C.HAY_NOT_READY) ∧
    (s.dev.hay.serves = true → s.dev.fld F.HAY_CAP_UNITS ≤ lba → s.dev.hayRefuses lba false = some C.HAY_RANGE) ∧
    (s.dev.hayRefuses lba false = none → Tbl.at? s.dev.hay.map lba = none → s.does (.hayRead lba how) fun d =>
      d.out = s.dev.out ++ [.media 0 [lba, C.OK] []] ∧
      d.fld F.HAY_IO_CNT_READS = min (s.dev.fld F.HAY_IO_CNT_READS + 1) (2 ^ F.HAY_IO_CNT_READS.width - 1) ∧
      s.dev.keeps d [.regs, .out]) ∧
    (∀ p, s.dev.hayRefuses lba false = none → Tbl.at? s.dev.hay.map lba = some p →
      (s.does (.hayRead lba .clean) fun d =>
        d.out = s.dev.out ++ [.media 0 [lba, C.OK] []] ∧ (d.hay.blk (ppaBlock p)).reads = (s.dev.hay.blk (ppaBlock p)).reads + 1 ∧
        (∀ b, b ≠ ppaBlock p → d.hay.blk b = s.dev.hay.blk b) ∧ d.hay.map = s.dev.hay.map ∧ s.dev.keeps d [.regs, .out, .hay]) ∧
      (s.dev.pan.held = [] → s.dev.memt.regions = [] → s.does (.hayRead lba .bad) fun d =>
        .media 0 [lba, C.HAY_UE] [] ∈ d.out ∧ p ∈ d.hay.media.bad ∧ d.hay.map = s.dev.hay.map ∧
        s.dev.keeps d [.regs, .out, .comp, .hif, .hlt, .hay]))) ∧
  (∀ (s : State) (w : Nat) (x : HayWrite) (t : List HayWrite), s.dev.alive = true →
    (s.dev.hay.queue = [] → s.does (.hayWrite w) fun d => s.dev.keeps d []) ∧
    (∀ k u, s.dev.hay.queue = x :: t → x.owner = .unit u → s.dev.hayRefuses x.lba true = some k → s.does (.hayWrite w) fun d =>
      d.hay.queue = t ∧ x.owner ∈ d.hay.failedOwners ∧ d.out = s.dev.out ++ [.media 0 [x.lba, k] []] ∧ s.dev.keeps d [.out, .hay]) ∧
    (∀ b, s.dev.hay.queue = x :: t → s.dev.hayRefuses x.lba true = none → s.dev.hay.jrnFull = false → w < 30 →
      (s.dev.hay.point w).block = some b → (s.dev.hay.blk b).written < s.dev.hay.geom.cap (s.dev.hay.blk b).slc →
      s.does (.hayWrite w) fun d =>
        d.hay.queue = t ∧ d.hay.nextSeq = s.dev.hay.nextSeq + 1 ∧ (d.hay.blk b).written = (s.dev.hay.blk b).written + 1 ∧
        (d.hay.point w).progs = (s.dev.hay.point w).progs ++ [{
          ppa := s.dev.hay.geom.ppa b (s.dev.hay.blk b).written
          tag := { kind := 0, key := x.lba, seq := s.dev.hay.nextSeq, src := 0 }, cells := x.cells, owner := some x.owner }] ∧
        d.out = s.dev.out ++ [.media 2 [w, s.dev.hay.geom.ppa b (s.dev.hay.blk b).written, 0, x.lba, s.dev.hay.nextSeq] []] ∧
        s.dev.keeps d [.out, .hay])) ∧
  (∀ (s : State) (w : Nat) (p : HayProg), s.dev.alive = true → (s.dev.hay.point w).progs = [p] → p.tag.kind = 0 →
    (∀ c ∈ p.cells, c.1 < 4096) → s.dev.hay.copyQ = [] → s.dev.hlt.ckpts = [] → s.does (.programComplete w 1) fun d =>
      Tbl.at? d.hay.map p.tag.key = some p.ppa ∧ (∀ l, l ≠ p.tag.key → Tbl.at? d.hay.map l = Tbl.at? s.dev.hay.map l) ∧
      Tbl.at? d.hay.media.tags p.ppa = some p.tag ∧ (d.hay.point w).progs = [] ∧
      (∀ k, k < 4096 → d.byte (flashKey p.ppa + k) = (Tbl.at? p.cells k).getD 0) ∧
      (∀ a, (a < flashKey p.ppa ∨ flashKey p.ppa + 4096 ≤ a) → d.byte a = s.dev.byte a) ∧
      d.fld F.HAY_IO_CNT_WRITES = min (s.dev.fld F.HAY_IO_CNT_WRITES + 1) (2 ^ F.HAY_IO_CNT_WRITES.width - 1) ∧
      s.dev.keeps d [.regs, .mem, .hay]) ∧
  (∀ (s : State) (w plane : Nat), s.dev.alive = true →
    ((s.dev.hay.point w).block = none → s.does (.programFail w plane) fun d => s.dev.keeps d []) ∧
    (∀ b p o, (s.dev.hay.point w).block = some b → (s.dev.hay.point w).progs = [p] → p.tag.kind = 0 → p.owner = some o →
      s.dev.hay.copyQ = [] → s.dev.hay.copies = [] → s.dev.hay.validIn b = [] → (s.dev.hay.blk b).marks = [] →
      s.does (.programFail w plane) fun d =>
        (d.hay.blk b).state = .victim ∧ (d.hay.blk b).marks = [plane] ∧ (d.hay.point w).block = none ∧ (d.hay.point w).progs = [] ∧
        d.hay.queue = { lba := p.tag.key, cells := p.cells, owner := o } :: s.dev.hay.queue ∧ d.fld E.HAY_BLOCK_RETIRED.bit = 1 ∧
        d.fld F.HAY_ERR_CNT_RETIRED = min (s.dev.fld F.HAY_ERR_CNT_RETIRED + 1) (2 ^ F.HAY_ERR_CNT_RETIRED.width - 1) ∧
        s.dev.keeps d [.regs, .out, .comp, .hif, .hlt, .hay]))

/-- A journal flush that is not due does nothing; a due one that fits takes the whole buffer under the next number, and when it is durable
its scan set is the durable one. A checkpoint round not due does nothing; a due one with no dirty map page writes the next anchor. A
verified copy whose source is still mapped is mapped, any other is discarded. An erased block without marks is free with its erase count
one higher, and its bytes are gone. Collection of a hayloft that does not serve does nothing; a block queued for refresh is its first
victim. Folding above the SLC target takes the best closed SLC block; wear levelling moves the least-worn closed block towards the
most-worn free one. That a checkpoint round is one step is the model's choice (log entry 51). -/
def Obligations.TheJournalCollectionAndMediaCare : Prop :=
  (∀ s : State, s.dev.alive = true →
    (s.dev.hay.serves = false ∨ s.dev.hay.flushing.isSome = true ∨
        (s.dev.hay.force = false ∧ s.dev.now < s.dev.hay.lastFlush + s.dev.fld F.HAY_JRN_INTERVAL) →
      s.does .journalFlush fun d => s.dev.keeps d []) ∧
    (s.dev.hay.serves = true → s.dev.hay.flushing = none →
        (s.dev.hay.force = true ∨ s.dev.hay.lastFlush + s.dev.fld F.HAY_JRN_INTERVAL ≤ s.dev.now) →
        s.dev.hay.jrnSince + (16 * s.dev.hay.jrn.length + 320) ≤ s.dev.hay.ringBytes →
      s.does .journalFlush fun d =>
        (∃ f, d.hay.flushing = some f ∧ f.seq = s.dev.hay.flushSeq + 1 ∧ f.entries = s.dev.hay.jrn ∧ f.beat = s.dev.now ∧
          f.lastSeq = s.dev.hay.lastSeq) ∧ d.hay.jrn = [] ∧ d.hay.map = s.dev.hay.map ∧
        d.out = s.dev.out ++ [.media 4 [s.dev.hay.flushSeq + 1, s.dev.hay.lastSeq, s.dev.hay.jrn.length] []] ∧
        s.dev.keeps d [.out, .hay])) ∧
  (∀ s : State, s.dev.alive = true →
    (s.dev.hay.flushing = none → s.does .journalFlushDurable fun d => s.dev.keeps d []) ∧
    (∀ f, s.dev.hay.flushing = some f → s.dev.hay.erasable = [] → s.dev.hay.copyQ = [] → s.does .journalFlushDurable fun d =>
      d.hay.flushing = none ∧ d.hay.flushSeq = f.seq ∧ d.hay.durable = f.scan ∧ d.hay.media.flushes.getLast? = some f ∧
      d.hay.force = false ∧ s.dev.keeps d [.hay])) ∧
  (∀ s : State, s.dev.alive = true →
    (s.dev.hay.serves = false ∨ (s.dev.hay.jrnFull = false ∧ s.dev.now < s.dev.hay.roundAt + 2 ^ s.dev.fld F.HAY_CKPT_ROUND_LOG2 ∧
        s.dev.hay.jrnSince ≤ s.dev.fld F.HAY_CKPT_JRN_MAX_GIB * 2 ^ 30) → s.does .checkpointRound fun d => s.dev.keeps d []) ∧
    (∀ a, s.dev.hay.serves = true → s.dev.hay.roundAt + 2 ^ s.dev.fld F.HAY_CKPT_ROUND_LOG2 ≤ s.dev.now →
      s.dev.hay.media.anchor = some a → s.dev.hay.dirty = [] → s.does .checkpointRound fun d =>
        (∃ b, d.hay.media.anchor = some b ∧ b.seq = a.seq + 1 ∧ b.dir = s.dev.hay.dir ∧ b.units = a.units ∧
          b.replay = s.dev.hay.flushSeq + 1) ∧
        d.hay.jrnSince = 0 ∧ d.hay.roundAt = s.dev.now ∧ d.out = s.dev.out ++ [.media 5 [a.seq + 1] []] ∧ s.dev.keeps d [.out, .hay])) ∧
  (∀ (s : State) (c : HayProg), s.dev.alive = true → s.dev.hay.copies = [c] → c.tag.kind = 1 →
    (Tbl.at? s.dev.hay.map c.tag.key = some c.tag.src → s.does (.copyVerify 1 none) fun d =>
      Tbl.at? d.hay.map c.tag.key = some c.ppa ∧ d.hay.copies = [] ∧
      (∀ l, l ≠ c.tag.key → Tbl.at? d.hay.map l = Tbl.at? s.dev.hay.map l) ∧
      d.fld F.HAY_GC_CNT_MOVED = min (s.dev.fld F.HAY_GC_CNT_MOVED + 1) (2 ^ F.HAY_GC_CNT_MOVED.width - 1) ∧ s.dev.keeps d [.regs, .hay]) ∧
    (Tbl.at? s.dev.hay.map c.tag.key ≠ some c.tag.src → s.does (.copyVerify 1 none) fun d =>
      d.hay.map = s.dev.hay.map ∧ d.hay.copies = [] ∧
      d.fld F.HAY_GC_CNT_DISCARD = min (s.dev.fld F.HAY_GC_CNT_DISCARD + 1) (2 ^ F.HAY_GC_CNT_DISCARD.width - 1) ∧
      s.dev.keeps d [.regs, .hay])) ∧
  (∀ (s : State) (b : Nat), s.dev.alive = true →
    ((s.dev.hay.blk b).state ≠ .erasing → s.does (.eraseComplete b none) fun d => s.dev.keeps d []) ∧
    ((s.dev.hay.blk b).state = .erasing → (s.dev.hay.blk b).marks = [] → (s.dev.hay.blk b).erases < s.dev.fld F.HAY_WEAR_PE_LIMIT →
      s.dev.hay.state = .ready → s.does (.eraseComplete b none) fun d =>
        d.hay.blk b = { s.dev.hay.blk b with state := .free, written := 0, reads := 0, erases := (s.dev.hay.blk b).erases + 1, refresh := false } ∧
        (∀ x, x ≠ b → d.hay.blk x = s.dev.hay.blk x) ∧
        (∀ a, flashKey (b * 2 ^ 19) ≤ a → a < flashKey ((b + 1) * 2 ^ 19) → d.byte a = 0) ∧
        (∀ a, (a < flashKey (b * 2 ^ 19) ∨ flashKey ((b + 1) * 2 ^ 19) ≤ a) → d.byte a = s.dev.byte a) ∧
        d.fld F.HAY_GC_CNT_ERASED = min (s.dev.fld F.HAY_GC_CNT_ERASED + 1) (2 ^ F.HAY_GC_CNT_ERASED.width - 1) ∧
        s.dev.keeps d [.regs, .mem, .hay])) ∧
  (∀ s : State, s.dev.alive = true →
    (s.dev.hay.serves = false → s.does .gcStart fun d => s.dev.keeps d []) ∧
    (∀ b x, s.dev.hay.serves = true → (s.dev.hay.blocks.find? fun x => x.2.state == .closed && x.2.refresh) = some (b, x) →
      s.dev.hay.validIn b = [] → s.dev.hay.copyQ = [] → s.does .gcStart fun d =>
        (d.hay.blk b).state = .victim ∧ (∀ y, y ≠ b → d.hay.blk y = s.dev.hay.blk y) ∧ s.dev.keeps d [.hay])) ∧
  (∀ s : State, s.dev.alive = true →
    (s.dev.hay.serves = false ∨ s.dev.flag F.HAY_CTRL_GROOM_EN = false ∨ s.dev.hay.slcUsed ≤ s.dev.hay.target →
      s.does .fold fun d => s.dev.keeps d []) ∧
    (∀ b n, s.dev.hay.serves = true → s.dev.flag F.HAY_CTRL_GROOM_EN = true → s.dev.hay.target < s.dev.hay.slcUsed →
      (s.dev.bestVictim fun _ x => x.slc && !x.reserved) = some (b, n) → s.dev.hay.validIn b = [] → s.dev.hay.copyQ = [] →
      s.does .fold fun d => (d.hay.blk b).state = .victim ∧ (∀ y, y ≠ b → d.hay.blk y = s.dev.hay.blk y) ∧ s.dev.keeps d [.hay])) ∧
  (∀ (s : State) (l m : Nat), s.dev.alive = true →
    (s.dev.hay.serves = false ∨ s.dev.flag F.HAY_CTRL_WL_EN = false → s.does .wearLevel fun d => s.dev.keeps d []) ∧
    (s.dev.hay.serves = true → s.dev.flag F.HAY_CTRL_WL_EN = true → s.dev.hay.allBlocks = [l, m] →
      (s.dev.hay.blk l).state = .closed → (s.dev.hay.blk l).reserved = false → (s.dev.hay.blk m).state = .free →
      (s.dev.hay.blk m).reserved = false → m ∉ s.dev.hay.claimed → s.dev.hay.validIn l = [] → s.dev.hay.copyQ = [] →
      (s.dev.hay.blk l).erases + s.dev.fld F.HAY_WEAR_WEAR_GAP < (s.dev.hay.blk m).erases → s.does .wearLevel fun d =>
        (d.hay.blk l).state = .victim ∧ (d.hay.point 30).next = some m ∧ d.hay.force = true ∧ s.dev.keeps d [.hay]))

/-- AZF_ROUTE sets the candidates of each destination it names and of no other, and refuses destinations or ports out of range. AZF_REGION
lists a region under its index, with a frame for its block of the table where there is none; without a frame it completes with
MEM_REGION_FULL, with a bad entry with HIF_RESERVED; with REMOVE the index is free. AZF_JOB gives a job its tenant and paddock, and with
REMOVE takes them away. AZF_TEARDOWN completes the operations of its paddock that a dead destination holds. An access is refused with the
fabric disabled, misaligned, through a wrong key, without the permission, or out of the region's range. The frames of the region table and
the codes HIF_RESERVED and MEM_REGION_FULL here are the model's choice, the code of an address outside its region is read by inference
(log entries 59 and 69). -/
def Obligations.FabricCommandsSetRoutesRegionsAndJobs : Prop :=
  (∀ (s : State) (c : HostCmd), s.dev.alive = true →
    s.dev.takes { rsvOk := argMask true 0x7FFF 0 0 0, lenOk := fun c => c.hlen % 4 == 0 && decide (c.hlen ≤ 4 * 32768) } c →
    (32768 < c.a0 % 2 ^ 15 + c.hlen / 4 → s.completes (.azfRoute c) c C.HIF_RESERVED [] fun e => (s.dev.taken c).keeps e []) ∧
    (c.a0 % 2 ^ 15 + c.hlen / 4 ≤ 32768 →
      (∀ k, k < c.hlen / 4 → ∀ i ∈ routeEntry (slice c.data (4 * k) 4), i ≤ 15) → s.completes (.azfRoute c) c C.OK [] fun e =>
        (∀ k, k < c.hlen / 4 → Tbl.rd (fun _ => []) e.fab.routes (c.a0 % 2 ^ 15 + k) = routeEntry (slice c.data (4 * k) 4)) ∧
        (∀ x, (x < c.a0 % 2 ^ 15 ∨ c.a0 % 2 ^ 15 + c.hlen / 4 ≤ x) →
          Tbl.rd (fun _ => []) e.fab.routes x = Tbl.rd (fun _ => []) s.dev.fab.routes x) ∧
        (s.dev.taken c).keeps e [.regs, .out, .hif, .hlt, .sep, .fab])) ∧
  (∀ (s : State) (c : HostCmd), s.dev.alive = true →
    s.dev.takes { rsvOk := argMask true 0x800FFFFF 0 0 0, lenOk := fun c => c.hlen == if bit c.a0 31 then 0 else 32 } c →
    (bit c.a0 31 = false →
      (regionEntryOk c.data (s.dev.fld F.AZF_CTRL_PROT_MODE == 1) = false →
        s.completes (.azfRegion c) c C.HIF_RESERVED [] fun e => (s.dev.taken c).keeps e []) ∧
      (regionEntryOk c.data (s.dev.fld F.AZF_CTRL_PROT_MODE == 1) = true →
        (s.dev.fld F.AZF_CTRL_PROT_MODE = 1 →
          (s.dev.fab.regions.filter fun x => x.2.key == field c.data 16 4 && x.1 != c.a0 % 2 ^ 20).length < 256) →
        ((Tbl.at? s.dev.fab.regFrames (c.a0 % 2 ^ 20 / 2048)).isSome = true → s.completes (.azfRegion c) c C.OK [] fun e =>
          Tbl.at? e.fab.regions (c.a0 % 2 ^ 20) = some { base := field c.data 0 8, size := field c.data 8 8, key := field c.data 16 4
                                                         tenant := field c.data 20 2, perm := field c.data 22 1, jbase := field c.data 24 8 } ∧
          (∀ k, k ≠ c.a0 % 2 ^ 20 → Tbl.at? e.fab.regions k = Tbl.at? s.dev.fab.regions k) ∧ (s.dev.taken c).keeps e [.fab]) ∧
        (Tbl.at? s.dev.fab.regFrames (c.a0 % 2 ^ 20 / 2048) = none →
          ((s.dev.taken c).takeFrames 1 1 = none → s.completes (.azfRegion c) c C.MEM_REGION_FULL [] fun e => (s.dev.taken c).keeps e []) ∧
          (∀ l d1, (s.dev.taken c).takeFrames 1 1 = some (l, d1) → s.completes (.azfRegion c) c C.OK [] fun e =>
            (Tbl.at? e.fab.regions (c.a0 % 2 ^ 20)).map (·.key) = some (field c.data 16 4) ∧
            Tbl.at? e.fab.regFrames (c.a0 % 2 ^ 20 / 2048) = some l ∧ (s.dev.taken c).keeps e [.fab, .memt])))) ∧
    (bit c.a0 31 = true → s.completes (.azfRegionRemove c) c C.OK [] fun e =>
      Tbl.at? e.fab.regions (c.a0 % 2 ^ 20) = none ∧
      (∀ k, k ≠ c.a0 % 2 ^ 20 → Tbl.at? e.fab.regions k = Tbl.at? s.dev.fab.regions k) ∧ (s.dev.taken c).keeps e [.fab, .memt])) ∧
  (∀ (s : State) (c : HostCmd), s.dev.alive = true → s.dev.takes (argSpec 0x8FFFFFFF 0xFFFF 0) c →
    (bit c.a0 31 = false → s.completes (.azfJob c) c C.OK [] fun e =>
      Tbl.at? e.fab.jobs (c.a0 % 2 ^ 16) = some (bits c.a0 27 16, c.a1 % 2 ^ 16) ∧
      (∀ k, k ≠ c.a0 % 2 ^ 16 → Tbl.at? e.fab.jobs k = Tbl.at? s.dev.fab.jobs k) ∧ (s.dev.taken c).keeps e [.fab]) ∧
    (bit c.a0 31 = true → s.completes (.azfJobRemove c) c C.OK [] fun e =>
      Tbl.at? e.fab.jobs (c.a0 % 2 ^ 16) = none ∧
      (∀ k, k ≠ c.a0 % 2 ^ 16 → Tbl.at? e.fab.jobs k = Tbl.at? s.dev.fab.jobs k) ∧ (s.dev.taken c).keeps e [.fab])) ∧
  (∀ (s : State) (c : HostCmd), s.dev.alive = true → s.dev.takes (argSpec 0xFFFF 0 0) c → s.dev.fld F.AZF_CTRL_PROT_MODE = 0 →
    s.dev.sep.invs = [] → s.dev.qpx.qps = [] → s.dev.fab.waitCtx = [] → s.dev.fab.releases = [] → s.dev.fab.fences = [] →
    (s.dev.fab.ops = [] → s.completes (.azfTeardown c) c C.OK [] fun e => (s.dev.taken c).keeps e [.fab]) ∧
    (∀ o, s.dev.fab.ops = [o] → o.p.paddock = c.a0 % 2 ^ 16 → o.p.paddock ≠ 0 → o.p.dst ≠ s.dev.me → s.dev.isDead o.p.dst = true →
      s.dev.replays o.ref = false → s.completes (.azfTeardown c) c C.OK [] fun e =>
        e.fab.ops = [] ∧ (∀ x ∈ e.fab.sends, ¬(x.1 / 8 = o.p.dst ∧ x.2.state = .dead)) ∧
        Tbl.rd (fun _ => 0) (e.core o.ref.core).ctrs o.ref.ctr = (Tbl.rd (fun _ => 0) (s.dev.core o.ref.core).ctrs o.ref.ctr + 1) % 2 ^ 32 ∧
        (s.dev.taken c).keeps e [.sep, .fab])) ∧
  (∀ (d : Dev) (p : Packet), p.pform = false →
    (d.flag F.AZF_CTRL_EN = false → d.fabKey p = .inl C.FAB_PROT) ∧
    (d.flag F.AZF_CTRL_EN = true → alignOk p = false → d.fabKey p = .inl C.FAB_ALIGN) ∧
    (∀ r, d.flag F.AZF_CTRL_EN = true → alignOk p = true → d.fld F.AZF_CTRL_PROT_MODE = 0 → bits p.addr 63 60 = 0 →
      Tbl.at? d.fab.regions (bits p.addr 59 40) = some r →
      (r.key ≠ p.rkey → d.fabKey p = .inl C.FAB_PROT) ∧
      (r.key = p.rkey → bit r.perm (permBit p.op) = false → d.fabKey p = .inl C.FAB_PERM) ∧
      (r.key = p.rkey → bit r.perm (permBit p.op) = true → r.size < p.addr % 2 ^ 40 + p.len → d.fabKey p = .inl C.FAB_RANGE) ∧
      (r.key = p.rkey → bit r.perm (permBit p.op) = true → p.addr % 2 ^ 40 + p.len ≤ r.size →
        d.fabKey p = d.regionKey r (p.addr % 2 ^ 40) p.len)))

/-- A lost lane leaves its port and is counted and reported; a retrained one rejoins it, and one that fails counts its failure. A port
goes down with its replay buffer empty, counted and reported; it comes up, away from its own SLOT_ID, out of test mode, with enough lanes
and a round trip of at most 128 beats. A control flit goes out under the next link number and stays in the replay buffer; one that arrives
moves the receive number, drops what it acknowledges and takes its pauses; one with this device's own index reports PWR_DUP_ID and takes
the port down. A flit that fails its CRC is asked for again. On a port that is not linked none of them does anything. Where a replay is
counted and what sets the receive number is read by inference (log entries 70 and 82). -/
def Obligations.LinksLanesAndFlits : Prop :=
  (∀ (s : State) (port lane : Nat), s.dev.alive = true →
    ((s.dev.azPort port).linked = false ∨ bit (s.dev.azPort port).lanes lane = false → s.does (.laneLockLoss port lane) fun d => s.dev.keeps d []) ∧
    (port < 16 → lane < 8 → (s.dev.azPort port).linked = true → bit (s.dev.azPort port).lanes lane = true →
      (s.dev.azPort port).lanes ≠ 2 ^ lane → s.dev.fld F.AZF_CTRL_MIN_LANES ≤ laneCount ((s.dev.azPort port).lanes - 2 ^ lane) →
      s.does (.laneLockLoss port lane) fun d =>
        d.azPort port = { s.dev.azPort port with lanes := (s.dev.azPort port).lanes - 2 ^ lane } ∧
        (∀ i, i ≠ port → d.azPort i = s.dev.azPort i) ∧ d.fld E.FAB_LANE_DOWN.bit = 1 ∧
        d.fld F.AZF_LINK_CNT_LANE_DROP = min (s.dev.fld F.AZF_LINK_CNT_LANE_DROP + 1) (2 ^ 16 - 1) ∧
        s.dev.keeps d [.regs, .out, .comp, .hif, .hlt, .fab])) ∧
  (∀ (s : State) (port lane : Nat), s.dev.alive = true → port < 16 → lane < 8 → (s.dev.azPort port).up = true →
    bit (s.dev.azPort port).lanes lane = false →
    (s.does (.laneRetrain port lane true) fun d =>
      (d.azPort port).lanes = (s.dev.azPort port).lanes + 2 ^ lane ∧ (d.azPort port).queue = (s.dev.azPort port).queue ∧
      (∀ i, i ≠ port → d.azPort i = s.dev.azPort i) ∧ s.dev.keeps d [.regs, .out, .comp, .hif, .hlt, .fab]) ∧
    s.does (.laneRetrain port lane false) fun d =>
      (d.azPort port).lanes = (s.dev.azPort port).lanes ∧
      Tbl.rd (fun _ => 0) (d.azPort port).laneFails lane = Tbl.rd (fun _ => 0) (s.dev.azPort port).laneFails lane + 1 ∧
      (∀ i, i ≠ port → d.azPort i = s.dev.azPort i) ∧ s.dev.keeps d [.regs, .out, .comp, .hif, .hlt, .fab]) ∧
  (∀ (s : State) (port : Nat), s.dev.alive = true → port < 16 →
    ((s.dev.azPort port).linked = false → s.does (.portDown port) fun d => s.dev.keeps d []) ∧
    ((s.dev.azPort port).linked = true → s.does (.portDown port) fun d =>
      (d.azPort port).state = 0 ∧ (d.azPort port).lanes = 0 ∧ (d.azPort port).replay = [] ∧ d.fld E.FAB_PORT_DOWN.bit = 1 ∧
      d.fld F.AZF_LINK_CNT_PORT_DOWN = min (s.dev.fld F.AZF_LINK_CNT_PORT_DOWN + 1) (2 ^ 16 - 1) ∧
      Tbl.at? d.cad.nbrs port = none)) ∧
  (∀ (s : State) (port lanes neighbour rtt : Nat), s.dev.alive = true →
    (s.dev.pwr.testEn = true → s.does (.portUp port lanes neighbour rtt) fun d => s.dev.keeps d []) ∧
    (s.dev.pwr.testEn = false → port < 16 →
      (neighbour = s.dev.me → s.does (.portUp port lanes neighbour rtt) fun d =>
        d.fld E.PWR_DUP_ID.bit = 1 ∧ s.dev.keeps d [.regs, .out, .hif, .hlt]) ∧
      (neighbour ≠ s.dev.me → lanes < 256 → rtt ≤ 2048 → neighbour < 2 ^ 15 → (s.dev.azPort port).state ≠ 2 → s.dev.pwr.state ≠ .stabled →
        s.dev.fld F.AZF_CTRL_MIN_LANES ≤ laneCount lanes → s.does (.portUp port lanes neighbour rtt) fun d =>
          (d.azPort port).state = 2 ∧ (d.azPort port).lanes = lanes ∧ (d.azPort port).neighbour = neighbour ∧ (d.azPort port).rtt = rtt ∧
          s.dev.keeps d [.regs, .out, .hif, .hlt, .sep, .fab]) ∧
      (neighbour ≠ s.dev.me → lanes < 256 → rtt ≤ 2048 → neighbour < 2 ^ 15 → (s.dev.azPort port).state ≠ 2 → s.dev.pwr.state = .stabled →
        bit lanes 0 = true → s.does (.portUp port lanes neighbour rtt) fun d =>
          (d.azPort port).state = 3 ∧ (d.azPort port).lanes = 1 ∧ (d.azPort port).neighbour = neighbour ∧
          s.dev.keeps d [.regs, .out, .hif, .hlt, .sep, .fab]))) ∧
  (∀ (s : State) (port : Nat), s.dev.alive = true → s.dev.fab.asks = [] →
    ((s.dev.azPort port).linked = false → s.does (.controlFlitSend port) fun d => s.dev.keeps d []) ∧
    (∀ mask, port < 16 → (s.dev.azPort port).linked = true → (s.dev.azPort port).replay.length < 4096 →
      mask = natOfBits ((List.range 8).map fun c => s.dev.pauses (s.dev.azPort port) c) → s.does (.controlFlitSend port) fun d =>
        d.out = s.dev.out ++ [.flit port (s.dev.controlFlit port (s.dev.azPort port) mask)] ∧
        (d.azPort port).tx = ((s.dev.azPort port).tx + 1) % 4096 ∧
        (d.azPort port).replay = (s.dev.azPort port).replay ++
          [((s.dev.azPort port).tx, .control (s.dev.controlFlit port (s.dev.azPort port) mask))] ∧
        (d.azPort port).ctl = (s.dev.azPort port).ctl.drop 3 ∧ (d.azPort port).xoff = mask ∧
        (∀ i, i ≠ port → d.azPort i = s.dev.azPort i) ∧ s.dev.keeps d [.out, .fab])) ∧
  (∀ (s : State) (port : Nat) (f : CtlFlit), s.dev.alive = true →
    ((s.dev.azPort port).linked = false → s.does (.controlFlitReceive port f) fun d => s.dev.keeps d []) ∧
    (port < 16 → (s.dev.azPort port).linked = true → f.src = s.dev.me → s.does (.controlFlitReceive port f) fun d =>
      d.fld E.PWR_DUP_ID.bit = 1 ∧ (d.azPort port).state = 0) ∧
    (port < 16 → (s.dev.azPort port).linked = true → f.src ≠ s.dev.me → f.replay = none → f.cad = none → f.map = none → f.hb = none →
      f.msgs = [] → f.pauses.length = 8 → s.does (.controlFlitReceive port f) fun d =>
        (d.azPort port).rx = (f.seq + 1) % 4096 ∧ (d.azPort port).neighbour = f.src ∧
        (d.azPort port).paused = f.pauses.map (s.dev.now + ·) ∧
        (d.azPort port).replay = ((s.dev.azPort port).replay.filter fun x => !seqBefore x.1 f.ack) ∧
        (∀ i, i ≠ port → d.azPort i = s.dev.azPort i) ∧ s.dev.keeps d [.fab])) ∧
  (∀ (s : State) (port seq : Nat), s.dev.alive = true →
    ((s.dev.azPort port).linked = false → s.does (.flitCrcFail port seq) fun d => s.dev.keeps d []) ∧
    (port < 16 → (s.dev.azPort port).linked = true → (s.dev.azPort port).fails < 7 → s.does (.flitCrcFail port seq) fun d =>
      (d.azPort port).fails = (s.dev.azPort port).fails + 1 ∧ (d.azPort port).want = some (seq % 4096) ∧
      d.fld F.AZF_LINK_CNT_REPLAY = min (s.dev.fld F.AZF_LINK_CNT_REPLAY + 1) (2 ^ 32 - 1) ∧
      s.dev.keeps d [.regs, .out, .comp, .hif, .hlt, .fab]))

/-- A packet for another device joins the queue of the first candidate port that is up with one hop more, waits where no port is up, and
is discarded, counted and reported after six hops. A packet that has waited 40,000 beats in the device is discarded, counted and reported;
none that waited less. A slot of a port with nothing to send sends nothing; one with a packet passing through sends it under the next link
number; one with a packet that starts here gives it the next number of its stream, which holds it until it is acknowledged. That a packet
takes one link number, and that one of this device does not age, is read by inference (log entry 58). -/
def Obligations.PacketsAreForwardedAgedAndSent : Prop :=
  (∀ (s : State) (port : Nat) (p : Packet), s.dev.alive = true →
    (16 ≤ port ∨ (s.dev.azPort port).up = false ∨ p.dst = s.dev.me → s.does (.packetForward port p) fun d => s.dev.keeps d []) ∧
    (port < 16 → (s.dev.azPort port).up = true → p.dst ≠ s.dev.me →
      (6 ≤ p.hops → s.does (.packetForward port p) fun d =>
        d.fld F.AZF_ORDER_CNT_AGED = min (s.dev.fld F.AZF_ORDER_CNT_AGED + 1) (2 ^ F.AZF_ORDER_CNT_AGED.width - 1) ∧
        d.fld E.FAB_AGED.bit = 1 ∧ s.dev.keeps d [.regs, .out, .hif, .hlt]) ∧
      (∀ i, p.hops < 6 → s.dev.routePort p.dst = some i → s.does (.packetForward port p) fun d =>
        d.azPort i = { s.dev.azPort i with queue := (s.dev.azPort i).queue ++ [{ p := { p with hops := p.hops + 1 }, since := s.dev.now }] } ∧
        (∀ k, k ≠ i → d.azPort k = s.dev.azPort k) ∧ s.dev.keeps d [.fab]) ∧
      (p.hops < 6 → s.dev.routePort p.dst = none → s.does (.packetForward port p) fun d =>
        d.fab = { s.dev.fab with noPort := s.dev.fab.noPort ++ [{ p := { p with hops := p.hops + 1 }, since := s.dev.now }] } ∧
        s.dev.keeps d [.fab]))) ∧
  (∀ s : State, s.dev.alive = true →
    ((∀ i, i < 16 → (∀ e ∈ (s.dev.azPort i).queue, s.dev.now < e.since + 40000) ∧
        ∀ w ∈ (s.dev.azPort i).ingress, s.dev.now < w.since + 40000) → (∀ e ∈ s.dev.fab.noPort, s.dev.now < e.since + 40000) →
      s.does .packetAged fun d => (∀ i, i < 16 → d.azPort i = s.dev.azPort i) ∧ d.fab.noPort = s.dev.fab.noPort ∧ s.dev.keeps d [.fab]) ∧
    (∀ e, (∀ i, i < 16 → (s.dev.azPort i).queue = [] ∧ (s.dev.azPort i).ingress = []) → s.dev.fab.noPort = [e] → e.own = false →
      e.since + 40000 ≤ s.dev.now → s.does .packetAged fun d =>
        d.fab.noPort = [] ∧ d.fld F.AZF_ORDER_CNT_AGED = min (s.dev.fld F.AZF_ORDER_CNT_AGED + 1) (2 ^ F.AZF_ORDER_CNT_AGED.width - 1) ∧
        d.fld E.FAB_AGED.bit = 1 ∧ s.dev.keeps d [.regs, .out, .hif, .hlt, .fab])) ∧
  (∀ (s : State) (port : Nat) (e : EgPkt), s.dev.alive = true →
    (16 ≤ port → s.does (.egressSend port) fun d => s.dev.keeps d []) ∧
    ((s.dev.azPort port).queue = [] → s.does (.egressSend port) fun d =>
      (∀ i, d.azPort i = s.dev.azPort i) ∧ s.dev.keeps d [.fab]) ∧
    (port < 16 → (s.dev.azPort port).up = true → (s.dev.azPort port).replay.length < 4096 → (s.dev.azPort port).queue = [e] →
      ((s.dev.azPort port).paused[e.p.cls]?).getD 0 ≤ s.dev.now →
      (e.own = false → s.does (.egressSend port) fun d =>
        d.out = s.dev.out ++ [.packet port (packetArgs e.p) e.p.body] ∧ (d.azPort port).queue = [] ∧
        (d.azPort port).tx = ((s.dev.azPort port).tx + 1) % 4096 ∧
        (d.azPort port).replay = (s.dev.azPort port).replay ++ [((s.dev.azPort port).tx, .packet e.p)] ∧ s.dev.keeps d [.out, .fab]) ∧
      (∀ x, x = s.dev.stream (streamKey e.p.dst e.p.cls) → e.own = true → e.fresh = true → e.ref = none → x.wait = none →
        (x.state = .idle ∨ x.state = .opened) → x.out.length ≤ min 255 (s.dev.fld F.AZF_STREAM_WINDOW_M1) →
        s.dev.flag F.SHP_CTRL_EN = false → s.does (.egressSend port) fun d =>
          d.out = s.dev.out ++ [.packet port (packetArgs { e.p with ssn := x.next, sync := x.out.isEmpty }) e.p.body] ∧
          (d.azPort port).queue = [] ∧
          (d.stream (streamKey e.p.dst e.p.cls)).next = (x.next + 1) % 2 ^ 32 ∧ (d.stream (streamKey e.p.dst e.p.cls)).state = .opened ∧
          (d.stream (streamKey e.p.dst e.p.cls)).out = x.out ++ [{ e.p with ssn := x.next, sync := false }] ∧ s.dev.keeps d [.out, .fab])))

/-- A packet on a port that is not up, or of another operation than its row, does nothing. A packet its stream accepts is taken, and the
stream then expects the next number. A STORE or COPY_WRITE that its region allows writes exactly its bytes; an ADD, FETCH_ADD, CAS or FADD
changes exactly its word as R378 says; a LOAD changes no byte and is answered the bytes; FETCH_ADD and CAS are answered the word as it
was. A refused STORE writes nothing, is counted, and its code is kept for the ACK. A coded copy write whose run is not complete writes
nothing; one that completes its run writes the expanded unit. An ordered STORE of a paddock waits in its open round. The address a
region's BASE names, the end of a coded run and how a round combines are read by inference (log entries 59, 60 and 66). -/
def Obligations.OperationsOfTheFabricReachMemory : Prop :=
  (∀ (s : State) (port op : Nat) (p : Packet) (c : Instr), s.dev.alive = true →
    (c, op) ∈ [(Instr.load port p, 1), (.store port p, 2), (.add port p, 3), (.fetchAdd port p, 4), (.cas port p, 5), (.fadd port p, 6),
      (.copyWrite port p, 0x10), (.copyWriteCoded port p, 0x11), (.msg port p .fragment, 0x20), (.loadRsp port p, 0x81),
      (.addRsp port p, 0x84), (.casRsp port p, 0x85)] →
    (16 ≤ port ∨ p.op ≠ op ∨ 8 ≤ p.cls ∨ (s.dev.azPort port).up = false) → s.does c fun d => s.dev.keeps d []) ∧
  (∀ (s : State) (port : Nat) (p : Packet), s.dev.alive = true → s.dev.inOrder port p → p.op = 0x20 → s.does (.msg port p .fragment) fun d =>
    d.accepted p ∧ s.dev.keeps d [.fab]) ∧
  (∀ (s : State) (port k : Nat) (p : Packet) (c : Instr), s.dev.alive = true → s.dev.inOrder port p → s.dev.fabKey p = .inr k → p.len ≠ 0 →
    ((c, p.op) ∈ [(Instr.store port p, 2), (.copyWrite port p, 0x10)] → p.body.length = p.len → s.does c fun d =>
      d.accepted p ∧ (∀ i (h : i < p.body.length), d.byte (k + i) = p.body[i]) ∧
      (∀ a, (a < k ∨ k + p.len ≤ a) → d.byte a = s.dev.byte a) ∧ s.dev.keeps d [.mem, .poison, .memt, .fab]) ∧
    (∀ i, p.op = 1 → s.dev.reaches p.src p.cls i → s.does (.load port p) fun d =>
      d.accepted p ∧ d.responds i p 0 (s.dev.load k p.len) ∧ s.dev.keeps d [.memt, .fab]) ∧
    (∀ old, (c, p.op) ∈ [(Instr.add port p, 3), (.fadd port p, 6)] → old = s.dev.word k p.len → s.does c fun d =>
      d.accepted p ∧
      (p.op = 3 → d.word k p.len = (old + field p.body 0 p.len) % 2 ^ (8 * p.len)) ∧
      (p.op = 6 → d.load k 4 = leBytes 4 (vecLane .add old (field p.body 0 4) 0)) ∧
      (∀ a, (a < k ∨ k + p.len ≤ a) → d.byte a = s.dev.byte a) ∧ s.dev.keeps d [.mem, .poison, .memt, .fab]) ∧
    (∀ old i, (c, p.op) ∈ [(Instr.fetchAdd port p, 4), (.cas port p, 5)] → old = s.dev.word k p.len → s.dev.reaches p.src p.cls i →
      s.does c fun d =>
        d.accepted p ∧ d.responds i p 0 (leBytes p.len old) ∧
        (p.op = 4 → d.word k p.len = (old + field p.body 0 p.len) % 2 ^ (8 * p.len)) ∧
        (p.op = 5 → d.word k p.len = if field p.body 0 p.len = old then field p.body p.len p.len else old) ∧
        (∀ a, (a < k ∨ k + p.len ≤ a) → d.byte a = s.dev.byte a) ∧ s.dev.keeps d [.mem, .poison, .memt, .fab])) ∧
  (∀ (s : State) (port code : Nat) (p : Packet), s.dev.alive = true → s.dev.inOrder port p → s.dev.fabKey p = .inl code → code ≠ 0 → p.len ≠ 0 →
    p.op = 2 → s.does (.store port p) fun d =>
      d.accepted p ∧ (∃ r x, d.recv? (streamKey p.src p.cls) = some r ∧ r.rsps.getLast? = some (p.ssn, x) ∧ x.status = code) ∧
      d.fld F.AZF_PROT_CNT_REFUSED = min (s.dev.fld F.AZF_PROT_CNT_REFUSED + 1) (2 ^ F.AZF_PROT_CNT_REFUSED.width - 1) ∧
      s.dev.keeps d [.regs, .fab]) ∧
  (∀ (s : State) (port k : Nat) (p : Packet), s.dev.alive = true → s.dev.inOrder port p → s.dev.fabKey p = .inr k → p.len ≠ 0 → p.op = 0x11 →
    s.dev.fab.coded = [] →
    (p.body.length < 16 → s.does (.copyWriteCoded port p) fun d =>
      d.accepted p ∧ d.fab.coded = [((p.src * 8 + p.cls, p.addr), s.dev.now, p.body, p.poison)] ∧ s.dev.keeps d [.fab]) ∧
    (∀ unit, 16 + (readHdr (p.body.take 16)).coded ≤ p.body.length → 16 ≤ p.body.length →
      expandBlock s.dev.cmp (p.body.take 16) (p.body.drop 16) (min 4096 (readHdr (p.body.take 16)).decl) = (unit, none) →
      unit.length = min 4096 (readHdr (p.body.take 16)).decl → s.does (.copyWriteCoded port p) fun d =>
        d.accepted p ∧ d.fab.coded = [] ∧ (∀ i (h : i < unit.length), d.byte (k + i) = unit[i]) ∧
        (∀ a, (a < k ∨ k + unit.length ≤ a) → d.byte a = s.dev.byte a) ∧ s.dev.keeps d [.mem, .poison, .memt, .fab])) ∧
  (∀ (s : State) (port k : Nat) (p : Packet) (r : RecvStream) (x : Round), s.dev.alive = true → port < 16 → (s.dev.azPort port).up = true →
    p.dst = s.dev.me → p.cls < 8 → s.dev.calm → s.dev.flag F.SHP_CTRL_EN = false → p.rsv = false → p.op = 2 → p.len ≠ 0 →
    s.dev.recv? (streamKey p.src p.cls) = some r → r.e = p.ssn → p.sync = false → p.paddock ≠ 0 → p.epoch = s.dev.comp.cur.epoch →
    s.dev.comp.cur.epoch < 2 ^ 32 → s.dev.fabKey p = .inr k → s.dev.ordered p = true → s.dev.roundClosed p = false →
    s.dev.canHold p = true → s.dev.fab.rounds = [x] → x.paddock = p.paddock → x.issue = p.issue → x.ops = [] → x.lost = [] →
    s.does (.store port p) fun d =>
      d.accepted p ∧ (∃ o, d.fab.rounds = [{ x with ops := [o] }] ∧ o.p = p ∧ o.key = k ∧ o.ref = none) ∧ s.dev.keeps d [.regs, .fab])

/-- A response to an outstanding LOAD, FETCH_ADD or CAS completes it: its data land in its core's scratchpad and its counter rises by one.
An ACK of what an open stream holds frees it and completes the stores it covers; one of an idle stream does nothing. A NAK that the
receiver is full makes the stream wait. The resend timer of a stream without progress sends again from its oldest packet and counts;
before its time it does nothing. A receive context unused for 2^20 beats, and an idle send context, is retired, a younger one is not. In
poison mode the operations a dead destination holds complete with FAB_POISON. A STORE that a core issues to another device is registered
and waits for its turn at its port. The numbers responses carry and the statuses an ACK carries are read by inference, where a result
lands is the model's choice (log entries 57, 61 and 65). -/
def Obligations.ResponsesAndAcknowledgementsCompleteOperations : Prop :=
  (∀ (s : State) (port : Nat) (p : Packet) (c : Instr) (o : OutOp), s.dev.alive = true → s.dev.inOrder port p →
    (c, p.op) ∈ [(Instr.loadRsp port p, 0x81), (.addRsp port p, 0x84), (.casRsp port p, 0x85)] → s.dev.fab.ops = [o] → o.first.isSome = true →
    o.p.dst = p.src → o.p.cls = p.cls → o.p.ssn = p.re → o.p.op + 0x80 = p.op → s.dev.fab.releases = [] → s.dev.fab.fences = [] →
    s.dev.replays o.ref = false → p.status = 0 → o.ref.result + p.body.length ≤ 2 ^ 21 → s.does c fun d =>
      d.accepted p ∧ d.fab.ops = [] ∧ (∀ i (h : i < p.body.length), d.byte (scratchKey o.ref.core o.ref.result + i) = p.body[i]) ∧
      (∀ a, (a < scratchKey o.ref.core o.ref.result ∨ scratchKey o.ref.core o.ref.result + p.body.length ≤ a) → d.byte a = s.dev.byte a) ∧
      Tbl.rd (fun _ => 0) (d.core o.ref.core).ctrs o.ref.ctr = (Tbl.rd (fun _ => 0) (s.dev.core o.ref.core).ctrs o.ref.ctr + 1) % 2 ^ 32 ∧
      s.dev.keeps d [.mem, .poison, .sep, .fab]) ∧
  (∀ (s : State) (src cls ssn : Nat) (fails : List (Nat × Nat)) (x : SendStream), s.dev.alive = true →
    x = s.dev.stream (streamKey src cls) →
    (x.state ≠ .opened → s.does (.ack src cls ssn fails) fun d => s.dev.keeps d []) ∧
    (∀ p o, x.state = .opened → x.out = [p] → ssnLe p.ssn ssn = true → s.dev.fab.ops = [o] → o.p = p → p.dst = src → p.cls = cls →
      p.op = 2 → o.first.isSome = true → s.dev.fab.releases = [] → s.dev.fab.fences = [] → fails = [] → s.dev.replays o.ref = false →
      s.does (.ack src cls ssn fails) fun d =>
        (d.stream (streamKey src cls)).out = [] ∧ (d.stream (streamKey src cls)).state = .idle ∧
        (d.stream (streamKey src cls)).retries = 0 ∧ (d.stream (streamKey src cls)).next = x.next ∧ d.fab.ops = [] ∧
        Tbl.rd (fun _ => 0) (d.core o.ref.core).ctrs o.ref.ctr = (Tbl.rd (fun _ => 0) (s.dev.core o.ref.core).ctrs o.ref.ctr + 1) % 2 ^ 32 ∧
        s.dev.keeps d [.sep, .fab])) ∧
  (∀ (s : State) (src cls : Nat) (kind : NakKind) (x : SendStream), s.dev.alive = true → x = s.dev.stream (streamKey src cls) →
    (x.state = .idle ∨ x.out = [] → s.does (.nak src cls kind) fun d => s.dev.keeps d []) ∧
    (x.state = .opened → x.out ≠ [] → s.does (.nak src cls .full) fun d =>
      (d.stream (streamKey src cls)).state = .resend ∧ (d.stream (streamKey src cls)).wait = some (s.dev.now + s.dev.streamBeats) ∧
      (d.stream (streamKey src cls)).out = x.out ∧ s.dev.keeps d [.fab])) ∧
  (∀ (s : State) (dst cls : Nat) (x : SendStream), s.dev.alive = true → x = s.dev.stream (streamKey dst cls) → x.wait = none →
    (x.out = [] ∨ s.dev.now < x.progress + s.dev.streamBeats → s.does (.streamTimer dst cls) fun d => s.dev.keeps d []) ∧
    (∀ p i, x.out = [p] → x.state = .opened → x.progress + s.dev.streamBeats ≤ s.dev.now → cls < 8 →
      x.retries < s.dev.fld F.AZF_STREAM_RETRY_MAX → s.dev.routePort dst = some i → s.does (.streamTimer dst cls) fun d =>
        (d.stream (streamKey dst cls)).state = .resend ∧ (d.stream (streamKey dst cls)).retries = x.retries + 1 ∧
        (∃ e ∈ (d.azPort i).queue, e.p = { p with sync := false } ∧ e.own = true ∧ e.fresh = false) ∧
        d.fld F.AZF_STREAM_CNT_RESENT = min (s.dev.fld F.AZF_STREAM_CNT_RESENT + 1) (2 ^ F.AZF_STREAM_CNT_RESENT.width - 1) ∧
        s.dev.keeps d [.regs, .fab])) ∧
  (∀ (s : State) (dev cls : Nat), s.dev.alive = true →
    (∀ x, Tbl.at? s.dev.fab.recvs (streamKey dev cls) = some x →
      (s.dev.now < x.used + 2 ^ 20 → s.does (.streamContextRetire dev cls false) fun d => s.dev.keeps d []) ∧
      (x.used + 2 ^ 20 ≤ s.dev.now → s.does (.streamContextRetire dev cls false) fun d =>
        Tbl.at? d.fab.recvs (streamKey dev cls) = none ∧
        (∀ k, k ≠ streamKey dev cls → Tbl.at? d.fab.recvs k = Tbl.at? s.dev.fab.recvs k) ∧ s.dev.keeps d [.fab])) ∧
    (∀ x, Tbl.at? s.dev.fab.sends (streamKey dev cls) = some x →
      (x.state ≠ .idle ∨ s.dev.now < x.used + 2 ^ 20 → s.does (.streamContextRetire dev cls true) fun d => s.dev.keeps d []) ∧
      (x.state = .idle → x.used + 2 ^ 20 ≤ s.dev.now → s.dev.fab.waitCtx = [] → s.does (.streamContextRetire dev cls true) fun d =>
        Tbl.at? d.fab.sends (streamKey dev cls) = none ∧
        (∀ k, k ≠ streamKey dev cls → Tbl.at? d.fab.sends k = Tbl.at? s.dev.fab.sends k) ∧ s.dev.keeps d [.fab]))) ∧
  (∀ (s : State) (dst : Nat), s.dev.alive = true →
    (s.dev.isDead dst = false ∨ s.dev.tearsDown = true → s.does (.deadPoisonTimer dst) fun d => s.dev.keeps d []) ∧
    (∀ o, s.dev.isDead dst = true → s.dev.tearsDown = false → s.dev.fab.ops = [o] → o.p.dst = dst → dst ≠ s.dev.me → o.first = none →
      o.p.op = 2 → s.dev.replays o.ref = false → s.dev.fab.releases = [] → s.dev.fab.fences = [] → s.dev.inv? o.ref.inv = none →
      s.does (.deadPoisonTimer dst) fun d =>
        d.fab.ops = [] ∧
        Tbl.rd (fun _ => 0) (d.core o.ref.core).ctrs o.ref.ctr = (Tbl.rd (fun _ => 0) (s.dev.core o.ref.core).ctrs o.ref.ctr + 1) % 2 ^ 32 ∧
        s.dev.keeps d [.sep, .fab])) ∧
  (∀ (s : State) (core addr dst rkey ctr k : Nat) (data : Bytes) (poison arrival : Bool) (j : Job) (i : Inv) (img : Bytes) (q : OpReq)
    (p : Packet), s.dev.alive = true → (s.dev.core core).state = .active → (s.dev.core core).job = some j → s.dev.inv? j.inv = some i →
    s.dev.invImg i = some img → (s.dev.core core).replay = [] → s.dev.fab.ops = [] → s.dev.fab.loops = [] → s.dev.fab.releases = [] →
    opReq (.store addr (some dst) rkey ctr data poison arrival false) = some q →
    p = s.dev.opPacket q i core (launchBeat i (imgEntry img j.entry)) (s.dev.core core).ords → (s.dev.core core).ords < 256 →
    alignOk p = true → p.dst ≠ s.dev.me → s.dev.reaches p.dst p.cls k →
    s.does (.coreRemoteIssue core (.store addr (some dst) rkey ctr data poison arrival false)) fun d =>
      (∃ o, d.fab.ops = [o] ∧ o.p = p ∧ o.ref.core = core ∧ o.first = none) ∧ d.fab.nextOp = s.dev.fab.nextOp + 1 ∧
      (d.core core).ords = (s.dev.core core).ords + (if s.dev.ordered p then 1 else 0) ∧
      (∃ e ∈ (d.azPort k).queue, e.p = p ∧ e.own = true ∧ e.fresh = true) ∧ s.dev.keeps d [.sep, .fab])

/-- A question about a round that is over here, with nothing left to send to the home, is answered with the last number sent in each
class; one about a round still running is kept. A ROUND_DONE records the member's numbers in its open round and in no other. A close of a
round that is not open, or not ready, changes nothing; a ready round with no earlier one of its paddock is applied in key order, its
stores reach memory, and it is closed for good. How a round's records combine is read by inference (log entry 60). -/
def Obligations.RoundsAreAskedDoneAndClosed : Prop :=
  (∀ (s : State) (src pad issue : Nat), s.dev.alive = true → s.dev.fab.asks = [] →
    (s.dev.roundOver pad issue = false → s.does (.roundAsk src pad issue) fun d =>
      d.fab = { s.dev.fab with asks := [(src, pad, issue)] } ∧ s.dev.keeps d [.fab]) ∧
    (∀ i, s.dev.roundOver pad issue = true → (∀ k, k < 16 → (s.dev.azPort k).queue = []) → s.dev.fab.waitCtx = [] →
      s.dev.routePort src = some i → s.does (.roundAsk src pad issue) fun d =>
        d.fab.asks = [] ∧
        (d.azPort i).ctl = (s.dev.azPort i).ctl ++ [.roundDone s.dev.me src pad issue
          ((List.range 8).map fun c => (Tbl.at? s.dev.fab.sends (streamKey src c)).map fun x => (x.next + 2 ^ 32 - 1) % 2 ^ 32)] ∧
        (∀ k, k ≠ i → d.azPort k = s.dev.azPort k) ∧ s.dev.keeps d [.fab])) ∧
  (∀ (s : State) (src pad issue : Nat) (last : List (Option Nat)) (x y : Round), s.dev.alive = true → s.dev.fab.rounds = [x, y] →
    x.paddock = pad → x.issue = issue → s.dev.placeDev src ∈ x.members → x.done = [] → y.issue ≠ issue →
    s.does (.roundDone src pad issue last) fun d =>
      d.fab.rounds = [{ x with done := [(s.dev.placeDev src, last)] }, y] ∧ s.dev.keeps d [.fab]) ∧
  (∀ (s : State) (pad issue : Nat) (x : Round), s.dev.alive = true → s.dev.calm →
    (s.dev.round? pad issue = none → s.does (.roundClose pad issue) fun d => s.dev.keeps d []) ∧
    (s.dev.round? pad issue = some x → s.dev.roundReady x = false → s.does (.roundClose pad issue) fun d => s.dev.keeps d []) ∧
    (∀ o, s.dev.fab.rounds = [x] → x.paddock = pad → x.issue = issue → s.dev.roundReady x = true → x.ops = [o] → o.p.op = 2 →
      o.p.body.length = o.p.len → s.dev.fab.loops = [] → s.does (.roundClose pad issue) fun d =>
        d.fab.rounds = [] ∧ (∃ t, Tbl.at? d.fab.closed pad = some t ∧ issue ≤ t) ∧
        (∀ i (h : i < o.p.body.length), d.byte (o.key + i) = o.p.body[i]) ∧
        (∀ a, (a < o.key ∨ o.key + o.p.len ≤ a) → d.byte a = s.dev.byte a) ∧ s.dev.keeps d [.mem, .poison, .memt, .fab]) ∧
    (∀ o o', s.dev.fab.rounds = [x] → x.paddock = pad → x.issue = issue → s.dev.roundReady x = true → x.ops = [o, o'] → o.p.op = 2 →
      o'.p.op = 2 → o.p.body.length = o.p.len → o'.p.body.length = o.p.len → o'.p.len = o.p.len → o'.key = o.key → o.before o' = true →
      s.dev.fab.loops = [] → s.does (.roundClose pad issue) fun d =>
        (∀ i (h : i < o'.p.body.length), d.byte (o.key + i) = o'.p.body[i]) ∧ s.dev.keeps d [.mem, .poison, .memt, .fab]))

/-- With QPX_CTRL.EN clear QP_PD completes with QP_STATE. QP_PD holds a good domain and refuses a bad one with QP_PD_BAD; QP_CREATE holds
a new pair in reset and refuses a bad record with QP_CREATE_BAD, a number in use with QP_BUSY. A command that names no pair completes with
QP_INVALID; one whose context is evicted waits for it. QP_MODIFY moves reset to ready, ready to error, and error to reset, and refuses the
rest with QP_STATE. QP_DESTROY frees a pair that is not ready. QP_RECV makes descriptors available. QP_POST checks the ring, the state,
the fields and the room in that order; a WRITE of no bytes on an idle ready pair sends one packet; on a pair in error it completes with
QP_FLUSHED. Which contexts are resident, and their backing store, are the model's readings (log entries 62 and 63). -/
def Obligations.QueuePairCommands : Prop :=
  (∀ (s : State) (c : HostCmd), s.dev.alive = true →
    s.dev.takes { rsvOk := argMask true 0 0 0 0, lenOk := fun c => c.hlen == 16 + 4 * field c.data 6 2 } c →
    (s.dev.flag F.QPX_CTRL_EN = false → s.completes (.qpPd c) c C.QP_STATE [] fun e => (s.dev.taken c).keeps e []) ∧
    (s.dev.flag F.QPX_CTRL_EN = true → s.dev.pdBad c.data = true → s.completes (.qpPd c) c C.QP_PD_BAD [] fun e => (s.dev.taken c).keeps e []) ∧
    (s.dev.flag F.QPX_CTRL_EN = true → s.dev.pdBad c.data = false → s.completes (.qpPd c) c C.OK [] fun e =>
      Tbl.at? e.qpx.pds (field c.data 0 2) = some { tenant := field c.data 2 2, job := field c.data 4 2,
                                                    regs := (List.range (field c.data 6 2)).map fun j => field c.data (16 + 4 * j) 4 } ∧
      (∀ k, k ≠ field c.data 0 2 → Tbl.at? e.qpx.pds k = Tbl.at? s.dev.qpx.pds k) ∧ (s.dev.taken c).keeps e [.qpx])) ∧
  (∀ (s : State) (c : HostCmd), s.dev.alive = true → s.dev.takes (recSpec 64 0 0) c → s.dev.flag F.QPX_CTRL_EN = true →
    (s.dev.createBad c.data = true → s.completes (.qpCreate c) c C.QP_CREATE_BAD [] fun e => (s.dev.taken c).keeps e []) ∧
    (s.dev.createBad c.data = false → (s.dev.qp? (field c.data 0 2)).isSome = true → s.completes (.qpCreate c) c C.QP_BUSY [] fun e =>
      (s.dev.taken c).keeps e []) ∧
    (s.dev.createBad c.data = false → s.dev.qp? (field c.data 0 2) = none → s.completes (.qpCreate c) c C.OK [] fun e =>
      (∃ q, e.qp? (field c.data 0 2) = some q ∧ q.state = .reset ∧ q.remote = field c.data 4 2 ∧ q.spsn = field c.data 16 4 ∧
        q.una = field c.data 16 4 ∧ q.epsn = field c.data 20 4 ∧ q.sqRing = field c.data 8 2 ∧ q.wqes = [] ∧ q.used = s.dev.now) ∧
      (∀ k, k ≠ field c.data 0 2 → e.qp? k = s.dev.qp? k) ∧ (s.dev.taken c).keeps e [.qpx])) ∧
  (∀ (s : State) (c : HostCmd) (n : Nat), s.dev.alive = true → s.dev.takes (argSpec 0x3FFFF 0 0) c → s.dev.flag F.QPX_CTRL_EN = true →
    n = c.a0 % 2 ^ 16 →
    (s.dev.qp? n = none → s.completes (.qpModify c) c C.QP_INVALID [] fun e => (s.dev.taken c).keeps e []) ∧
    (∀ q, s.dev.qp? n = some q → q.cache = .evicted → s.does (.qpModify c) fun d =>
      (∃ q', d.qp? n = some q' ∧ q'.cache = .fetching ∧ q'.cmds = q.cmds ++ [.modify c] ∧ q'.state = q.state) ∧
      (s.dev.taken c).keeps d [.qpx]) ∧
    (∀ q, s.dev.qp? n = some q → q.cache = .resident →
      (q.state = .reset → bits c.a0 17 16 = 2 → q.wqes = [] → s.completes (.qpModify c) c C.OK [] fun e =>
        e.qp? n = some { q with state := .ready } ∧ (s.dev.taken c).keeps e [.qpx]) ∧
      (q.state = .ready → bits c.a0 17 16 = 3 → q.wqes = [] → s.completes (.qpModify c) c C.OK [] fun e =>
        (∃ q', e.qp? n = some q' ∧ q'.state = .error ∧ q'.timer = none) ∧ (s.dev.taken c).keeps e [.qpx]) ∧
      (q.state = .error → bits c.a0 17 16 = 1 → s.completes (.qpModify c) c C.OK [] fun e =>
        (∃ q', e.qp? n = some q' ∧ q'.state = .reset ∧ q'.spsn = q.spsn0 ∧ q'.una = q.spsn0 ∧ q'.epsn = q.epsn0 ∧ q'.scnt = 0 ∧ q'.rcnt = 0 ∧
          q'.descs = []) ∧ (s.dev.taken c).keeps e [.qpx]) ∧
      (q.state = .reset → bits c.a0 17 16 ≠ 2 → s.completes (.qpModify c) c C.QP_STATE [] fun e => (s.dev.taken c).keeps e []))) ∧
  (∀ (s : State) (c : HostCmd) (q : Qp), s.dev.alive = true → s.dev.takes (argSpec 0xFFFF 0 0) c → s.dev.flag F.QPX_CTRL_EN = true →
    s.dev.qp? (c.a0 % 2 ^ 16) = some q →
    (q.state = .ready → s.completes (.qpDestroy c) c C.QP_STATE [] fun e => (s.dev.taken c).keeps e []) ∧
    (q.state ≠ .ready → s.dev.qpx.miss = [] → s.completes (.qpDestroy c) c C.OK [] fun e =>
      e.qp? (c.a0 % 2 ^ 16) = none ∧ (∀ k, k ≠ c.a0 % 2 ^ 16 → e.qp? k = s.dev.qp? k) ∧ (s.dev.taken c).keeps e [.qpx])) ∧
  (∀ (s : State) (c : HostCmd) (l : List (Bytes × Bool)) (q : Qp), s.dev.alive = true →
    s.dev.takes { shared := true, rsvOk := argMask false 0xFFFFFFFF 0 0 0 } c → s.dev.flag F.QPX_CTRL_EN = true →
    s.dev.qp? (c.a0 % 2 ^ 16) = some q → q.cache = .resident →
    (q.state = .reset → s.completes (.qpRecv c l) c C.QP_STATE [] fun e => (s.dev.taken c).keeps e []) ∧
    (q.state ≠ .reset → 2 ^ q.rqLog2 < (bits c.a0 31 16 + 2 ^ 16 - q.cons) % 2 ^ 16 → s.completes (.qpRecv c l) c C.QP_WR_BAD [] fun e =>
      (s.dev.taken c).keeps e []) ∧
    (q.state ≠ .reset → (bits c.a0 31 16 + 2 ^ 16 - q.cons) % 2 ^ 16 ≤ 2 ^ q.rqLog2 → s.completes (.qpRecv c l) c C.OK [] fun e =>
      e.qp? (c.a0 % 2 ^ 16) = some { q with prod := bits c.a0 31 16
                                            descs := (q.descs ++ l).take ((bits c.a0 31 16 + 2 ^ 16 - q.cons) % 2 ^ 16) } ∧
      (s.dev.taken c).keeps e [.qpx])) ∧
  (∀ (s : State) (c c' : HostCmd) (bulk : Option Bytes) (q : Qp) (n : Nat), s.dev.alive = true → c' = { c with rsv48 := c.rsv48 / 2 ^ 64 } →
    s.dev.takes { shared := true, lenOk := fun _ => true } c' → s.dev.flag F.QPX_CTRL_EN = true → n = field (wrOf c) 0 2 →
    s.dev.qp? n = some q → q.cache = .resident →
    (q.sqRing ≠ c.ring → s.completes (.qpPost c bulk) c C.QP_RING [] fun e => (s.dev.taken c').keeps e []) ∧
    (q.sqRing = c.ring → q.state = .reset → s.completes (.qpPost c bulk) c C.QP_STATE [] fun e => (s.dev.taken c').keeps e []) ∧
    (∀ k, q.sqRing = c.ring → q.state ≠ .reset → s.dev.wrCheck (wrOf c) = some k → s.completes (.qpPost c bulk) c k [] fun e =>
      (s.dev.taken c').keeps e []) ∧
    (q.sqRing = c.ring → q.state ≠ .reset → s.dev.wrCheck (wrOf c) = none → field (wrOf c) 2 1 ≠ 7 → q.sqDepth ≤ q.wqes.length →
      s.completes (.qpPost c bulk) c C.QP_SQ_FULL [] fun e => (s.dev.taken c').keeps e []) ∧
    (q.sqRing = c.ring → q.state = .error → s.dev.wrCheck (wrOf c) = none → field (wrOf c) 2 1 ≠ 7 → q.wqes.length < q.sqDepth →
      s.does (.qpPost c bulk) fun d =>
        (∃ q', d.qp? n = some q' ∧ q'.scnt = (q.scnt + 1) % 2 ^ 32 ∧ q'.wqes = q.wqes) ∧ s.dev.keeps d [.regs, .out, .hif, .hlt, .qpx]) ∧
    (∀ i, q.sqRing = c.ring → q.state = .ready → s.dev.wrCheck (wrOf c) = none → field (wrOf c) 2 1 = 1 → field (wrOf c) 4 4 = 0 →
      q.wqes = [] → q.sqDepth ≠ 0 → q.rnrWait = none → q.spsn = q.una → q.una < 2 ^ 24 →
      s.dev.reaches (s.dev.resolve q.remote) q.cls i → s.does (.qpPost c bulk) fun d =>
        (∃ q' w, d.qp? n = some q' ∧ q'.wqes = [w] ∧ w.sent = 1 ∧ w.n = 1 ∧ w.psn = q.spsn ∧ w.cmd = cmdRef c ∧
          q'.spsn = (q.spsn + 1) % 2 ^ 24 ∧ q'.timer = some s.dev.now) ∧
        (∃ e ∈ (d.azPort i).queue, e.p.op = 0x20 ∧ e.p.dst = s.dev.resolve q.remote ∧ field e.p.body 0 1 = 1 ∧
          field e.p.body 2 2 = q.rqpn % 2 ^ 16 ∧ field e.p.body 4 4 = q.spsn % 2 ^ 24) ∧
        (s.dev.taken c').keeps d [.regs, .fab, .qpx]))

/-- A row takes only packets of its own QOP. A WRITE of the expected PSN that its pair allows writes exactly its data and is acknowledged,
and the pair then expects the next PSN; one a pair may not write writes nothing. An ACK of the last PSN in flight completes its request;
one that acknowledges nothing new changes no pair. A receiver-not-ready NAK makes the pair wait. A read response lands its data in the
request's local memory and completes it; an atomic response completes its request. A timer that has run out resends and counts; at the
last retry the pair enters error and QP_ERROR is raised; before its time it does nothing. A receiver-not-ready wait ends after its time.
That every request packet is acknowledged and when retries end is read by inference (log entry 62). -/
def Obligations.QueuePairPackets : Prop :=
  (∀ (s : State) (port : Nat) (p : Packet) (c : Instr) (ok : Nat → Bool), s.dev.alive = true →
    c = .qpRequestPacket port p ∧ ok = (fun q => decide (1 ≤ q) && decide (q ≤ 6)) ∨ c = .qpAck port p ∧ ok = (· == 0x40) ∨
      c = .qpNak port p ∧ ok = (· == 0x41) ∨ c = .readRsp port p ∧ ok = (· == 0x42) ∨ c = .atomicRsp port p ∧ ok = (· == 0x43) →
    (16 ≤ port ∨ p.op ≠ 0x20 ∨ 8 ≤ p.cls ∨ ok (field p.body 0 1) = false ∨ (s.dev.azPort port).up = false) → s.does c fun d =>
      s.dev.keeps d []) ∧
  (∀ (s : State) (port : Nat) (p : Packet) (n psn : Nat) (q : Qp), s.dev.alive = true → s.dev.inOrder port p → p.op = 0x20 →
    n = field p.body 2 2 → psn = field p.body 4 4 % 2 ^ 24 → s.dev.flag F.QPX_CTRL_EN = true → s.dev.qp? n = some q → q.cache = .resident →
    q.state = .ready → q.epsn = psn → field p.body 0 1 = 1 → 32 < p.body.length →
    (∀ k i, q.rwEn = true → field p.body 16 8 / 2 ^ 62 = 0 →
      s.dev.pdAccess q.pd (field p.body 16 8) (field p.body 8 4) (p.body.length - 32) 1 true = .inr k → bit (field p.body 1 1) 2 = false →
      s.dev.reaches (s.dev.resolve q.remote) q.cls i → s.does (.qpRequestPacket port p) fun d =>
        d.accepted p ∧ (∀ j (h : j < (p.body.drop 32).length), d.byte (k + j) = (p.body.drop 32)[j]) ∧
        (∀ a, (a < k ∨ k + (p.body.length - 32) ≤ a) → d.byte a = s.dev.byte a) ∧
        (∃ q', d.qp? n = some q' ∧ q'.epsn = (psn + 1) % 2 ^ 24 ∧ q'.state = .ready) ∧
        (∃ e ∈ (d.azPort i).queue, e.p.op = 0x20 ∧ field e.p.body 0 1 = 0x40 ∧ field e.p.body 4 4 = psn) ∧
        s.dev.keeps d [.regs, .mem, .poison, .memt, .fab, .qpx]) ∧
    (q.rwEn = false → q.wqes = [] → s.does (.qpRequestPacket port p) fun d =>
      d.accepted p ∧ (∃ q', d.qp? n = some q' ∧ q'.state = .error) ∧ d.fld E.QP_ERROR.bit = 1 ∧
      s.dev.keeps d [.regs, .out, .hif, .hlt, .sep, .fab, .qpx])) ∧
  (∀ (s : State) (port : Nat) (p : Packet) (n psn : Nat) (q : Qp), s.dev.alive = true → s.dev.inOrder port p → p.op = 0x20 →
    n = field p.body 2 2 → psn = field p.body 4 4 % 2 ^ 24 → s.dev.flag F.QPX_CTRL_EN = true → s.dev.qp? n = some q → q.cache = .resident →
    q.state = .ready →
    (field p.body 0 1 = 0x40 → q.advances psn = false → s.does (.qpAck port p) fun d =>
      d.accepted p ∧ d.qpx = s.dev.qpx ∧ s.dev.keeps d [.regs, .fab]) ∧
    (∀ w, q.wqes = [w] → w.sent = 1 → w.n = 1 → w.psn = psn → q.una = psn → q.spsn = (psn + 1) % 2 ^ 24 →
      (field p.body 0 1 = 0x40 → w.op = 1 → s.does (.qpAck port p) fun d =>
        d.accepted p ∧ (∃ q', d.qp? n = some q' ∧ q'.wqes = [] ∧ q'.una = (psn + 1) % 2 ^ 24 ∧ q'.scnt = (q.scnt + 1) % 2 ^ 32 ∧
          q'.retries = 0 ∧ q'.timer = none) ∧ s.dev.keeps d [.regs, .out, .hif, .hlt, .fab, .qpx]) ∧
      (∀ k, field p.body 0 1 = 0x42 → w.op = 2 → w.got = [] → s.dev.localAddr q.pd w.laddr w.len 1 w.bulk.isSome = .mem k →
        s.does (.readRsp port p) fun d =>
          d.accepted p ∧ (∀ j (h : j < (p.body.drop 32).length), d.byte (k + j) = (p.body.drop 32)[j]) ∧
          (∀ a, (a < k ∨ k + (p.body.length - 32) ≤ a) → d.byte a = s.dev.byte a) ∧
          (∃ q', d.qp? n = some q' ∧ q'.wqes = [] ∧ q'.scnt = (q.scnt + 1) % 2 ^ 32) ∧
          s.dev.keeps d [.regs, .out, .hif, .hlt, .mem, .poison, .memt, .fab, .qpx]) ∧
      (field p.body 0 1 = 0x43 → w.op = 5 → s.does (.atomicRsp port p) fun d =>
        d.accepted p ∧ (∃ q', d.qp? n = some q' ∧ q'.wqes = [] ∧ q'.scnt = (q.scnt + 1) % 2 ^ 32) ∧
        s.dev.keeps d [.regs, .out, .hif, .hlt, .fab, .qpx])) ∧
    (field p.body 0 1 = 0x41 → field p.body 12 2 = C.QP_RNR → q.rnrs + 1 < q.rnrMax → s.does (.qpNak port p) fun d =>
      d.accepted p ∧ d.qp? n = some { q with rnrs := q.rnrs + 1, rnrWait := some (s.dev.now, psn), timer := none } ∧
      s.dev.keeps d [.regs, .fab, .qpx])) ∧
  (∀ (s : State) (n t : Nat) (q : Qp), s.dev.alive = true → s.dev.qp? n = some q → q.timer = some t → q.state = .ready → q.inFlight ≠ 0 →
    s.dev.isLost q.remote = false →
    (s.dev.now < t + 2 ^ q.timerLog2 → s.does (.qpTimer n) fun d => s.dev.keeps d []) ∧
    (t + 2 ^ q.timerLog2 ≤ s.dev.now → q.retries + 1 < q.retryMax → q.wqes = [] → s.does (.qpTimer n) fun d =>
      d.qp? n = some { q with retries := q.retries + 1, timer := some s.dev.now, rnrWait := none } ∧ s.dev.keeps d [.qpx]) ∧
    (t + 2 ^ q.timerLog2 ≤ s.dev.now → q.retryMax ≤ q.retries + 1 → q.wqes = [] → s.does (.qpTimer n) fun d =>
      (∃ q', d.qp? n = some q' ∧ q'.state = .error ∧ q'.timer = none) ∧ d.fld E.QP_ERROR.bit = 1 ∧
      s.dev.keeps d [.regs, .out, .hif, .hlt, .qpx])) ∧
  (∀ (s : State) (n t psn : Nat) (q : Qp), s.dev.alive = true → s.dev.qp? n = some q → q.rnrWait = some (t, psn) → q.state = .ready →
    (s.dev.now < t + 2 ^ q.rnrLog2 → s.does (.rnrWaitExpiry n) fun d => s.dev.keeps d []) ∧
    (t + 2 ^ q.rnrLog2 ≤ s.dev.now → q.wqes = [] → s.does (.rnrWaitExpiry n) fun d =>
      d.qp? n = some { q with timer := some s.dev.now, rnrWait := none } ∧ s.dev.keeps d [.qpx]))

/-- An eviction with 64 places free does nothing; otherwise the least recently used evictable context is written out, and is evicted once
the write is complete. A fetch that reads its context makes it resident; one that fails, or that has not ended after 2^16 beats, raises
QP_CTX_FAIL and leaves the pair in error. A WAIT that is not satisfied stays; a satisfied one completes. SHP_CMD.APPLY stores a good
staged configuration in the meter selected and refuses a bad one, and READ reads one back. A packet a shaper has held for more than 2^20
beats is reported. A waiting packet that its policer lets pass is taken; one it defers goes on waiting. The backing store is the model's
choice, the refusals of a configuration are read by inference (log entries 63 and 67). -/
def Obligations.ContextsWaitsAndShapers : Prop :=
  (∀ s : State, s.dev.alive = true →
    (s.dev.qpPlaces ≤ 4032 → s.does .contextEvict fun d => s.dev.keeps d []) ∧
    (∀ n q, 4032 < s.dev.qpPlaces → (sortBy (fun (a b : Nat × Qp) => decide (a.2.used < b.2.used)) (s.dev.qpx.qps.filter s.dev.evictable)).head? = some (n, q) →
      s.dev.hif.dmaFail = false → s.does .contextEvict fun d =>
        d.qp? n = some { q with cache := .writing } ∧ (∀ k, k ≠ n → d.qp? k = s.dev.qp? k) ∧
        d.out = s.dev.out ++ [.hostWrite (65536 * s.dev.fld F.QPX_CTX_BASE_BASE + 256 * n) []] ∧ s.dev.keeps d [.out, .qpx])) ∧
  (∀ (s : State) (n : Nat) (q : Qp), s.dev.alive = true → s.dev.qp? n = some q →
    (q.cache ≠ .writing → s.does (.contextWriteComplete n) fun d => s.dev.keeps d []) ∧
    (q.cache = .writing → s.does (.contextWriteComplete n) fun d =>
      d.qp? n = some { q with cache := .evicted } ∧
      d.fld F.QPX_CACHE_CNT_EVICT = min (s.dev.fld F.QPX_CACHE_CNT_EVICT + 1) (2 ^ F.QPX_CACHE_CNT_EVICT.width - 1) ∧ s.dev.keeps d [.regs, .qpx])) ∧
  (∀ (s : State) (n : Nat) (q : Qp), s.dev.alive = true → s.dev.qp? n = some q → s.dev.calm → q.cmds = [] → q.wqes = [] →
    s.dev.qpx.miss = [] → q.lost = false →
    (q.cache ≠ .fetching → (s.does (.contextFetchComplete n true) fun d => s.dev.keeps d []) ∧
      s.does (.contextFetchTimeout n) fun d => s.dev.keeps d []) ∧
    (q.cache = .fetching → s.does (.contextFetchComplete n true) fun d =>
      (∃ q', d.qp? n = some q' ∧ q'.cache = .resident ∧ q'.state = q.state ∧ q'.spsn = q.spsn ∧ q'.una = q.una ∧ q'.epsn = q.epsn) ∧
      d.fld F.QPX_CACHE_CNT_FETCH = min (s.dev.fld F.QPX_CACHE_CNT_FETCH + 1) (2 ^ F.QPX_CACHE_CNT_FETCH.width - 1) ∧ s.dev.keeps d [.regs, .qpx]) ∧
    (q.cache = .fetching → s.dev.now < q.fetchAt + 2 ^ 16 → s.does (.contextFetchTimeout n) fun d => s.dev.keeps d []) ∧
    (q.cache = .fetching → (s.does (.contextFetchComplete n false) fun d =>
        (∃ q', d.qp? n = some q' ∧ q'.cache = .resident ∧ q'.state = .error) ∧ d.fld E.QP_CTX_FAIL.bit = 1 ∧
        s.dev.keeps d [.regs, .out, .hif, .hlt, .qpx]) ∧
      (q.fetchAt + 2 ^ 16 ≤ s.dev.now → s.does (.contextFetchTimeout n) fun d =>
        (∃ q', d.qp? n = some q' ∧ q'.cache = .resident ∧ q'.state = .error) ∧ d.fld E.QP_CTX_FAIL.bit = 1 ∧
        s.dev.keeps d [.regs, .out, .hif, .hlt, .qpx]))) ∧
  (∀ (s : State) (n : Nat) (q : Qp) (w : Wqe), s.dev.alive = true → s.dev.qp? n = some q → q.wqes = [w] →
    (w.op ≠ 7 ∨ q.state ≠ .ready ∨ s.dev.waitMet w = false → s.does (.waitSatisfied n) fun d => s.dev.keeps d []) ∧
    (w.op = 7 → q.state = .ready → s.dev.waitMet w = true → q.cache = .resident → s.does (.waitSatisfied n) fun d =>
      (∃ q', d.qp? n = some q' ∧ q'.wqes = [] ∧ q'.scnt = (q.scnt + 1) % 2 ^ 32) ∧ s.dev.keeps d [.regs, .out, .hif, .hlt, .qpx])) ∧
  (∀ (s : State) (i : Nat), s.dev.alive = true → s.dev.serving = .all → i = s.dev.fld F.SHP_SEL_INDEX →
    (s.dev.shpStatus s.dev.stagedShp (s.dev.flag F.SHP_SEL_PL) i ≠ C.OK → s.does .shpCmdApply fun d =>
      d.fld F.SHP_CMD_STAT_STATUS = s.dev.shpStatus s.dev.stagedShp (s.dev.flag F.SHP_SEL_PL) i ∧ d.fld F.SHP_EVT_CFG_REFUSED = 1 ∧
      s.dev.keeps d [.regs]) ∧
    (s.dev.shpStatus s.dev.stagedShp (s.dev.flag F.SHP_SEL_PL) i = C.OK →
      (s.dev.flag F.SHP_SEL_PL = true → s.does .shpCmdApply fun d =>
        d.fld F.SHP_CMD_STAT_STATUS = C.OK ∧ (d.policer i).cfg = s.dev.stagedShp ∧ (d.policer i).tc = (4096 * s.dev.stagedShp.burst : Nat) ∧
        (∀ k, k ≠ i → d.policer k = s.dev.policer k) ∧ d.shp.shapers = s.dev.shp.shapers ∧ s.dev.keeps d [.regs, .shp]) ∧
      (s.dev.flag F.SHP_SEL_PL = false → s.does .shpCmdApply fun d =>
        d.fld F.SHP_CMD_STAT_STATUS = C.OK ∧ (d.shaper i).cfg = s.dev.stagedShp ∧
        (d.shaper i).tc = min ((s.dev.shaper i).tokens s.dev.now) (4096 * s.dev.stagedShp.burst : Nat) ∧
        (∀ k, k ≠ i → d.shaper k = s.dev.shaper k) ∧ d.shp.policers = s.dev.shp.policers ∧ s.dev.keeps d [.regs, .shp])) ∧
    (∀ c, c = (if s.dev.flag F.SHP_SEL_PL then s.dev.policer i else s.dev.shaper i).cfg → s.does .shpCmdRead fun d =>
      d.fld F.SHP_CFG_RATE_RATE = c.rate % 2 ^ F.SHP_CFG_RATE_RATE.width ∧ d.fld F.SHP_CFG_BURST_BURST = c.burst % 2 ^ F.SHP_CFG_BURST_BURST.width ∧
      d.fld F.SHP_CFG_BIND_VALUE = c.value % 2 ^ F.SHP_CFG_BIND_VALUE.width ∧ s.dev.keeps d [.regs])) ∧
  (∀ (s : State) (i : Nat), s.dev.alive = true → i < 4096 →
    ((∀ e ∈ s.dev.heldBy i, s.dev.now ≤ e.since + 2 ^ 20) ∨ rateOk (s.dev.shaper i).heldEvt s.dev.now = false →
      s.does (.shpHeldLong i) fun d => s.dev.keeps d []) ∧
    (∀ e ∈ s.dev.heldBy i, e.since + 2 ^ 20 < s.dev.now → rateOk (s.dev.shaper i).heldEvt s.dev.now = true → s.does (.shpHeldLong i) fun d =>
      d.fld E.SHP_HELD_LONG.bit = 1 ∧ (d.shaper i).heldEvt = some s.dev.now ∧ (d.shaper i).cfg = (s.dev.shaper i).cfg ∧
      s.dev.keeps d [.regs, .out, .hif, .hlt, .shp])) ∧
  (∀ (s : State) (port cls i : Nat) (w : InPkt) (r : RecvStream), s.dev.alive = true → port < 16 → (s.dev.azPort port).ingress = [w] →
    w.p.cls = cls → w.m = .fragment → w.p.op = 0x20 → w.p.rsv = false → w.pol = some [i] → s.dev.flag F.SHP_CTRL_EN = true →
    s.dev.recv? (streamKey w.p.src w.p.cls) = some r → r.e = w.p.ssn → w.p.sync = false →
    ((s.dev.policer i).cfg.yel = false → (s.dev.policer i).cfg.red = false → s.does (.policerMeter port cls) fun d =>
      (d.azPort port).ingress = [] ∧ d.accepted w.p ∧
      d.policer i = ((s.dev.policer i).colour s.dev.now (counted w.p (s.dev.policer i).cfg.overhead) 0).2 ∧ s.dev.keeps d [.shp, .fab]) ∧
    (((s.dev.policer i).colour s.dev.now (counted w.p (s.dev.policer i).cfg.overhead) 0).1 = 2 → (s.dev.policer i).cfg.red = true →
      s.does (.policerMeter port cls) fun d =>
        (d.azPort port).ingress = [w] ∧ d.policer i = s.dev.policer i ∧ d.recv? (streamKey w.p.src w.p.cls) = some { r with used := s.dev.now } ∧
        s.dev.keeps d [.fab]))

/-- A pannier whose header fails its checks raises PAN_HEADER and does nothing else. A region already held is counted and acknowledged
again; with panniers disabled it is refused with PAN_PARK_FULL; with space found it is held and acknowledged. An acknowledgement of a
closed page parks its entry; one for another home's region releases the copy of a holder that leaves. A pull request is refused while
panniers are disabled or the region is not held, and else answered its bytes. A reply to no open request is counted; a region that passes
its checks lands byte for byte in its place. A refusal of an unknown request does nothing. A request without progress is sent once more,
and then reported. -/
def Obligations.PanniersAreParkedServedAndLanded : Prop :=
  (∀ (s : State) (p : Pannier), s.dev.alive = true →
    (panHeaderOk p = false → (s.does (.parkPannier p) fun d => d.fld E.PAN_HEADER.bit = 1 ∧ s.dev.keeps d [.regs, .out, .hif, .hlt]) ∧
      s.does (.pullReply p) fun d => d.fld E.PAN_HEADER.bit = 1 ∧ s.dev.keeps d [.regs, .out, .hif, .hlt]) ∧
    (panHeaderOk p = true → field p.hdr 4 1 = 2 → s.dev.verdict (panHdr p) false = .hold → s.does (.parkPannier p) fun d =>
      d.comp = { s.dev.comp with held := s.dev.comp.held ++ [.park p] } ∧ s.dev.keeps d [.comp]) ∧
    (∀ r, panHeaderOk p = true → field p.hdr 4 1 = 2 → s.dev.verdict (panHdr p) false = .process → p.regions = [r] →
      (∀ h, s.dev.heldAt (panHome p) (panStall p) r.page r.shard = some h → s.does (.parkPannier p) fun d =>
        d.fld F.PAN_PULL_CNT_DUP = min (s.dev.fld F.PAN_PULL_CNT_DUP + 1) (2 ^ F.PAN_PULL_CNT_DUP.width - 1) ∧
        .msg .parkAck (s.dev.resolve (panHome p)) (s.dev.hdrFor (panHome p) 0)
          (ackBytes (panStall p) (panHome p) s.dev.me r.page r.shard C.OK h.desc) ∈ d.out ∧ s.dev.keeps d [.regs, .out]) ∧
      (s.dev.heldAt (panHome p) (panStall p) r.page r.shard = none → s.dev.flag F.PAN_CTRL_EN = false → s.does (.parkPannier p) fun d =>
        d.fld F.PAN_PARK_CNT_REFUSED = min (s.dev.fld F.PAN_PARK_CNT_REFUSED + 1) (2 ^ F.PAN_PARK_CNT_REFUSED.width - 1) ∧
        .msg .parkAck (s.dev.resolve (panHome p)) (s.dev.hdrFor (panHome p) 0)
          (ackBytes (panStall p) (panHome p) s.dev.me r.page r.shard C.PAN_PARK_FULL {}) ∈ d.out ∧ s.dev.keeps d [.regs, .out]) ∧
      (∀ pad frames addr d1 desc, s.dev.heldAt (panHome p) (panStall p) r.page r.shard = none → s.dev.flag F.PAN_CTRL_EN = true →
        s.dev.takeParked (field p.hdr 28 2) (panHome p) (panStall p) r.page r.shard r.size = some (pad, frames, addr, d1) →
        regionBad r (2 ^ field p.hdr 7 1) = (false, false) →
        desc = ({ addr := addr, holder := s.dev.me, tier := 1, cmp := r.cmp, fill := r.fill, crc := r.crc } : Desc) →
        s.does (.parkPannier p) fun d =>
          d.pan.held = s.dev.pan.held ++ [{ home := panHome p, stall := panStall p, page := r.page, shard := r.shard, desc := desc, size := r.size
                                            paddock := pad, frames := frames, poison := false, body := r.body }] ∧
          .msg .parkAck (s.dev.resolve (panHome p)) (s.dev.hdrFor (panHome p) 0)
            (ackBytes (panStall p) (panHome p) s.dev.me r.page r.shard C.OK desc) ∈ d.out ∧ s.dev.keeps d [.out, .kv, .memt, .pan]))) ∧
  (∀ (s : State) (a : ParkAck), s.dev.alive = true → s.dev.verdict a.h true = .process → field a.body 14 2 = C.OK →
    (field a.body 4 2 ≠ s.dev.me → field a.body 6 2 ≠ s.dev.me →
      (s.dev.heldAt (field a.body 4 2) (field a.body 0 4 % 2 ^ 17) (field a.body 8 4) (field a.body 12 2) = none →
        s.does (.parkAck a) fun d => s.dev.keeps d []) ∧
      (∀ h, s.dev.heldAt (field a.body 4 2) (field a.body 0 4 % 2 ^ 17) (field a.body 8 4) (field a.body 12 2) = some h →
        s.does (.parkAck a) fun d => h ∉ d.pan.held ∧ (∀ x ∈ s.dev.pan.held, x ≠ h → x ∈ d.pan.held) ∧
          s.dev.keeps d [.pan, .memt, .hay, .kv])) ∧
    (∀ x desc, field a.body 4 2 = s.dev.me → s.dev.stall? (field a.body 0 4 % 2 ^ 17) = some x →
      (x.pages.ent (field a.body 8 4) (field a.body 12 2)).state = .full → desc = Desc.read (slice a.body 16 16) →
      (x.applyPark (field a.body 8 4) (field a.body 12 2) desc).r.lenParked = x.r.lenParked → x.r.shadowOk = false → x.prePull = none →
      s.dev.comp.pending = none → s.dev.comp.old = none → s.does (.parkAck a) fun d =>
        d.stall? (field a.body 0 4 % 2 ^ 17) = some (x.applyPark (field a.body 8 4) (field a.body 12 2) desc) ∧
        (∀ k, k ≠ field a.body 0 4 % 2 ^ 17 → d.stall? k = s.dev.stall? k) ∧ s.dev.keeps d [.stl, .pan])) ∧
  (∀ (s : State) (q : PullRequest), s.dev.alive = true → s.dev.verdict q.h true = .process → q.pageN = 1 → q.shardN = 1 → q.eager = false →
    (s.dev.flag F.PAN_CTRL_EN = false ∨ s.dev.regionFor q q.pageFirst q.shardFirst = none → s.does (.pullRequest q) fun d =>
      d.out = s.dev.out ++ [.msg .pullRefusal (s.dev.resolve q.h.src) (s.dev.hdrFor q.h.src 0 ++
        [q.home, q.stall, q.pullId, C.PAN_NOT_HELD, q.pageFirst, q.shardFirst]) []] ∧ s.dev.keeps d [.out]) ∧
    (∀ h, s.dev.flag F.PAN_CTRL_EN = true → q.fromWork = false → s.dev.heldAt q.home q.stall q.pageFirst q.shardFirst = some h →
      s.does (.pullRequest q) fun d =>
        (∃ hdr, d.out = s.dev.out ++ [.msg .pullReply (s.dev.resolve q.h.src) (s.dev.hdrFor q.h.src 0)
          (hdr ++ (pageEntry q.pageFirst q.shardFirst h.desc.fill h.desc.cmp h.desc.crc ++ h.body))]) ∧ s.dev.keeps d [.out])) ∧
  (∀ (s : State) (p : Pannier), s.dev.alive = true → panHeaderOk p = true → field p.hdr 4 1 = 1 → s.dev.verdict (panHdr p) true = .process →
    (s.dev.pan.reparks.find? fun x => x.pullId == field p.hdr 24 4) = none →
    (s.dev.pullOf (field p.hdr 24 4) = none → s.does (.pullReply p) fun d =>
      d.fld F.PAN_PULL_CNT_DUP = min (s.dev.fld F.PAN_PULL_CNT_DUP + 1) (2 ^ F.PAN_PULL_CNT_DUP.width - 1) ∧ s.dev.keeps d [.regs]) ∧
    (∀ key pl q n r x, s.dev.pullOf (field p.hdr 24 4) = some (key, pl, q) → q.seqs.contains (field p.hdr 32 4) = false →
      pl.notice = some n → pl.state = .main → pl.waitHeap = false → pl.todo = [] → q.lastSeen = false → bit (field p.hdr 5 1) 1 = false →
      p.regions = [r] → p.opens = [] → regionBad r (2 ^ field p.hdr 7 1) = (false, false) →
      ((s.dev.heap n.paddock).find? fun x => x.key == key && x.use == .page && x.page == r.page && x.shard == r.shard) = some x →
      s.does (.pullReply p) fun d =>
        (∀ i (h : i < r.body.length), d.byte (s.dev.hbmKey n.paddock x.base + i) = r.body[i]) ∧
        (∀ a, (a < s.dev.hbmKey n.paddock x.base ∨ s.dev.hbmKey n.paddock x.base + r.body.length ≤ a) → d.byte a = s.dev.byte a) ∧
        (∃ pl', d.pull? key = some pl' ∧ pl'.state = .main ∧ pl'.landed = pl.landed ++ [{ page := r.page, shard := r.shard, desc := [] }]) ∧
        d.fld F.PAN_PULL_CNT_LANDED = min (s.dev.fld F.PAN_PULL_CNT_LANDED + 1) (2 ^ F.PAN_PULL_CNT_LANDED.width - 1) ∧
        s.dev.keeps d [.regs, .mem, .poison, .kv, .pan])) ∧
  (∀ (s : State) (r : PullNo), s.dev.alive = true → s.dev.verdict r.h true = .process →
    ((s.dev.pan.reparks.find? fun x => x.pullId == r.pullId) = none → s.dev.pullOf r.pullId = none → s.does (.pullRefusal r) fun d =>
      s.dev.keeps d []) ∧
    (∀ x, (s.dev.pan.reparks.find? fun x => x.pullId == r.pullId) = some x → s.does (.pullRefusal r) fun d =>
      d.pan.reparks = (s.dev.pan.reparks.filter fun y => y.pullId != x.pullId) ∧
      d.out = s.dev.out ++ [.msg .parkAck (s.dev.resolve x.msg.home) (s.dev.hdrFor x.msg.home 0)
        (ackBytes x.msg.stall x.msg.home s.dev.me x.msg.page x.msg.shard C.PAN_NOT_HELD {})] ∧ s.dev.keeps d [.out, .pan])) ∧
  (∀ (s : State) (home stall pullId : Nat) (p : Pull) (q : PullReq), s.dev.alive = true → s.dev.pull? (stallKey home stall) = some p →
    p.req pullId = some q →
    (s.dev.now < q.progress + 2 ^ s.dev.fld F.PAN_RETRY_TIMEOUT_LOG2 → s.does (.pullTimeout home stall pullId) fun d => s.dev.keeps d []) ∧
    (q.progress + 2 ^ s.dev.fld F.PAN_RETRY_TIMEOUT_LOG2 ≤ s.dev.now → q.resent = false → s.does (.pullTimeout home stall pullId) fun d =>
      (∃ p' q', d.pull? (stallKey home stall) = some p' ∧ p'.req pullId = some q' ∧ q'.resent = true ∧ q'.progress = s.dev.now) ∧
      (∃ args, d.out = s.dev.out ++ [.msg .pullRequest (s.dev.resolve q.src) args []]) ∧ s.dev.keeps d [.out, .pan]) ∧
    (q.progress + 2 ^ s.dev.fld F.PAN_RETRY_TIMEOUT_LOG2 ≤ s.dev.now → q.resent = true → s.does (.pullTimeout home stall pullId) fun d =>
      d.fld E.PAN_PULL_TIMEOUT.bit = 1))

/-- A ship notice for a model without a record is reported KV_NO_MODEL; another begins a pull that keeps the notice. A report for a stall
not homed here is counted; one of a member not waited for changes nothing; the last one of a ship makes the stall decode and sends the
gate notice, an earlier one leaves the others waited for. A release notice gives up exactly the parked regions it names, and of a
paddock's WORK copies the regions of its stall. A re-park notice asks the departing holder for the region. The end of a loss wait does
nothing for a device not lost, and a shipping stall forgets a lost previous paddock. A rebuilt tail makes its pull ready and reports it; a
failed one is reported with its status. -/
def Obligations.ShipsReleasesAndReparks : Prop :=
  (∀ (s : State) (n : ShipNotice), s.dev.alive = true → s.dev.verdict n.h false = .process →
    (s.dev.model? (StallRec.read n.record).model = none → s.does (.shipNotice n) fun d =>
      (∃ b, d.out = s.dev.out ++ [.msg .pullComplete (s.dev.resolve n.home) (s.dev.hdrFor n.home 0 ++ [n.stall, s.dev.me, C.KV_NO_MODEL]) b]) ∧
      s.dev.keeps d [.out]) ∧
    (∀ m, s.dev.model? (StallRec.read n.record).model = some m → s.does (.shipNotice n) fun d =>
      (∃ p x, d.pull? (stallKey n.home n.stall) = some p ∧ p.notice = some x ∧ x.record = n.record ∧ x.kvEnd = n.kvEnd ∧
        x.home = n.home ∧ x.stall = n.stall ∧ x.paddock = n.paddock) ∧ s.dev.keeps d [.regs, .out, .hif, .hlt, .kv, .pan])) ∧
  (∀ (s : State) (r : PullDone), s.dev.alive = true → s.dev.verdict r.h true = .process →
    (s.dev.stall? r.stall = none → s.does (.pullComplete r) fun d =>
      d.fld F.STL_RETIRE_CNT_STALE = min (s.dev.fld F.STL_RETIRE_CNT_STALE + 1) (2 ^ F.STL_RETIRE_CNT_STALE.width - 1) ∧ s.dev.keeps d [.regs]) ∧
    (∀ x p waiting, s.dev.stall? r.stall = some x → x.phase = .ship p waiting →
      (waiting.contains r.member = false → s.does (.pullComplete r) fun d => s.dev.keeps d []) ∧
      (waiting.contains r.member = true → r.status = 0 → r.lost = [] →
        (waiting.erase r.member ≠ [] → s.does (.pullComplete r) fun d =>
          d.stall? r.stall = some { x.landed r.works with phase := .ship p (waiting.erase r.member) } ∧
          (∀ k, k ≠ r.stall → d.stall? k = s.dev.stall? k) ∧ s.dev.keeps d [.stl]) ∧
        (waiting.erase r.member = [] → x.cancel = false → x.r.state = .ship → (s.dev.servers 2 x.r.model).contains p = true →
          x.prev = none → x.r.shadowOk = false → s.does (.pullComplete r) fun d =>
            (∃ y, d.stall? r.stall = some y ∧ y.r.state = .decode ∧ y.phase = .decode p ∧ y.prev = some p) ∧
            (∀ k, k ≠ r.stall → d.stall? k = s.dev.stall? k) ∧
            d.out = s.dev.out ++ [.msg .gateNotice (s.dev.resolve ((s.dev.rank0Of p).getD 0))
              (s.dev.hdrFor ((s.dev.rank0Of p).getD 0) p ++ [s.dev.me, r.stall, x.r.lenParked, 1]) []] ∧
            s.dev.keeps d [.stl, .out])))) ∧
  (∀ (s : State) (r : ReleaseMsg), s.dev.alive = true → s.dev.verdict r.h true = .process →
    (∀ i k h, r.work = false → r.parked = [(i, k)] → s.dev.heldAt r.home r.stall i k = some h → s.does (.releaseNotice r) fun d =>
      h ∉ d.pan.held ∧ (∀ x ∈ s.dev.pan.held, x ≠ h → x ∈ d.pan.held) ∧ s.dev.keeps d [.pan, .memt, .hay, .kv]) ∧
    (∀ p, r.work = true → r.parked = [] → r.h.paddock = some p → s.dev.pan.pulls = [] → s.does (.releaseNotice r) fun d =>
      (∀ x ∈ d.heap p, x.key = stallKey r.home r.stall → x.use = .parked) ∧
      (∀ x ∈ s.dev.heap p, x.key ≠ stallKey r.home r.stall → x ∈ d.heap p) ∧
      (∀ x, Tbl.at? d.kv.execs (stallKey r.home r.stall) = some x → x.paddock ≠ p) ∧ s.dev.keeps d [.kv, .pan])) ∧
  (∀ (s : State) (r : ReparkMsg), s.dev.alive = true → s.dev.verdict r.h true = .process → s.does (.reparkNotice r) fun d =>
    d.pan.nextPull = (s.dev.pan.nextPull + 1) % 2 ^ 32 ∧ d.pan.reparks = s.dev.pan.reparks ++ [{ pullId := s.dev.pan.nextPull, msg := r }] ∧
    d.out = s.dev.out ++ [.msg .pullRequest (s.dev.resolve r.departing) (s.dev.hdrFor r.departing 0 ++
      [r.stall, r.home, s.dev.pan.nextPull, r.page, 1, r.shard, 1, 0, 0]) []] ∧ s.dev.keeps d [.out, .pan]) ∧
  (∀ (s : State) (dev : Nat), s.dev.alive = true →
    (s.dev.isLost dev = false → s.does (.lossParkWaitEnd dev) fun d => s.dev.keeps d []) ∧
    (∀ id x q, s.dev.isLost dev = true → s.dev.stl.stalls = [(id, x)] → x.r.state = .ship → x.phase.paddock = none → x.prev = some q →
      (s.dev.paddockDevs q).contains dev = true → Tbl.at? s.dev.hlt.tpads q = none →
      (∀ e ∈ x.pages.all, e.2.state ≠ .parked ∨ e.2.park.holder ≠ dev) → s.does (.lossParkWaitEnd dev) fun d =>
        d.stall? id = some { x with prev := none } ∧ s.dev.keeps d [.stl])) ∧
  (∀ (s : State) (home stall status : Nat) (p : Pull) (n : ShipNotice), s.dev.alive = true → s.dev.pull? (stallKey home stall) = some p →
    p.notice = some n →
    (p.state ≠ .rebuild → s.does (.tailRebuildComplete home stall status) fun d => s.dev.keeps d []) ∧
    (p.state = .rebuild → status / 256 = 0 → s.does (.tailRebuildComplete home stall status) fun d =>
      (∃ p', d.pull? (stallKey home stall) = some p' ∧ p'.state = .ready ∧ p'.rebuildFrom = none) ∧
      (∃ b, d.out = s.dev.out ++ [.msg .pullComplete (s.dev.resolve n.home) (s.dev.hdrFor n.home 0 ++ [n.stall, s.dev.me, 0]) b]) ∧
      s.dev.keeps d [.out, .kv, .pan]) ∧
    (p.state = .rebuild → status / 256 ≠ 0 → abandoned status = false → s.does (.tailRebuildComplete home stall status) fun d =>
      (∃ b, d.out = s.dev.out ++ [.msg .pullComplete (s.dev.resolve n.home) (s.dev.hdrFor n.home 0 ++ [n.stall, s.dev.me, status]) b]) ∧
      s.dev.keeps d [.out]))

/-- HEALTH_DECAY takes a thirty-second of every accumulator away, not below REPLACE * 64 for a failed part, and leaves the failed marks
and the four counters. HEARTBEAT_SEND at a multiple of 256 beats makes every linked port owe a heartbeat, and at any other beat does
nothing. A passed self-test makes an unready spare ready where it may serve and its score is below WARN, and a failed one does nothing. A
write of 1 to HLT_ASK clears the request for replacement and its pin. Setting HLT_TANDEM.EN notes the beat; HLT_TANDEM_BAD raises its
event once 2^20 beats have passed without mirroring, and nothing before. HLT_LAG marks each held invocation whose partner's digest is late
and raises its event. The rounding of the decay is read by inference (log entry 100). -/
def Obligations.HealthDecaysSparesAndTandems : Prop :=
  (∀ s : State, s.dev.alive = true → s.does .healthDecay fun d =>
    (∀ kind i, (d.part kind i).acc =
        (if (s.dev.part kind i).failed then
          max ((s.dev.part kind i).acc - (s.dev.part kind i).acc / 32) (min (s.dev.part kind i).acc (s.dev.fld F.HLT_THRESH_REPLACE * 64))
        else (s.dev.part kind i).acc - (s.dev.part kind i).acc / 32) ∧
      (d.part kind i).failed = (s.dev.part kind i).failed ∧ (d.part kind i).ce = (s.dev.part kind i).ce ∧
      (d.part kind i).retry = (s.dev.part kind i).retry ∧ (d.part kind i).retrain = (s.dev.part kind i).retrain ∧
      (d.part kind i).ue = (s.dev.part kind i).ue) ∧
    s.dev.keeps d [.regs, .out, .hif, .hlt]) ∧
  (∀ s : State, s.dev.alive = true →
    (s.dev.now % 256 ≠ 0 → s.does .heartbeatSend fun d => s.dev.keeps d []) ∧
    (s.dev.now % 256 = 0 → s.does .heartbeatSend fun d =>
      (∀ i, i < 16 → d.azPort i = if (s.dev.azPort i).linked then { s.dev.azPort i with hbDue := true, hbAt := s.dev.now } else s.dev.azPort i) ∧
      s.dev.keeps d [.fab])) ∧
  (∀ (s : State) (pass : Bool), s.dev.alive = true →
    (s.dev.hlt.spare = .unready → pass = true → s.dev.flag F.HLT_CTRL_SPARE_EN = true → s.dev.score 0 0 < s.dev.fld F.HLT_THRESH_WARN →
      s.does (.spareSelfTestDone pass) fun d => d.hlt = { s.dev.hlt with spare := .ready } ∧ s.dev.keeps d [.hlt]) ∧
    ((s.dev.hlt.spare ≠ .unready ∨ pass = false ∨ s.dev.flag F.HLT_CTRL_SPARE_EN = false ∨ s.dev.fld F.HLT_THRESH_WARN ≤ s.dev.score 0 0) →
      s.does (.spareSelfTestDone pass) fun d => s.dev.keeps d [])) ∧
  (∀ s : State, s.dev.alive = true → s.dev.serving = .all → s.does .hltAskRelease fun d =>
    d.hlt = { s.dev.hlt with askReplace := false } ∧
    d.out = s.dev.out ++ (if s.dev.hlt.askReplace then [.pin .askReplace false] else []) ∧ s.dev.keeps d [.regs, .out, .hlt]) ∧
  (∀ (s : State) (v : Nat), s.dev.alive = true → s.dev.serving = .all → s.dev.flag F.HLT_TANDEM_EN = false → bit v 0 = true →
    s.does (.hltTandemEn v) fun d => d.flag F.HLT_TANDEM_EN = true ∧
      d.hlt = { s.dev.hlt with enAt := some s.dev.now, tandemBad := false } ∧ s.dev.keeps d [.regs, .hlt]) ∧
  (∀ (s : State) (b : Nat), s.dev.alive = true → s.dev.hlt.enAt = some b → s.dev.flag F.HLT_TANDEM_EN = true → s.dev.hlt.active = false →
    s.dev.hlt.tandemBad = false →
    (s.dev.now < b + 2 ^ 20 → s.does .hltTandemBad fun d => s.dev.keeps d []) ∧
    (b + 2 ^ 20 ≤ s.dev.now → s.does .hltTandemBad fun d =>
      d.hlt.tandemBad = true ∧ d.fld E.HLT_TANDEM_BAD.bit = 1 ∧ s.dev.keeps d [.regs, .out, .hif, .hlt])) ∧
  (∀ s : State, s.dev.alive = true → s.does .hltLag fun d =>
    d.hlt.heldInvs = s.dev.hlt.heldInvs.map (fun (h : HeldInv) =>
      if h.outcome.isNone && h.ended + 2 ^ s.dev.fld F.HLT_TANDEM_LAG_LOG2 ≤ s.dev.now then { h with lagged := true } else h) ∧
    ((∃ h ∈ s.dev.hlt.heldInvs, h.outcome = none ∧ h.lagged = false ∧ h.ended + 2 ^ s.dev.fld F.HLT_TANDEM_LAG_LOG2 ≤ s.dev.now) →
      d.hlt.lastCode = C.HLT_LAG) ∧ s.dev.keeps d [.regs, .out, .hif, .hlt])

/-- A vote message whose CRC or reserved fields are wrong, or that was seen before, does nothing. A new one is queued on every linked
port; a call opens its vote (not with COMPAT set), a ballot is recorded with its sender, a declare is kept until it is due. A silent
neighbour, a device in degraded service and the partner of a lost device each open a vote of kind LOSS, EXPEL and SUBST; with COMPAT set a
silent neighbour only raises HLT_SUSPECT, a device that is not degraded calls nothing, and outside a tandem none is called for
substitution. A tally with nothing due does nothing; a LOSS vote without a LOST ballot closes with no other effect than its count; with
LOST and ALIVE ballots it raises HLT_SPLIT; with LOST ballots alone on this device, the device takes role none. What COMPAT and a clear EN
leave a device to do is read by inference (log entry 75). -/
def Obligations.VotesOpenCollectAndClose : Prop :=
  (∀ (s : State) (m : VoteMsg) (c : Instr), s.dev.alive = true →
    (c = .voteCall m ∧ m.vmsg = 1 ∨ c = .voteBallot m ∧ m.vmsg = 2 ∨ c = .voteDeclare m ∧ m.vmsg = 3) →
    ((m.ok = false ∨ s.dev.hlt.seen.contains [m.vmsg, m.vkind, m.subject, m.callBeat, m.caller, m.sender] = true) →
      s.does c fun d => s.dev.keeps d []) ∧
    (m.ok = true → s.dev.hlt.seen.contains [m.vmsg, m.vkind, m.subject, m.callBeat, m.caller, m.sender] = false → s.does c fun d =>
      (∀ i, i < 16 → (s.dev.azPort i).linked = true → .vote m ∈ (d.azPort i).ctl) ∧
      (∀ i, i < 16 → (s.dev.azPort i).linked = false → d.azPort i = s.dev.azPort i) ∧
      d.hlt.seen.contains [m.vmsg, m.vkind, m.subject, m.callBeat, m.caller, m.sender] = true ∧
      (m.vmsg = 1 → s.dev.flag F.HLT_CTRL_COMPAT = false → ∃ v ∈ d.hlt.votes, v.vkind = m.vkind ∧ v.subject = m.subject ∧ v.callBeat ≤ m.callBeat) ∧
      (m.vmsg = 2 → s.dev.flag F.HLT_CTRL_COMPAT = false → ∃ v ∈ d.hlt.votes, v.vkind = m.vkind ∧ v.subject = m.subject ∧
        ∃ b ∈ v.ballots, b.sender = m.sender) ∧
      (m.vmsg ≠ 3 → s.dev.flag F.HLT_CTRL_COMPAT = true → d.hlt.votes = s.dev.hlt.votes) ∧
      (m.vmsg = 3 → d.hlt.declares = s.dev.hlt.declares ++ [m] ∧ d.hlt.votes = s.dev.hlt.votes) ∧ s.dev.keeps d [.fab, .hlt])) ∧
  (∀ (s : State) (x : Nat) (idle : Bool), s.dev.alive = true →
    (s.dev.portsTo x = [] → s.does (.neighbourSilent x idle) fun d => s.dev.keeps d []) ∧
    (s.dev.portsTo x ≠ [] → x ≠ s.dev.me → s.dev.flag F.HLT_CTRL_COMPAT = true → (idle = true ∨ s.dev.silent x = true) →
      s.does (.neighbourSilent x idle) fun d => d.fld E.HLT_SUSPECT.bit = 1 ∧ d.hlt.votes = s.dev.hlt.votes ∧
        s.dev.keeps d [.regs, .out, .hif, .hlt]) ∧
    (s.dev.portsTo x ≠ [] → x ≠ s.dev.me → s.dev.mayCall = true → (idle = true ∨ s.dev.silent x = true) → s.dev.isLost x = false →
      (∀ v ∈ s.dev.hlt.votes, ¬(v.vkind = 1 ∧ v.subject = x)) → Tbl.at? s.dev.hlt.lossEnd x = none →
      s.dev.hlt.seen.contains [1, 1, x, s.dev.now, s.dev.me, s.dev.me] = false →
      s.does (.neighbourSilent x idle) fun d =>
        (∃ v ∈ d.hlt.votes, v.vkind = 1 ∧ v.subject = x ∧ v.callBeat = s.dev.now ∧ v.caller = s.dev.me) ∧ s.dev.keeps d [.fab, .hlt])) ∧
  (∀ s : State, s.dev.alive = true →
    (s.dev.degraded = false → s.does .expelCall fun d => s.dev.keeps d []) ∧
    (s.dev.degraded = true → s.dev.mayCall = true → s.dev.pwr.state ≠ .stabled → s.dev.hlt.spare ≠ .loading → s.dev.hlt.loads = [] →
      (∀ v ∈ s.dev.hlt.votes, ¬(v.vkind = 2 ∧ v.subject = s.dev.me)) → Tbl.at? s.dev.hlt.aliases s.dev.me = none → s.dev.hlt.expelKept = none →
      s.dev.hlt.seen.contains [1, 2, s.dev.me, s.dev.now, s.dev.me, s.dev.me] = false → s.does .expelCall fun d =>
        d.hlt.askReplace = true ∧ (∃ v ∈ d.hlt.votes, v.vkind = 2 ∧ v.subject = s.dev.me ∧ v.callBeat = s.dev.now ∧ v.score = s.dev.score 0 0) ∧
        s.dev.keeps d [.out, .fab, .hlt])) ∧
  (∀ s : State, s.dev.alive = true →
    (s.dev.flag F.HLT_TANDEM_EN = false → s.does .substCall fun d => s.dev.keeps d []) ∧
    (s.dev.mayCall = true → s.dev.flag F.HLT_TANDEM_EN = true → s.dev.isLost (partnerOf s.dev.me) = true →
      Tbl.at? s.dev.hlt.aliases (partnerOf s.dev.me) = none → s.dev.hlt.substAt = none → s.dev.hlt.votes = [] →
      s.dev.hlt.seen.contains [1, 3, partnerOf s.dev.me, s.dev.now, s.dev.me, s.dev.me] = false → s.does .substCall fun d =>
        d.hlt.substAt = some s.dev.now ∧ (∃ v ∈ d.hlt.votes, v.vkind = 3 ∧ v.subject = partnerOf s.dev.me ∧ v.callBeat = s.dev.now) ∧
        s.dev.keeps d [.fab, .hlt])) ∧
  (∀ s : State, s.dev.alive = true →
    ((∀ v ∈ s.dev.hlt.votes, s.dev.now < v.callBeat + voteWindow v.vkind + 512) → (∀ m ∈ s.dev.hlt.declares, s.dev.now < m.callBeat + 512) →
      s.does .voteTally fun d => s.dev.keeps d []) ∧
    (∀ v, s.dev.hlt.votes = [v] → s.dev.hlt.declares = [] → v.callBeat + 1024 ≤ s.dev.now → v.vkind = 1 →
      (∀ b ∈ v.ballots, b.cast ≤ v.callBeat + 512) →
      ((∀ b ∈ v.ballots, b.ballot ≠ 1) → s.does .voteTally fun d =>
        d.hlt = { s.dev.hlt with votes := [], lossEnd := Tbl.put s.dev.hlt.lossEnd v.subject s.dev.now } ∧
        d.fld F.HLT_VOTE_CNT_CALLS = min (s.dev.fld F.HLT_VOTE_CNT_CALLS + 1) (2 ^ F.HLT_VOTE_CNT_CALLS.width - 1) ∧ s.dev.keeps d [.regs, .hlt]) ∧
      ((∃ b ∈ v.ballots, b.ballot = 1) → (∃ b ∈ v.ballots, b.ballot = 2) → v.own ≠ some 1 → s.does .voteTally fun d =>
        d.hlt.votes = [] ∧ d.fld E.HLT_SPLIT.bit = 1 ∧ s.dev.keeps d [.regs, .out, .hif, .hlt]) ∧
      ((∃ b ∈ v.ballots, b.ballot = 1) → (∀ b ∈ v.ballots, b.ballot ≠ 2) → v.subject = s.dev.me → s.dev.isLost s.dev.me = false →
        s.dev.sep.invs = [] → s.dev.flag F.HLT_TANDEM_EN = false → s.does .voteTally fun d =>
          d.hlt.votes = [] ∧ d.hlt.stripped = true ∧ d.comp.role = 0 ∧ d.hlt.askReplace = true ∧ d.isLost s.dev.me = true ∧
          (∀ x ∈ s.dev.comp.cur.memberships s.dev.me, (d.sepPad x.paddock).halted = true) ∧
          s.dev.keeps d [.regs, .out, .comp, .hif, .hlt, .sep])))

/-- HLT_CKPT of a mapped range (kind 3) writes the image to host memory and completes with its length, where the room suffices; a bad
subject or too little room completes with HLT_CKPT_BAD. HLT_RESTORE of an image with a bad magic number completes with HLT_RESTORE_BAD; of
a good kind-3 image it stores the bytes where they were. HLT_DECLARE outside COMPAT, or of a subject not in the map, completes with
HLT_DECLARE_BAD; otherwise the declaration is kept until its beat. A cutover of a spare that is not loading does nothing, one of another
device ends its load, and one of this device makes it active and raises HLT_REJOINED. A digest of nothing held or running here is counted
and discarded; one of a running invocation is kept. That a checkpoint's copies are one step, and the codes of a restore, are the model's
choice (log entry 81). -/
def Obligations.CheckpointsDeclarationsAndCutovers : Prop :=
  (∀ (s : State) (c : HostCmd) (regions : List Bytes), s.dev.alive = true →
    s.dev.takes { rsvOk := argMask true 0x1FF (2 ^ 64 - 1) (2 ^ 64 - 1) (2 ^ 64 - 1) } c →
    (∀ code, (s.dev.taken c).ckptBody (c.a0 % 2 ^ 8) c.a1 c.a2 regions = .inl code →
      s.completes (.hltCkpt c regions) c code [] fun e => (s.dev.taken c).keeps e []) ∧
    (c.a0 % 2 ^ 8 = 3 → c.a1 < 2 ^ 48 → c.a1 + c.a2 ≤ 2 ^ 48 → (s.dev.taken c).mapped c.a1 c.a2 = true →
      (c.a3 < 64 + c.a2 → s.completes (.hltCkpt c regions) c C.HLT_CKPT_BAD [] fun e => (s.dev.taken c).keeps e []) ∧
      (64 + c.a2 ≤ c.a3 → bit c.a0 8 = false → s.dev.hif.dmaFail = false →
        s.completes (.hltCkpt c regions) c C.OK (leBytes 8 (64 + c.a2)) fun e =>
          e.out = (s.dev.taken c).out ++ [.hostWrite c.haddr (ckptImage 3 s.dev.now c.a1 c.a2 ((s.dev.taken c).load (memKey 4 c.a1) c.a2))] ∧
          (s.dev.taken c).keeps e [.out]))) ∧
  (∀ (s : State) (c : HostCmd) (image header : Bytes), s.dev.alive = true →
    s.dev.takes { rsvOk := argMask true 0x100 (2 ^ 64 - 1) 0 0 } c → bit c.a0 8 = false →
    (field image 0 4 ≠ 0x54504B43 → s.completes (.hltRestore c image header) c C.HLT_RESTORE_BAD [] fun e => (s.dev.taken c).keeps e []) ∧
    (∀ beat a body, image = ckptImage 3 beat a body.length body → a < 2 ^ 48 → beat < 2 ^ 64 → a + body.length ≤ 2 ^ 48 →
      (s.dev.taken c).mapped a body.length = true → s.dev.flat → s.completes (.hltRestore c image header) c C.OK (leBytes 4 0) fun e =>
        (∀ k x, body[k]? = some x → e.byte (memKey 4 (a + k)) = x) ∧
        (∀ m, (∀ k, k < body.length → m ≠ memKey 4 (a + k)) → e.byte m = s.dev.byte m) ∧
        (s.dev.taken c).keeps e [.mem, .poison, .memt])) ∧
  (∀ (s : State) (c : HostCmd), s.dev.alive = true → s.dev.takes (argSpec 0xFF 0xFFFFFFFF 0) c →
    ((s.dev.flag F.HLT_CTRL_COMPAT = false ∨ s.dev.comp.cur.entry (c.a1 % 2 ^ 16) = none) →
      s.completes (.hltDeclare c) c C.HLT_DECLARE_BAD [] fun e => (s.dev.taken c).keeps e []) ∧
    (s.dev.flag F.HLT_CTRL_COMPAT = true → (s.dev.comp.cur.entry (c.a1 % 2 ^ 16)).isSome = true → c.a0 = 1 → bits c.a1 31 16 = 0xFFFF →
      s.dev.hlt.seen.contains [3, 1, c.a1 % 2 ^ 16, s.dev.now, 0xFFFF, s.dev.me] = false →
      s.completes (.hltDeclare c) c C.OK [] fun e =>
        e.hlt.declares = s.dev.hlt.declares ++ [{ vmsg := 3, vkind := 1, subject := c.a1 % 2 ^ 16, sender := s.dev.me, callBeat := s.dev.now
                                                  caller := 0xFFFF, epoch := s.dev.comp.cur.epoch }] ∧
        (s.dev.taken c).keeps e [.fab, .hlt])) ∧
  (∀ (s : State) (subject spare : Nat), s.dev.alive = true → s.dev.hlt.tpads = [] → s.dev.stl.stalls = [] →
    (spare = s.dev.me → subject ≠ spare → s.dev.hlt.spare ≠ .loading → s.does (.loadCutover subject spare {}) fun d => s.dev.keeps d []) ∧
    (spare ≠ s.dev.me → subject ≠ s.dev.me → s.does (.loadCutover subject spare {}) fun d =>
      d.hlt = { s.dev.hlt with loads := s.dev.hlt.loads.filter fun x => x.2 != spare } ∧ s.dev.keeps d [.hlt]) ∧
    (spare = s.dev.me → subject ≠ spare → s.dev.hlt.spare = .loading → s.dev.hlt.spareFor = some subject → s.dev.pwr.state ≠ .waking →
      s.does (.loadCutover subject spare {}) fun d =>
        d.hlt.spare = .active ∧ (∀ x ∈ d.hlt.loads, x.2 ≠ spare) ∧ d.fld E.HLT_REJOINED.bit = 1 ∧
        (∀ x ∈ s.dev.comp.cur.memberships s.dev.me, (d.sepPad x.paddock).halted = false) ∧
        s.dev.keeps d [.regs, .out, .hif, .hlt, .sep])) ∧
  (∀ (s : State) (src : Nat) (body : Bytes), s.dev.alive = true →
    ((s.dev.mirrored (field body 0 2) = false ∨ src ≠ partnerOf s.dev.me ∨ s.dev.sep.invs = []) → s.does (.digest src body) fun d =>
      d.fld F.HLT_MIRROR_CNT_STRAY = min (s.dev.fld F.HLT_MIRROR_CNT_STRAY + 1) (2 ^ F.HLT_MIRROR_CNT_STRAY.width - 1) ∧ s.dev.keeps d [.regs]) ∧
    (s.dev.mirrored (field body 0 2) = true → src = partnerOf s.dev.me →
      (∃ x ∈ s.dev.sep.invs, x.2.paddock = field body 0 2 ∧ x.2.base = field body 8 8 ∧ x.2.refused = none) → s.dev.hlt.heldInvs = [] →
      s.does (.digest src body) fun d =>
        d.hlt = { s.dev.hlt with digests := s.dev.hlt.digests ++ [{ src := src, paddock := field body 0 2, rank := field body 2 2, base := field body 8 8
                                                                    digest := field body 16 8, err := bit (field body 4 1) 0, score := field body 24 2 }] } ∧
        s.dev.keeps d [.hlt]))

/-- For every stall record whose fields lie in their widths, its bytes are 128, the CRC field is that of the record with the field zero,
reserved fields are zero, and reading the bytes gives the record back, in every state code. -/
def Obligations.StallRecordsReadBack : Prop :=
  ∀ r : StallRec, r.id < 2 ^ 17 → r.tenant < 2 ^ 12 → r.cls < 2 ^ 3 → r.model < 2 ^ 16 → r.deadline < 2 ^ 64 →
    r.lenCommit < 2 ^ 32 → r.lenTent < 2 ^ 32 → r.lenPrompt < 2 ^ 32 → r.lenLimit < 2 ^ 32 → r.lenParked < 2 ^ 32 → r.lenDeliv < 2 ^ 32 →
    r.pageList < 2 ^ 64 → r.seed < 2 ^ 64 → r.penTable < 2 ^ 64 → r.tokLog < 2 ^ 64 → r.samp < 2 ^ 64 → r.mapEpoch < 2 ^ 32 →
    r.home < 2 ^ 15 → r.shadow < 2 ^ 15 → r.exec < 2 ^ 15 → r.ring < 2 ^ 14 → r.altRing < 2 ^ 14 → r.tag < 2 ^ 16 →
    r.arrive < 2 ^ 64 → r.version < 2 ^ 32 → r.status < 2 ^ 16 → r.bulkSeg < 2 ^ 16 →
    StallRec.read r.bytes = r ∧ r.bytes.length = 128 ∧ field r.bytes 116 4 = crc32c r.plain % 2 ^ 32 ∧
    field r.bytes 4 1 = r.state.code ∧ field r.bytes 110 2 = 0 ∧ field r.bytes 114 2 = 0 ∧ field r.bytes 120 8 = 0

/-- The bytes of a number are as many as asked for, byte i is bits 8i to 8i + 7 of it, and they read back as the number modulo its width.
A page descriptor whose fields fit is 16 bytes that read back as it. -/
def Obligations.BytesAreLittleEndianAndDescriptorsReadBack : Prop :=
  (∀ n x : Nat, (leBytes n x).length = n ∧ leNat (leBytes n x) = x % 256 ^ n ∧
    ∀ i (h : i < (leBytes n x).length), ((leBytes n x)[i]).toNat = x / 256 ^ i % 256) ∧
  (∀ (a b : Bytes), leNat (a ++ b) = leNat a + 256 ^ a.length * leNat b) ∧
  ∀ x : Desc, x.addr < 2 ^ 40 → x.holder < 2 ^ 15 → x.tier < 4 → x.fill < 2 ^ 13 → x.crc < 2 ^ 32 →
    Desc.read x.bytes = x ∧ x.bytes.length = 16

/-- Raising an event never lets more than 1,024 wait. With all 1,024 places full the events that wait and everything written out stand,
HLT_EVT_LOST rises by one (it saturates), and the event's bit is set. With events enabled, a place free and the event ring not open the
event joins behind those that wait, under the next event number. Whenever events are written, those written are the first that wait, in
their order, and the rest go on waiting. -/
def Obligations.FaultEventsWaitUpToTheLimit : Prop :=
  (∀ (d : Dev) (e : Evt) (kind index detail : Nat) (subject : Option Nat), d.hlt.events.length ≤ 1024 →
    (d.raise e kind index detail subject).hlt.events.length ≤ 1024) ∧
  (∀ (d : Dev) (e : Evt) (kind index detail : Nat) (subject : Option Nat), 1024 ≤ d.hlt.events.length → e.bit.lo < 64 → e.bit.width = 1 →
    e.bit.off ∉ [F.DBG_TRIG_ARM.off, F.DBG_TRIG_FIRED.off, F.DBG_TRIG_BEAT_BEAT.off, F.HLT_EVT_LOST_LOST.off] →
    (d.raise e kind index detail subject).hlt.events = d.hlt.events ∧ (d.raise e kind index detail subject).out = d.out ∧
    (d.raise e kind index detail subject).fld F.HLT_EVT_LOST_LOST =
      min (d.fld F.HLT_EVT_LOST_LOST + 1) (2 ^ F.HLT_EVT_LOST_LOST.width - 1) ∧
    (d.raise e kind index detail subject).fld e.bit = 1) ∧
  (∀ (d : Dev) (e : Evt) (kind index detail : Nat) (subject : Option Nat), d.hlt.events.length < 1024 → d.flag F.HLT_CTRL_EVT_EN = true →
    (d.cplRing (d.fld F.HLT_CTRL_EVT_RING)).en = false →
    e.bit.off ∉ [F.DBG_TRIG_ARM.off, F.DBG_TRIG_FIRED.off, F.DBG_TRIG_BEAT_BEAT.off, F.HLT_EVT_LOST_LOST.off, F.HLT_CTRL_EVT_EN.off] →
    ∃ sub score, (d.raise e kind index detail subject).hlt.events =
      d.hlt.events ++ [.fault e.code ((d.hlt.seq + 1) % 2 ^ 32) sub kind index score d.now detail]) ∧
  ∀ (d : Dev) (l : List Cpl), d.hif.dmaFail = false → ∃ k, (d.drainEvents l).hlt.events = l.drop k ∧
    (d.drainEvents l).out.filterMap Put.cplOf = d.out.filterMap Put.cplOf ++ l.take k

/-- When host software reads the queue, no request is open and every level is empty, the item returned is 64 bytes: OPCODE 0x00, bytes 1
to 55 zero, and bytes 56 to 63 the cadence count at the read; the queue and every other piece of the part stand. -/
def Obligations.AReadOfAnEmptyIntakeReturnsTheIdleItem : Prop :=
  ∀ s : State, s.dev.alive = true → s.dev.serving = .all → s.dev.flag F.INTK_CTRL_MANUAL = true → s.dev.stl.openLvl = none →
    s.dev.headLevel = none → s.does .intkCmdNext fun d =>
      d.stl.pop.length = 64 ∧ field d.stl.pop 0 1 = 0 ∧ (∀ i, 1 ≤ i → i ≤ 55 → d.stl.pop[i]? = some 0) ∧
      field d.stl.pop 56 8 = s.dev.now % 2 ^ 64 ∧ (∀ l, d.level l = s.dev.level l) ∧ s.dev.keeps d [.regs, .stl]

/-- A change of a stall that its shadow must learn of raises the record's VERSION by one modulo 2^32 and sends exactly one replication,
which carries that VERSION and the record. At the shadow, a copy whose VERSION follows the one held by 1 to 2^31 - 1 replaces the entry,
or clears it when its state is free, and is acknowledged; any other copy is discarded and nothing changes. -/
def Obligations.ReplicationVersionsDecide : Prop :=
  (∀ (d : Dev) (id : Nat) (old new : Stall), new.r.shadowOk = true → old.r.watched ≠ new.r.watched →
    (∃ y, (d.setStall id old new).stall? id = some y ∧ y.r = { new.r with version := (new.r.version + 1) % 2 ^ 32 } ∧
      ∃ tail, (d.setStall id old new).out = d.out ++ [.msg .replicate new.r.shadow
        [id, (new.r.version + 1) % 2 ^ 32, old.r.lenCommit, new.r.lenCommit - old.r.lenCommit] (y.r.bytes ++ tail)])) ∧
  ∀ (s : State) (m : ReplMsg) (e : ShadowEnt), s.dev.alive = true → Tbl.at? s.dev.stl.shadow (stallKey m.src m.stall) = some e →
    (1 ≤ (field m.record 104 4 + 2 ^ 32 - e.r.version) % 2 ^ 32 → (field m.record 104 4 + 2 ^ 32 - e.r.version) % 2 ^ 32 ≤ 2 ^ 31 - 1 →
      s.does (.replication m) fun d =>
        (((StallRec.read m.record).state = .free → Tbl.at? d.stl.shadow (stallKey m.src m.stall) = none) ∧
         ((StallRec.read m.record).state ≠ .free → Tbl.at? d.stl.shadow (stallKey m.src m.stall) = some (e.store m))) ∧
        (∀ k, k ≠ stallKey m.src m.stall → Tbl.at? d.stl.shadow k = Tbl.at? s.dev.stl.shadow k) ∧
        d.out = s.dev.out ++ [.msg .replicateAck m.src [m.stall, field m.record 104 4] []] ∧ s.dev.keeps d [.out, .stl]) ∧
    (((field m.record 104 4 + 2 ^ 32 - e.r.version) % 2 ^ 32 = 0 ∨ 2 ^ 31 ≤ (field m.record 104 4 + 2 ^ 32 - e.r.version) % 2 ^ 32) →
      s.does (.replication m) fun d => s.dev.keeps d [])

/-- The device's score is the least bound of its own score, the scores of the five dies, of the eight stacks, a quarter of each port's and
an eighth of each flash target's; a die's of its own and a quarter of each of its cores' (the yard die has none); a port's of its own and
half of each of its lanes'; every other part's is its own. No score exceeds 1,023. -/
def Obligations.ScoresRollUp : Prop :=
  ∀ d : Dev,
    (∀ b, d.score 0 0 ≤ b ↔ (d.part 0 0).own ≤ b ∧ (∀ e, e < 5 → d.score 1 e ≤ b) ∧ (∀ k, k < 8 → d.score 3 k ≤ b) ∧
      (∀ p, p < 16 → d.score 4 p / 4 ≤ b) ∧ ∀ t, t < 256 → d.score 6 t / 8 ≤ b) ∧
    (∀ e b, e < 4 → (d.score 1 e ≤ b ↔ (d.part 1 e).own ≤ b ∧ ∀ c, c < 136 → d.score 2 (136 * e + c) / 4 ≤ b)) ∧
    d.score 1 4 = (d.part 1 4).own ∧
    (∀ p b, p < 16 → (d.score 4 p ≤ b ↔ (d.part 4 p).own ≤ b ∧ ∀ l, l < 8 → d.score 5 (8 * p + l) / 2 ≤ b)) ∧
    (∀ k i, (k = 2 ∨ k = 3 ∨ k = 5 ∨ k = 6) → d.score k i = (d.part k i).own) ∧
    ∀ k i, d.score k i ≤ 1023

/-- The stall the allocator names is free, lies in the table of 131,072, and every lower-numbered one is in use; with as many or fewer
stalls free as PROMOTE_RSV no request is assigned one. A shard of a model lies at the one member whose rank is the floor of the shard
times the members over the shards. LEN_PARKED is the page size times the length of the longest run of page indices from 0 whose entries
are all parked or gone. The length bucket is 0 up to 1,024 positions, then one more for each doubling, at most 12. -/
def Obligations.StallsAreAllocatedLowestFirst : Prop :=
  (∀ (d : Dev) (k : Nat), d.lowestStall = some k → k < 131072 ∧ d.stall? k = none ∧ ∀ j, j < k → (d.stall? j).isSome = true) ∧
  (∀ d : Dev, d.lowestStall = none → ∀ j, j < 131072 → (d.stall? j).isSome = true) ∧
  (∀ (d : Dev) (q : QItem) (items : List Bytes), d.freeStalls ≤ d.fld F.STL_CTRL_PROMOTE_RSV → d.assign q items = none) ∧
  (∀ shards n r s, s ∈ shardsOf shards n r ↔ s < shards ∧ shardRank shards n s = r) ∧
  (∀ shards n s, s < shards → 0 < n → shardRank shards n s < n) ∧
  (∀ p : PageList, p.shards ≠ 0 → ∃ k, p.parkedLen = p.np * k ∧ k ≤ p.npage ∧
    (∀ i, i < k → ∀ s, s < p.shards → (p.ent i s).state = .parked ∨ (p.ent i s).state = .gone) ∧
    (k < p.npage → ∃ s, s < p.shards ∧ (p.ent k s).state ≠ .parked ∧ (p.ent k s).state ≠ .gone)) ∧
  (∀ n, n ≤ 1024 → bucketOf n = 0) ∧
  (∀ n b, 1 ≤ b → b ≤ 12 → 2 ^ (9 + b) < n → n ≤ 2 ^ (10 + b) → bucketOf n = b) ∧ ∀ n, bucketOf n ≤ 12
end

