-- ==== Sys2Proof/Laws/State.lean ====
section
/-!
SUPPORT. Laws/State.lean: what each update of the part leaves alone, one lemma per field per update, so that no later proof unfolds a
record update.
-/

namespace Sys2Proof.Machine

variable (d : Dev)

/-! `setReg` changes `regs` alone. -/

@[simp] theorem Dev.setReg_mem (o : Nat) (v : Word) : (d.setReg o v).mem = d.mem := rfl
@[simp] theorem Dev.setReg_poison (o : Nat) (v : Word) : (d.setReg o v).poison = d.poison := rfl
@[simp] theorem Dev.setReg_out (o : Nat) (v : Word) : (d.setReg o v).out = d.out := rfl
@[simp] theorem Dev.setReg_fresh (o : Nat) (v : Word) : (d.setReg o v).fresh = d.fresh := rfl
@[simp] theorem Dev.setReg_pwr (o : Nat) (v : Word) : (d.setReg o v).pwr = d.pwr := rfl
@[simp] theorem Dev.setReg_therm (o : Nat) (v : Word) : (d.setReg o v).therm = d.therm := rfl
@[simp] theorem Dev.setReg_tap (o : Nat) (v : Word) : (d.setReg o v).tap = d.tap := rfl
@[simp] theorem Dev.setReg_cad (o : Nat) (v : Word) : (d.setReg o v).cad = d.cad := rfl
@[simp] theorem Dev.setReg_comp (o : Nat) (v : Word) : (d.setReg o v).comp = d.comp := rfl
@[simp] theorem Dev.setReg_hif (o : Nat) (v : Word) : (d.setReg o v).hif = d.hif := rfl
@[simp] theorem Dev.setReg_hlt (o : Nat) (v : Word) : (d.setReg o v).hlt = d.hlt := rfl
@[simp] theorem Dev.setReg_stl (o : Nat) (v : Word) : (d.setReg o v).stl = d.stl := rfl
@[simp] theorem Dev.setReg_kv (o : Nat) (v : Word) : (d.setReg o v).kv = d.kv := rfl
@[simp] theorem Dev.setReg_pan (o : Nat) (v : Word) : (d.setReg o v).pan = d.pan := rfl
@[simp] theorem Dev.setReg_srch (o : Nat) (v : Word) : (d.setReg o v).srch = d.srch := rfl
@[simp] theorem Dev.setReg_memt (o : Nat) (v : Word) : (d.setReg o v).memt = d.memt := rfl
@[simp] theorem Dev.setReg_hay (o : Nat) (v : Word) : (d.setReg o v).hay = d.hay := rfl
@[simp] theorem Dev.setReg_fab (o : Nat) (v : Word) : (d.setReg o v).fab = d.fab := rfl
@[simp] theorem Dev.setReg_shp (o : Nat) (v : Word) : (d.setReg o v).shp = d.shp := rfl
@[simp] theorem Dev.setReg_qpx (o : Nat) (v : Word) : (d.setReg o v).qpx = d.qpx := rfl
@[simp] theorem Dev.setReg_cmp (o : Nat) (v : Word) : (d.setReg o v).cmp = d.cmp := rfl
@[simp] theorem Dev.setReg_sep (o : Nat) (v : Word) : (d.setReg o v).sep = d.sep := rfl

/-! `setFld` changes `regs` alone. -/

@[simp] theorem Dev.setFld_mem (f : Fld) (v : Nat) : (d.setFld f v).mem = d.mem := rfl
@[simp] theorem Dev.setFld_poison (f : Fld) (v : Nat) : (d.setFld f v).poison = d.poison := rfl
@[simp] theorem Dev.setFld_out (f : Fld) (v : Nat) : (d.setFld f v).out = d.out := rfl
@[simp] theorem Dev.setFld_fresh (f : Fld) (v : Nat) : (d.setFld f v).fresh = d.fresh := rfl
@[simp] theorem Dev.setFld_pwr (f : Fld) (v : Nat) : (d.setFld f v).pwr = d.pwr := rfl
@[simp] theorem Dev.setFld_therm (f : Fld) (v : Nat) : (d.setFld f v).therm = d.therm := rfl
@[simp] theorem Dev.setFld_tap (f : Fld) (v : Nat) : (d.setFld f v).tap = d.tap := rfl
@[simp] theorem Dev.setFld_cad (f : Fld) (v : Nat) : (d.setFld f v).cad = d.cad := rfl
@[simp] theorem Dev.setFld_comp (f : Fld) (v : Nat) : (d.setFld f v).comp = d.comp := rfl
@[simp] theorem Dev.setFld_hif (f : Fld) (v : Nat) : (d.setFld f v).hif = d.hif := rfl
@[simp] theorem Dev.setFld_hlt (f : Fld) (v : Nat) : (d.setFld f v).hlt = d.hlt := rfl
@[simp] theorem Dev.setFld_stl (f : Fld) (v : Nat) : (d.setFld f v).stl = d.stl := rfl
@[simp] theorem Dev.setFld_kv (f : Fld) (v : Nat) : (d.setFld f v).kv = d.kv := rfl
@[simp] theorem Dev.setFld_pan (f : Fld) (v : Nat) : (d.setFld f v).pan = d.pan := rfl
@[simp] theorem Dev.setFld_srch (f : Fld) (v : Nat) : (d.setFld f v).srch = d.srch := rfl
@[simp] theorem Dev.setFld_memt (f : Fld) (v : Nat) : (d.setFld f v).memt = d.memt := rfl
@[simp] theorem Dev.setFld_hay (f : Fld) (v : Nat) : (d.setFld f v).hay = d.hay := rfl
@[simp] theorem Dev.setFld_fab (f : Fld) (v : Nat) : (d.setFld f v).fab = d.fab := rfl
@[simp] theorem Dev.setFld_shp (f : Fld) (v : Nat) : (d.setFld f v).shp = d.shp := rfl
@[simp] theorem Dev.setFld_qpx (f : Fld) (v : Nat) : (d.setFld f v).qpx = d.qpx := rfl
@[simp] theorem Dev.setFld_cmp (f : Fld) (v : Nat) : (d.setFld f v).cmp = d.cmp := rfl
@[simp] theorem Dev.setFld_sep (f : Fld) (v : Nat) : (d.setFld f v).sep = d.sep := rfl

/-! `count` changes `regs` alone. -/

@[simp] theorem Dev.count_mem (f : Fld) (n : Nat) : (d.count f n).mem = d.mem := rfl
@[simp] theorem Dev.count_poison (f : Fld) (n : Nat) : (d.count f n).poison = d.poison := rfl
@[simp] theorem Dev.count_out (f : Fld) (n : Nat) : (d.count f n).out = d.out := rfl
@[simp] theorem Dev.count_fresh (f : Fld) (n : Nat) : (d.count f n).fresh = d.fresh := rfl
@[simp] theorem Dev.count_pwr (f : Fld) (n : Nat) : (d.count f n).pwr = d.pwr := rfl
@[simp] theorem Dev.count_therm (f : Fld) (n : Nat) : (d.count f n).therm = d.therm := rfl
@[simp] theorem Dev.count_tap (f : Fld) (n : Nat) : (d.count f n).tap = d.tap := rfl
@[simp] theorem Dev.count_cad (f : Fld) (n : Nat) : (d.count f n).cad = d.cad := rfl
@[simp] theorem Dev.count_comp (f : Fld) (n : Nat) : (d.count f n).comp = d.comp := rfl
@[simp] theorem Dev.count_hif (f : Fld) (n : Nat) : (d.count f n).hif = d.hif := rfl
@[simp] theorem Dev.count_hlt (f : Fld) (n : Nat) : (d.count f n).hlt = d.hlt := rfl
@[simp] theorem Dev.count_stl (f : Fld) (n : Nat) : (d.count f n).stl = d.stl := rfl
@[simp] theorem Dev.count_kv (f : Fld) (n : Nat) : (d.count f n).kv = d.kv := rfl
@[simp] theorem Dev.count_pan (f : Fld) (n : Nat) : (d.count f n).pan = d.pan := rfl
@[simp] theorem Dev.count_srch (f : Fld) (n : Nat) : (d.count f n).srch = d.srch := rfl
@[simp] theorem Dev.count_memt (f : Fld) (n : Nat) : (d.count f n).memt = d.memt := rfl
@[simp] theorem Dev.count_hay (f : Fld) (n : Nat) : (d.count f n).hay = d.hay := rfl
@[simp] theorem Dev.count_fab (f : Fld) (n : Nat) : (d.count f n).fab = d.fab := rfl
@[simp] theorem Dev.count_shp (f : Fld) (n : Nat) : (d.count f n).shp = d.shp := rfl
@[simp] theorem Dev.count_qpx (f : Fld) (n : Nat) : (d.count f n).qpx = d.qpx := rfl
@[simp] theorem Dev.count_cmp (f : Fld) (n : Nat) : (d.count f n).cmp = d.cmp := rfl
@[simp] theorem Dev.count_sep (f : Fld) (n : Nat) : (d.count f n).sep = d.sep := rfl

/-! `raiseTo` changes `regs` alone. -/

@[simp] theorem Dev.raiseTo_mem (f : Fld) (v : Nat) : (d.raiseTo f v).mem = d.mem := rfl
@[simp] theorem Dev.raiseTo_poison (f : Fld) (v : Nat) : (d.raiseTo f v).poison = d.poison := rfl
@[simp] theorem Dev.raiseTo_out (f : Fld) (v : Nat) : (d.raiseTo f v).out = d.out := rfl
@[simp] theorem Dev.raiseTo_fresh (f : Fld) (v : Nat) : (d.raiseTo f v).fresh = d.fresh := rfl
@[simp] theorem Dev.raiseTo_pwr (f : Fld) (v : Nat) : (d.raiseTo f v).pwr = d.pwr := rfl
@[simp] theorem Dev.raiseTo_therm (f : Fld) (v : Nat) : (d.raiseTo f v).therm = d.therm := rfl
@[simp] theorem Dev.raiseTo_tap (f : Fld) (v : Nat) : (d.raiseTo f v).tap = d.tap := rfl
@[simp] theorem Dev.raiseTo_cad (f : Fld) (v : Nat) : (d.raiseTo f v).cad = d.cad := rfl
@[simp] theorem Dev.raiseTo_comp (f : Fld) (v : Nat) : (d.raiseTo f v).comp = d.comp := rfl
@[simp] theorem Dev.raiseTo_hif (f : Fld) (v : Nat) : (d.raiseTo f v).hif = d.hif := rfl
@[simp] theorem Dev.raiseTo_hlt (f : Fld) (v : Nat) : (d.raiseTo f v).hlt = d.hlt := rfl
@[simp] theorem Dev.raiseTo_stl (f : Fld) (v : Nat) : (d.raiseTo f v).stl = d.stl := rfl
@[simp] theorem Dev.raiseTo_kv (f : Fld) (v : Nat) : (d.raiseTo f v).kv = d.kv := rfl
@[simp] theorem Dev.raiseTo_pan (f : Fld) (v : Nat) : (d.raiseTo f v).pan = d.pan := rfl
@[simp] theorem Dev.raiseTo_srch (f : Fld) (v : Nat) : (d.raiseTo f v).srch = d.srch := rfl
@[simp] theorem Dev.raiseTo_memt (f : Fld) (v : Nat) : (d.raiseTo f v).memt = d.memt := rfl
@[simp] theorem Dev.raiseTo_hay (f : Fld) (v : Nat) : (d.raiseTo f v).hay = d.hay := rfl
@[simp] theorem Dev.raiseTo_fab (f : Fld) (v : Nat) : (d.raiseTo f v).fab = d.fab := rfl
@[simp] theorem Dev.raiseTo_shp (f : Fld) (v : Nat) : (d.raiseTo f v).shp = d.shp := rfl
@[simp] theorem Dev.raiseTo_qpx (f : Fld) (v : Nat) : (d.raiseTo f v).qpx = d.qpx := rfl
@[simp] theorem Dev.raiseTo_cmp (f : Fld) (v : Nat) : (d.raiseTo f v).cmp = d.cmp := rfl
@[simp] theorem Dev.raiseTo_sep (f : Fld) (v : Nat) : (d.raiseTo f v).sep = d.sep := rfl

/-! `total` changes `regs` alone. -/

@[simp] theorem Dev.total_mem (f : Fld) (n : Nat) : (d.total f n).mem = d.mem := rfl
@[simp] theorem Dev.total_poison (f : Fld) (n : Nat) : (d.total f n).poison = d.poison := rfl
@[simp] theorem Dev.total_out (f : Fld) (n : Nat) : (d.total f n).out = d.out := rfl
@[simp] theorem Dev.total_fresh (f : Fld) (n : Nat) : (d.total f n).fresh = d.fresh := rfl
@[simp] theorem Dev.total_pwr (f : Fld) (n : Nat) : (d.total f n).pwr = d.pwr := rfl
@[simp] theorem Dev.total_therm (f : Fld) (n : Nat) : (d.total f n).therm = d.therm := rfl
@[simp] theorem Dev.total_tap (f : Fld) (n : Nat) : (d.total f n).tap = d.tap := rfl
@[simp] theorem Dev.total_cad (f : Fld) (n : Nat) : (d.total f n).cad = d.cad := rfl
@[simp] theorem Dev.total_comp (f : Fld) (n : Nat) : (d.total f n).comp = d.comp := rfl
@[simp] theorem Dev.total_hif (f : Fld) (n : Nat) : (d.total f n).hif = d.hif := rfl
@[simp] theorem Dev.total_hlt (f : Fld) (n : Nat) : (d.total f n).hlt = d.hlt := rfl
@[simp] theorem Dev.total_stl (f : Fld) (n : Nat) : (d.total f n).stl = d.stl := rfl
@[simp] theorem Dev.total_kv (f : Fld) (n : Nat) : (d.total f n).kv = d.kv := rfl
@[simp] theorem Dev.total_pan (f : Fld) (n : Nat) : (d.total f n).pan = d.pan := rfl
@[simp] theorem Dev.total_srch (f : Fld) (n : Nat) : (d.total f n).srch = d.srch := rfl
@[simp] theorem Dev.total_memt (f : Fld) (n : Nat) : (d.total f n).memt = d.memt := rfl
@[simp] theorem Dev.total_hay (f : Fld) (n : Nat) : (d.total f n).hay = d.hay := rfl
@[simp] theorem Dev.total_fab (f : Fld) (n : Nat) : (d.total f n).fab = d.fab := rfl
@[simp] theorem Dev.total_shp (f : Fld) (n : Nat) : (d.total f n).shp = d.shp := rfl
@[simp] theorem Dev.total_qpx (f : Fld) (n : Nat) : (d.total f n).qpx = d.qpx := rfl
@[simp] theorem Dev.total_cmp (f : Fld) (n : Nat) : (d.total f n).cmp = d.cmp := rfl
@[simp] theorem Dev.total_sep (f : Fld) (n : Nat) : (d.total f n).sep = d.sep := rfl

/-! `setByte` changes `mem` alone. -/

@[simp] theorem Dev.setByte_regs (a : Nat) (b : Byte) : (d.setByte a b).regs = d.regs := rfl
@[simp] theorem Dev.setByte_poison (a : Nat) (b : Byte) : (d.setByte a b).poison = d.poison := rfl
@[simp] theorem Dev.setByte_out (a : Nat) (b : Byte) : (d.setByte a b).out = d.out := rfl
@[simp] theorem Dev.setByte_fresh (a : Nat) (b : Byte) : (d.setByte a b).fresh = d.fresh := rfl
@[simp] theorem Dev.setByte_pwr (a : Nat) (b : Byte) : (d.setByte a b).pwr = d.pwr := rfl
@[simp] theorem Dev.setByte_therm (a : Nat) (b : Byte) : (d.setByte a b).therm = d.therm := rfl
@[simp] theorem Dev.setByte_tap (a : Nat) (b : Byte) : (d.setByte a b).tap = d.tap := rfl
@[simp] theorem Dev.setByte_cad (a : Nat) (b : Byte) : (d.setByte a b).cad = d.cad := rfl
@[simp] theorem Dev.setByte_comp (a : Nat) (b : Byte) : (d.setByte a b).comp = d.comp := rfl
@[simp] theorem Dev.setByte_hif (a : Nat) (b : Byte) : (d.setByte a b).hif = d.hif := rfl
@[simp] theorem Dev.setByte_hlt (a : Nat) (b : Byte) : (d.setByte a b).hlt = d.hlt := rfl
@[simp] theorem Dev.setByte_stl (a : Nat) (b : Byte) : (d.setByte a b).stl = d.stl := rfl
@[simp] theorem Dev.setByte_kv (a : Nat) (b : Byte) : (d.setByte a b).kv = d.kv := rfl
@[simp] theorem Dev.setByte_pan (a : Nat) (b : Byte) : (d.setByte a b).pan = d.pan := rfl
@[simp] theorem Dev.setByte_srch (a : Nat) (b : Byte) : (d.setByte a b).srch = d.srch := rfl
@[simp] theorem Dev.setByte_memt (a : Nat) (b : Byte) : (d.setByte a b).memt = d.memt := rfl
@[simp] theorem Dev.setByte_hay (a : Nat) (b : Byte) : (d.setByte a b).hay = d.hay := rfl
@[simp] theorem Dev.setByte_fab (a : Nat) (b : Byte) : (d.setByte a b).fab = d.fab := rfl
@[simp] theorem Dev.setByte_shp (a : Nat) (b : Byte) : (d.setByte a b).shp = d.shp := rfl
@[simp] theorem Dev.setByte_qpx (a : Nat) (b : Byte) : (d.setByte a b).qpx = d.qpx := rfl
@[simp] theorem Dev.setByte_cmp (a : Nat) (b : Byte) : (d.setByte a b).cmp = d.cmp := rfl
@[simp] theorem Dev.setByte_sep (a : Nat) (b : Byte) : (d.setByte a b).sep = d.sep := rfl

/-! `setCmdRing` changes `hif` alone. -/

@[simp] theorem Dev.setCmdRing_regs (r : Nat) (c : CmdRing) : (d.setCmdRing r c).regs = d.regs := rfl
@[simp] theorem Dev.setCmdRing_mem (r : Nat) (c : CmdRing) : (d.setCmdRing r c).mem = d.mem := rfl
@[simp] theorem Dev.setCmdRing_poison (r : Nat) (c : CmdRing) : (d.setCmdRing r c).poison = d.poison := rfl
@[simp] theorem Dev.setCmdRing_out (r : Nat) (c : CmdRing) : (d.setCmdRing r c).out = d.out := rfl
@[simp] theorem Dev.setCmdRing_fresh (r : Nat) (c : CmdRing) : (d.setCmdRing r c).fresh = d.fresh := rfl
@[simp] theorem Dev.setCmdRing_pwr (r : Nat) (c : CmdRing) : (d.setCmdRing r c).pwr = d.pwr := rfl
@[simp] theorem Dev.setCmdRing_therm (r : Nat) (c : CmdRing) : (d.setCmdRing r c).therm = d.therm := rfl
@[simp] theorem Dev.setCmdRing_tap (r : Nat) (c : CmdRing) : (d.setCmdRing r c).tap = d.tap := rfl
@[simp] theorem Dev.setCmdRing_cad (r : Nat) (c : CmdRing) : (d.setCmdRing r c).cad = d.cad := rfl
@[simp] theorem Dev.setCmdRing_comp (r : Nat) (c : CmdRing) : (d.setCmdRing r c).comp = d.comp := rfl
@[simp] theorem Dev.setCmdRing_hlt (r : Nat) (c : CmdRing) : (d.setCmdRing r c).hlt = d.hlt := rfl
@[simp] theorem Dev.setCmdRing_stl (r : Nat) (c : CmdRing) : (d.setCmdRing r c).stl = d.stl := rfl
@[simp] theorem Dev.setCmdRing_kv (r : Nat) (c : CmdRing) : (d.setCmdRing r c).kv = d.kv := rfl
@[simp] theorem Dev.setCmdRing_pan (r : Nat) (c : CmdRing) : (d.setCmdRing r c).pan = d.pan := rfl
@[simp] theorem Dev.setCmdRing_srch (r : Nat) (c : CmdRing) : (d.setCmdRing r c).srch = d.srch := rfl
@[simp] theorem Dev.setCmdRing_memt (r : Nat) (c : CmdRing) : (d.setCmdRing r c).memt = d.memt := rfl
@[simp] theorem Dev.setCmdRing_hay (r : Nat) (c : CmdRing) : (d.setCmdRing r c).hay = d.hay := rfl
@[simp] theorem Dev.setCmdRing_fab (r : Nat) (c : CmdRing) : (d.setCmdRing r c).fab = d.fab := rfl
@[simp] theorem Dev.setCmdRing_shp (r : Nat) (c : CmdRing) : (d.setCmdRing r c).shp = d.shp := rfl
@[simp] theorem Dev.setCmdRing_qpx (r : Nat) (c : CmdRing) : (d.setCmdRing r c).qpx = d.qpx := rfl
@[simp] theorem Dev.setCmdRing_cmp (r : Nat) (c : CmdRing) : (d.setCmdRing r c).cmp = d.cmp := rfl
@[simp] theorem Dev.setCmdRing_sep (r : Nat) (c : CmdRing) : (d.setCmdRing r c).sep = d.sep := rfl

/-! `setCplRing` changes `hif` alone. -/

@[simp] theorem Dev.setCplRing_regs (r : Nat) (c : CplRing) : (d.setCplRing r c).regs = d.regs := rfl
@[simp] theorem Dev.setCplRing_mem (r : Nat) (c : CplRing) : (d.setCplRing r c).mem = d.mem := rfl
@[simp] theorem Dev.setCplRing_poison (r : Nat) (c : CplRing) : (d.setCplRing r c).poison = d.poison := rfl
@[simp] theorem Dev.setCplRing_out (r : Nat) (c : CplRing) : (d.setCplRing r c).out = d.out := rfl
@[simp] theorem Dev.setCplRing_fresh (r : Nat) (c : CplRing) : (d.setCplRing r c).fresh = d.fresh := rfl
@[simp] theorem Dev.setCplRing_pwr (r : Nat) (c : CplRing) : (d.setCplRing r c).pwr = d.pwr := rfl
@[simp] theorem Dev.setCplRing_therm (r : Nat) (c : CplRing) : (d.setCplRing r c).therm = d.therm := rfl
@[simp] theorem Dev.setCplRing_tap (r : Nat) (c : CplRing) : (d.setCplRing r c).tap = d.tap := rfl
@[simp] theorem Dev.setCplRing_cad (r : Nat) (c : CplRing) : (d.setCplRing r c).cad = d.cad := rfl
@[simp] theorem Dev.setCplRing_comp (r : Nat) (c : CplRing) : (d.setCplRing r c).comp = d.comp := rfl
@[simp] theorem Dev.setCplRing_hlt (r : Nat) (c : CplRing) : (d.setCplRing r c).hlt = d.hlt := rfl
@[simp] theorem Dev.setCplRing_stl (r : Nat) (c : CplRing) : (d.setCplRing r c).stl = d.stl := rfl
@[simp] theorem Dev.setCplRing_kv (r : Nat) (c : CplRing) : (d.setCplRing r c).kv = d.kv := rfl
@[simp] theorem Dev.setCplRing_pan (r : Nat) (c : CplRing) : (d.setCplRing r c).pan = d.pan := rfl
@[simp] theorem Dev.setCplRing_srch (r : Nat) (c : CplRing) : (d.setCplRing r c).srch = d.srch := rfl
@[simp] theorem Dev.setCplRing_memt (r : Nat) (c : CplRing) : (d.setCplRing r c).memt = d.memt := rfl
@[simp] theorem Dev.setCplRing_hay (r : Nat) (c : CplRing) : (d.setCplRing r c).hay = d.hay := rfl
@[simp] theorem Dev.setCplRing_fab (r : Nat) (c : CplRing) : (d.setCplRing r c).fab = d.fab := rfl
@[simp] theorem Dev.setCplRing_shp (r : Nat) (c : CplRing) : (d.setCplRing r c).shp = d.shp := rfl
@[simp] theorem Dev.setCplRing_qpx (r : Nat) (c : CplRing) : (d.setCplRing r c).qpx = d.qpx := rfl
@[simp] theorem Dev.setCplRing_cmp (r : Nat) (c : CplRing) : (d.setCplRing r c).cmp = d.cmp := rfl
@[simp] theorem Dev.setCplRing_sep (r : Nat) (c : CplRing) : (d.setCplRing r c).sep = d.sep := rfl

/-! `setPart` changes `hlt` alone. -/

@[simp] theorem Dev.setPart_regs (k i : Nat) (p : PartHealth) : (d.setPart k i p).regs = d.regs := rfl
@[simp] theorem Dev.setPart_mem (k i : Nat) (p : PartHealth) : (d.setPart k i p).mem = d.mem := rfl
@[simp] theorem Dev.setPart_poison (k i : Nat) (p : PartHealth) : (d.setPart k i p).poison = d.poison := rfl
@[simp] theorem Dev.setPart_out (k i : Nat) (p : PartHealth) : (d.setPart k i p).out = d.out := rfl
@[simp] theorem Dev.setPart_fresh (k i : Nat) (p : PartHealth) : (d.setPart k i p).fresh = d.fresh := rfl
@[simp] theorem Dev.setPart_pwr (k i : Nat) (p : PartHealth) : (d.setPart k i p).pwr = d.pwr := rfl
@[simp] theorem Dev.setPart_therm (k i : Nat) (p : PartHealth) : (d.setPart k i p).therm = d.therm := rfl
@[simp] theorem Dev.setPart_tap (k i : Nat) (p : PartHealth) : (d.setPart k i p).tap = d.tap := rfl
@[simp] theorem Dev.setPart_cad (k i : Nat) (p : PartHealth) : (d.setPart k i p).cad = d.cad := rfl
@[simp] theorem Dev.setPart_comp (k i : Nat) (p : PartHealth) : (d.setPart k i p).comp = d.comp := rfl
@[simp] theorem Dev.setPart_hif (k i : Nat) (p : PartHealth) : (d.setPart k i p).hif = d.hif := rfl
@[simp] theorem Dev.setPart_stl (k i : Nat) (p : PartHealth) : (d.setPart k i p).stl = d.stl := rfl
@[simp] theorem Dev.setPart_kv (k i : Nat) (p : PartHealth) : (d.setPart k i p).kv = d.kv := rfl
@[simp] theorem Dev.setPart_pan (k i : Nat) (p : PartHealth) : (d.setPart k i p).pan = d.pan := rfl
@[simp] theorem Dev.setPart_srch (k i : Nat) (p : PartHealth) : (d.setPart k i p).srch = d.srch := rfl
@[simp] theorem Dev.setPart_memt (k i : Nat) (p : PartHealth) : (d.setPart k i p).memt = d.memt := rfl
@[simp] theorem Dev.setPart_hay (k i : Nat) (p : PartHealth) : (d.setPart k i p).hay = d.hay := rfl
@[simp] theorem Dev.setPart_fab (k i : Nat) (p : PartHealth) : (d.setPart k i p).fab = d.fab := rfl
@[simp] theorem Dev.setPart_shp (k i : Nat) (p : PartHealth) : (d.setPart k i p).shp = d.shp := rfl
@[simp] theorem Dev.setPart_qpx (k i : Nat) (p : PartHealth) : (d.setPart k i p).qpx = d.qpx := rfl
@[simp] theorem Dev.setPart_cmp (k i : Nat) (p : PartHealth) : (d.setPart k i p).cmp = d.cmp := rfl
@[simp] theorem Dev.setPart_sep (k i : Nat) (p : PartHealth) : (d.setPart k i p).sep = d.sep := rfl

/-! `setAzPort` changes `fab` alone. -/

@[simp] theorem Dev.setAzPort_regs (i : Nat) (p : Port) : (d.setAzPort i p).regs = d.regs := rfl
@[simp] theorem Dev.setAzPort_mem (i : Nat) (p : Port) : (d.setAzPort i p).mem = d.mem := rfl
@[simp] theorem Dev.setAzPort_poison (i : Nat) (p : Port) : (d.setAzPort i p).poison = d.poison := rfl
@[simp] theorem Dev.setAzPort_out (i : Nat) (p : Port) : (d.setAzPort i p).out = d.out := rfl
@[simp] theorem Dev.setAzPort_fresh (i : Nat) (p : Port) : (d.setAzPort i p).fresh = d.fresh := rfl
@[simp] theorem Dev.setAzPort_pwr (i : Nat) (p : Port) : (d.setAzPort i p).pwr = d.pwr := rfl
@[simp] theorem Dev.setAzPort_therm (i : Nat) (p : Port) : (d.setAzPort i p).therm = d.therm := rfl
@[simp] theorem Dev.setAzPort_tap (i : Nat) (p : Port) : (d.setAzPort i p).tap = d.tap := rfl
@[simp] theorem Dev.setAzPort_cad (i : Nat) (p : Port) : (d.setAzPort i p).cad = d.cad := rfl
@[simp] theorem Dev.setAzPort_comp (i : Nat) (p : Port) : (d.setAzPort i p).comp = d.comp := rfl
@[simp] theorem Dev.setAzPort_hif (i : Nat) (p : Port) : (d.setAzPort i p).hif = d.hif := rfl
@[simp] theorem Dev.setAzPort_hlt (i : Nat) (p : Port) : (d.setAzPort i p).hlt = d.hlt := rfl
@[simp] theorem Dev.setAzPort_stl (i : Nat) (p : Port) : (d.setAzPort i p).stl = d.stl := rfl
@[simp] theorem Dev.setAzPort_kv (i : Nat) (p : Port) : (d.setAzPort i p).kv = d.kv := rfl
@[simp] theorem Dev.setAzPort_pan (i : Nat) (p : Port) : (d.setAzPort i p).pan = d.pan := rfl
@[simp] theorem Dev.setAzPort_srch (i : Nat) (p : Port) : (d.setAzPort i p).srch = d.srch := rfl
@[simp] theorem Dev.setAzPort_memt (i : Nat) (p : Port) : (d.setAzPort i p).memt = d.memt := rfl
@[simp] theorem Dev.setAzPort_hay (i : Nat) (p : Port) : (d.setAzPort i p).hay = d.hay := rfl
@[simp] theorem Dev.setAzPort_shp (i : Nat) (p : Port) : (d.setAzPort i p).shp = d.shp := rfl
@[simp] theorem Dev.setAzPort_qpx (i : Nat) (p : Port) : (d.setAzPort i p).qpx = d.qpx := rfl
@[simp] theorem Dev.setAzPort_cmp (i : Nat) (p : Port) : (d.setAzPort i p).cmp = d.cmp := rfl
@[simp] theorem Dev.setAzPort_sep (i : Nat) (p : Port) : (d.setAzPort i p).sep = d.sep := rfl

/-! `setStream` changes `fab` alone. -/

@[simp] theorem Dev.setStream_regs (k : Nat) (x : SendStream) : (d.setStream k x).regs = d.regs := rfl
@[simp] theorem Dev.setStream_mem (k : Nat) (x : SendStream) : (d.setStream k x).mem = d.mem := rfl
@[simp] theorem Dev.setStream_poison (k : Nat) (x : SendStream) : (d.setStream k x).poison = d.poison := rfl
@[simp] theorem Dev.setStream_out (k : Nat) (x : SendStream) : (d.setStream k x).out = d.out := rfl
@[simp] theorem Dev.setStream_fresh (k : Nat) (x : SendStream) : (d.setStream k x).fresh = d.fresh := rfl
@[simp] theorem Dev.setStream_pwr (k : Nat) (x : SendStream) : (d.setStream k x).pwr = d.pwr := rfl
@[simp] theorem Dev.setStream_therm (k : Nat) (x : SendStream) : (d.setStream k x).therm = d.therm := rfl
@[simp] theorem Dev.setStream_tap (k : Nat) (x : SendStream) : (d.setStream k x).tap = d.tap := rfl
@[simp] theorem Dev.setStream_cad (k : Nat) (x : SendStream) : (d.setStream k x).cad = d.cad := rfl
@[simp] theorem Dev.setStream_comp (k : Nat) (x : SendStream) : (d.setStream k x).comp = d.comp := rfl
@[simp] theorem Dev.setStream_hif (k : Nat) (x : SendStream) : (d.setStream k x).hif = d.hif := rfl
@[simp] theorem Dev.setStream_hlt (k : Nat) (x : SendStream) : (d.setStream k x).hlt = d.hlt := rfl
@[simp] theorem Dev.setStream_stl (k : Nat) (x : SendStream) : (d.setStream k x).stl = d.stl := rfl
@[simp] theorem Dev.setStream_kv (k : Nat) (x : SendStream) : (d.setStream k x).kv = d.kv := rfl
@[simp] theorem Dev.setStream_pan (k : Nat) (x : SendStream) : (d.setStream k x).pan = d.pan := rfl
@[simp] theorem Dev.setStream_srch (k : Nat) (x : SendStream) : (d.setStream k x).srch = d.srch := rfl
@[simp] theorem Dev.setStream_memt (k : Nat) (x : SendStream) : (d.setStream k x).memt = d.memt := rfl
@[simp] theorem Dev.setStream_hay (k : Nat) (x : SendStream) : (d.setStream k x).hay = d.hay := rfl
@[simp] theorem Dev.setStream_shp (k : Nat) (x : SendStream) : (d.setStream k x).shp = d.shp := rfl
@[simp] theorem Dev.setStream_qpx (k : Nat) (x : SendStream) : (d.setStream k x).qpx = d.qpx := rfl
@[simp] theorem Dev.setStream_cmp (k : Nat) (x : SendStream) : (d.setStream k x).cmp = d.cmp := rfl
@[simp] theorem Dev.setStream_sep (k : Nat) (x : SendStream) : (d.setStream k x).sep = d.sep := rfl

/-! `setRecv` changes `fab` alone. -/

@[simp] theorem Dev.setRecv_regs (k : Nat) (x : RecvStream) : (d.setRecv k x).regs = d.regs := rfl
@[simp] theorem Dev.setRecv_mem (k : Nat) (x : RecvStream) : (d.setRecv k x).mem = d.mem := rfl
@[simp] theorem Dev.setRecv_poison (k : Nat) (x : RecvStream) : (d.setRecv k x).poison = d.poison := rfl
@[simp] theorem Dev.setRecv_out (k : Nat) (x : RecvStream) : (d.setRecv k x).out = d.out := rfl
@[simp] theorem Dev.setRecv_fresh (k : Nat) (x : RecvStream) : (d.setRecv k x).fresh = d.fresh := rfl
@[simp] theorem Dev.setRecv_pwr (k : Nat) (x : RecvStream) : (d.setRecv k x).pwr = d.pwr := rfl
@[simp] theorem Dev.setRecv_therm (k : Nat) (x : RecvStream) : (d.setRecv k x).therm = d.therm := rfl
@[simp] theorem Dev.setRecv_tap (k : Nat) (x : RecvStream) : (d.setRecv k x).tap = d.tap := rfl
@[simp] theorem Dev.setRecv_cad (k : Nat) (x : RecvStream) : (d.setRecv k x).cad = d.cad := rfl
@[simp] theorem Dev.setRecv_comp (k : Nat) (x : RecvStream) : (d.setRecv k x).comp = d.comp := rfl
@[simp] theorem Dev.setRecv_hif (k : Nat) (x : RecvStream) : (d.setRecv k x).hif = d.hif := rfl
@[simp] theorem Dev.setRecv_hlt (k : Nat) (x : RecvStream) : (d.setRecv k x).hlt = d.hlt := rfl
@[simp] theorem Dev.setRecv_stl (k : Nat) (x : RecvStream) : (d.setRecv k x).stl = d.stl := rfl
@[simp] theorem Dev.setRecv_kv (k : Nat) (x : RecvStream) : (d.setRecv k x).kv = d.kv := rfl
@[simp] theorem Dev.setRecv_pan (k : Nat) (x : RecvStream) : (d.setRecv k x).pan = d.pan := rfl
@[simp] theorem Dev.setRecv_srch (k : Nat) (x : RecvStream) : (d.setRecv k x).srch = d.srch := rfl
@[simp] theorem Dev.setRecv_memt (k : Nat) (x : RecvStream) : (d.setRecv k x).memt = d.memt := rfl
@[simp] theorem Dev.setRecv_hay (k : Nat) (x : RecvStream) : (d.setRecv k x).hay = d.hay := rfl
@[simp] theorem Dev.setRecv_shp (k : Nat) (x : RecvStream) : (d.setRecv k x).shp = d.shp := rfl
@[simp] theorem Dev.setRecv_qpx (k : Nat) (x : RecvStream) : (d.setRecv k x).qpx = d.qpx := rfl
@[simp] theorem Dev.setRecv_cmp (k : Nat) (x : RecvStream) : (d.setRecv k x).cmp = d.cmp := rfl
@[simp] theorem Dev.setRecv_sep (k : Nat) (x : RecvStream) : (d.setRecv k x).sep = d.sep := rfl

/-! `setShaper` changes `shp` alone. -/

@[simp] theorem Dev.setShaper_regs (i : Nat) (m : Meter) : (d.setShaper i m).regs = d.regs := rfl
@[simp] theorem Dev.setShaper_mem (i : Nat) (m : Meter) : (d.setShaper i m).mem = d.mem := rfl
@[simp] theorem Dev.setShaper_poison (i : Nat) (m : Meter) : (d.setShaper i m).poison = d.poison := rfl
@[simp] theorem Dev.setShaper_out (i : Nat) (m : Meter) : (d.setShaper i m).out = d.out := rfl
@[simp] theorem Dev.setShaper_fresh (i : Nat) (m : Meter) : (d.setShaper i m).fresh = d.fresh := rfl
@[simp] theorem Dev.setShaper_pwr (i : Nat) (m : Meter) : (d.setShaper i m).pwr = d.pwr := rfl
@[simp] theorem Dev.setShaper_therm (i : Nat) (m : Meter) : (d.setShaper i m).therm = d.therm := rfl
@[simp] theorem Dev.setShaper_tap (i : Nat) (m : Meter) : (d.setShaper i m).tap = d.tap := rfl
@[simp] theorem Dev.setShaper_cad (i : Nat) (m : Meter) : (d.setShaper i m).cad = d.cad := rfl
@[simp] theorem Dev.setShaper_comp (i : Nat) (m : Meter) : (d.setShaper i m).comp = d.comp := rfl
@[simp] theorem Dev.setShaper_hif (i : Nat) (m : Meter) : (d.setShaper i m).hif = d.hif := rfl
@[simp] theorem Dev.setShaper_hlt (i : Nat) (m : Meter) : (d.setShaper i m).hlt = d.hlt := rfl
@[simp] theorem Dev.setShaper_stl (i : Nat) (m : Meter) : (d.setShaper i m).stl = d.stl := rfl
@[simp] theorem Dev.setShaper_kv (i : Nat) (m : Meter) : (d.setShaper i m).kv = d.kv := rfl
@[simp] theorem Dev.setShaper_pan (i : Nat) (m : Meter) : (d.setShaper i m).pan = d.pan := rfl
@[simp] theorem Dev.setShaper_srch (i : Nat) (m : Meter) : (d.setShaper i m).srch = d.srch := rfl
@[simp] theorem Dev.setShaper_memt (i : Nat) (m : Meter) : (d.setShaper i m).memt = d.memt := rfl
@[simp] theorem Dev.setShaper_hay (i : Nat) (m : Meter) : (d.setShaper i m).hay = d.hay := rfl
@[simp] theorem Dev.setShaper_fab (i : Nat) (m : Meter) : (d.setShaper i m).fab = d.fab := rfl
@[simp] theorem Dev.setShaper_qpx (i : Nat) (m : Meter) : (d.setShaper i m).qpx = d.qpx := rfl
@[simp] theorem Dev.setShaper_cmp (i : Nat) (m : Meter) : (d.setShaper i m).cmp = d.cmp := rfl
@[simp] theorem Dev.setShaper_sep (i : Nat) (m : Meter) : (d.setShaper i m).sep = d.sep := rfl

/-! `setPolicer` changes `shp` alone. -/

@[simp] theorem Dev.setPolicer_regs (i : Nat) (m : Meter) : (d.setPolicer i m).regs = d.regs := rfl
@[simp] theorem Dev.setPolicer_mem (i : Nat) (m : Meter) : (d.setPolicer i m).mem = d.mem := rfl
@[simp] theorem Dev.setPolicer_poison (i : Nat) (m : Meter) : (d.setPolicer i m).poison = d.poison := rfl
@[simp] theorem Dev.setPolicer_out (i : Nat) (m : Meter) : (d.setPolicer i m).out = d.out := rfl
@[simp] theorem Dev.setPolicer_fresh (i : Nat) (m : Meter) : (d.setPolicer i m).fresh = d.fresh := rfl
@[simp] theorem Dev.setPolicer_pwr (i : Nat) (m : Meter) : (d.setPolicer i m).pwr = d.pwr := rfl
@[simp] theorem Dev.setPolicer_therm (i : Nat) (m : Meter) : (d.setPolicer i m).therm = d.therm := rfl
@[simp] theorem Dev.setPolicer_tap (i : Nat) (m : Meter) : (d.setPolicer i m).tap = d.tap := rfl
@[simp] theorem Dev.setPolicer_cad (i : Nat) (m : Meter) : (d.setPolicer i m).cad = d.cad := rfl
@[simp] theorem Dev.setPolicer_comp (i : Nat) (m : Meter) : (d.setPolicer i m).comp = d.comp := rfl
@[simp] theorem Dev.setPolicer_hif (i : Nat) (m : Meter) : (d.setPolicer i m).hif = d.hif := rfl
@[simp] theorem Dev.setPolicer_hlt (i : Nat) (m : Meter) : (d.setPolicer i m).hlt = d.hlt := rfl
@[simp] theorem Dev.setPolicer_stl (i : Nat) (m : Meter) : (d.setPolicer i m).stl = d.stl := rfl
@[simp] theorem Dev.setPolicer_kv (i : Nat) (m : Meter) : (d.setPolicer i m).kv = d.kv := rfl
@[simp] theorem Dev.setPolicer_pan (i : Nat) (m : Meter) : (d.setPolicer i m).pan = d.pan := rfl
@[simp] theorem Dev.setPolicer_srch (i : Nat) (m : Meter) : (d.setPolicer i m).srch = d.srch := rfl
@[simp] theorem Dev.setPolicer_memt (i : Nat) (m : Meter) : (d.setPolicer i m).memt = d.memt := rfl
@[simp] theorem Dev.setPolicer_hay (i : Nat) (m : Meter) : (d.setPolicer i m).hay = d.hay := rfl
@[simp] theorem Dev.setPolicer_fab (i : Nat) (m : Meter) : (d.setPolicer i m).fab = d.fab := rfl
@[simp] theorem Dev.setPolicer_qpx (i : Nat) (m : Meter) : (d.setPolicer i m).qpx = d.qpx := rfl
@[simp] theorem Dev.setPolicer_cmp (i : Nat) (m : Meter) : (d.setPolicer i m).cmp = d.cmp := rfl
@[simp] theorem Dev.setPolicer_sep (i : Nat) (m : Meter) : (d.setPolicer i m).sep = d.sep := rfl

/-! `onHay` changes `hay` alone. -/

@[simp] theorem Dev.onHay_regs (g : Hay → Hay) : (d.onHay g).regs = d.regs := rfl
@[simp] theorem Dev.onHay_mem (g : Hay → Hay) : (d.onHay g).mem = d.mem := rfl
@[simp] theorem Dev.onHay_poison (g : Hay → Hay) : (d.onHay g).poison = d.poison := rfl
@[simp] theorem Dev.onHay_out (g : Hay → Hay) : (d.onHay g).out = d.out := rfl
@[simp] theorem Dev.onHay_fresh (g : Hay → Hay) : (d.onHay g).fresh = d.fresh := rfl
@[simp] theorem Dev.onHay_pwr (g : Hay → Hay) : (d.onHay g).pwr = d.pwr := rfl
@[simp] theorem Dev.onHay_therm (g : Hay → Hay) : (d.onHay g).therm = d.therm := rfl
@[simp] theorem Dev.onHay_tap (g : Hay → Hay) : (d.onHay g).tap = d.tap := rfl
@[simp] theorem Dev.onHay_cad (g : Hay → Hay) : (d.onHay g).cad = d.cad := rfl
@[simp] theorem Dev.onHay_comp (g : Hay → Hay) : (d.onHay g).comp = d.comp := rfl
@[simp] theorem Dev.onHay_hif (g : Hay → Hay) : (d.onHay g).hif = d.hif := rfl
@[simp] theorem Dev.onHay_hlt (g : Hay → Hay) : (d.onHay g).hlt = d.hlt := rfl
@[simp] theorem Dev.onHay_stl (g : Hay → Hay) : (d.onHay g).stl = d.stl := rfl
@[simp] theorem Dev.onHay_kv (g : Hay → Hay) : (d.onHay g).kv = d.kv := rfl
@[simp] theorem Dev.onHay_pan (g : Hay → Hay) : (d.onHay g).pan = d.pan := rfl
@[simp] theorem Dev.onHay_srch (g : Hay → Hay) : (d.onHay g).srch = d.srch := rfl
@[simp] theorem Dev.onHay_memt (g : Hay → Hay) : (d.onHay g).memt = d.memt := rfl
@[simp] theorem Dev.onHay_fab (g : Hay → Hay) : (d.onHay g).fab = d.fab := rfl
@[simp] theorem Dev.onHay_shp (g : Hay → Hay) : (d.onHay g).shp = d.shp := rfl
@[simp] theorem Dev.onHay_qpx (g : Hay → Hay) : (d.onHay g).qpx = d.qpx := rfl
@[simp] theorem Dev.onHay_cmp (g : Hay → Hay) : (d.onHay g).cmp = d.cmp := rfl
@[simp] theorem Dev.onHay_sep (g : Hay → Hay) : (d.onHay g).sep = d.sep := rfl

/-! `setLevel` changes `stl` alone. -/

@[simp] theorem Dev.setLevel_regs (l : Nat) (q : List QItem) : (d.setLevel l q).regs = d.regs := rfl
@[simp] theorem Dev.setLevel_mem (l : Nat) (q : List QItem) : (d.setLevel l q).mem = d.mem := rfl
@[simp] theorem Dev.setLevel_poison (l : Nat) (q : List QItem) : (d.setLevel l q).poison = d.poison := rfl
@[simp] theorem Dev.setLevel_out (l : Nat) (q : List QItem) : (d.setLevel l q).out = d.out := rfl
@[simp] theorem Dev.setLevel_fresh (l : Nat) (q : List QItem) : (d.setLevel l q).fresh = d.fresh := rfl
@[simp] theorem Dev.setLevel_pwr (l : Nat) (q : List QItem) : (d.setLevel l q).pwr = d.pwr := rfl
@[simp] theorem Dev.setLevel_therm (l : Nat) (q : List QItem) : (d.setLevel l q).therm = d.therm := rfl
@[simp] theorem Dev.setLevel_tap (l : Nat) (q : List QItem) : (d.setLevel l q).tap = d.tap := rfl
@[simp] theorem Dev.setLevel_cad (l : Nat) (q : List QItem) : (d.setLevel l q).cad = d.cad := rfl
@[simp] theorem Dev.setLevel_comp (l : Nat) (q : List QItem) : (d.setLevel l q).comp = d.comp := rfl
@[simp] theorem Dev.setLevel_hif (l : Nat) (q : List QItem) : (d.setLevel l q).hif = d.hif := rfl
@[simp] theorem Dev.setLevel_hlt (l : Nat) (q : List QItem) : (d.setLevel l q).hlt = d.hlt := rfl
@[simp] theorem Dev.setLevel_kv (l : Nat) (q : List QItem) : (d.setLevel l q).kv = d.kv := rfl
@[simp] theorem Dev.setLevel_pan (l : Nat) (q : List QItem) : (d.setLevel l q).pan = d.pan := rfl
@[simp] theorem Dev.setLevel_srch (l : Nat) (q : List QItem) : (d.setLevel l q).srch = d.srch := rfl
@[simp] theorem Dev.setLevel_memt (l : Nat) (q : List QItem) : (d.setLevel l q).memt = d.memt := rfl
@[simp] theorem Dev.setLevel_hay (l : Nat) (q : List QItem) : (d.setLevel l q).hay = d.hay := rfl
@[simp] theorem Dev.setLevel_fab (l : Nat) (q : List QItem) : (d.setLevel l q).fab = d.fab := rfl
@[simp] theorem Dev.setLevel_shp (l : Nat) (q : List QItem) : (d.setLevel l q).shp = d.shp := rfl
@[simp] theorem Dev.setLevel_qpx (l : Nat) (q : List QItem) : (d.setLevel l q).qpx = d.qpx := rfl
@[simp] theorem Dev.setLevel_cmp (l : Nat) (q : List QItem) : (d.setLevel l q).cmp = d.cmp := rfl
@[simp] theorem Dev.setLevel_sep (l : Nat) (q : List QItem) : (d.setLevel l q).sep = d.sep := rfl

/-! `putStall` changes `stl` alone. -/

@[simp] theorem Dev.putStall_regs (i : Nat) (x : Stall) : (d.putStall i x).regs = d.regs := rfl
@[simp] theorem Dev.putStall_mem (i : Nat) (x : Stall) : (d.putStall i x).mem = d.mem := rfl
@[simp] theorem Dev.putStall_poison (i : Nat) (x : Stall) : (d.putStall i x).poison = d.poison := rfl
@[simp] theorem Dev.putStall_out (i : Nat) (x : Stall) : (d.putStall i x).out = d.out := rfl
@[simp] theorem Dev.putStall_fresh (i : Nat) (x : Stall) : (d.putStall i x).fresh = d.fresh := rfl
@[simp] theorem Dev.putStall_pwr (i : Nat) (x : Stall) : (d.putStall i x).pwr = d.pwr := rfl
@[simp] theorem Dev.putStall_therm (i : Nat) (x : Stall) : (d.putStall i x).therm = d.therm := rfl
@[simp] theorem Dev.putStall_tap (i : Nat) (x : Stall) : (d.putStall i x).tap = d.tap := rfl
@[simp] theorem Dev.putStall_cad (i : Nat) (x : Stall) : (d.putStall i x).cad = d.cad := rfl
@[simp] theorem Dev.putStall_comp (i : Nat) (x : Stall) : (d.putStall i x).comp = d.comp := rfl
@[simp] theorem Dev.putStall_hif (i : Nat) (x : Stall) : (d.putStall i x).hif = d.hif := rfl
@[simp] theorem Dev.putStall_hlt (i : Nat) (x : Stall) : (d.putStall i x).hlt = d.hlt := rfl
@[simp] theorem Dev.putStall_kv (i : Nat) (x : Stall) : (d.putStall i x).kv = d.kv := rfl
@[simp] theorem Dev.putStall_pan (i : Nat) (x : Stall) : (d.putStall i x).pan = d.pan := rfl
@[simp] theorem Dev.putStall_srch (i : Nat) (x : Stall) : (d.putStall i x).srch = d.srch := rfl
@[simp] theorem Dev.putStall_memt (i : Nat) (x : Stall) : (d.putStall i x).memt = d.memt := rfl
@[simp] theorem Dev.putStall_hay (i : Nat) (x : Stall) : (d.putStall i x).hay = d.hay := rfl
@[simp] theorem Dev.putStall_fab (i : Nat) (x : Stall) : (d.putStall i x).fab = d.fab := rfl
@[simp] theorem Dev.putStall_shp (i : Nat) (x : Stall) : (d.putStall i x).shp = d.shp := rfl
@[simp] theorem Dev.putStall_qpx (i : Nat) (x : Stall) : (d.putStall i x).qpx = d.qpx := rfl
@[simp] theorem Dev.putStall_cmp (i : Nat) (x : Stall) : (d.putStall i x).cmp = d.cmp := rfl
@[simp] theorem Dev.putStall_sep (i : Nat) (x : Stall) : (d.putStall i x).sep = d.sep := rfl

/-! `setHeap` changes `kv` alone. -/

@[simp] theorem Dev.setHeap_regs (p : Nat) (l : List Region) : (d.setHeap p l).regs = d.regs := rfl
@[simp] theorem Dev.setHeap_mem (p : Nat) (l : List Region) : (d.setHeap p l).mem = d.mem := rfl
@[simp] theorem Dev.setHeap_poison (p : Nat) (l : List Region) : (d.setHeap p l).poison = d.poison := rfl
@[simp] theorem Dev.setHeap_out (p : Nat) (l : List Region) : (d.setHeap p l).out = d.out := rfl
@[simp] theorem Dev.setHeap_fresh (p : Nat) (l : List Region) : (d.setHeap p l).fresh = d.fresh := rfl
@[simp] theorem Dev.setHeap_pwr (p : Nat) (l : List Region) : (d.setHeap p l).pwr = d.pwr := rfl
@[simp] theorem Dev.setHeap_therm (p : Nat) (l : List Region) : (d.setHeap p l).therm = d.therm := rfl
@[simp] theorem Dev.setHeap_tap (p : Nat) (l : List Region) : (d.setHeap p l).tap = d.tap := rfl
@[simp] theorem Dev.setHeap_cad (p : Nat) (l : List Region) : (d.setHeap p l).cad = d.cad := rfl
@[simp] theorem Dev.setHeap_comp (p : Nat) (l : List Region) : (d.setHeap p l).comp = d.comp := rfl
@[simp] theorem Dev.setHeap_hif (p : Nat) (l : List Region) : (d.setHeap p l).hif = d.hif := rfl
@[simp] theorem Dev.setHeap_hlt (p : Nat) (l : List Region) : (d.setHeap p l).hlt = d.hlt := rfl
@[simp] theorem Dev.setHeap_stl (p : Nat) (l : List Region) : (d.setHeap p l).stl = d.stl := rfl
@[simp] theorem Dev.setHeap_pan (p : Nat) (l : List Region) : (d.setHeap p l).pan = d.pan := rfl
@[simp] theorem Dev.setHeap_srch (p : Nat) (l : List Region) : (d.setHeap p l).srch = d.srch := rfl
@[simp] theorem Dev.setHeap_memt (p : Nat) (l : List Region) : (d.setHeap p l).memt = d.memt := rfl
@[simp] theorem Dev.setHeap_hay (p : Nat) (l : List Region) : (d.setHeap p l).hay = d.hay := rfl
@[simp] theorem Dev.setHeap_fab (p : Nat) (l : List Region) : (d.setHeap p l).fab = d.fab := rfl
@[simp] theorem Dev.setHeap_shp (p : Nat) (l : List Region) : (d.setHeap p l).shp = d.shp := rfl
@[simp] theorem Dev.setHeap_qpx (p : Nat) (l : List Region) : (d.setHeap p l).qpx = d.qpx := rfl
@[simp] theorem Dev.setHeap_cmp (p : Nat) (l : List Region) : (d.setHeap p l).cmp = d.cmp := rfl
@[simp] theorem Dev.setHeap_sep (p : Nat) (l : List Region) : (d.setHeap p l).sep = d.sep := rfl

/-! `setPeloton` changes `kv` alone. -/

@[simp] theorem Dev.setPeloton_regs (p e : Nat) (x : Peloton) : (d.setPeloton p e x).regs = d.regs := rfl
@[simp] theorem Dev.setPeloton_mem (p e : Nat) (x : Peloton) : (d.setPeloton p e x).mem = d.mem := rfl
@[simp] theorem Dev.setPeloton_poison (p e : Nat) (x : Peloton) : (d.setPeloton p e x).poison = d.poison := rfl
@[simp] theorem Dev.setPeloton_out (p e : Nat) (x : Peloton) : (d.setPeloton p e x).out = d.out := rfl
@[simp] theorem Dev.setPeloton_fresh (p e : Nat) (x : Peloton) : (d.setPeloton p e x).fresh = d.fresh := rfl
@[simp] theorem Dev.setPeloton_pwr (p e : Nat) (x : Peloton) : (d.setPeloton p e x).pwr = d.pwr := rfl
@[simp] theorem Dev.setPeloton_therm (p e : Nat) (x : Peloton) : (d.setPeloton p e x).therm = d.therm := rfl
@[simp] theorem Dev.setPeloton_tap (p e : Nat) (x : Peloton) : (d.setPeloton p e x).tap = d.tap := rfl
@[simp] theorem Dev.setPeloton_cad (p e : Nat) (x : Peloton) : (d.setPeloton p e x).cad = d.cad := rfl
@[simp] theorem Dev.setPeloton_comp (p e : Nat) (x : Peloton) : (d.setPeloton p e x).comp = d.comp := rfl
@[simp] theorem Dev.setPeloton_hif (p e : Nat) (x : Peloton) : (d.setPeloton p e x).hif = d.hif := rfl
@[simp] theorem Dev.setPeloton_hlt (p e : Nat) (x : Peloton) : (d.setPeloton p e x).hlt = d.hlt := rfl
@[simp] theorem Dev.setPeloton_stl (p e : Nat) (x : Peloton) : (d.setPeloton p e x).stl = d.stl := rfl
@[simp] theorem Dev.setPeloton_pan (p e : Nat) (x : Peloton) : (d.setPeloton p e x).pan = d.pan := rfl
@[simp] theorem Dev.setPeloton_srch (p e : Nat) (x : Peloton) : (d.setPeloton p e x).srch = d.srch := rfl
@[simp] theorem Dev.setPeloton_memt (p e : Nat) (x : Peloton) : (d.setPeloton p e x).memt = d.memt := rfl
@[simp] theorem Dev.setPeloton_hay (p e : Nat) (x : Peloton) : (d.setPeloton p e x).hay = d.hay := rfl
@[simp] theorem Dev.setPeloton_fab (p e : Nat) (x : Peloton) : (d.setPeloton p e x).fab = d.fab := rfl
@[simp] theorem Dev.setPeloton_shp (p e : Nat) (x : Peloton) : (d.setPeloton p e x).shp = d.shp := rfl
@[simp] theorem Dev.setPeloton_qpx (p e : Nat) (x : Peloton) : (d.setPeloton p e x).qpx = d.qpx := rfl
@[simp] theorem Dev.setPeloton_cmp (p e : Nat) (x : Peloton) : (d.setPeloton p e x).cmp = d.cmp := rfl
@[simp] theorem Dev.setPeloton_sep (p e : Nat) (x : Peloton) : (d.setPeloton p e x).sep = d.sep := rfl

/-! `setPull` changes `pan` alone. -/

@[simp] theorem Dev.setPull_regs (k : Nat) (p : Pull) : (d.setPull k p).regs = d.regs := rfl
@[simp] theorem Dev.setPull_mem (k : Nat) (p : Pull) : (d.setPull k p).mem = d.mem := rfl
@[simp] theorem Dev.setPull_poison (k : Nat) (p : Pull) : (d.setPull k p).poison = d.poison := rfl
@[simp] theorem Dev.setPull_out (k : Nat) (p : Pull) : (d.setPull k p).out = d.out := rfl
@[simp] theorem Dev.setPull_fresh (k : Nat) (p : Pull) : (d.setPull k p).fresh = d.fresh := rfl
@[simp] theorem Dev.setPull_pwr (k : Nat) (p : Pull) : (d.setPull k p).pwr = d.pwr := rfl
@[simp] theorem Dev.setPull_therm (k : Nat) (p : Pull) : (d.setPull k p).therm = d.therm := rfl
@[simp] theorem Dev.setPull_tap (k : Nat) (p : Pull) : (d.setPull k p).tap = d.tap := rfl
@[simp] theorem Dev.setPull_cad (k : Nat) (p : Pull) : (d.setPull k p).cad = d.cad := rfl
@[simp] theorem Dev.setPull_comp (k : Nat) (p : Pull) : (d.setPull k p).comp = d.comp := rfl
@[simp] theorem Dev.setPull_hif (k : Nat) (p : Pull) : (d.setPull k p).hif = d.hif := rfl
@[simp] theorem Dev.setPull_hlt (k : Nat) (p : Pull) : (d.setPull k p).hlt = d.hlt := rfl
@[simp] theorem Dev.setPull_stl (k : Nat) (p : Pull) : (d.setPull k p).stl = d.stl := rfl
@[simp] theorem Dev.setPull_kv (k : Nat) (p : Pull) : (d.setPull k p).kv = d.kv := rfl
@[simp] theorem Dev.setPull_srch (k : Nat) (p : Pull) : (d.setPull k p).srch = d.srch := rfl
@[simp] theorem Dev.setPull_memt (k : Nat) (p : Pull) : (d.setPull k p).memt = d.memt := rfl
@[simp] theorem Dev.setPull_hay (k : Nat) (p : Pull) : (d.setPull k p).hay = d.hay := rfl
@[simp] theorem Dev.setPull_fab (k : Nat) (p : Pull) : (d.setPull k p).fab = d.fab := rfl
@[simp] theorem Dev.setPull_shp (k : Nat) (p : Pull) : (d.setPull k p).shp = d.shp := rfl
@[simp] theorem Dev.setPull_qpx (k : Nat) (p : Pull) : (d.setPull k p).qpx = d.qpx := rfl
@[simp] theorem Dev.setPull_cmp (k : Nat) (p : Pull) : (d.setPull k p).cmp = d.cmp := rfl
@[simp] theorem Dev.setPull_sep (k : Nat) (p : Pull) : (d.setPull k p).sep = d.sep := rfl

/-! `setUnit` changes `memt` alone. -/

@[simp] theorem Dev.setUnit_regs (u : Nat) (x : MUnit) : (d.setUnit u x).regs = d.regs := rfl
@[simp] theorem Dev.setUnit_mem (u : Nat) (x : MUnit) : (d.setUnit u x).mem = d.mem := rfl
@[simp] theorem Dev.setUnit_poison (u : Nat) (x : MUnit) : (d.setUnit u x).poison = d.poison := rfl
@[simp] theorem Dev.setUnit_out (u : Nat) (x : MUnit) : (d.setUnit u x).out = d.out := rfl
@[simp] theorem Dev.setUnit_fresh (u : Nat) (x : MUnit) : (d.setUnit u x).fresh = d.fresh := rfl
@[simp] theorem Dev.setUnit_pwr (u : Nat) (x : MUnit) : (d.setUnit u x).pwr = d.pwr := rfl
@[simp] theorem Dev.setUnit_therm (u : Nat) (x : MUnit) : (d.setUnit u x).therm = d.therm := rfl
@[simp] theorem Dev.setUnit_tap (u : Nat) (x : MUnit) : (d.setUnit u x).tap = d.tap := rfl
@[simp] theorem Dev.setUnit_cad (u : Nat) (x : MUnit) : (d.setUnit u x).cad = d.cad := rfl
@[simp] theorem Dev.setUnit_comp (u : Nat) (x : MUnit) : (d.setUnit u x).comp = d.comp := rfl
@[simp] theorem Dev.setUnit_hif (u : Nat) (x : MUnit) : (d.setUnit u x).hif = d.hif := rfl
@[simp] theorem Dev.setUnit_hlt (u : Nat) (x : MUnit) : (d.setUnit u x).hlt = d.hlt := rfl
@[simp] theorem Dev.setUnit_stl (u : Nat) (x : MUnit) : (d.setUnit u x).stl = d.stl := rfl
@[simp] theorem Dev.setUnit_kv (u : Nat) (x : MUnit) : (d.setUnit u x).kv = d.kv := rfl
@[simp] theorem Dev.setUnit_pan (u : Nat) (x : MUnit) : (d.setUnit u x).pan = d.pan := rfl
@[simp] theorem Dev.setUnit_srch (u : Nat) (x : MUnit) : (d.setUnit u x).srch = d.srch := rfl
@[simp] theorem Dev.setUnit_hay (u : Nat) (x : MUnit) : (d.setUnit u x).hay = d.hay := rfl
@[simp] theorem Dev.setUnit_fab (u : Nat) (x : MUnit) : (d.setUnit u x).fab = d.fab := rfl
@[simp] theorem Dev.setUnit_shp (u : Nat) (x : MUnit) : (d.setUnit u x).shp = d.shp := rfl
@[simp] theorem Dev.setUnit_qpx (u : Nat) (x : MUnit) : (d.setUnit u x).qpx = d.qpx := rfl
@[simp] theorem Dev.setUnit_cmp (u : Nat) (x : MUnit) : (d.setUnit u x).cmp = d.cmp := rfl
@[simp] theorem Dev.setUnit_sep (u : Nat) (x : MUnit) : (d.setUnit u x).sep = d.sep := rfl

/-! `putShard` changes `srch` alone. -/

@[simp] theorem Dev.putShard_regs (i k : Nat) (x : ShardRec) : (d.putShard i k x).regs = d.regs := rfl
@[simp] theorem Dev.putShard_mem (i k : Nat) (x : ShardRec) : (d.putShard i k x).mem = d.mem := rfl
@[simp] theorem Dev.putShard_poison (i k : Nat) (x : ShardRec) : (d.putShard i k x).poison = d.poison := rfl
@[simp] theorem Dev.putShard_out (i k : Nat) (x : ShardRec) : (d.putShard i k x).out = d.out := rfl
@[simp] theorem Dev.putShard_fresh (i k : Nat) (x : ShardRec) : (d.putShard i k x).fresh = d.fresh := rfl
@[simp] theorem Dev.putShard_pwr (i k : Nat) (x : ShardRec) : (d.putShard i k x).pwr = d.pwr := rfl
@[simp] theorem Dev.putShard_therm (i k : Nat) (x : ShardRec) : (d.putShard i k x).therm = d.therm := rfl
@[simp] theorem Dev.putShard_tap (i k : Nat) (x : ShardRec) : (d.putShard i k x).tap = d.tap := rfl
@[simp] theorem Dev.putShard_cad (i k : Nat) (x : ShardRec) : (d.putShard i k x).cad = d.cad := rfl
@[simp] theorem Dev.putShard_comp (i k : Nat) (x : ShardRec) : (d.putShard i k x).comp = d.comp := rfl
@[simp] theorem Dev.putShard_hif (i k : Nat) (x : ShardRec) : (d.putShard i k x).hif = d.hif := rfl
@[simp] theorem Dev.putShard_hlt (i k : Nat) (x : ShardRec) : (d.putShard i k x).hlt = d.hlt := rfl
@[simp] theorem Dev.putShard_stl (i k : Nat) (x : ShardRec) : (d.putShard i k x).stl = d.stl := rfl
@[simp] theorem Dev.putShard_kv (i k : Nat) (x : ShardRec) : (d.putShard i k x).kv = d.kv := rfl
@[simp] theorem Dev.putShard_pan (i k : Nat) (x : ShardRec) : (d.putShard i k x).pan = d.pan := rfl
@[simp] theorem Dev.putShard_memt (i k : Nat) (x : ShardRec) : (d.putShard i k x).memt = d.memt := rfl
@[simp] theorem Dev.putShard_hay (i k : Nat) (x : ShardRec) : (d.putShard i k x).hay = d.hay := rfl
@[simp] theorem Dev.putShard_fab (i k : Nat) (x : ShardRec) : (d.putShard i k x).fab = d.fab := rfl
@[simp] theorem Dev.putShard_shp (i k : Nat) (x : ShardRec) : (d.putShard i k x).shp = d.shp := rfl
@[simp] theorem Dev.putShard_qpx (i k : Nat) (x : ShardRec) : (d.putShard i k x).qpx = d.qpx := rfl
@[simp] theorem Dev.putShard_cmp (i k : Nat) (x : ShardRec) : (d.putShard i k x).cmp = d.cmp := rfl
@[simp] theorem Dev.putShard_sep (i k : Nat) (x : ShardRec) : (d.putShard i k x).sep = d.sep := rfl

/-! `putQp` changes `qpx` alone. -/

@[simp] theorem Dev.putQp_regs (n : Nat) (q : Qp) : (d.putQp n q).regs = d.regs := rfl
@[simp] theorem Dev.putQp_mem (n : Nat) (q : Qp) : (d.putQp n q).mem = d.mem := rfl
@[simp] theorem Dev.putQp_poison (n : Nat) (q : Qp) : (d.putQp n q).poison = d.poison := rfl
@[simp] theorem Dev.putQp_out (n : Nat) (q : Qp) : (d.putQp n q).out = d.out := rfl
@[simp] theorem Dev.putQp_fresh (n : Nat) (q : Qp) : (d.putQp n q).fresh = d.fresh := rfl
@[simp] theorem Dev.putQp_pwr (n : Nat) (q : Qp) : (d.putQp n q).pwr = d.pwr := rfl
@[simp] theorem Dev.putQp_therm (n : Nat) (q : Qp) : (d.putQp n q).therm = d.therm := rfl
@[simp] theorem Dev.putQp_tap (n : Nat) (q : Qp) : (d.putQp n q).tap = d.tap := rfl
@[simp] theorem Dev.putQp_cad (n : Nat) (q : Qp) : (d.putQp n q).cad = d.cad := rfl
@[simp] theorem Dev.putQp_comp (n : Nat) (q : Qp) : (d.putQp n q).comp = d.comp := rfl
@[simp] theorem Dev.putQp_hif (n : Nat) (q : Qp) : (d.putQp n q).hif = d.hif := rfl
@[simp] theorem Dev.putQp_hlt (n : Nat) (q : Qp) : (d.putQp n q).hlt = d.hlt := rfl
@[simp] theorem Dev.putQp_stl (n : Nat) (q : Qp) : (d.putQp n q).stl = d.stl := rfl
@[simp] theorem Dev.putQp_kv (n : Nat) (q : Qp) : (d.putQp n q).kv = d.kv := rfl
@[simp] theorem Dev.putQp_pan (n : Nat) (q : Qp) : (d.putQp n q).pan = d.pan := rfl
@[simp] theorem Dev.putQp_srch (n : Nat) (q : Qp) : (d.putQp n q).srch = d.srch := rfl
@[simp] theorem Dev.putQp_memt (n : Nat) (q : Qp) : (d.putQp n q).memt = d.memt := rfl
@[simp] theorem Dev.putQp_hay (n : Nat) (q : Qp) : (d.putQp n q).hay = d.hay := rfl
@[simp] theorem Dev.putQp_fab (n : Nat) (q : Qp) : (d.putQp n q).fab = d.fab := rfl
@[simp] theorem Dev.putQp_shp (n : Nat) (q : Qp) : (d.putQp n q).shp = d.shp := rfl
@[simp] theorem Dev.putQp_cmp (n : Nat) (q : Qp) : (d.putQp n q).cmp = d.cmp := rfl
@[simp] theorem Dev.putQp_sep (n : Nat) (q : Qp) : (d.putQp n q).sep = d.sep := rfl

/-! `setCore` changes `sep` alone. -/

@[simp] theorem Dev.setCore_regs (k : Nat) (c : Core) : (d.setCore k c).regs = d.regs := rfl
@[simp] theorem Dev.setCore_mem (k : Nat) (c : Core) : (d.setCore k c).mem = d.mem := rfl
@[simp] theorem Dev.setCore_poison (k : Nat) (c : Core) : (d.setCore k c).poison = d.poison := rfl
@[simp] theorem Dev.setCore_out (k : Nat) (c : Core) : (d.setCore k c).out = d.out := rfl
@[simp] theorem Dev.setCore_fresh (k : Nat) (c : Core) : (d.setCore k c).fresh = d.fresh := rfl
@[simp] theorem Dev.setCore_pwr (k : Nat) (c : Core) : (d.setCore k c).pwr = d.pwr := rfl
@[simp] theorem Dev.setCore_therm (k : Nat) (c : Core) : (d.setCore k c).therm = d.therm := rfl
@[simp] theorem Dev.setCore_tap (k : Nat) (c : Core) : (d.setCore k c).tap = d.tap := rfl
@[simp] theorem Dev.setCore_cad (k : Nat) (c : Core) : (d.setCore k c).cad = d.cad := rfl
@[simp] theorem Dev.setCore_comp (k : Nat) (c : Core) : (d.setCore k c).comp = d.comp := rfl
@[simp] theorem Dev.setCore_hif (k : Nat) (c : Core) : (d.setCore k c).hif = d.hif := rfl
@[simp] theorem Dev.setCore_hlt (k : Nat) (c : Core) : (d.setCore k c).hlt = d.hlt := rfl
@[simp] theorem Dev.setCore_stl (k : Nat) (c : Core) : (d.setCore k c).stl = d.stl := rfl
@[simp] theorem Dev.setCore_kv (k : Nat) (c : Core) : (d.setCore k c).kv = d.kv := rfl
@[simp] theorem Dev.setCore_pan (k : Nat) (c : Core) : (d.setCore k c).pan = d.pan := rfl
@[simp] theorem Dev.setCore_srch (k : Nat) (c : Core) : (d.setCore k c).srch = d.srch := rfl
@[simp] theorem Dev.setCore_memt (k : Nat) (c : Core) : (d.setCore k c).memt = d.memt := rfl
@[simp] theorem Dev.setCore_hay (k : Nat) (c : Core) : (d.setCore k c).hay = d.hay := rfl
@[simp] theorem Dev.setCore_fab (k : Nat) (c : Core) : (d.setCore k c).fab = d.fab := rfl
@[simp] theorem Dev.setCore_shp (k : Nat) (c : Core) : (d.setCore k c).shp = d.shp := rfl
@[simp] theorem Dev.setCore_qpx (k : Nat) (c : Core) : (d.setCore k c).qpx = d.qpx := rfl
@[simp] theorem Dev.setCore_cmp (k : Nat) (c : Core) : (d.setCore k c).cmp = d.cmp := rfl

/-! `setSepPad` changes `sep` alone. -/

@[simp] theorem Dev.setSepPad_regs (p : Nat) (x : SepPad) : (d.setSepPad p x).regs = d.regs := rfl
@[simp] theorem Dev.setSepPad_mem (p : Nat) (x : SepPad) : (d.setSepPad p x).mem = d.mem := rfl
@[simp] theorem Dev.setSepPad_poison (p : Nat) (x : SepPad) : (d.setSepPad p x).poison = d.poison := rfl
@[simp] theorem Dev.setSepPad_out (p : Nat) (x : SepPad) : (d.setSepPad p x).out = d.out := rfl
@[simp] theorem Dev.setSepPad_fresh (p : Nat) (x : SepPad) : (d.setSepPad p x).fresh = d.fresh := rfl
@[simp] theorem Dev.setSepPad_pwr (p : Nat) (x : SepPad) : (d.setSepPad p x).pwr = d.pwr := rfl
@[simp] theorem Dev.setSepPad_therm (p : Nat) (x : SepPad) : (d.setSepPad p x).therm = d.therm := rfl
@[simp] theorem Dev.setSepPad_tap (p : Nat) (x : SepPad) : (d.setSepPad p x).tap = d.tap := rfl
@[simp] theorem Dev.setSepPad_cad (p : Nat) (x : SepPad) : (d.setSepPad p x).cad = d.cad := rfl
@[simp] theorem Dev.setSepPad_comp (p : Nat) (x : SepPad) : (d.setSepPad p x).comp = d.comp := rfl
@[simp] theorem Dev.setSepPad_hif (p : Nat) (x : SepPad) : (d.setSepPad p x).hif = d.hif := rfl
@[simp] theorem Dev.setSepPad_hlt (p : Nat) (x : SepPad) : (d.setSepPad p x).hlt = d.hlt := rfl
@[simp] theorem Dev.setSepPad_stl (p : Nat) (x : SepPad) : (d.setSepPad p x).stl = d.stl := rfl
@[simp] theorem Dev.setSepPad_kv (p : Nat) (x : SepPad) : (d.setSepPad p x).kv = d.kv := rfl
@[simp] theorem Dev.setSepPad_pan (p : Nat) (x : SepPad) : (d.setSepPad p x).pan = d.pan := rfl
@[simp] theorem Dev.setSepPad_srch (p : Nat) (x : SepPad) : (d.setSepPad p x).srch = d.srch := rfl
@[simp] theorem Dev.setSepPad_memt (p : Nat) (x : SepPad) : (d.setSepPad p x).memt = d.memt := rfl
@[simp] theorem Dev.setSepPad_hay (p : Nat) (x : SepPad) : (d.setSepPad p x).hay = d.hay := rfl
@[simp] theorem Dev.setSepPad_fab (p : Nat) (x : SepPad) : (d.setSepPad p x).fab = d.fab := rfl
@[simp] theorem Dev.setSepPad_shp (p : Nat) (x : SepPad) : (d.setSepPad p x).shp = d.shp := rfl
@[simp] theorem Dev.setSepPad_qpx (p : Nat) (x : SepPad) : (d.setSepPad p x).qpx = d.qpx := rfl
@[simp] theorem Dev.setSepPad_cmp (p : Nat) (x : SepPad) : (d.setSepPad p x).cmp = d.cmp := rfl

/-! `putInv` changes `sep` alone. -/

@[simp] theorem Dev.putInv_regs (i : Nat) (x : Inv) : (d.putInv i x).regs = d.regs := rfl
@[simp] theorem Dev.putInv_mem (i : Nat) (x : Inv) : (d.putInv i x).mem = d.mem := rfl
@[simp] theorem Dev.putInv_poison (i : Nat) (x : Inv) : (d.putInv i x).poison = d.poison := rfl
@[simp] theorem Dev.putInv_out (i : Nat) (x : Inv) : (d.putInv i x).out = d.out := rfl
@[simp] theorem Dev.putInv_fresh (i : Nat) (x : Inv) : (d.putInv i x).fresh = d.fresh := rfl
@[simp] theorem Dev.putInv_pwr (i : Nat) (x : Inv) : (d.putInv i x).pwr = d.pwr := rfl
@[simp] theorem Dev.putInv_therm (i : Nat) (x : Inv) : (d.putInv i x).therm = d.therm := rfl
@[simp] theorem Dev.putInv_tap (i : Nat) (x : Inv) : (d.putInv i x).tap = d.tap := rfl
@[simp] theorem Dev.putInv_cad (i : Nat) (x : Inv) : (d.putInv i x).cad = d.cad := rfl
@[simp] theorem Dev.putInv_comp (i : Nat) (x : Inv) : (d.putInv i x).comp = d.comp := rfl
@[simp] theorem Dev.putInv_hif (i : Nat) (x : Inv) : (d.putInv i x).hif = d.hif := rfl
@[simp] theorem Dev.putInv_hlt (i : Nat) (x : Inv) : (d.putInv i x).hlt = d.hlt := rfl
@[simp] theorem Dev.putInv_stl (i : Nat) (x : Inv) : (d.putInv i x).stl = d.stl := rfl
@[simp] theorem Dev.putInv_kv (i : Nat) (x : Inv) : (d.putInv i x).kv = d.kv := rfl
@[simp] theorem Dev.putInv_pan (i : Nat) (x : Inv) : (d.putInv i x).pan = d.pan := rfl
@[simp] theorem Dev.putInv_srch (i : Nat) (x : Inv) : (d.putInv i x).srch = d.srch := rfl
@[simp] theorem Dev.putInv_memt (i : Nat) (x : Inv) : (d.putInv i x).memt = d.memt := rfl
@[simp] theorem Dev.putInv_hay (i : Nat) (x : Inv) : (d.putInv i x).hay = d.hay := rfl
@[simp] theorem Dev.putInv_fab (i : Nat) (x : Inv) : (d.putInv i x).fab = d.fab := rfl
@[simp] theorem Dev.putInv_shp (i : Nat) (x : Inv) : (d.putInv i x).shp = d.shp := rfl
@[simp] theorem Dev.putInv_qpx (i : Nat) (x : Inv) : (d.putInv i x).qpx = d.qpx := rfl
@[simp] theorem Dev.putInv_cmp (i : Nat) (x : Inv) : (d.putInv i x).cmp = d.cmp := rfl

/-! `setTpad` changes `hlt` alone. -/

@[simp] theorem Dev.setTpad_regs (p : Nat) (x : TandemPad) : (d.setTpad p x).regs = d.regs := rfl
@[simp] theorem Dev.setTpad_mem (p : Nat) (x : TandemPad) : (d.setTpad p x).mem = d.mem := rfl
@[simp] theorem Dev.setTpad_poison (p : Nat) (x : TandemPad) : (d.setTpad p x).poison = d.poison := rfl
@[simp] theorem Dev.setTpad_out (p : Nat) (x : TandemPad) : (d.setTpad p x).out = d.out := rfl
@[simp] theorem Dev.setTpad_fresh (p : Nat) (x : TandemPad) : (d.setTpad p x).fresh = d.fresh := rfl
@[simp] theorem Dev.setTpad_pwr (p : Nat) (x : TandemPad) : (d.setTpad p x).pwr = d.pwr := rfl
@[simp] theorem Dev.setTpad_therm (p : Nat) (x : TandemPad) : (d.setTpad p x).therm = d.therm := rfl
@[simp] theorem Dev.setTpad_tap (p : Nat) (x : TandemPad) : (d.setTpad p x).tap = d.tap := rfl
@[simp] theorem Dev.setTpad_cad (p : Nat) (x : TandemPad) : (d.setTpad p x).cad = d.cad := rfl
@[simp] theorem Dev.setTpad_comp (p : Nat) (x : TandemPad) : (d.setTpad p x).comp = d.comp := rfl
@[simp] theorem Dev.setTpad_hif (p : Nat) (x : TandemPad) : (d.setTpad p x).hif = d.hif := rfl
@[simp] theorem Dev.setTpad_stl (p : Nat) (x : TandemPad) : (d.setTpad p x).stl = d.stl := rfl
@[simp] theorem Dev.setTpad_kv (p : Nat) (x : TandemPad) : (d.setTpad p x).kv = d.kv := rfl
@[simp] theorem Dev.setTpad_pan (p : Nat) (x : TandemPad) : (d.setTpad p x).pan = d.pan := rfl
@[simp] theorem Dev.setTpad_srch (p : Nat) (x : TandemPad) : (d.setTpad p x).srch = d.srch := rfl
@[simp] theorem Dev.setTpad_memt (p : Nat) (x : TandemPad) : (d.setTpad p x).memt = d.memt := rfl
@[simp] theorem Dev.setTpad_hay (p : Nat) (x : TandemPad) : (d.setTpad p x).hay = d.hay := rfl
@[simp] theorem Dev.setTpad_fab (p : Nat) (x : TandemPad) : (d.setTpad p x).fab = d.fab := rfl
@[simp] theorem Dev.setTpad_shp (p : Nat) (x : TandemPad) : (d.setTpad p x).shp = d.shp := rfl
@[simp] theorem Dev.setTpad_qpx (p : Nat) (x : TandemPad) : (d.setTpad p x).qpx = d.qpx := rfl
@[simp] theorem Dev.setTpad_cmp (p : Nat) (x : TandemPad) : (d.setTpad p x).cmp = d.cmp := rfl
@[simp] theorem Dev.setTpad_sep (p : Nat) (x : TandemPad) : (d.setTpad p x).sep = d.sep := rfl

end Sys2Proof.Machine
end

