-- ==== Sys2Proof/Laws/Ops.lean ====
section
/-!
SUPPORT. Laws/Ops.lean: what each shared operation can do: the tables and memory, register fields, what the part puts outside itself,
events and completions, and the lift of an effect on the part to the block.
-/

namespace Sys2Proof

/-! ## Tables -/

section
variable {α : Type}

theorem Tbl.at?_del_self (t : Tbl α) (k : Nat) : Tbl.at? (Tbl.del t k) k = none := by
  induction t with
  | nil => rfl
  | cons p t ih =>
    obtain ⟨j, v⟩ := p
    by_cases h : j = k
    · simp [Tbl.del, h, ih]
    · simp [Tbl.del, Tbl.at?, h, ih]

theorem Tbl.at?_del_ne (t : Tbl α) {k i : Nat} (h : i ≠ k) : Tbl.at? (Tbl.del t k) i = Tbl.at? t i := by
  induction t with
  | nil => rfl
  | cons p t ih =>
    obtain ⟨j, v⟩ := p
    by_cases hj : j = k
    · have : j ≠ i := fun e => h (e ▸ hj)
      simp [Tbl.del, Tbl.at?, hj, ih, Ne.symm h]
    · simp [Tbl.del, Tbl.at?, hj, ih]

theorem Tbl.at?_put_self (t : Tbl α) (k : Nat) (v : α) : Tbl.at? (Tbl.put t k v) k = some v := by
  induction t with
  | nil => simp [Tbl.put, Tbl.at?]
  | cons p t ih =>
    obtain ⟨j, u⟩ := p
    simp only [Tbl.put]
    split
    · simp [Tbl.at?]
    · split
      · simp [Tbl.at?]
      · rename_i h; simp [Tbl.at?, Ne.symm h, ih]

theorem Tbl.at?_put_ne (t : Tbl α) {k i : Nat} (v : α) (h : i ≠ k) : Tbl.at? (Tbl.put t k v) i = Tbl.at? t i := by
  induction t with
  | nil => simp [Tbl.put, Tbl.at?, Ne.symm h]
  | cons p t ih =>
    obtain ⟨j, u⟩ := p
    simp only [Tbl.put]
    split
    · simp [Tbl.at?, Ne.symm h]
    · split
      · rename_i e; subst e; simp [Tbl.at?, Ne.symm h]
      · simp [Tbl.at?, ih]

variable [DecidableEq α]

@[simp] theorem Tbl.rd_wr_self (d : Nat → α) (t : Tbl α) (k : Nat) (v : α) : Tbl.rd d (Tbl.wr d t k v) k = v := by
  simp only [Tbl.wr, Tbl.rd]
  split
  · rename_i h; rw [Tbl.at?_del_self, h]; rfl
  · rw [Tbl.at?_put_self]; rfl

theorem Tbl.rd_wr_ne (d : Nat → α) (t : Tbl α) {k i : Nat} (v : α) (h : i ≠ k) : Tbl.rd d (Tbl.wr d t k v) i = Tbl.rd d t i := by
  simp only [Tbl.wr, Tbl.rd]
  split
  · rw [Tbl.at?_del_ne t h]
  · rw [Tbl.at?_put_ne t v h]

/-! ## The canonical form -/

omit [DecidableEq α] in
theorem Tbl.rising_cons (p : Nat × α) (t : Tbl α) :
    Tbl.rising (p :: t) = true ↔ (∀ q ∈ t.head?, p.1 < q.1) ∧ Tbl.rising t = true := by
  cases t with
  | nil => simp [Tbl.rising]
  | cons q t => simp [Tbl.rising]

omit [DecidableEq α] in
theorem Tbl.rising_iff (t : Tbl α) : Tbl.rising t = true ↔ t.Pairwise fun p q => p.1 < q.1 := by
  induction t with
  | nil => simp [Tbl.rising]
  | cons p t ih =>
    rw [Tbl.rising_cons, ih, List.pairwise_cons]
    constructor
    · rintro ⟨h, ht⟩
      refine ⟨fun q hq => ?_, ht⟩
      cases t with
      | nil => cases hq
      | cons r t =>
        have hr : p.1 < r.1 := h r (by simp)
        rcases List.mem_cons.1 hq with rfl | hq
        · exact hr
        · exact Nat.lt_trans hr ((List.pairwise_cons.1 ht).1 q hq)
    · rintro ⟨h, ht⟩
      refine ⟨fun q hq => h q ?_, ht⟩
      cases t with
      | nil => cases hq
      | cons r t => simp at hq; simp [hq]

omit [DecidableEq α] in
theorem Tbl.mem_del {t : Tbl α} {k : Nat} {p : Nat × α} (h : p ∈ Tbl.del t k) : p ∈ t := by
  induction t with
  | nil => exact h
  | cons q t ih =>
    obtain ⟨j, v⟩ := q
    simp only [Tbl.del] at h
    split at h
    · exact List.mem_cons_of_mem _ (ih h)
    · rcases List.mem_cons.1 h with rfl | h
      · simp
      · exact List.mem_cons_of_mem _ (ih h)

omit [DecidableEq α] in
theorem Tbl.mem_put {t : Tbl α} {k : Nat} {v : α} {p : Nat × α} (h : p ∈ Tbl.put t k v) : p = (k, v) ∨ p ∈ t := by
  induction t with
  | nil => simpa [Tbl.put] using h
  | cons q t ih =>
    obtain ⟨j, u⟩ := q
    simp only [Tbl.put] at h
    split at h
    · simpa using h
    · split at h
      · rcases List.mem_cons.1 h with h | h <;> simp [h]
      · rcases List.mem_cons.1 h with h | h
        · simp [h]
        · rcases ih h with h | h <;> simp [h]

omit [DecidableEq α] in
theorem Tbl.del_pairwise {t : Tbl α} (k : Nat) (h : t.Pairwise fun p q => p.1 < q.1) :
    (Tbl.del t k).Pairwise fun p q => p.1 < q.1 := by
  induction t with
  | nil => exact h
  | cons q t ih =>
    obtain ⟨hq, ht⟩ := List.pairwise_cons.1 h
    simp only [Tbl.del]
    split
    · exact ih ht
    · exact List.pairwise_cons.2 ⟨fun r hr => hq r (Tbl.mem_del hr), ih ht⟩

omit [DecidableEq α] in
theorem Tbl.put_pairwise {t : Tbl α} (k : Nat) (v : α) (h : t.Pairwise fun p q => p.1 < q.1) :
    (Tbl.put t k v).Pairwise fun p q => p.1 < q.1 := by
  induction t with
  | nil => simp [Tbl.put]
  | cons q t ih =>
    obtain ⟨hq, ht⟩ := List.pairwise_cons.1 h
    simp only [Tbl.put]
    split
    · rename_i hk
      refine List.pairwise_cons.2 ⟨fun r hr => ?_, h⟩
      rcases List.mem_cons.1 hr with rfl | hr
      · exact hk
      · exact Nat.lt_trans hk (hq r hr)
    · split
      · rename_i hk
        exact List.pairwise_cons.2 ⟨fun r hr => hk ▸ hq r hr, ht⟩
      · rename_i h1 h2
        refine List.pairwise_cons.2 ⟨fun r hr => ?_, ih ht⟩
        rcases Tbl.mem_put hr with rfl | hr
        · show q.1 < k; omega
        · exact hq r hr

/-- A write keeps the canonical form. -/
theorem Tbl.wr_wf (d : Nat → α) {t : Tbl α} (k : Nat) (v : α) (h : Tbl.wf d t = true) : Tbl.wf d (Tbl.wr d t k v) = true := by
  simp only [Tbl.wf, Bool.and_eq_true, Tbl.rising_iff, List.all_eq_true, Bool.not_eq_true', decide_eq_false_iff_not] at h ⊢
  obtain ⟨hr, ha⟩ := h
  simp only [Tbl.wr]
  split
  · exact ⟨Tbl.del_pairwise k hr, fun p hp => ha p (Tbl.mem_del hp)⟩
  · rename_i hv
    refine ⟨Tbl.put_pairwise k v hr, fun p hp => ?_⟩
    rcases Tbl.mem_put hp with rfl | hp
    · exact hv
    · exact ha p hp

end
end Sys2Proof

namespace Sys2Proof.Machine

variable (d : Dev)

/-! ## Memory -/

theorem Dev.byte_setByte_self (a : Nat) (b : Byte) : (d.setByte a b).byte a = b := by simp [Dev.byte, Dev.setByte]

theorem Dev.byte_setByte_ne {a x : Nat} (b : Byte) (h : x ≠ a) : (d.setByte a b).byte x = d.byte x := by
  simp [Dev.byte, Dev.setByte, Tbl.rd_wr_ne _ _ _ h]

/-- Writing a byte keeps memory canonical. -/
theorem Dev.setByte_wf (a : Nat) (b : Byte) (h : Memory.wf d.mem = true) : Memory.wf (d.setByte a b).mem = true :=
  Tbl.wr_wf _ _ _ h

/-- Writing bytes keeps memory canonical. -/
theorem Dev.store_wf (l : Bytes) (a : Nat) (h : Memory.wf d.mem = true) : Memory.wf (d.store a l).mem = true := by
  induction l generalizing d a with
  | nil => exact h
  | cons b t ih => exact ih _ _ (d.setByte_wf a b h)

/-- A store changes memory alone. -/
theorem Dev.store_touches (l : Bytes) (a : Nat) : ∃ m, d.store a l = { d with mem := m } := by
  induction l generalizing d a with
  | nil => exact ⟨d.mem, rfl⟩
  | cons b t ih =>
    obtain ⟨m, e⟩ := ih (d.setByte a b) (a + 1)
    exact ⟨m, by rw [Dev.store, e]; rfl⟩

/-- A byte outside the bytes stored reads as before. -/
theorem Dev.byte_store_out (l : Bytes) (a x : Nat) (h : x < a ∨ a + l.length ≤ x) : (d.store a l).byte x = d.byte x := by
  induction l generalizing d a with
  | nil => rfl
  | cons b t ih =>
    simp only [List.length_cons] at h
    rw [Dev.store, ih (d.setByte a b) (a + 1) (by omega), d.byte_setByte_ne b (by omega)]

/-- The bytes stored read back. -/
theorem Dev.byte_store_in (l : Bytes) (a i : Nat) (h : i < l.length) : (d.store a l).byte (a + i) = l[i] := by
  induction l generalizing d a i with
  | nil => simp at h
  | cons b t ih =>
    cases i with
    | zero => rw [Dev.store, Dev.byte_store_out _ t (a + 1) (a + 0) (by omega), Nat.add_zero, Dev.byte_setByte_self]; rfl
    | succ i =>
      have e : a + (i + 1) = a + 1 + i := by omega
      rw [e, Dev.store, ih _ _ _ (by simpa using h)]; rfl

/-- Taking memory to its canonical form leaves canonical memory as it is. -/
theorem Dev.tidy_self (h : Memory.wf d.mem = true) : d.tidy = d := by simp [Dev.tidy, h]

/-- It leaves memory canonical. -/
theorem Dev.tidy_wf : Memory.wf d.tidy.mem = true := by
  unfold Dev.tidy
  split
  · assumption
  · show Memory.wf (d.mem.foldr _ []) = true
    induction d.mem with
    | nil => rfl
    | cons c t ih => exact Tbl.wr_wf _ _ _ ih

/-! It changes memory alone. -/

@[simp] theorem Dev.tidy_regs : d.tidy.regs = d.regs := by unfold Dev.tidy; split <;> rfl
@[simp] theorem Dev.tidy_poison : d.tidy.poison = d.poison := by unfold Dev.tidy; split <;> rfl
@[simp] theorem Dev.tidy_out : d.tidy.out = d.out := by unfold Dev.tidy; split <;> rfl
@[simp] theorem Dev.tidy_fresh : d.tidy.fresh = d.fresh := by unfold Dev.tidy; split <;> rfl
@[simp] theorem Dev.tidy_pwr : d.tidy.pwr = d.pwr := by unfold Dev.tidy; split <;> rfl
@[simp] theorem Dev.tidy_therm : d.tidy.therm = d.therm := by unfold Dev.tidy; split <;> rfl
@[simp] theorem Dev.tidy_tap : d.tidy.tap = d.tap := by unfold Dev.tidy; split <;> rfl
@[simp] theorem Dev.tidy_cad : d.tidy.cad = d.cad := by unfold Dev.tidy; split <;> rfl
@[simp] theorem Dev.tidy_comp : d.tidy.comp = d.comp := by unfold Dev.tidy; split <;> rfl
@[simp] theorem Dev.tidy_hif : d.tidy.hif = d.hif := by unfold Dev.tidy; split <;> rfl
@[simp] theorem Dev.tidy_hlt : d.tidy.hlt = d.hlt := by unfold Dev.tidy; split <;> rfl
@[simp] theorem Dev.tidy_stl : d.tidy.stl = d.stl := by unfold Dev.tidy; split <;> rfl
@[simp] theorem Dev.tidy_kv : d.tidy.kv = d.kv := by unfold Dev.tidy; split <;> rfl
@[simp] theorem Dev.tidy_pan : d.tidy.pan = d.pan := by unfold Dev.tidy; split <;> rfl
@[simp] theorem Dev.tidy_srch : d.tidy.srch = d.srch := by unfold Dev.tidy; split <;> rfl
@[simp] theorem Dev.tidy_memt : d.tidy.memt = d.memt := by unfold Dev.tidy; split <;> rfl
@[simp] theorem Dev.tidy_hay : d.tidy.hay = d.hay := by unfold Dev.tidy; split <;> rfl
@[simp] theorem Dev.tidy_fab : d.tidy.fab = d.fab := by unfold Dev.tidy; split <;> rfl
@[simp] theorem Dev.tidy_shp : d.tidy.shp = d.shp := by unfold Dev.tidy; split <;> rfl
@[simp] theorem Dev.tidy_qpx : d.tidy.qpx = d.qpx := by unfold Dev.tidy; split <;> rfl
@[simp] theorem Dev.tidy_cmp : d.tidy.cmp = d.cmp := by unfold Dev.tidy; split <;> rfl
@[simp] theorem Dev.tidy_sep : d.tidy.sep = d.sep := by unfold Dev.tidy; split <;> rfl

/-- It changes no byte. -/
@[simp] theorem Dev.tidy_byte (a : Nat) : d.tidy.byte a = d.byte a := by
  unfold Dev.tidy
  split
  · rfl
  · simp only [Dev.byte]
    induction d.mem with
    | nil => rfl
    | cons c t ih =>
      obtain ⟨j, v⟩ := c
      by_cases h : a = j
      · subst h; simp [Tbl.rd, Tbl.at?] 
        simpa [Tbl.rd] using Tbl.rd_wr_self memDefault (t.foldr (fun c m => Tbl.wr memDefault m c.1 c.2) []) a v
      · rw [List.foldr_cons, Tbl.rd_wr_ne _ _ _ h, ih]; simp [Tbl.rd, Tbl.at?, Ne.symm h]

/-! ## Register fields -/

@[simp] theorem Dev.reg_setReg_self (o : Nat) (v : Word) : (d.setReg o v).reg o = v := by simp [Dev.reg, Dev.setReg]

theorem Dev.reg_setReg_ne {o x : Nat} (v : Word) (h : x ≠ o) : (d.setReg o v).reg x = d.reg x := by
  simp [Dev.reg, Dev.setReg, Tbl.rd_wr_ne _ _ _ h]

/-! ## The lift to the block -/

theorem State.always_eq (s : State) (f : Dev → Dev) : s.always f = .next { s with dev := (f s.dev).tidy } := rfl

/-- A command on a part in service. -/
theorem State.onDev_alive (s : State) (f : Dev → Dev) (h : s.dev.alive = true) :
    s.onDev f = .next { s with dev := (f s.dev).tidy } := by simp [State.onDev, State.always, h]

/-- A command on a part out of service. -/
theorem State.onDev_dead (s : State) (f : Dev → Dev) (h : s.dev.alive = false) :
    s.onDev f = .next { s with dev := s.dev.tidy } := by simp [State.onDev, State.always, h]

/-! ## Frames -/

section
variable {x y z : Dev} {l : List Blk}

theorem Dev.keeps_refl (x : Dev) (l : List Blk) : x.keeps x l := by
  intro b _; cases b <;> simp [Blk.same]

theorem Dev.keeps_trans (h : x.keeps y l) (k : y.keeps z l) : x.keeps z l := by
  intro b hb
  have h := h b hb
  have k := k b hb
  cases b <;> simp_all [Blk.same]

/-- A frame with more pieces listed says less. -/
theorem Dev.keeps_mono {m : List Blk} (h : x.keeps y m) (hm : ∀ b ∈ m, b ∈ l) : x.keeps y l :=
  fun b hb => h b fun hm' => hb (hm b hm')

theorem not_listed {b : Blk} (h : l.contains b = false) : b ∉ l := by simpa using h

/-- Two effects one after the other change what either changes. -/
theorem Dev.keeps_then {m n : List Blk} (h : x.keeps y m) (k : y.keeps z n) (hm : ∀ b ∈ m, b ∈ l) (hn : ∀ b ∈ n, b ∈ l) : x.keeps z l :=
  Dev.keeps_trans (Dev.keeps_mono h hm) (Dev.keeps_mono k hn)

theorem Dev.keeps_regs (h : x.keeps y l) (hl : l.contains .regs = false) : y.regs = x.regs := (h .regs (not_listed hl)).symm
theorem Dev.keeps_mem (h : x.keeps y l) (hl : l.contains .mem = false) : ∀ a, y.byte a = x.byte a := fun a => (h .mem (not_listed hl) a).symm
theorem Dev.keeps_poison (h : x.keeps y l) (hl : l.contains .poison = false) : y.poison = x.poison := (h .poison (not_listed hl)).symm
theorem Dev.keeps_out (h : x.keeps y l) (hl : l.contains .out = false) : y.out = x.out := (h .out (not_listed hl)).symm
theorem Dev.keeps_fresh (h : x.keeps y l) (hl : l.contains .fresh = false) : y.fresh = x.fresh := (h .fresh (not_listed hl)).symm
theorem Dev.keeps_pwr (h : x.keeps y l) (hl : l.contains .pwr = false) : y.pwr = x.pwr := (h .pwr (not_listed hl)).symm
theorem Dev.keeps_therm (h : x.keeps y l) (hl : l.contains .therm = false) : y.therm = x.therm := (h .therm (not_listed hl)).symm
theorem Dev.keeps_tap (h : x.keeps y l) (hl : l.contains .tap = false) : y.tap = x.tap := (h .tap (not_listed hl)).symm
theorem Dev.keeps_cad (h : x.keeps y l) (hl : l.contains .cad = false) : y.cad = x.cad := (h .cad (not_listed hl)).symm
theorem Dev.keeps_comp (h : x.keeps y l) (hl : l.contains .comp = false) : y.comp = x.comp := (h .comp (not_listed hl)).symm
theorem Dev.keeps_hif (h : x.keeps y l) (hl : l.contains .hif = false) : y.hif = x.hif := (h .hif (not_listed hl)).symm
theorem Dev.keeps_hlt (h : x.keeps y l) (hl : l.contains .hlt = false) : y.hlt = x.hlt := (h .hlt (not_listed hl)).symm
theorem Dev.keeps_stl (h : x.keeps y l) (hl : l.contains .stl = false) : y.stl = x.stl := (h .stl (not_listed hl)).symm
theorem Dev.keeps_kv (h : x.keeps y l) (hl : l.contains .kv = false) : y.kv = x.kv := (h .kv (not_listed hl)).symm
theorem Dev.keeps_pan (h : x.keeps y l) (hl : l.contains .pan = false) : y.pan = x.pan := (h .pan (not_listed hl)).symm
theorem Dev.keeps_srch (h : x.keeps y l) (hl : l.contains .srch = false) : y.srch = x.srch := (h .srch (not_listed hl)).symm
theorem Dev.keeps_memt (h : x.keeps y l) (hl : l.contains .memt = false) : y.memt = x.memt := (h .memt (not_listed hl)).symm
theorem Dev.keeps_hay (h : x.keeps y l) (hl : l.contains .hay = false) : y.hay = x.hay := (h .hay (not_listed hl)).symm
theorem Dev.keeps_fab (h : x.keeps y l) (hl : l.contains .fab = false) : y.fab = x.fab := (h .fab (not_listed hl)).symm
theorem Dev.keeps_shp (h : x.keeps y l) (hl : l.contains .shp = false) : y.shp = x.shp := (h .shp (not_listed hl)).symm
theorem Dev.keeps_qpx (h : x.keeps y l) (hl : l.contains .qpx = false) : y.qpx = x.qpx := (h .qpx (not_listed hl)).symm
theorem Dev.keeps_cmp (h : x.keeps y l) (hl : l.contains .cmp = false) : y.cmp = x.cmp := (h .cmp (not_listed hl)).symm
theorem Dev.keeps_sep (h : x.keeps y l) (hl : l.contains .sep = false) : y.sep = x.sep := (h .sep (not_listed hl)).symm

end

/-! ## What the shared operations change -/

theorem Dev.tidy_keeps : d.keeps d.tidy [] := by intro b _; cases b <;> simp [Blk.same]

/-- A frame before memory is taken to its canonical form holds after it. -/
theorem Dev.keeps_tidy {x y : Dev} {l : List Blk} (h : x.keeps y l) : x.keeps y.tidy l := Dev.keeps_trans h (Dev.keeps_mono y.tidy_keeps (by simp))

@[simp] theorem Dev.tidy_reg (o : Nat) : d.tidy.reg o = d.reg o := by simp [Dev.reg]
@[simp] theorem Dev.tidy_fld (f : Fld) : d.tidy.fld f = d.fld f := by simp [Dev.fld]
@[simp] theorem Dev.tidy_flag (f : Fld) : d.tidy.flag f = d.flag f := by simp [Dev.flag]

theorem Dev.put_keeps (p : Put) : d.keeps (d.put p) [.out, .hif] := by
  unfold Dev.put
  intro b hb
  split <;> cases b <;> first | rfl | (intro a; rfl) | simp at hb

theorem Dev.send_keeps (k : MsgKind) (dst : Nat) (as : List Nat) (b : Bytes) : d.keeps (d.send k dst as b) [.out, .hif] := d.put_keeps _

theorem Dev.retireCmd_keeps (o : Option CmdRef) : d.keeps (d.retireCmd o) [.hif] := by
  cases o
  · exact Dev.keeps_refl d _
  · intro b hb; cases b <;> first | rfl | (intro a; rfl) | simp at hb

theorem Dev.setFld_keeps (f : Fld) (v : Nat) : d.keeps (d.setFld f v) [.regs] := by
  intro b hb; cases b <;> first | rfl | (intro a; rfl) | simp at hb

theorem Dev.count_keeps (f : Fld) (n : Nat) : d.keeps (d.count f n) [.regs] := d.setFld_keeps _ _

theorem Dev.setCplRing_keeps (r : Nat) (c : CplRing) : d.keeps (d.setCplRing r c) [.hif] := by
  intro b hb; cases b <;> first | rfl | (intro a; rfl) | simp at hb

theorem Dev.landCpl_keeps (r : Nat) (c : Cpl) (x : Option CmdRef) : d.keeps (d.landCpl r c x) [.out, .hif] := by
  unfold Dev.landCpl
  have one := d.setCplRing_keeps r { d.cplRing r with
    prod := ((d.cplRing r).prod + 1) % 2 ^ 32
    unsignalled := (d.cplRing r).unsignalled + 1
    oldest := if (d.cplRing r).unsignalled = 0 then d.now else (d.cplRing r).oldest }
  have two := Dev.keeps_then (l := [.out, .hif]) one (Dev.put_keeps _ (.cpl r ((d.cplRing r).prod % 2 ^ (d.cplRing r).log2) c)) (by simp) (by simp)
  have three := Dev.keeps_trans two (Dev.put_keeps _ (.cplProd r (((d.cplRing r).prod + 1) % 2 ^ 32)))
  exact Dev.keeps_then three (Dev.retireCmd_keeps _ x) (by simp) (by simp)

theorem Dev.drainEvents_keeps (l : List Cpl) : d.keeps (d.drainEvents l) [.out, .hif, .hlt] := by
  induction l generalizing d with
  | nil => intro b hb; cases b <;> first | rfl | (intro a; rfl) | simp at hb
  | cons e t ih =>
    simp only [Dev.drainEvents]
    split
    · exact Dev.keeps_then (d.landCpl_keeps _ e none) (ih _) (by simp) (by simp)
    · intro b hb; cases b <;> first | rfl | (intro a; rfl) | simp at hb

theorem Dev.event_keeps (e : Evt) (k i x : Nat) (j : Option Nat) (b : Bool) : d.keeps (d.event e k i x j b) [.regs, .out, .hif, .hlt] := by
  unfold Dev.event
  have one : d.keeps (if e.bit.width = 0 then d else d.setFld e.bit 1) [.regs] := by
    split
    · exact Dev.keeps_refl d _
    · exact d.setFld_keeps _ _
  generalize (if e.bit.width = 0 then d else d.setFld e.bit 1) = d1 at one ⊢
  have two : d.keeps (if d1.flag F.DBG_TRIG_ARM && d1.fld F.DBG_TRIG_CODE == e.code then
      (((d1.setFld F.DBG_TRIG_ARM 0).setFld F.DBG_TRIG_FIRED 1).setFld F.DBG_TRIG_BEAT_BEAT d1.now) else d1) [.regs] := by
    split
    · exact Dev.keeps_trans (Dev.keeps_trans (Dev.keeps_trans one (Dev.setFld_keeps _ _ _)) (Dev.setFld_keeps _ _ _)) (Dev.setFld_keeps _ _ _)
    · exact one
  dsimp only
  generalize (if d1.flag F.DBG_TRIG_ARM && d1.fld F.DBG_TRIG_CODE == e.code then
      (((d1.setFld F.DBG_TRIG_ARM 0).setFld F.DBG_TRIG_FIRED 1).setFld F.DBG_TRIG_BEAT_BEAT d1.now) else d1) = d2 at two ⊢
  have three : d2.keeps { d2 with hlt.lastCode := e.code, hlt.seq := (d2.hlt.seq + 1) % 2 ^ 32 } [.hlt] := by
    intro b hb; cases b <;> first | rfl | (intro a; rfl) | simp at hb
  have four := Dev.keeps_then (l := [.regs, .out, .hif, .hlt]) two three (by simp) (by simp)
  split
  · exact Dev.keeps_then four (Dev.setFld_keeps _ _ _) (by simp) (by simp)
  · exact Dev.keeps_then four (Dev.drainEvents_keeps _ _) (by simp) (by simp)

theorem Dev.raise_keeps (e : Evt) (k i x : Nat) (j : Option Nat) : d.keeps (d.raise e k i x j) [.regs, .out, .hif, .hlt] :=
  d.event_keeps e k i x j false

theorem Dev.complete_keeps (r : Nat) (c : Cpl) (x : Option CmdRef) : d.keeps (d.complete r c x) [.regs, .out, .hif, .hlt] := by
  unfold Dev.complete
  dsimp only
  split
  · exact Dev.keeps_mono (d.landCpl_keeps r c x) (by simp)
  · split
    · exact Dev.keeps_then (Dev.setFld_keeps _ _ _) (Dev.retireCmd_keeps _ _) (by simp) (by simp)
    · split
      · exact Dev.keeps_then (d.setCplRing_keeps r _) (Dev.raise_keeps _ _ _ _ _ _) (by simp) (by simp)
      · exact Dev.keeps_mono (d.setCplRing_keeps r _) (by simp)

theorem Dev.completeCmd_keeps (r : CmdRef) (st : Nat) (b : Bytes) : d.keeps (d.completeCmd r st b) [.regs, .out, .hif, .hlt] := by
  unfold Dev.completeCmd
  split
  · exact Dev.keeps_mono (d.retireCmd_keeps _) (by simp)
  · exact d.complete_keeps _ _ _

theorem Dev.consume_keeps (r : CmdRef) (n : Nat) : d.keeps (d.consume r n) [.regs, .out, .hif] := by
  unfold Dev.consume
  dsimp only
  refine Dev.keeps_then (m := [.out, .hif]) (Dev.keeps_trans ?_ (Dev.put_keeps _ _)) (Dev.setFld_keeps _ _ _) (by simp) (by simp)
  intro b hb; cases b <;> first | rfl | (intro a; rfl) | simp at hb

theorem Dev.refusePartial_keeps (r : Nat) : d.keeps (d.refusePartial r) [.regs, .out, .hif, .hlt] := by
  unfold Dev.refusePartial
  split
  · exact Dev.keeps_refl d _
  · rename_i p _
    have one : d.keeps { d with hif.partials := Tbl.del d.hif.partials r } [.hif] := by
      intro b hb; cases b <;> first | rfl | (intro a; rfl) | simp at hb
    have two := Dev.keeps_then (l := [.regs, .out, .hif, .hlt]) one
      (Dev.keeps_trans (Dev.setFld_keeps _ F.INTK_EVT_REFUSED 1) (Dev.count_keeps _ F.INTK_REFUSE_CNT_MALFORMED 1)) (by simp) (by simp)
    exact Dev.keeps_trans two (Dev.complete_keeps _ _ _ _)

/-- What may follow a fault event in `crossings`: the pin of R448. -/
theorem Dev.askPin_keeps (c : Bool) :
    d.keeps (if c then ({ d with hlt.askReplace := true }).put (.pin .askReplace true) else d) [.regs, .out, .hif, .hlt] := by
  cases c
  · exact Dev.keeps_refl d _
  · refine Dev.keeps_then (m := [.hlt]) (n := [.out, .hif]) ?_ (Dev.put_keeps _ _) (by simp) (by simp)
    intro b hb; cases b <;> first | rfl | (intro a; rfl) | simp at hb

theorem Dev.raiseIf_keeps (c : Bool) (e : Evt) (k i : Nat) : d.keeps (if c then d.raise e k i else d) [.regs, .out, .hif, .hlt] := by
  cases c
  · exact Dev.keeps_refl d _
  · exact d.raise_keeps e k i 0 none

theorem Dev.setPart_keeps (k i : Nat) (p : PartHealth) : d.keeps (d.setPart k i p) [.regs, .out, .hif, .hlt] := by
  intro b hb; cases b <;> first | rfl | (intro a; rfl) | simp at hb

theorem Dev.crossings_keeps (k i : Nat) : d.keeps (d.crossings k i) [.regs, .out, .hif, .hlt] :=
  Dev.keeps_trans (Dev.keeps_trans (Dev.keeps_trans (d.setPart_keeps k i _) (Dev.raiseIf_keeps _ _ _ _ _)) (Dev.raiseIf_keeps _ _ _ _ _))
    (Dev.askPin_keeps _ _)

theorem Dev.dropLoad_keeps (c : Bool) : d.keeps (d.dropLoad c) [.comp, .hlt] := by
  unfold Dev.dropLoad
  intro b hb
  split <;> cases b <;> first | rfl | (intro a; rfl) | simp at hb

theorem Dev.spareCheck_keeps : d.keeps d.spareCheck [.comp, .hlt] := by
  unfold Dev.spareCheck
  dsimp only
  split <;> try split
  all_goals first
    | exact Dev.keeps_refl d _
    | exact d.dropLoad_keeps false
    | (intro b hb; cases b <;> first | rfl | (intro a; rfl) | simp at hb)

theorem Dev.charge_keeps (c : HltClass) (k i : Nat) : d.keeps (d.charge c k i) [.regs, .out, .comp, .hif, .hlt] := by
  have fold (l : List (Nat × Nat)) (x : Dev) :
      x.keeps (l.foldl (fun (d : Dev) k => d.crossings k.1 k.2) x) [.regs, .out, .hif, .hlt] := by
    induction l generalizing x with
    | nil => exact Dev.keeps_refl x _
    | cons a t ih => exact Dev.keeps_trans (x.crossings_keeps a.1 a.2) (ih _)
  unfold Dev.charge
  dsimp only
  refine Dev.keeps_then (Dev.keeps_then (l := [.regs, .out, .hif, .hlt]) (m := [.hlt]) ?_ (fold _ _) (by simp) (by simp))
    (Dev.spareCheck_keeps _) (by simp) (by simp)
  intro b hb; cases b <;> first | rfl | (intro a; rfl) | simp at hb

/-! `put` leaves everything but `out`, `hif` alone. -/

@[simp] theorem Dev.put_regs (p : Put) : (d.put p).regs = d.regs := Dev.keeps_regs (d.put_keeps p) rfl
@[simp] theorem Dev.put_byte (p : Put) (m : Nat) : (d.put p).byte m = d.byte m := Dev.keeps_mem (d.put_keeps p) rfl m
@[simp] theorem Dev.put_poison (p : Put) : (d.put p).poison = d.poison := Dev.keeps_poison (d.put_keeps p) rfl
@[simp] theorem Dev.put_fresh (p : Put) : (d.put p).fresh = d.fresh := Dev.keeps_fresh (d.put_keeps p) rfl
@[simp] theorem Dev.put_pwr (p : Put) : (d.put p).pwr = d.pwr := Dev.keeps_pwr (d.put_keeps p) rfl
@[simp] theorem Dev.put_therm (p : Put) : (d.put p).therm = d.therm := Dev.keeps_therm (d.put_keeps p) rfl
@[simp] theorem Dev.put_tap (p : Put) : (d.put p).tap = d.tap := Dev.keeps_tap (d.put_keeps p) rfl
@[simp] theorem Dev.put_cad (p : Put) : (d.put p).cad = d.cad := Dev.keeps_cad (d.put_keeps p) rfl
@[simp] theorem Dev.put_comp (p : Put) : (d.put p).comp = d.comp := Dev.keeps_comp (d.put_keeps p) rfl
@[simp] theorem Dev.put_hlt (p : Put) : (d.put p).hlt = d.hlt := Dev.keeps_hlt (d.put_keeps p) rfl
@[simp] theorem Dev.put_stl (p : Put) : (d.put p).stl = d.stl := Dev.keeps_stl (d.put_keeps p) rfl
@[simp] theorem Dev.put_kv (p : Put) : (d.put p).kv = d.kv := Dev.keeps_kv (d.put_keeps p) rfl
@[simp] theorem Dev.put_pan (p : Put) : (d.put p).pan = d.pan := Dev.keeps_pan (d.put_keeps p) rfl
@[simp] theorem Dev.put_srch (p : Put) : (d.put p).srch = d.srch := Dev.keeps_srch (d.put_keeps p) rfl
@[simp] theorem Dev.put_memt (p : Put) : (d.put p).memt = d.memt := Dev.keeps_memt (d.put_keeps p) rfl
@[simp] theorem Dev.put_hay (p : Put) : (d.put p).hay = d.hay := Dev.keeps_hay (d.put_keeps p) rfl
@[simp] theorem Dev.put_fab (p : Put) : (d.put p).fab = d.fab := Dev.keeps_fab (d.put_keeps p) rfl
@[simp] theorem Dev.put_shp (p : Put) : (d.put p).shp = d.shp := Dev.keeps_shp (d.put_keeps p) rfl
@[simp] theorem Dev.put_qpx (p : Put) : (d.put p).qpx = d.qpx := Dev.keeps_qpx (d.put_keeps p) rfl
@[simp] theorem Dev.put_cmp (p : Put) : (d.put p).cmp = d.cmp := Dev.keeps_cmp (d.put_keeps p) rfl
@[simp] theorem Dev.put_sep (p : Put) : (d.put p).sep = d.sep := Dev.keeps_sep (d.put_keeps p) rfl

/-! `send` leaves everything but `out`, `hif` alone. -/

@[simp] theorem Dev.send_regs (k : MsgKind) (dst : Nat) (as : List Nat) (b : Bytes) : (d.send k dst as b).regs = d.regs := Dev.keeps_regs (d.send_keeps k dst as b) rfl
@[simp] theorem Dev.send_byte (k : MsgKind) (dst : Nat) (as : List Nat) (b : Bytes) (m : Nat) : (d.send k dst as b).byte m = d.byte m := Dev.keeps_mem (d.send_keeps k dst as b) rfl m
@[simp] theorem Dev.send_poison (k : MsgKind) (dst : Nat) (as : List Nat) (b : Bytes) : (d.send k dst as b).poison = d.poison := Dev.keeps_poison (d.send_keeps k dst as b) rfl
@[simp] theorem Dev.send_fresh (k : MsgKind) (dst : Nat) (as : List Nat) (b : Bytes) : (d.send k dst as b).fresh = d.fresh := Dev.keeps_fresh (d.send_keeps k dst as b) rfl
@[simp] theorem Dev.send_pwr (k : MsgKind) (dst : Nat) (as : List Nat) (b : Bytes) : (d.send k dst as b).pwr = d.pwr := Dev.keeps_pwr (d.send_keeps k dst as b) rfl
@[simp] theorem Dev.send_therm (k : MsgKind) (dst : Nat) (as : List Nat) (b : Bytes) : (d.send k dst as b).therm = d.therm := Dev.keeps_therm (d.send_keeps k dst as b) rfl
@[simp] theorem Dev.send_tap (k : MsgKind) (dst : Nat) (as : List Nat) (b : Bytes) : (d.send k dst as b).tap = d.tap := Dev.keeps_tap (d.send_keeps k dst as b) rfl
@[simp] theorem Dev.send_cad (k : MsgKind) (dst : Nat) (as : List Nat) (b : Bytes) : (d.send k dst as b).cad = d.cad := Dev.keeps_cad (d.send_keeps k dst as b) rfl
@[simp] theorem Dev.send_comp (k : MsgKind) (dst : Nat) (as : List Nat) (b : Bytes) : (d.send k dst as b).comp = d.comp := Dev.keeps_comp (d.send_keeps k dst as b) rfl
@[simp] theorem Dev.send_hlt (k : MsgKind) (dst : Nat) (as : List Nat) (b : Bytes) : (d.send k dst as b).hlt = d.hlt := Dev.keeps_hlt (d.send_keeps k dst as b) rfl
@[simp] theorem Dev.send_stl (k : MsgKind) (dst : Nat) (as : List Nat) (b : Bytes) : (d.send k dst as b).stl = d.stl := Dev.keeps_stl (d.send_keeps k dst as b) rfl
@[simp] theorem Dev.send_kv (k : MsgKind) (dst : Nat) (as : List Nat) (b : Bytes) : (d.send k dst as b).kv = d.kv := Dev.keeps_kv (d.send_keeps k dst as b) rfl
@[simp] theorem Dev.send_pan (k : MsgKind) (dst : Nat) (as : List Nat) (b : Bytes) : (d.send k dst as b).pan = d.pan := Dev.keeps_pan (d.send_keeps k dst as b) rfl
@[simp] theorem Dev.send_srch (k : MsgKind) (dst : Nat) (as : List Nat) (b : Bytes) : (d.send k dst as b).srch = d.srch := Dev.keeps_srch (d.send_keeps k dst as b) rfl
@[simp] theorem Dev.send_memt (k : MsgKind) (dst : Nat) (as : List Nat) (b : Bytes) : (d.send k dst as b).memt = d.memt := Dev.keeps_memt (d.send_keeps k dst as b) rfl
@[simp] theorem Dev.send_hay (k : MsgKind) (dst : Nat) (as : List Nat) (b : Bytes) : (d.send k dst as b).hay = d.hay := Dev.keeps_hay (d.send_keeps k dst as b) rfl
@[simp] theorem Dev.send_fab (k : MsgKind) (dst : Nat) (as : List Nat) (b : Bytes) : (d.send k dst as b).fab = d.fab := Dev.keeps_fab (d.send_keeps k dst as b) rfl
@[simp] theorem Dev.send_shp (k : MsgKind) (dst : Nat) (as : List Nat) (b : Bytes) : (d.send k dst as b).shp = d.shp := Dev.keeps_shp (d.send_keeps k dst as b) rfl
@[simp] theorem Dev.send_qpx (k : MsgKind) (dst : Nat) (as : List Nat) (b : Bytes) : (d.send k dst as b).qpx = d.qpx := Dev.keeps_qpx (d.send_keeps k dst as b) rfl
@[simp] theorem Dev.send_cmp (k : MsgKind) (dst : Nat) (as : List Nat) (b : Bytes) : (d.send k dst as b).cmp = d.cmp := Dev.keeps_cmp (d.send_keeps k dst as b) rfl
@[simp] theorem Dev.send_sep (k : MsgKind) (dst : Nat) (as : List Nat) (b : Bytes) : (d.send k dst as b).sep = d.sep := Dev.keeps_sep (d.send_keeps k dst as b) rfl

/-! `retireCmd` leaves everything but `hif` alone. -/

@[simp] theorem Dev.retireCmd_regs (o : Option CmdRef) : (d.retireCmd o).regs = d.regs := Dev.keeps_regs (d.retireCmd_keeps o) rfl
@[simp] theorem Dev.retireCmd_byte (o : Option CmdRef) (m : Nat) : (d.retireCmd o).byte m = d.byte m := Dev.keeps_mem (d.retireCmd_keeps o) rfl m
@[simp] theorem Dev.retireCmd_poison (o : Option CmdRef) : (d.retireCmd o).poison = d.poison := Dev.keeps_poison (d.retireCmd_keeps o) rfl
@[simp] theorem Dev.retireCmd_out (o : Option CmdRef) : (d.retireCmd o).out = d.out := Dev.keeps_out (d.retireCmd_keeps o) rfl
@[simp] theorem Dev.retireCmd_fresh (o : Option CmdRef) : (d.retireCmd o).fresh = d.fresh := Dev.keeps_fresh (d.retireCmd_keeps o) rfl
@[simp] theorem Dev.retireCmd_pwr (o : Option CmdRef) : (d.retireCmd o).pwr = d.pwr := Dev.keeps_pwr (d.retireCmd_keeps o) rfl
@[simp] theorem Dev.retireCmd_therm (o : Option CmdRef) : (d.retireCmd o).therm = d.therm := Dev.keeps_therm (d.retireCmd_keeps o) rfl
@[simp] theorem Dev.retireCmd_tap (o : Option CmdRef) : (d.retireCmd o).tap = d.tap := Dev.keeps_tap (d.retireCmd_keeps o) rfl
@[simp] theorem Dev.retireCmd_cad (o : Option CmdRef) : (d.retireCmd o).cad = d.cad := Dev.keeps_cad (d.retireCmd_keeps o) rfl
@[simp] theorem Dev.retireCmd_comp (o : Option CmdRef) : (d.retireCmd o).comp = d.comp := Dev.keeps_comp (d.retireCmd_keeps o) rfl
@[simp] theorem Dev.retireCmd_hlt (o : Option CmdRef) : (d.retireCmd o).hlt = d.hlt := Dev.keeps_hlt (d.retireCmd_keeps o) rfl
@[simp] theorem Dev.retireCmd_stl (o : Option CmdRef) : (d.retireCmd o).stl = d.stl := Dev.keeps_stl (d.retireCmd_keeps o) rfl
@[simp] theorem Dev.retireCmd_kv (o : Option CmdRef) : (d.retireCmd o).kv = d.kv := Dev.keeps_kv (d.retireCmd_keeps o) rfl
@[simp] theorem Dev.retireCmd_pan (o : Option CmdRef) : (d.retireCmd o).pan = d.pan := Dev.keeps_pan (d.retireCmd_keeps o) rfl
@[simp] theorem Dev.retireCmd_srch (o : Option CmdRef) : (d.retireCmd o).srch = d.srch := Dev.keeps_srch (d.retireCmd_keeps o) rfl
@[simp] theorem Dev.retireCmd_memt (o : Option CmdRef) : (d.retireCmd o).memt = d.memt := Dev.keeps_memt (d.retireCmd_keeps o) rfl
@[simp] theorem Dev.retireCmd_hay (o : Option CmdRef) : (d.retireCmd o).hay = d.hay := Dev.keeps_hay (d.retireCmd_keeps o) rfl
@[simp] theorem Dev.retireCmd_fab (o : Option CmdRef) : (d.retireCmd o).fab = d.fab := Dev.keeps_fab (d.retireCmd_keeps o) rfl
@[simp] theorem Dev.retireCmd_shp (o : Option CmdRef) : (d.retireCmd o).shp = d.shp := Dev.keeps_shp (d.retireCmd_keeps o) rfl
@[simp] theorem Dev.retireCmd_qpx (o : Option CmdRef) : (d.retireCmd o).qpx = d.qpx := Dev.keeps_qpx (d.retireCmd_keeps o) rfl
@[simp] theorem Dev.retireCmd_cmp (o : Option CmdRef) : (d.retireCmd o).cmp = d.cmp := Dev.keeps_cmp (d.retireCmd_keeps o) rfl
@[simp] theorem Dev.retireCmd_sep (o : Option CmdRef) : (d.retireCmd o).sep = d.sep := Dev.keeps_sep (d.retireCmd_keeps o) rfl

/-! `landCpl` leaves everything but `out`, `hif` alone. -/

@[simp] theorem Dev.landCpl_regs (r : Nat) (c : Cpl) (o : Option CmdRef) : (d.landCpl r c o).regs = d.regs := Dev.keeps_regs (d.landCpl_keeps r c o) rfl
@[simp] theorem Dev.landCpl_byte (r : Nat) (c : Cpl) (o : Option CmdRef) (m : Nat) : (d.landCpl r c o).byte m = d.byte m := Dev.keeps_mem (d.landCpl_keeps r c o) rfl m
@[simp] theorem Dev.landCpl_poison (r : Nat) (c : Cpl) (o : Option CmdRef) : (d.landCpl r c o).poison = d.poison := Dev.keeps_poison (d.landCpl_keeps r c o) rfl
@[simp] theorem Dev.landCpl_fresh (r : Nat) (c : Cpl) (o : Option CmdRef) : (d.landCpl r c o).fresh = d.fresh := Dev.keeps_fresh (d.landCpl_keeps r c o) rfl
@[simp] theorem Dev.landCpl_pwr (r : Nat) (c : Cpl) (o : Option CmdRef) : (d.landCpl r c o).pwr = d.pwr := Dev.keeps_pwr (d.landCpl_keeps r c o) rfl
@[simp] theorem Dev.landCpl_therm (r : Nat) (c : Cpl) (o : Option CmdRef) : (d.landCpl r c o).therm = d.therm := Dev.keeps_therm (d.landCpl_keeps r c o) rfl
@[simp] theorem Dev.landCpl_tap (r : Nat) (c : Cpl) (o : Option CmdRef) : (d.landCpl r c o).tap = d.tap := Dev.keeps_tap (d.landCpl_keeps r c o) rfl
@[simp] theorem Dev.landCpl_cad (r : Nat) (c : Cpl) (o : Option CmdRef) : (d.landCpl r c o).cad = d.cad := Dev.keeps_cad (d.landCpl_keeps r c o) rfl
@[simp] theorem Dev.landCpl_comp (r : Nat) (c : Cpl) (o : Option CmdRef) : (d.landCpl r c o).comp = d.comp := Dev.keeps_comp (d.landCpl_keeps r c o) rfl
@[simp] theorem Dev.landCpl_hlt (r : Nat) (c : Cpl) (o : Option CmdRef) : (d.landCpl r c o).hlt = d.hlt := Dev.keeps_hlt (d.landCpl_keeps r c o) rfl
@[simp] theorem Dev.landCpl_stl (r : Nat) (c : Cpl) (o : Option CmdRef) : (d.landCpl r c o).stl = d.stl := Dev.keeps_stl (d.landCpl_keeps r c o) rfl
@[simp] theorem Dev.landCpl_kv (r : Nat) (c : Cpl) (o : Option CmdRef) : (d.landCpl r c o).kv = d.kv := Dev.keeps_kv (d.landCpl_keeps r c o) rfl
@[simp] theorem Dev.landCpl_pan (r : Nat) (c : Cpl) (o : Option CmdRef) : (d.landCpl r c o).pan = d.pan := Dev.keeps_pan (d.landCpl_keeps r c o) rfl
@[simp] theorem Dev.landCpl_srch (r : Nat) (c : Cpl) (o : Option CmdRef) : (d.landCpl r c o).srch = d.srch := Dev.keeps_srch (d.landCpl_keeps r c o) rfl
@[simp] theorem Dev.landCpl_memt (r : Nat) (c : Cpl) (o : Option CmdRef) : (d.landCpl r c o).memt = d.memt := Dev.keeps_memt (d.landCpl_keeps r c o) rfl
@[simp] theorem Dev.landCpl_hay (r : Nat) (c : Cpl) (o : Option CmdRef) : (d.landCpl r c o).hay = d.hay := Dev.keeps_hay (d.landCpl_keeps r c o) rfl
@[simp] theorem Dev.landCpl_fab (r : Nat) (c : Cpl) (o : Option CmdRef) : (d.landCpl r c o).fab = d.fab := Dev.keeps_fab (d.landCpl_keeps r c o) rfl
@[simp] theorem Dev.landCpl_shp (r : Nat) (c : Cpl) (o : Option CmdRef) : (d.landCpl r c o).shp = d.shp := Dev.keeps_shp (d.landCpl_keeps r c o) rfl
@[simp] theorem Dev.landCpl_qpx (r : Nat) (c : Cpl) (o : Option CmdRef) : (d.landCpl r c o).qpx = d.qpx := Dev.keeps_qpx (d.landCpl_keeps r c o) rfl
@[simp] theorem Dev.landCpl_cmp (r : Nat) (c : Cpl) (o : Option CmdRef) : (d.landCpl r c o).cmp = d.cmp := Dev.keeps_cmp (d.landCpl_keeps r c o) rfl
@[simp] theorem Dev.landCpl_sep (r : Nat) (c : Cpl) (o : Option CmdRef) : (d.landCpl r c o).sep = d.sep := Dev.keeps_sep (d.landCpl_keeps r c o) rfl

/-! `drainEvents` leaves everything but `out`, `hif`, `hlt` alone. -/

@[simp] theorem Dev.drainEvents_regs (l : List Cpl) : (d.drainEvents l).regs = d.regs := Dev.keeps_regs (d.drainEvents_keeps l) rfl
@[simp] theorem Dev.drainEvents_byte (l : List Cpl) (m : Nat) : (d.drainEvents l).byte m = d.byte m := Dev.keeps_mem (d.drainEvents_keeps l) rfl m
@[simp] theorem Dev.drainEvents_poison (l : List Cpl) : (d.drainEvents l).poison = d.poison := Dev.keeps_poison (d.drainEvents_keeps l) rfl
@[simp] theorem Dev.drainEvents_fresh (l : List Cpl) : (d.drainEvents l).fresh = d.fresh := Dev.keeps_fresh (d.drainEvents_keeps l) rfl
@[simp] theorem Dev.drainEvents_pwr (l : List Cpl) : (d.drainEvents l).pwr = d.pwr := Dev.keeps_pwr (d.drainEvents_keeps l) rfl
@[simp] theorem Dev.drainEvents_therm (l : List Cpl) : (d.drainEvents l).therm = d.therm := Dev.keeps_therm (d.drainEvents_keeps l) rfl
@[simp] theorem Dev.drainEvents_tap (l : List Cpl) : (d.drainEvents l).tap = d.tap := Dev.keeps_tap (d.drainEvents_keeps l) rfl
@[simp] theorem Dev.drainEvents_cad (l : List Cpl) : (d.drainEvents l).cad = d.cad := Dev.keeps_cad (d.drainEvents_keeps l) rfl
@[simp] theorem Dev.drainEvents_comp (l : List Cpl) : (d.drainEvents l).comp = d.comp := Dev.keeps_comp (d.drainEvents_keeps l) rfl
@[simp] theorem Dev.drainEvents_stl (l : List Cpl) : (d.drainEvents l).stl = d.stl := Dev.keeps_stl (d.drainEvents_keeps l) rfl
@[simp] theorem Dev.drainEvents_kv (l : List Cpl) : (d.drainEvents l).kv = d.kv := Dev.keeps_kv (d.drainEvents_keeps l) rfl
@[simp] theorem Dev.drainEvents_pan (l : List Cpl) : (d.drainEvents l).pan = d.pan := Dev.keeps_pan (d.drainEvents_keeps l) rfl
@[simp] theorem Dev.drainEvents_srch (l : List Cpl) : (d.drainEvents l).srch = d.srch := Dev.keeps_srch (d.drainEvents_keeps l) rfl
@[simp] theorem Dev.drainEvents_memt (l : List Cpl) : (d.drainEvents l).memt = d.memt := Dev.keeps_memt (d.drainEvents_keeps l) rfl
@[simp] theorem Dev.drainEvents_hay (l : List Cpl) : (d.drainEvents l).hay = d.hay := Dev.keeps_hay (d.drainEvents_keeps l) rfl
@[simp] theorem Dev.drainEvents_fab (l : List Cpl) : (d.drainEvents l).fab = d.fab := Dev.keeps_fab (d.drainEvents_keeps l) rfl
@[simp] theorem Dev.drainEvents_shp (l : List Cpl) : (d.drainEvents l).shp = d.shp := Dev.keeps_shp (d.drainEvents_keeps l) rfl
@[simp] theorem Dev.drainEvents_qpx (l : List Cpl) : (d.drainEvents l).qpx = d.qpx := Dev.keeps_qpx (d.drainEvents_keeps l) rfl
@[simp] theorem Dev.drainEvents_cmp (l : List Cpl) : (d.drainEvents l).cmp = d.cmp := Dev.keeps_cmp (d.drainEvents_keeps l) rfl
@[simp] theorem Dev.drainEvents_sep (l : List Cpl) : (d.drainEvents l).sep = d.sep := Dev.keeps_sep (d.drainEvents_keeps l) rfl

/-! `event` leaves everything but `regs`, `out`, `hif`, `hlt` alone. -/

@[simp] theorem Dev.event_byte (e : Evt) (k i x : Nat) (j : Option Nat) (b : Bool) (m : Nat) : (d.event e k i x j b).byte m = d.byte m := Dev.keeps_mem (d.event_keeps e k i x j b) rfl m
@[simp] theorem Dev.event_poison (e : Evt) (k i x : Nat) (j : Option Nat) (b : Bool) : (d.event e k i x j b).poison = d.poison := Dev.keeps_poison (d.event_keeps e k i x j b) rfl
@[simp] theorem Dev.event_fresh (e : Evt) (k i x : Nat) (j : Option Nat) (b : Bool) : (d.event e k i x j b).fresh = d.fresh := Dev.keeps_fresh (d.event_keeps e k i x j b) rfl
@[simp] theorem Dev.event_pwr (e : Evt) (k i x : Nat) (j : Option Nat) (b : Bool) : (d.event e k i x j b).pwr = d.pwr := Dev.keeps_pwr (d.event_keeps e k i x j b) rfl
@[simp] theorem Dev.event_therm (e : Evt) (k i x : Nat) (j : Option Nat) (b : Bool) : (d.event e k i x j b).therm = d.therm := Dev.keeps_therm (d.event_keeps e k i x j b) rfl
@[simp] theorem Dev.event_tap (e : Evt) (k i x : Nat) (j : Option Nat) (b : Bool) : (d.event e k i x j b).tap = d.tap := Dev.keeps_tap (d.event_keeps e k i x j b) rfl
@[simp] theorem Dev.event_cad (e : Evt) (k i x : Nat) (j : Option Nat) (b : Bool) : (d.event e k i x j b).cad = d.cad := Dev.keeps_cad (d.event_keeps e k i x j b) rfl
@[simp] theorem Dev.event_comp (e : Evt) (k i x : Nat) (j : Option Nat) (b : Bool) : (d.event e k i x j b).comp = d.comp := Dev.keeps_comp (d.event_keeps e k i x j b) rfl
@[simp] theorem Dev.event_stl (e : Evt) (k i x : Nat) (j : Option Nat) (b : Bool) : (d.event e k i x j b).stl = d.stl := Dev.keeps_stl (d.event_keeps e k i x j b) rfl
@[simp] theorem Dev.event_kv (e : Evt) (k i x : Nat) (j : Option Nat) (b : Bool) : (d.event e k i x j b).kv = d.kv := Dev.keeps_kv (d.event_keeps e k i x j b) rfl
@[simp] theorem Dev.event_pan (e : Evt) (k i x : Nat) (j : Option Nat) (b : Bool) : (d.event e k i x j b).pan = d.pan := Dev.keeps_pan (d.event_keeps e k i x j b) rfl
@[simp] theorem Dev.event_srch (e : Evt) (k i x : Nat) (j : Option Nat) (b : Bool) : (d.event e k i x j b).srch = d.srch := Dev.keeps_srch (d.event_keeps e k i x j b) rfl
@[simp] theorem Dev.event_memt (e : Evt) (k i x : Nat) (j : Option Nat) (b : Bool) : (d.event e k i x j b).memt = d.memt := Dev.keeps_memt (d.event_keeps e k i x j b) rfl
@[simp] theorem Dev.event_hay (e : Evt) (k i x : Nat) (j : Option Nat) (b : Bool) : (d.event e k i x j b).hay = d.hay := Dev.keeps_hay (d.event_keeps e k i x j b) rfl
@[simp] theorem Dev.event_fab (e : Evt) (k i x : Nat) (j : Option Nat) (b : Bool) : (d.event e k i x j b).fab = d.fab := Dev.keeps_fab (d.event_keeps e k i x j b) rfl
@[simp] theorem Dev.event_shp (e : Evt) (k i x : Nat) (j : Option Nat) (b : Bool) : (d.event e k i x j b).shp = d.shp := Dev.keeps_shp (d.event_keeps e k i x j b) rfl
@[simp] theorem Dev.event_qpx (e : Evt) (k i x : Nat) (j : Option Nat) (b : Bool) : (d.event e k i x j b).qpx = d.qpx := Dev.keeps_qpx (d.event_keeps e k i x j b) rfl
@[simp] theorem Dev.event_cmp (e : Evt) (k i x : Nat) (j : Option Nat) (b : Bool) : (d.event e k i x j b).cmp = d.cmp := Dev.keeps_cmp (d.event_keeps e k i x j b) rfl
@[simp] theorem Dev.event_sep (e : Evt) (k i x : Nat) (j : Option Nat) (b : Bool) : (d.event e k i x j b).sep = d.sep := Dev.keeps_sep (d.event_keeps e k i x j b) rfl

/-! `raise` leaves everything but `regs`, `out`, `hif`, `hlt` alone. -/

@[simp] theorem Dev.raise_byte (e : Evt) (k i x : Nat) (j : Option Nat) (m : Nat) : (d.raise e k i x j).byte m = d.byte m := Dev.keeps_mem (d.raise_keeps e k i x j) rfl m
@[simp] theorem Dev.raise_poison (e : Evt) (k i x : Nat) (j : Option Nat) : (d.raise e k i x j).poison = d.poison := Dev.keeps_poison (d.raise_keeps e k i x j) rfl
@[simp] theorem Dev.raise_fresh (e : Evt) (k i x : Nat) (j : Option Nat) : (d.raise e k i x j).fresh = d.fresh := Dev.keeps_fresh (d.raise_keeps e k i x j) rfl
@[simp] theorem Dev.raise_pwr (e : Evt) (k i x : Nat) (j : Option Nat) : (d.raise e k i x j).pwr = d.pwr := Dev.keeps_pwr (d.raise_keeps e k i x j) rfl
@[simp] theorem Dev.raise_therm (e : Evt) (k i x : Nat) (j : Option Nat) : (d.raise e k i x j).therm = d.therm := Dev.keeps_therm (d.raise_keeps e k i x j) rfl
@[simp] theorem Dev.raise_tap (e : Evt) (k i x : Nat) (j : Option Nat) : (d.raise e k i x j).tap = d.tap := Dev.keeps_tap (d.raise_keeps e k i x j) rfl
@[simp] theorem Dev.raise_cad (e : Evt) (k i x : Nat) (j : Option Nat) : (d.raise e k i x j).cad = d.cad := Dev.keeps_cad (d.raise_keeps e k i x j) rfl
@[simp] theorem Dev.raise_comp (e : Evt) (k i x : Nat) (j : Option Nat) : (d.raise e k i x j).comp = d.comp := Dev.keeps_comp (d.raise_keeps e k i x j) rfl
@[simp] theorem Dev.raise_stl (e : Evt) (k i x : Nat) (j : Option Nat) : (d.raise e k i x j).stl = d.stl := Dev.keeps_stl (d.raise_keeps e k i x j) rfl
@[simp] theorem Dev.raise_kv (e : Evt) (k i x : Nat) (j : Option Nat) : (d.raise e k i x j).kv = d.kv := Dev.keeps_kv (d.raise_keeps e k i x j) rfl
@[simp] theorem Dev.raise_pan (e : Evt) (k i x : Nat) (j : Option Nat) : (d.raise e k i x j).pan = d.pan := Dev.keeps_pan (d.raise_keeps e k i x j) rfl
@[simp] theorem Dev.raise_srch (e : Evt) (k i x : Nat) (j : Option Nat) : (d.raise e k i x j).srch = d.srch := Dev.keeps_srch (d.raise_keeps e k i x j) rfl
@[simp] theorem Dev.raise_memt (e : Evt) (k i x : Nat) (j : Option Nat) : (d.raise e k i x j).memt = d.memt := Dev.keeps_memt (d.raise_keeps e k i x j) rfl
@[simp] theorem Dev.raise_hay (e : Evt) (k i x : Nat) (j : Option Nat) : (d.raise e k i x j).hay = d.hay := Dev.keeps_hay (d.raise_keeps e k i x j) rfl
@[simp] theorem Dev.raise_fab (e : Evt) (k i x : Nat) (j : Option Nat) : (d.raise e k i x j).fab = d.fab := Dev.keeps_fab (d.raise_keeps e k i x j) rfl
@[simp] theorem Dev.raise_shp (e : Evt) (k i x : Nat) (j : Option Nat) : (d.raise e k i x j).shp = d.shp := Dev.keeps_shp (d.raise_keeps e k i x j) rfl
@[simp] theorem Dev.raise_qpx (e : Evt) (k i x : Nat) (j : Option Nat) : (d.raise e k i x j).qpx = d.qpx := Dev.keeps_qpx (d.raise_keeps e k i x j) rfl
@[simp] theorem Dev.raise_cmp (e : Evt) (k i x : Nat) (j : Option Nat) : (d.raise e k i x j).cmp = d.cmp := Dev.keeps_cmp (d.raise_keeps e k i x j) rfl
@[simp] theorem Dev.raise_sep (e : Evt) (k i x : Nat) (j : Option Nat) : (d.raise e k i x j).sep = d.sep := Dev.keeps_sep (d.raise_keeps e k i x j) rfl

/-! `complete` leaves everything but `regs`, `out`, `hif`, `hlt` alone. -/

@[simp] theorem Dev.complete_byte (r : Nat) (c : Cpl) (o : Option CmdRef) (m : Nat) : (d.complete r c o).byte m = d.byte m := Dev.keeps_mem (d.complete_keeps r c o) rfl m
@[simp] theorem Dev.complete_poison (r : Nat) (c : Cpl) (o : Option CmdRef) : (d.complete r c o).poison = d.poison := Dev.keeps_poison (d.complete_keeps r c o) rfl
@[simp] theorem Dev.complete_fresh (r : Nat) (c : Cpl) (o : Option CmdRef) : (d.complete r c o).fresh = d.fresh := Dev.keeps_fresh (d.complete_keeps r c o) rfl
@[simp] theorem Dev.complete_pwr (r : Nat) (c : Cpl) (o : Option CmdRef) : (d.complete r c o).pwr = d.pwr := Dev.keeps_pwr (d.complete_keeps r c o) rfl
@[simp] theorem Dev.complete_therm (r : Nat) (c : Cpl) (o : Option CmdRef) : (d.complete r c o).therm = d.therm := Dev.keeps_therm (d.complete_keeps r c o) rfl
@[simp] theorem Dev.complete_tap (r : Nat) (c : Cpl) (o : Option CmdRef) : (d.complete r c o).tap = d.tap := Dev.keeps_tap (d.complete_keeps r c o) rfl
@[simp] theorem Dev.complete_cad (r : Nat) (c : Cpl) (o : Option CmdRef) : (d.complete r c o).cad = d.cad := Dev.keeps_cad (d.complete_keeps r c o) rfl
@[simp] theorem Dev.complete_comp (r : Nat) (c : Cpl) (o : Option CmdRef) : (d.complete r c o).comp = d.comp := Dev.keeps_comp (d.complete_keeps r c o) rfl
@[simp] theorem Dev.complete_stl (r : Nat) (c : Cpl) (o : Option CmdRef) : (d.complete r c o).stl = d.stl := Dev.keeps_stl (d.complete_keeps r c o) rfl
@[simp] theorem Dev.complete_kv (r : Nat) (c : Cpl) (o : Option CmdRef) : (d.complete r c o).kv = d.kv := Dev.keeps_kv (d.complete_keeps r c o) rfl
@[simp] theorem Dev.complete_pan (r : Nat) (c : Cpl) (o : Option CmdRef) : (d.complete r c o).pan = d.pan := Dev.keeps_pan (d.complete_keeps r c o) rfl
@[simp] theorem Dev.complete_srch (r : Nat) (c : Cpl) (o : Option CmdRef) : (d.complete r c o).srch = d.srch := Dev.keeps_srch (d.complete_keeps r c o) rfl
@[simp] theorem Dev.complete_memt (r : Nat) (c : Cpl) (o : Option CmdRef) : (d.complete r c o).memt = d.memt := Dev.keeps_memt (d.complete_keeps r c o) rfl
@[simp] theorem Dev.complete_hay (r : Nat) (c : Cpl) (o : Option CmdRef) : (d.complete r c o).hay = d.hay := Dev.keeps_hay (d.complete_keeps r c o) rfl
@[simp] theorem Dev.complete_fab (r : Nat) (c : Cpl) (o : Option CmdRef) : (d.complete r c o).fab = d.fab := Dev.keeps_fab (d.complete_keeps r c o) rfl
@[simp] theorem Dev.complete_shp (r : Nat) (c : Cpl) (o : Option CmdRef) : (d.complete r c o).shp = d.shp := Dev.keeps_shp (d.complete_keeps r c o) rfl
@[simp] theorem Dev.complete_qpx (r : Nat) (c : Cpl) (o : Option CmdRef) : (d.complete r c o).qpx = d.qpx := Dev.keeps_qpx (d.complete_keeps r c o) rfl
@[simp] theorem Dev.complete_cmp (r : Nat) (c : Cpl) (o : Option CmdRef) : (d.complete r c o).cmp = d.cmp := Dev.keeps_cmp (d.complete_keeps r c o) rfl
@[simp] theorem Dev.complete_sep (r : Nat) (c : Cpl) (o : Option CmdRef) : (d.complete r c o).sep = d.sep := Dev.keeps_sep (d.complete_keeps r c o) rfl

/-! `completeCmd` leaves everything but `regs`, `out`, `hif`, `hlt` alone. -/

@[simp] theorem Dev.completeCmd_byte (r : CmdRef) (st : Nat) (b : Bytes) (m : Nat) : (d.completeCmd r st b).byte m = d.byte m := Dev.keeps_mem (d.completeCmd_keeps r st b) rfl m
@[simp] theorem Dev.completeCmd_poison (r : CmdRef) (st : Nat) (b : Bytes) : (d.completeCmd r st b).poison = d.poison := Dev.keeps_poison (d.completeCmd_keeps r st b) rfl
@[simp] theorem Dev.completeCmd_fresh (r : CmdRef) (st : Nat) (b : Bytes) : (d.completeCmd r st b).fresh = d.fresh := Dev.keeps_fresh (d.completeCmd_keeps r st b) rfl
@[simp] theorem Dev.completeCmd_pwr (r : CmdRef) (st : Nat) (b : Bytes) : (d.completeCmd r st b).pwr = d.pwr := Dev.keeps_pwr (d.completeCmd_keeps r st b) rfl
@[simp] theorem Dev.completeCmd_therm (r : CmdRef) (st : Nat) (b : Bytes) : (d.completeCmd r st b).therm = d.therm := Dev.keeps_therm (d.completeCmd_keeps r st b) rfl
@[simp] theorem Dev.completeCmd_tap (r : CmdRef) (st : Nat) (b : Bytes) : (d.completeCmd r st b).tap = d.tap := Dev.keeps_tap (d.completeCmd_keeps r st b) rfl
@[simp] theorem Dev.completeCmd_cad (r : CmdRef) (st : Nat) (b : Bytes) : (d.completeCmd r st b).cad = d.cad := Dev.keeps_cad (d.completeCmd_keeps r st b) rfl
@[simp] theorem Dev.completeCmd_comp (r : CmdRef) (st : Nat) (b : Bytes) : (d.completeCmd r st b).comp = d.comp := Dev.keeps_comp (d.completeCmd_keeps r st b) rfl
@[simp] theorem Dev.completeCmd_stl (r : CmdRef) (st : Nat) (b : Bytes) : (d.completeCmd r st b).stl = d.stl := Dev.keeps_stl (d.completeCmd_keeps r st b) rfl
@[simp] theorem Dev.completeCmd_kv (r : CmdRef) (st : Nat) (b : Bytes) : (d.completeCmd r st b).kv = d.kv := Dev.keeps_kv (d.completeCmd_keeps r st b) rfl
@[simp] theorem Dev.completeCmd_pan (r : CmdRef) (st : Nat) (b : Bytes) : (d.completeCmd r st b).pan = d.pan := Dev.keeps_pan (d.completeCmd_keeps r st b) rfl
@[simp] theorem Dev.completeCmd_srch (r : CmdRef) (st : Nat) (b : Bytes) : (d.completeCmd r st b).srch = d.srch := Dev.keeps_srch (d.completeCmd_keeps r st b) rfl
@[simp] theorem Dev.completeCmd_memt (r : CmdRef) (st : Nat) (b : Bytes) : (d.completeCmd r st b).memt = d.memt := Dev.keeps_memt (d.completeCmd_keeps r st b) rfl
@[simp] theorem Dev.completeCmd_hay (r : CmdRef) (st : Nat) (b : Bytes) : (d.completeCmd r st b).hay = d.hay := Dev.keeps_hay (d.completeCmd_keeps r st b) rfl
@[simp] theorem Dev.completeCmd_fab (r : CmdRef) (st : Nat) (b : Bytes) : (d.completeCmd r st b).fab = d.fab := Dev.keeps_fab (d.completeCmd_keeps r st b) rfl
@[simp] theorem Dev.completeCmd_shp (r : CmdRef) (st : Nat) (b : Bytes) : (d.completeCmd r st b).shp = d.shp := Dev.keeps_shp (d.completeCmd_keeps r st b) rfl
@[simp] theorem Dev.completeCmd_qpx (r : CmdRef) (st : Nat) (b : Bytes) : (d.completeCmd r st b).qpx = d.qpx := Dev.keeps_qpx (d.completeCmd_keeps r st b) rfl
@[simp] theorem Dev.completeCmd_cmp (r : CmdRef) (st : Nat) (b : Bytes) : (d.completeCmd r st b).cmp = d.cmp := Dev.keeps_cmp (d.completeCmd_keeps r st b) rfl
@[simp] theorem Dev.completeCmd_sep (r : CmdRef) (st : Nat) (b : Bytes) : (d.completeCmd r st b).sep = d.sep := Dev.keeps_sep (d.completeCmd_keeps r st b) rfl

/-! `consume` leaves everything but `regs`, `out`, `hif` alone. -/

@[simp] theorem Dev.consume_byte (r : CmdRef) (n : Nat) (m : Nat) : (d.consume r n).byte m = d.byte m := Dev.keeps_mem (d.consume_keeps r n) rfl m
@[simp] theorem Dev.consume_poison (r : CmdRef) (n : Nat) : (d.consume r n).poison = d.poison := Dev.keeps_poison (d.consume_keeps r n) rfl
@[simp] theorem Dev.consume_fresh (r : CmdRef) (n : Nat) : (d.consume r n).fresh = d.fresh := Dev.keeps_fresh (d.consume_keeps r n) rfl
@[simp] theorem Dev.consume_pwr (r : CmdRef) (n : Nat) : (d.consume r n).pwr = d.pwr := Dev.keeps_pwr (d.consume_keeps r n) rfl
@[simp] theorem Dev.consume_therm (r : CmdRef) (n : Nat) : (d.consume r n).therm = d.therm := Dev.keeps_therm (d.consume_keeps r n) rfl
@[simp] theorem Dev.consume_tap (r : CmdRef) (n : Nat) : (d.consume r n).tap = d.tap := Dev.keeps_tap (d.consume_keeps r n) rfl
@[simp] theorem Dev.consume_cad (r : CmdRef) (n : Nat) : (d.consume r n).cad = d.cad := Dev.keeps_cad (d.consume_keeps r n) rfl
@[simp] theorem Dev.consume_comp (r : CmdRef) (n : Nat) : (d.consume r n).comp = d.comp := Dev.keeps_comp (d.consume_keeps r n) rfl
@[simp] theorem Dev.consume_hlt (r : CmdRef) (n : Nat) : (d.consume r n).hlt = d.hlt := Dev.keeps_hlt (d.consume_keeps r n) rfl
@[simp] theorem Dev.consume_stl (r : CmdRef) (n : Nat) : (d.consume r n).stl = d.stl := Dev.keeps_stl (d.consume_keeps r n) rfl
@[simp] theorem Dev.consume_kv (r : CmdRef) (n : Nat) : (d.consume r n).kv = d.kv := Dev.keeps_kv (d.consume_keeps r n) rfl
@[simp] theorem Dev.consume_pan (r : CmdRef) (n : Nat) : (d.consume r n).pan = d.pan := Dev.keeps_pan (d.consume_keeps r n) rfl
@[simp] theorem Dev.consume_srch (r : CmdRef) (n : Nat) : (d.consume r n).srch = d.srch := Dev.keeps_srch (d.consume_keeps r n) rfl
@[simp] theorem Dev.consume_memt (r : CmdRef) (n : Nat) : (d.consume r n).memt = d.memt := Dev.keeps_memt (d.consume_keeps r n) rfl
@[simp] theorem Dev.consume_hay (r : CmdRef) (n : Nat) : (d.consume r n).hay = d.hay := Dev.keeps_hay (d.consume_keeps r n) rfl
@[simp] theorem Dev.consume_fab (r : CmdRef) (n : Nat) : (d.consume r n).fab = d.fab := Dev.keeps_fab (d.consume_keeps r n) rfl
@[simp] theorem Dev.consume_shp (r : CmdRef) (n : Nat) : (d.consume r n).shp = d.shp := Dev.keeps_shp (d.consume_keeps r n) rfl
@[simp] theorem Dev.consume_qpx (r : CmdRef) (n : Nat) : (d.consume r n).qpx = d.qpx := Dev.keeps_qpx (d.consume_keeps r n) rfl
@[simp] theorem Dev.consume_cmp (r : CmdRef) (n : Nat) : (d.consume r n).cmp = d.cmp := Dev.keeps_cmp (d.consume_keeps r n) rfl
@[simp] theorem Dev.consume_sep (r : CmdRef) (n : Nat) : (d.consume r n).sep = d.sep := Dev.keeps_sep (d.consume_keeps r n) rfl

/-! `refusePartial` leaves everything but `regs`, `out`, `hif`, `hlt` alone. -/

@[simp] theorem Dev.refusePartial_byte (r : Nat) (m : Nat) : (d.refusePartial r).byte m = d.byte m := Dev.keeps_mem (d.refusePartial_keeps r) rfl m
@[simp] theorem Dev.refusePartial_poison (r : Nat) : (d.refusePartial r).poison = d.poison := Dev.keeps_poison (d.refusePartial_keeps r) rfl
@[simp] theorem Dev.refusePartial_fresh (r : Nat) : (d.refusePartial r).fresh = d.fresh := Dev.keeps_fresh (d.refusePartial_keeps r) rfl
@[simp] theorem Dev.refusePartial_pwr (r : Nat) : (d.refusePartial r).pwr = d.pwr := Dev.keeps_pwr (d.refusePartial_keeps r) rfl
@[simp] theorem Dev.refusePartial_therm (r : Nat) : (d.refusePartial r).therm = d.therm := Dev.keeps_therm (d.refusePartial_keeps r) rfl
@[simp] theorem Dev.refusePartial_tap (r : Nat) : (d.refusePartial r).tap = d.tap := Dev.keeps_tap (d.refusePartial_keeps r) rfl
@[simp] theorem Dev.refusePartial_cad (r : Nat) : (d.refusePartial r).cad = d.cad := Dev.keeps_cad (d.refusePartial_keeps r) rfl
@[simp] theorem Dev.refusePartial_comp (r : Nat) : (d.refusePartial r).comp = d.comp := Dev.keeps_comp (d.refusePartial_keeps r) rfl
@[simp] theorem Dev.refusePartial_stl (r : Nat) : (d.refusePartial r).stl = d.stl := Dev.keeps_stl (d.refusePartial_keeps r) rfl
@[simp] theorem Dev.refusePartial_kv (r : Nat) : (d.refusePartial r).kv = d.kv := Dev.keeps_kv (d.refusePartial_keeps r) rfl
@[simp] theorem Dev.refusePartial_pan (r : Nat) : (d.refusePartial r).pan = d.pan := Dev.keeps_pan (d.refusePartial_keeps r) rfl
@[simp] theorem Dev.refusePartial_srch (r : Nat) : (d.refusePartial r).srch = d.srch := Dev.keeps_srch (d.refusePartial_keeps r) rfl
@[simp] theorem Dev.refusePartial_memt (r : Nat) : (d.refusePartial r).memt = d.memt := Dev.keeps_memt (d.refusePartial_keeps r) rfl
@[simp] theorem Dev.refusePartial_hay (r : Nat) : (d.refusePartial r).hay = d.hay := Dev.keeps_hay (d.refusePartial_keeps r) rfl
@[simp] theorem Dev.refusePartial_fab (r : Nat) : (d.refusePartial r).fab = d.fab := Dev.keeps_fab (d.refusePartial_keeps r) rfl
@[simp] theorem Dev.refusePartial_shp (r : Nat) : (d.refusePartial r).shp = d.shp := Dev.keeps_shp (d.refusePartial_keeps r) rfl
@[simp] theorem Dev.refusePartial_qpx (r : Nat) : (d.refusePartial r).qpx = d.qpx := Dev.keeps_qpx (d.refusePartial_keeps r) rfl
@[simp] theorem Dev.refusePartial_cmp (r : Nat) : (d.refusePartial r).cmp = d.cmp := Dev.keeps_cmp (d.refusePartial_keeps r) rfl
@[simp] theorem Dev.refusePartial_sep (r : Nat) : (d.refusePartial r).sep = d.sep := Dev.keeps_sep (d.refusePartial_keeps r) rfl

/-! `crossings` leaves everything but `regs`, `out`, `hif`, `hlt` alone. -/

@[simp] theorem Dev.crossings_byte (k i : Nat) (m : Nat) : (d.crossings k i).byte m = d.byte m := Dev.keeps_mem (d.crossings_keeps k i) rfl m
@[simp] theorem Dev.crossings_poison (k i : Nat) : (d.crossings k i).poison = d.poison := Dev.keeps_poison (d.crossings_keeps k i) rfl
@[simp] theorem Dev.crossings_fresh (k i : Nat) : (d.crossings k i).fresh = d.fresh := Dev.keeps_fresh (d.crossings_keeps k i) rfl
@[simp] theorem Dev.crossings_pwr (k i : Nat) : (d.crossings k i).pwr = d.pwr := Dev.keeps_pwr (d.crossings_keeps k i) rfl
@[simp] theorem Dev.crossings_therm (k i : Nat) : (d.crossings k i).therm = d.therm := Dev.keeps_therm (d.crossings_keeps k i) rfl
@[simp] theorem Dev.crossings_tap (k i : Nat) : (d.crossings k i).tap = d.tap := Dev.keeps_tap (d.crossings_keeps k i) rfl
@[simp] theorem Dev.crossings_cad (k i : Nat) : (d.crossings k i).cad = d.cad := Dev.keeps_cad (d.crossings_keeps k i) rfl
@[simp] theorem Dev.crossings_comp (k i : Nat) : (d.crossings k i).comp = d.comp := Dev.keeps_comp (d.crossings_keeps k i) rfl
@[simp] theorem Dev.crossings_stl (k i : Nat) : (d.crossings k i).stl = d.stl := Dev.keeps_stl (d.crossings_keeps k i) rfl
@[simp] theorem Dev.crossings_kv (k i : Nat) : (d.crossings k i).kv = d.kv := Dev.keeps_kv (d.crossings_keeps k i) rfl
@[simp] theorem Dev.crossings_pan (k i : Nat) : (d.crossings k i).pan = d.pan := Dev.keeps_pan (d.crossings_keeps k i) rfl
@[simp] theorem Dev.crossings_srch (k i : Nat) : (d.crossings k i).srch = d.srch := Dev.keeps_srch (d.crossings_keeps k i) rfl
@[simp] theorem Dev.crossings_memt (k i : Nat) : (d.crossings k i).memt = d.memt := Dev.keeps_memt (d.crossings_keeps k i) rfl
@[simp] theorem Dev.crossings_hay (k i : Nat) : (d.crossings k i).hay = d.hay := Dev.keeps_hay (d.crossings_keeps k i) rfl
@[simp] theorem Dev.crossings_fab (k i : Nat) : (d.crossings k i).fab = d.fab := Dev.keeps_fab (d.crossings_keeps k i) rfl
@[simp] theorem Dev.crossings_shp (k i : Nat) : (d.crossings k i).shp = d.shp := Dev.keeps_shp (d.crossings_keeps k i) rfl
@[simp] theorem Dev.crossings_qpx (k i : Nat) : (d.crossings k i).qpx = d.qpx := Dev.keeps_qpx (d.crossings_keeps k i) rfl
@[simp] theorem Dev.crossings_cmp (k i : Nat) : (d.crossings k i).cmp = d.cmp := Dev.keeps_cmp (d.crossings_keeps k i) rfl
@[simp] theorem Dev.crossings_sep (k i : Nat) : (d.crossings k i).sep = d.sep := Dev.keeps_sep (d.crossings_keeps k i) rfl

/-! `dropLoad` leaves everything but `comp`, `hlt` alone. -/

@[simp] theorem Dev.dropLoad_regs (b : Bool) : (d.dropLoad b).regs = d.regs := Dev.keeps_regs (d.dropLoad_keeps b) rfl
@[simp] theorem Dev.dropLoad_byte (b : Bool) (m : Nat) : (d.dropLoad b).byte m = d.byte m := Dev.keeps_mem (d.dropLoad_keeps b) rfl m
@[simp] theorem Dev.dropLoad_poison (b : Bool) : (d.dropLoad b).poison = d.poison := Dev.keeps_poison (d.dropLoad_keeps b) rfl
@[simp] theorem Dev.dropLoad_out (b : Bool) : (d.dropLoad b).out = d.out := Dev.keeps_out (d.dropLoad_keeps b) rfl
@[simp] theorem Dev.dropLoad_fresh (b : Bool) : (d.dropLoad b).fresh = d.fresh := Dev.keeps_fresh (d.dropLoad_keeps b) rfl
@[simp] theorem Dev.dropLoad_pwr (b : Bool) : (d.dropLoad b).pwr = d.pwr := Dev.keeps_pwr (d.dropLoad_keeps b) rfl
@[simp] theorem Dev.dropLoad_therm (b : Bool) : (d.dropLoad b).therm = d.therm := Dev.keeps_therm (d.dropLoad_keeps b) rfl
@[simp] theorem Dev.dropLoad_tap (b : Bool) : (d.dropLoad b).tap = d.tap := Dev.keeps_tap (d.dropLoad_keeps b) rfl
@[simp] theorem Dev.dropLoad_cad (b : Bool) : (d.dropLoad b).cad = d.cad := Dev.keeps_cad (d.dropLoad_keeps b) rfl
@[simp] theorem Dev.dropLoad_hif (b : Bool) : (d.dropLoad b).hif = d.hif := Dev.keeps_hif (d.dropLoad_keeps b) rfl
@[simp] theorem Dev.dropLoad_stl (b : Bool) : (d.dropLoad b).stl = d.stl := Dev.keeps_stl (d.dropLoad_keeps b) rfl
@[simp] theorem Dev.dropLoad_kv (b : Bool) : (d.dropLoad b).kv = d.kv := Dev.keeps_kv (d.dropLoad_keeps b) rfl
@[simp] theorem Dev.dropLoad_pan (b : Bool) : (d.dropLoad b).pan = d.pan := Dev.keeps_pan (d.dropLoad_keeps b) rfl
@[simp] theorem Dev.dropLoad_srch (b : Bool) : (d.dropLoad b).srch = d.srch := Dev.keeps_srch (d.dropLoad_keeps b) rfl
@[simp] theorem Dev.dropLoad_memt (b : Bool) : (d.dropLoad b).memt = d.memt := Dev.keeps_memt (d.dropLoad_keeps b) rfl
@[simp] theorem Dev.dropLoad_hay (b : Bool) : (d.dropLoad b).hay = d.hay := Dev.keeps_hay (d.dropLoad_keeps b) rfl
@[simp] theorem Dev.dropLoad_fab (b : Bool) : (d.dropLoad b).fab = d.fab := Dev.keeps_fab (d.dropLoad_keeps b) rfl
@[simp] theorem Dev.dropLoad_shp (b : Bool) : (d.dropLoad b).shp = d.shp := Dev.keeps_shp (d.dropLoad_keeps b) rfl
@[simp] theorem Dev.dropLoad_qpx (b : Bool) : (d.dropLoad b).qpx = d.qpx := Dev.keeps_qpx (d.dropLoad_keeps b) rfl
@[simp] theorem Dev.dropLoad_cmp (b : Bool) : (d.dropLoad b).cmp = d.cmp := Dev.keeps_cmp (d.dropLoad_keeps b) rfl
@[simp] theorem Dev.dropLoad_sep (b : Bool) : (d.dropLoad b).sep = d.sep := Dev.keeps_sep (d.dropLoad_keeps b) rfl

/-! `spareCheck` leaves everything but `comp`, `hlt` alone. -/

@[simp] theorem Dev.spareCheck_regs : (d.spareCheck).regs = d.regs := Dev.keeps_regs (d.spareCheck_keeps) rfl
@[simp] theorem Dev.spareCheck_byte (m : Nat) : (d.spareCheck).byte m = d.byte m := Dev.keeps_mem (d.spareCheck_keeps) rfl m
@[simp] theorem Dev.spareCheck_poison : (d.spareCheck).poison = d.poison := Dev.keeps_poison (d.spareCheck_keeps) rfl
@[simp] theorem Dev.spareCheck_out : (d.spareCheck).out = d.out := Dev.keeps_out (d.spareCheck_keeps) rfl
@[simp] theorem Dev.spareCheck_fresh : (d.spareCheck).fresh = d.fresh := Dev.keeps_fresh (d.spareCheck_keeps) rfl
@[simp] theorem Dev.spareCheck_pwr : (d.spareCheck).pwr = d.pwr := Dev.keeps_pwr (d.spareCheck_keeps) rfl
@[simp] theorem Dev.spareCheck_therm : (d.spareCheck).therm = d.therm := Dev.keeps_therm (d.spareCheck_keeps) rfl
@[simp] theorem Dev.spareCheck_tap : (d.spareCheck).tap = d.tap := Dev.keeps_tap (d.spareCheck_keeps) rfl
@[simp] theorem Dev.spareCheck_cad : (d.spareCheck).cad = d.cad := Dev.keeps_cad (d.spareCheck_keeps) rfl
@[simp] theorem Dev.spareCheck_hif : (d.spareCheck).hif = d.hif := Dev.keeps_hif (d.spareCheck_keeps) rfl
@[simp] theorem Dev.spareCheck_stl : (d.spareCheck).stl = d.stl := Dev.keeps_stl (d.spareCheck_keeps) rfl
@[simp] theorem Dev.spareCheck_kv : (d.spareCheck).kv = d.kv := Dev.keeps_kv (d.spareCheck_keeps) rfl
@[simp] theorem Dev.spareCheck_pan : (d.spareCheck).pan = d.pan := Dev.keeps_pan (d.spareCheck_keeps) rfl
@[simp] theorem Dev.spareCheck_srch : (d.spareCheck).srch = d.srch := Dev.keeps_srch (d.spareCheck_keeps) rfl
@[simp] theorem Dev.spareCheck_memt : (d.spareCheck).memt = d.memt := Dev.keeps_memt (d.spareCheck_keeps) rfl
@[simp] theorem Dev.spareCheck_hay : (d.spareCheck).hay = d.hay := Dev.keeps_hay (d.spareCheck_keeps) rfl
@[simp] theorem Dev.spareCheck_fab : (d.spareCheck).fab = d.fab := Dev.keeps_fab (d.spareCheck_keeps) rfl
@[simp] theorem Dev.spareCheck_shp : (d.spareCheck).shp = d.shp := Dev.keeps_shp (d.spareCheck_keeps) rfl
@[simp] theorem Dev.spareCheck_qpx : (d.spareCheck).qpx = d.qpx := Dev.keeps_qpx (d.spareCheck_keeps) rfl
@[simp] theorem Dev.spareCheck_cmp : (d.spareCheck).cmp = d.cmp := Dev.keeps_cmp (d.spareCheck_keeps) rfl
@[simp] theorem Dev.spareCheck_sep : (d.spareCheck).sep = d.sep := Dev.keeps_sep (d.spareCheck_keeps) rfl

/-! `charge` leaves everything but `regs`, `out`, `comp`, `hif`, `hlt` alone. -/

@[simp] theorem Dev.charge_byte (c : HltClass) (k i : Nat) (m : Nat) : (d.charge c k i).byte m = d.byte m := Dev.keeps_mem (d.charge_keeps c k i) rfl m
@[simp] theorem Dev.charge_poison (c : HltClass) (k i : Nat) : (d.charge c k i).poison = d.poison := Dev.keeps_poison (d.charge_keeps c k i) rfl
@[simp] theorem Dev.charge_fresh (c : HltClass) (k i : Nat) : (d.charge c k i).fresh = d.fresh := Dev.keeps_fresh (d.charge_keeps c k i) rfl
@[simp] theorem Dev.charge_pwr (c : HltClass) (k i : Nat) : (d.charge c k i).pwr = d.pwr := Dev.keeps_pwr (d.charge_keeps c k i) rfl
@[simp] theorem Dev.charge_therm (c : HltClass) (k i : Nat) : (d.charge c k i).therm = d.therm := Dev.keeps_therm (d.charge_keeps c k i) rfl
@[simp] theorem Dev.charge_tap (c : HltClass) (k i : Nat) : (d.charge c k i).tap = d.tap := Dev.keeps_tap (d.charge_keeps c k i) rfl
@[simp] theorem Dev.charge_cad (c : HltClass) (k i : Nat) : (d.charge c k i).cad = d.cad := Dev.keeps_cad (d.charge_keeps c k i) rfl
@[simp] theorem Dev.charge_stl (c : HltClass) (k i : Nat) : (d.charge c k i).stl = d.stl := Dev.keeps_stl (d.charge_keeps c k i) rfl
@[simp] theorem Dev.charge_kv (c : HltClass) (k i : Nat) : (d.charge c k i).kv = d.kv := Dev.keeps_kv (d.charge_keeps c k i) rfl
@[simp] theorem Dev.charge_pan (c : HltClass) (k i : Nat) : (d.charge c k i).pan = d.pan := Dev.keeps_pan (d.charge_keeps c k i) rfl
@[simp] theorem Dev.charge_srch (c : HltClass) (k i : Nat) : (d.charge c k i).srch = d.srch := Dev.keeps_srch (d.charge_keeps c k i) rfl
@[simp] theorem Dev.charge_memt (c : HltClass) (k i : Nat) : (d.charge c k i).memt = d.memt := Dev.keeps_memt (d.charge_keeps c k i) rfl
@[simp] theorem Dev.charge_hay (c : HltClass) (k i : Nat) : (d.charge c k i).hay = d.hay := Dev.keeps_hay (d.charge_keeps c k i) rfl
@[simp] theorem Dev.charge_fab (c : HltClass) (k i : Nat) : (d.charge c k i).fab = d.fab := Dev.keeps_fab (d.charge_keeps c k i) rfl
@[simp] theorem Dev.charge_shp (c : HltClass) (k i : Nat) : (d.charge c k i).shp = d.shp := Dev.keeps_shp (d.charge_keeps c k i) rfl
@[simp] theorem Dev.charge_qpx (c : HltClass) (k i : Nat) : (d.charge c k i).qpx = d.qpx := Dev.keeps_qpx (d.charge_keeps c k i) rfl
@[simp] theorem Dev.charge_cmp (c : HltClass) (k i : Nat) : (d.charge c k i).cmp = d.cmp := Dev.keeps_cmp (d.charge_keeps c k i) rfl
@[simp] theorem Dev.charge_sep (c : HltClass) (k i : Nat) : (d.charge c k i).sep = d.sep := Dev.keeps_sep (d.charge_keeps c k i) rfl

end Sys2Proof.Machine
end

