-- ==== Sys2Proof/Laws/Fields.lean ====
section
/-!
SUPPORT. Laws/Fields.lean: setting and reading back register fields, and little-endian bytes.
-/

namespace Sys2Proof.Machine

/-! ## Splicing a digit into a number -/

section
variable (w v L W : Nat)

/-- A number as its digits above, at and below a place. -/
theorem digits (hL : 0 < L) : w = w / (L * W) * (L * W) + (w / L % W) * L + w % L := by
  have h1 := Nat.div_add_mod w L
  have h2 := Nat.div_add_mod (w / L) W
  rw [Nat.div_div_eq_div_mul] at h2
  have h3 : L * (W * (w / (L * W)) + w / L % W) = w / (L * W) * (L * W) + (w / L % W) * L := by
    rw [Nat.mul_add]; congr 1
    · rw [Nat.mul_comm, Nat.mul_comm W, Nat.mul_assoc, Nat.mul_comm W L]
    · exact Nat.mul_comm _ _
  rw [← h3, h2]; exact h1.symm

/-- The number with the digit replaced. -/
theorem splice_eq (hL : 0 < L) : w - (w / L % W) * L + v * L = w / (L * W) * (L * W) + v * L + w % L := by
  have h := digits w L W hL
  omega

theorem splice_digit (hL : 0 < L) (hv : v < W) : (w - (w / L % W) * L + v * L) / L % W = v := by
  rw [splice_eq w v L W hL]
  have hc := Nat.mod_lt w hL
  have e : w / (L * W) * (L * W) + v * L + w % L = L * (w / (L * W) * W + v) + w % L := by
    rw [Nat.mul_add]; congr 2
    · rw [Nat.mul_comm L W, ← Nat.mul_assoc, Nat.mul_comm]
    · exact Nat.mul_comm _ _
  rw [e, Nat.mul_add_div hL, Nat.div_eq_of_lt hc, Nat.add_zero, Nat.mul_comm, Nat.mul_add_mod, Nat.mod_eq_of_lt hv]

theorem splice_above (hL : 0 < L) (hv : v < W) : (w - (w / L % W) * L + v * L) / (L * W) = w / (L * W) := by
  rw [splice_eq w v L W hL]
  have hc := Nat.mod_lt w hL
  have h2 : (v + 1) * L ≤ W * L := Nat.mul_le_mul_right _ hv
  rw [Nat.add_mul, Nat.mul_comm W L] at h2
  have hLW : 0 < L * W := Nat.mul_pos hL (by omega)
  rw [Nat.add_assoc, Nat.mul_comm (w / (L * W)), Nat.mul_add_div hLW,
    Nat.div_eq_of_lt (show v * L + w % L < L * W by omega), Nat.add_zero]

theorem splice_below (hL : 0 < L) : (w - (w / L % W) * L + v * L) % L = w % L := by
  rw [splice_eq w v L W hL]
  have e : w / (L * W) * (L * W) + v * L + w % L = L * (w / (L * W) * W + v) + w % L := by
    rw [Nat.mul_add]; congr 2
    · rw [Nat.mul_comm L W, ← Nat.mul_assoc, Nat.mul_comm]
    · exact Nat.mul_comm _ _
  rw [e, Nat.mul_add_mod, Nat.mod_mod]

/-- It keeps its size. -/
theorem splice_lt (N : Nat) (hL : 0 < L) (hv : v < W) (hw : w < N * (L * W)) : w - (w / L % W) * L + v * L < N * (L * W) := by
  rw [splice_eq w v L W hL]
  have hc := Nat.mod_lt w hL
  have hLW : 0 < L * W := Nat.mul_pos hL (by omega)
  have ha : w / (L * W) < N := Nat.div_lt_of_lt_mul (by rw [Nat.mul_comm]; exact hw)
  have h1 : (w / (L * W) + 1) * (L * W) ≤ N * (L * W) := Nat.mul_le_mul_right _ ha
  have h2 : (v + 1) * L ≤ W * L := Nat.mul_le_mul_right _ hv
  rw [Nat.add_mul] at h1 h2
  rw [Nat.mul_comm W L] at h2
  omega

end

/-! ## Fields -/

/-- A field lies inside its register. -/
def Fld.ok (f : Fld) : Bool := decide (0 < f.width) && decide (f.lo + f.width ≤ 64)

variable (d : Dev)

theorem bits_fld (f : Fld) (h : f.ok = true) (x : Nat) : bits x (f.lo + f.width - 1) f.lo = x / 2 ^ f.lo % 2 ^ f.width := by
  simp [Fld.ok] at h
  have e : f.lo + f.width - 1 + 1 - f.lo = f.width := by omega
  rw [bits, e]

theorem Fld.put_toNat (f : Fld) (h : f.ok = true) (w : Word) (v : Nat) :
    (f.put w v).toNat = w.toNat - (w.toNat / 2 ^ f.lo % 2 ^ f.width) * 2 ^ f.lo + v % 2 ^ f.width * 2 ^ f.lo := by
  have hb := bits_fld f h w.toNat
  simp [Fld.ok] at h
  rw [Fld.put, hb, BitVec.toNat_ofNat]
  apply Nat.mod_eq_of_lt
  have e : 2 ^ 64 = 2 ^ (64 - (f.lo + f.width)) * (2 ^ f.lo * 2 ^ f.width) := by
    rw [← Nat.pow_add, ← Nat.pow_add]; congr 1; omega
  rw [e]
  refine splice_lt w.toNat (v % 2 ^ f.width) (2 ^ f.lo) (2 ^ f.width) _ (Nat.two_pow_pos _) (Nat.mod_lt _ (Nat.two_pow_pos _)) ?_
  rw [← e]; exact w.isLt

/-- A field reads back what was set, cut to its width. -/
theorem Dev.fld_setFld_self (f : Fld) (h : f.ok = true) (v : Nat) : (d.setFld f v).fld f = v % 2 ^ f.width := by
  rw [Dev.fld, Dev.setFld, Dev.reg_setReg_self, bits_fld f h, Fld.put_toNat f h]
  exact splice_digit _ _ _ _ (Nat.two_pow_pos _) (Nat.mod_lt _ (Nat.two_pow_pos _))

/-- Setting a field of one register leaves every other register. -/
theorem Dev.reg_setFld_ne (f : Fld) (v : Nat) {o : Nat} (h : o ≠ f.off) : (d.setFld f v).reg o = d.reg o := d.reg_setReg_ne _ h

theorem Dev.fld_setFld_ne (f g : Fld) (v : Nat) (h : g.off ≠ f.off) : (d.setFld f v).fld g = d.fld g := by
  rw [Dev.fld, Dev.fld, d.reg_setFld_ne f v h]

/-- Setting a field leaves every other field of its register. -/
theorem Dev.fld_setFld_apart (f g : Fld) (v : Nat) (hf : f.ok = true) (hg : g.ok = true) (ho : g.off = f.off)
    (h : g.lo + g.width ≤ f.lo ∨ f.lo + f.width ≤ g.lo) : (d.setFld f v).fld g = d.fld g := by
  rw [Dev.fld, Dev.fld, bits_fld g hg, bits_fld g hg, Dev.setFld, ho, Dev.reg_setReg_self, Fld.put_toNat f hf]
  generalize (d.reg f.off).toNat = w
  have hL := Nat.two_pow_pos f.lo
  rcases h with h | h
  · have e : ∀ x, x / 2 ^ g.lo % 2 ^ g.width = x % 2 ^ f.lo / 2 ^ g.lo % 2 ^ g.width := by
      intro x
      have e1 : 2 ^ f.lo = 2 ^ g.lo * 2 ^ (f.lo - g.lo) := by rw [← Nat.pow_add]; congr 1; omega
      have e2 : 2 ^ (f.lo - g.lo) = 2 ^ g.width * 2 ^ (f.lo - g.lo - g.width) := by rw [← Nat.pow_add]; congr 1; omega
      rw [e1, Nat.mod_mul_right_div_self, e2, Nat.mod_mul_right_mod]
    rw [e, splice_below _ _ _ _ hL, ← e]
  · have e1 : 2 ^ g.lo = 2 ^ f.lo * 2 ^ f.width * 2 ^ (g.lo - (f.lo + f.width)) := by
      rw [← Nat.pow_add, ← Nat.pow_add]; congr 1; omega
    rw [e1, ← Nat.div_div_eq_div_mul, ← Nat.div_div_eq_div_mul w,
      splice_above _ _ _ _ hL (Nat.mod_lt _ (Nat.two_pow_pos _))]

theorem Dev.reg_of_regs {x y : Dev} (h : x.regs = y.regs) (o : Nat) : x.reg o = y.reg o := by rw [Dev.reg, Dev.reg, h]

theorem Dev.fld_of_regs {x y : Dev} (h : x.regs = y.regs) (f : Fld) : x.fld f = y.fld f := by
  rw [Dev.fld, Dev.fld, Dev.reg_of_regs h]

/-- The registers an event writes besides its own bit: the debug trigger's (R533) and HLT_EVT_LOST (R447). -/
def eventRegs : List Nat := [F.DBG_TRIG_ARM.off, F.DBG_TRIG_FIRED.off, F.DBG_TRIG_BEAT_BEAT.off, F.HLT_EVT_LOST_LOST.off]

/-- A field outside those registers, after an event. -/
theorem Dev.event_fld (e : Evt) (k i x : Nat) (j : Option Nat) (b : Bool) (f : Fld) (hf : f.off ∉ eventRegs) :
    (d.event e k i x j b).fld f = (if e.bit.width = 0 then d else d.setFld e.bit 1).fld f := by
  simp only [eventRegs, List.mem_cons, List.not_mem_nil, or_false, not_or] at hf
  obtain ⟨h1, h2, h3, h4⟩ := hf
  unfold Dev.event
  dsimp only
  generalize (if e.bit.width = 0 then d else d.setFld e.bit 1) = d1
  have two : (if d1.flag F.DBG_TRIG_ARM && d1.fld F.DBG_TRIG_CODE == e.code then
      (((d1.setFld F.DBG_TRIG_ARM 0).setFld F.DBG_TRIG_FIRED 1).setFld F.DBG_TRIG_BEAT_BEAT d1.now) else d1).fld f = d1.fld f := by
    split
    · rw [Dev.fld_setFld_ne _ _ _ _ h3, Dev.fld_setFld_ne _ _ _ _ h2, Dev.fld_setFld_ne _ _ _ _ h1]
    · rfl
  generalize (if d1.flag F.DBG_TRIG_ARM && d1.fld F.DBG_TRIG_CODE == e.code then
      (((d1.setFld F.DBG_TRIG_ARM 0).setFld F.DBG_TRIG_FIRED 1).setFld F.DBG_TRIG_BEAT_BEAT d1.now) else d1) = d2 at two ⊢
  rw [← two]
  split
  · rw [Dev.count, Dev.fld_setFld_ne _ _ _ _ h4]; exact Dev.fld_of_regs rfl f
  · exact Dev.fld_of_regs (Dev.drainEvents_regs _ _) f

/-- An event sets its bit. -/
theorem Dev.event_bit (e : Evt) (k i x : Nat) (j : Option Nat) (b : Bool) (hk : e.bit.ok = true) (hf : e.bit.off ∉ eventRegs) :
    (d.event e k i x j b).fld e.bit = 1 := by
  rw [Dev.event_fld _ _ _ _ _ _ _ _ hf]
  have : e.bit.width ≠ 0 := by simp [Fld.ok] at hk; omega
  rw [if_neg this, Dev.fld_setFld_self _ _ hk]
  simp [Fld.ok] at hk
  exact Nat.mod_eq_of_lt (Nat.one_lt_two_pow (by omega))

theorem Dev.raise_fld (e : Evt) (k i x : Nat) (j : Option Nat) (f : Fld) (hf : f.off ∉ eventRegs) (hn : f.off ≠ e.bit.off) :
    (d.raise e k i x j).fld f = d.fld f := by
  rw [Dev.raise, Dev.event_fld _ _ _ _ _ _ _ _ hf]
  split
  · rfl
  · exact Dev.fld_setFld_ne _ _ _ _ hn

theorem Dev.raise_bit (e : Evt) (k i x : Nat) (j : Option Nat) (hk : e.bit.ok = true) (hf : e.bit.off ∉ eventRegs) :
    (d.raise e k i x j).fld e.bit = 1 := d.event_bit e k i x j false hk hf

/-! ## Little-endian bytes (R5) -/

theorem leBytes_length (n x : Nat) : (leBytes n x).length = n := by
  induction n generalizing x with
  | zero => rfl
  | succ n ih => simp [leBytes, ih]

end Sys2Proof.Machine
end

