-- ==== Sys2Proof/Laws/Registers.lean ====
section
/-!
SUPPORT. Laws/Registers.lean: accesses of BAR0 once every register is served.
-/

namespace Sys2Proof.Machine

variable (d : Dev)

/-- An aligned write of a register outside the image window, once firmware is ready and no power change is under way. -/
theorem Dev.busWrite_all (pcie : Bool) (off v : Nat) (r : RegSpec) (hs : d.serving = .all) (ha : off % 8 = 0)
    (hw : inWindow off = false) (hr : regAt off = some r) :
    d.busWrite pcie off v = Dev.writeEffects d
      (if (d.storeReg r v fun _ => true).1 then (d.storeReg r v fun _ => true).2.countAcc pcie 2 off true
       else (d.storeReg r v fun _ => true).2) off v := by
  simp [Dev.busWrite, hs, ha, hw, hr]

/-- An aligned read of a register, once firmware is ready and no power change is under way. -/
theorem Dev.busRead_all (pcie : Bool) (off : Nat) (r : RegSpec) (hs : d.serving = .all) (ha : off % 8 = 0)
    (hr : regAt off = some r) (hd : off ≠ (F.STL_DATA_WORD 0).off) :
    d.busRead pcie off = (d.readReg off, d.readEffects pcie r) := by
  simp [Dev.busRead, hs, ha, hr, hd]

/-- Storing a register changes register fields alone. -/
theorem Dev.storeReg_keeps (r : RegSpec) (v : Nat) (p : Acc → Bool) : d.keeps (d.storeReg r v p).2 [.regs] := by
  intro b hb; cases b <;> first | rfl | (intro a; rfl) | simp at hb

theorem regAt_off {off : Nat} {r : RegSpec} (h : regAt off = some r) : r.off = off := by
  simpa using List.find?_some h

/-- Storing writes one register. -/
theorem Dev.storeReg_eq (r : RegSpec) (v : Nat) (p : Acc → Bool) : ∃ w, (d.storeReg r v p).2 = d.setReg r.off w := ⟨_, rfl⟩

/-- No lock keeps a field of a register that has none (R537). -/
theorem Dev.storeReg_free (r : RegSpec) (v : Nat) (p : Acc → Bool) (h : (r.fields.all fun f => f.lock.isNone) = true) :
    (d.storeReg r v p).1 = false := by
  simp only [Dev.storeReg, List.any_eq_false]
  intro f hf
  have := List.all_eq_true.1 h f hf
  cases hl : f.lock <;> simp_all [Dev.locked]

/-- An aligned write of a register without locks: one register is stored, and what its write does follows. -/
theorem Dev.busWrite_free (pcie : Bool) (off v : Nat) (r : RegSpec) (hs : d.serving = .all) (ha : off % 8 = 0)
    (hw : inWindow off = false) (hr : regAt off = some r) (hl : (r.fields.all fun f => f.lock.isNone) = true) :
    d.busWrite pcie off v = Dev.writeEffects d (d.storeReg r v fun _ => true).2 off v := by
  rw [d.busWrite_all pcie off v r hs ha hw hr, d.storeReg_free r v _ hl]; rfl

end Sys2Proof.Machine
end

