-- ==== Sys2Proof/Laws/Fabric.lean ====
section
/-!
SUPPORT. Laws/Fabric.lean: the ports of the fabric.
-/

namespace Sys2Proof.Machine

variable (d : Dev)

theorem Dev.azPort_setAzPort_self (i : Nat) (p : Port) : (d.setAzPort i p).azPort i = p := by simp [Dev.azPort, Dev.setAzPort]

theorem Dev.azPort_setAzPort_ne {i k : Nat} (p : Port) (h : k ≠ i) : (d.setAzPort i p).azPort k = d.azPort k := by
  simp [Dev.azPort, Dev.setAzPort, Tbl.rd_wr_ne _ _ _ h]

/-- Changing the ports below n, each once. -/
theorem Dev.azPort_onPorts (f : Port → Port) (n k : Nat) :
    ((List.range n).foldl (fun (x : Dev) i => x.onAzPort i f) d).azPort k = if k < n then f (d.azPort k) else d.azPort k := by
  induction n with
  | zero => rfl
  | succ n ih =>
    rw [List.range_succ, List.foldl_append]
    simp only [List.foldl_cons, List.foldl_nil]
    rw [Dev.onAzPort]
    by_cases h : k = n
    · subst h; rw [Dev.azPort_setAzPort_self, ih]; simp
    · rw [Dev.azPort_setAzPort_ne _ _ h, ih]
      have : k < n + 1 ↔ k < n := by omega
      simp [this]

/-- It changes the fabric alone. -/
theorem Dev.onPorts_keeps (f : Port → Port) (n : Nat) : d.keeps ((List.range n).foldl (fun (x : Dev) i => x.onAzPort i f) d) [.fab] := by
  induction n with
  | zero => exact Dev.keeps_refl d _
  | succ n ih =>
    rw [List.range_succ, List.foldl_append]
    refine Dev.keeps_trans ih ?_
    intro b hb; cases b <;> first | rfl | (intro a; rfl) | simp at hb

end Sys2Proof.Machine
end

