-- ==== Sys2Proof/Laws/Commands.lean ====
section
/-!
SUPPORT. Laws/Commands.lean: what taking a host command does (spec/17_host_interface.md R482 to R485).
-/

namespace Sys2Proof.Machine

variable (d : Dev)

/-- A command taken whose chapter answers at once. -/
theorem Dev.hostCmd_done (k : CmdSpec) (c : HostCmd) (body : Dev → Dev × CmdRes) (e : Dev) (st : Nat) (x : Bytes)
    (h : d.takes k c) (hb : body (d.taken c) = (e, .done st x)) : d.hostCmd k c body = e.completeCmd (cmdRef c) st x := by
  obtain ⟨h1, h2, h3, h4, h5⟩ := h
  simp only [Dev.taken] at h5 hb
  simp [Dev.hostCmd, h1, h2, h3, Dev.takeCmd, Dev.refusePartial, h4, h5, hb]

/-- A command taken that stays outstanding. -/
theorem Dev.hostCmd_wait (k : CmdSpec) (c : HostCmd) (body : Dev → Dev × CmdRes) (e : Dev)
    (h : d.takes k c) (hb : body (d.taken c) = (e, .wait)) : d.hostCmd k c body = e := by
  obtain ⟨h1, h2, h3, h4, h5⟩ := h
  simp only [Dev.taken] at h5 hb
  simp [Dev.hostCmd, h1, h2, h3, Dev.takeCmd, Dev.refusePartial, h4, h5, hb]

/-- A command taken that is refused by R484 or by its chapter leaves what its chapter answers with. -/
theorem Dev.taken_keeps (c : HostCmd) : d.keeps (d.taken c) [.regs, .out, .hif] := d.consume_keeps _ _

/-- Consuming a command changes register fields, what is put outside, and the host interface. -/
theorem Dev.taken_eq (c : HostCmd) : ∃ r o h, d.taken c = { d with regs := r, out := o, hif := h } := by
  simp only [Dev.taken, Dev.consume, Dev.count, Dev.setFld, Dev.setReg, Dev.put]
  split <;> exact ⟨_, _, _, rfl⟩

/-- What every command that completes at once leaves alone: what neither its chapter nor the completion changes. -/
theorem Dev.command_keeps (c : HostCmd) (e : Dev) (st : Nat) (x : Bytes) (l : List Blk) (h : (d.taken c).keeps e l)
    (h1 : l.contains .regs = true) (h2 : l.contains .out = true) (h3 : l.contains .hif = true) (h4 : l.contains .hlt = true) :
    d.keeps (e.completeCmd (cmdRef c) st x) l := by
  have m : ∀ b ∈ ([.regs, .out, .hif, .hlt] : List Blk), b ∈ l := by
    intro b hb
    rcases List.mem_cons.1 hb with rfl | hb
    · simpa using h1
    rcases List.mem_cons.1 hb with rfl | hb
    · simpa using h2
    rcases List.mem_cons.1 hb with rfl | hb
    · simpa using h3
    rcases List.mem_cons.1 hb with rfl | hb
    · simpa using h4
    · cases hb
  exact Dev.keeps_trans (Dev.keeps_trans (Dev.keeps_mono (d.taken_keeps c) fun b hb => m b (by simp at hb ⊢; rcases hb with rfl | rfl | rfl <;> simp)) h)
    (Dev.keeps_mono (Dev.completeCmd_keeps _ _ _ _) m)

end Sys2Proof.Machine
end

