-- ==== Sys2Proof/Tests/Slice0.lean ====
section
/-!
SUPPORT. Tests/Slice0.lean: for each check of WellFormed an ill-formed term that it refuses; the spec's worked examples; and single steps.
The statements' witnesses stand in Tests/Witnesses.lean.
-/

namespace Sys2Proof.Tests

open Sys2Proof.Machine

set_option Elab.async false

/-! ## Ill-formed commands: one operand out of its range at a time -/

def aCmd : HostCmd := { ring := 0, opcode := 0 }
def aPacket : Packet := { op := 0, src := 0, dst := 0 }
def aBallot : VoteMsg := { vmsg := 0, vkind := 0, subject := 0, sender := 0, callBeat := 0, caller := 0 }
def aRole : RoleHdr := { src := 0, epoch := 0, roleEpoch := 0 }
def aBounce : BounceMsg := { src := 0, code := 0, epoch := 0, roleEpoch := 0, what := .other, msgEpoch := 0, msgRoleEpoch := 0 }
def anIntake : IntakeReq := { ring := none, items := [List.replicate 64 0] }
def anInvoke : InvMsg := { h := aRole, kind := .member 0 [], record := List.replicate 64 0 }
def aPan : Pannier := { hdr := List.replicate 64 0, regions := [], opens := [] }
def aShip : ShipNotice :=
  { h := aRole, stall := 0, home := 0, paddock := 0, record := List.replicate 128 0, kvEnd := 0, pageFirst := 0, prev := none, parks := [] }
def aPullReq : PullRequest :=
  { h := aRole, stall := 0, home := 0, pullId := 0, pageFirst := 0, pageN := 0, shardFirst := 0, shardN := 0, eager := false, fromWork := false }
def aParkAck : ParkAck := { h := aRole, body := List.replicate 32 0 }
def aPullNo : PullNo := { h := aRole, home := 0, stall := 0, pullId := 0, status := 0, page := 0, shard := 0 }
def aPullDone : PullDone := { h := aRole, stall := 0, member := 0, status := 0 }
def aRelease : ReleaseMsg := { h := aRole, home := 0, stall := 0, work := false, parked := [] }
def aRepark : ReparkMsg := { h := aRole, home := 0, stall := 0, page := 0, shard := 0, model := 0, size := 0, departing := 0 }
def aShardQ : ShardQuery :=
  { h := aRole, qid := 0, index := 0, shard := 0, k := 0, ef := 0, rerank := 0, maxExpand := 0, filtA := 0, filtB := 0, dim := 0, vec := []
    code := [], qbeat := 0, tenant := 0, expires := 0 }
def aMut : MutMsg := { h := aRole, issuer := 0, cmd := 0, pos := 0, record := List.replicate 48 0 }
def anEnd : UnitEnd := { stall := 0, exec := 0, epoch := 0 }
def aCopyMsg : ReplMsg := { src := 0, stall := 0, record := List.replicate 128 0 }

theorem test_wf_HostCmd : (aCmd : HostCmd).wf = true ∧ ([
   { aCmd with ring := 2 ^ 14 }, { aCmd with opcode := 256 }, { aCmd with cflags := 256 }, { aCmd with tag := 2 ^ 16 },
   { aCmd with rsv4 := 2 ^ 32 }, { aCmd with haddr := 2 ^ 64 }, { aCmd with hlen := 2 ^ 32 }, { aCmd with a0 := 2 ^ 32 },
   { aCmd with a1 := 2 ^ 64 }, { aCmd with a2 := 2 ^ 64 }, { aCmd with a3 := 2 ^ 64 }, { aCmd with rsv48 := 2 ^ 128 },
   { aCmd with hlen := 64, data := [] } ] : List HostCmd).all (fun x => !x.wf) = true := by decide +kernel

theorem test_wf_Packet : (aPacket : Packet).wf = true ∧ ([
   { aPacket with op := 256 }, { aPacket with cls := 8 }, { aPacket with src := 2 ^ 16 }, { aPacket with dst := 2 ^ 16 },
   { aPacket with job := 2 ^ 16 }, { aPacket with ssn := 2 ^ 32 }, { aPacket with rkey := 2 ^ 32 }, { aPacket with addr := 2 ^ 64 },
   { aPacket with issue := 2 ^ 64 }, { aPacket with len := 2 ^ 16 }, { aPacket with status := 2 ^ 16 }, { aPacket with ord := 2 ^ 32 },
   { aPacket with epoch := 2 ^ 32 }, { aPacket with paddock := 2 ^ 16 }, { aPacket with hops := 256 }, { aPacket with re := 2 ^ 32 },
   { aPacket with body := List.replicate 512 0 } ] : List Packet).all (fun x => !x.wf) = true := by decide +kernel

theorem test_wf_VoteMsg : (aBallot : VoteMsg).wf = true ∧ ([
   { aBallot with vmsg := 256 }, { aBallot with vkind := 256 }, { aBallot with subject := 2 ^ 16 }, { aBallot with sender := 2 ^ 16 },
   { aBallot with ballot := 256 }, { aBallot with callBeat := 2 ^ 64 }, { aBallot with castBeat := 2 ^ 64 }, { aBallot with score := 2 ^ 16 },
   { aBallot with caller := 2 ^ 16 }, { aBallot with epoch := 2 ^ 32 } ] : List VoteMsg).all (fun x => !x.wf) = true := by decide +kernel

theorem test_wf_CtlFlit : ({ src := 0 } : CtlFlit).wf = true ∧ ([
   { ({ src := 0 } : CtlFlit) with src := 2 ^ 15 }, { ({ src := 0 } : CtlFlit) with port := 16 },
   { ({ src := 0 } : CtlFlit) with seq := 4096 }, { ({ src := 0 } : CtlFlit) with ack := 4096 },
   { ({ src := 0 } : CtlFlit) with replay := some 4096 }, { ({ src := 0 } : CtlFlit) with pauses := [0] },
   { ({ src := 0 } : CtlFlit) with pauses := List.replicate 8 (2 ^ 16) },
   { ({ src := 0 } : CtlFlit) with msgs := List.replicate 4 (.ack 0 0 0 0 []) } ] : List CtlFlit).all (fun x => !x.wf) = true := by decide +kernel

theorem test_wf_RoleHdr : (aRole : RoleHdr).wf = true ∧ ([
   { aRole with src := 2 ^ 15 }, { aRole with epoch := 2 ^ 32 }, { aRole with roleEpoch := 2 ^ 32 }, { aRole with paddock := some (2 ^ 16) } ] : List RoleHdr).all (fun x => !x.wf) = true := by decide +kernel

theorem test_wf_BounceMsg : (aBounce : BounceMsg).wf = true ∧ ([
   { aBounce with src := 2 ^ 15 }, { aBounce with code := 2 ^ 16 }, { aBounce with epoch := 2 ^ 32 },
   { aBounce with roleEpoch := 2 ^ 32 }, { aBounce with msgEpoch := 2 ^ 32 }, { aBounce with msgRoleEpoch := 2 ^ 32 } ] : List BounceMsg).all (fun x => !x.wf) = true := by decide +kernel

theorem test_wf_IntakeReq : (anIntake : IntakeReq).wf = true ∧ ([
   { anIntake with ring := some (2 ^ 14) }, { anIntake with src := 2 ^ 15 }, { anIntake with items := [] }, { anIntake with items := [[0]] } ] : List IntakeReq).all (fun x => !x.wf) = true := by decide +kernel

theorem test_wf_InvMsg : (anInvoke : InvMsg).wf = true ∧ ([
   { anInvoke with h := { aRole with src := 2 ^ 15 } }, { anInvoke with record := [] } ] : List InvMsg).all (fun x => !x.wf) = true := by decide +kernel

theorem test_wf_Pannier : (aPan : Pannier).wf = true ∧ ([
   { aPan with hdr := [] } ] : List Pannier).all (fun x => !x.wf) = true := by decide +kernel

theorem test_wf_ShipNotice : (aShip : ShipNotice).wf = true ∧ ([
   { aShip with h := { aRole with src := 2 ^ 15 } }, { aShip with stall := 2 ^ 17 }, { aShip with home := 2 ^ 15 },
   { aShip with paddock := 2 ^ 16 }, { aShip with record := [] } ] : List ShipNotice).all (fun x => !x.wf) = true := by decide +kernel

theorem test_wf_PullRequest : (aPullReq : PullRequest).wf = true ∧ ([
   { aPullReq with h := { aRole with src := 2 ^ 15 } }, { aPullReq with stall := 2 ^ 17 }, { aPullReq with home := 2 ^ 15 },
   { aPullReq with pullId := 2 ^ 32 } ] : List PullRequest).all (fun x => !x.wf) = true := by decide +kernel

theorem test_wf_ParkAck : (aParkAck : ParkAck).wf = true ∧ ([
   { aParkAck with h := { aRole with src := 2 ^ 15 } }, { aParkAck with body := [] } ] : List ParkAck).all (fun x => !x.wf) = true := by decide +kernel

theorem test_wf_PullNo : (aPullNo : PullNo).wf = true ∧ ([
   { aPullNo with h := { aRole with src := 2 ^ 15 } }, { aPullNo with home := 2 ^ 15 }, { aPullNo with stall := 2 ^ 17 },
   { aPullNo with pullId := 2 ^ 32 }, { aPullNo with status := 2 ^ 16 } ] : List PullNo).all (fun x => !x.wf) = true := by decide +kernel

theorem test_wf_PullDone : (aPullDone : PullDone).wf = true ∧ ([
   { aPullDone with h := { aRole with src := 2 ^ 15 } }, { aPullDone with stall := 2 ^ 17 }, { aPullDone with member := 2 ^ 15 },
   { aPullDone with status := 2 ^ 16 } ] : List PullDone).all (fun x => !x.wf) = true := by decide +kernel

theorem test_wf_ReleaseMsg : (aRelease : ReleaseMsg).wf = true ∧ ([
   { aRelease with h := { aRole with src := 2 ^ 15 } }, { aRelease with home := 2 ^ 15 }, { aRelease with stall := 2 ^ 17 } ] : List ReleaseMsg).all (fun x => !x.wf) = true := by decide +kernel

theorem test_wf_ReparkMsg : (aRepark : ReparkMsg).wf = true ∧ ([
   { aRepark with h := { aRole with src := 2 ^ 15 } }, { aRepark with home := 2 ^ 15 }, { aRepark with stall := 2 ^ 17 },
   { aRepark with model := 2 ^ 16 }, { aRepark with departing := 2 ^ 15 } ] : List ReparkMsg).all (fun x => !x.wf) = true := by decide +kernel

theorem test_wf_ShardQuery : (aShardQ : ShardQuery).wf = true ∧ ([
   { aShardQ with h := { aRole with src := 2 ^ 15 } }, { aShardQ with index := 256 }, { aShardQ with shard := 2 ^ 16 },
   { aShardQ with dim := 1 } ] : List ShardQuery).all (fun x => !x.wf) = true := by decide +kernel

theorem test_wf_MutMsg : (aMut : MutMsg).wf = true ∧ ([
   { aMut with h := { aRole with src := 2 ^ 15 } }, { aMut with issuer := 2 ^ 15 }, { aMut with record := [] } ] : List MutMsg).all (fun x => !x.wf) = true := by decide +kernel

theorem test_wf_UnitEnd : (anEnd : UnitEnd).wf = true ∧ ([
   { anEnd with stall := 2 ^ 17 }, { anEnd with exec := 2 ^ 15 }, { anEnd with epoch := 2 ^ 32 }, { anEnd with status := 2 ^ 16 } ] : List UnitEnd).all (fun x => !x.wf) = true := by decide +kernel

theorem test_wf_ReplMsg : (aCopyMsg : ReplMsg).wf = true ∧ ([
   { aCopyMsg with src := 2 ^ 15 }, { aCopyMsg with stall := 2 ^ 17 }, { aCopyMsg with record := [] } ] : List ReplMsg).all (fun x => !x.wf) = true := by decide +kernel

theorem test_wf_Instr_1 : ([
   .por (2 ^ 15) 0 false, .por 0 4 false, .targetStabled (2 ^ 64), .stabledRing0Scan none (some { aCmd with ring := 2 ^ 14 }),
   .dieGate 4, .dieUngate 4, .sensorRead [], .sensorRead (List.replicate 13 [some 256]), .powerCapCheck 4096, .avsTransaction 5 false 0,
   .avsTransaction 0 false 13, .smbusBlockRead 256, .dbgAccess false (2 ^ 26) 0, .dbgAccess false 0 (2 ^ 64), .bypass 256,
   .hifEnSet (2 ^ 64), .intakePartialTimeout (2 ^ 14), .cplConsPoll (2 ^ 14) 0, .cplConsPoll 0 (2 ^ 32), .msixSignal (2 ^ 14),
   .registerWrite (2 ^ 26) 0, .registerWrite 0 (2 ^ 64), .narrowAccess (2 ^ 26) false, .unmappedAccess (2 ^ 26) false, .rcRead (2 ^ 26),
   .cadLoadArm (2 ^ 64), .hayEnSet (2 ^ 64), .hayEnClear (2 ^ 64), .hltTandemEn (2 ^ 64), .newItem { ring := none, items := [] },
   .continueItem { ring := none, items := [] }, .shadowEntryCreate { src := 0, stall := 0, record := [] },
   .intakeAcknowledgement (2 ^ 17) 0, .intakeAcknowledgement 0 (2 ^ 16), .samplingRecordCheck (2 ^ 17) [], .endOfIntake (2 ^ 17) [],
   .chunkDispatch (2 ^ 17) 0 0 none, .chunkDispatch 0 (2 ^ 64) 0 none, .chunkDispatch 0 0 (2 ^ 64) none,
   .chunkEnd { stall := 2 ^ 17, exec := 0, epoch := 0 }, .stepEnd { stall := 2 ^ 17, exec := 0, epoch := 0 }, .stallRetire (2 ^ 17),
   .parkExpiry (2 ^ 17), .replication { src := 0, stall := 0, record := [] }, .replicationAck (2 ^ 17) 0, .replicationAck 0 (2 ^ 32),
   .replicationRefused (2 ^ 17) 0, .replicationRefused 0 (2 ^ 16), .pelotonStepLaunch (2 ^ 16) 0, .pelotonStepLaunch 0 26,
   .draftLaunch (2 ^ 16) 0, .draftLaunch 0 26, .gateNotice (2 ^ 15) 0 0 false, .gateNotice 0 (2 ^ 17) 0 false,
   .gateNotice 0 0 (2 ^ 32) false, .pelotonMask (2 ^ 16) 0, .pelotonMask 0 (2 ^ 26), .poolTaskPlace 544 [],
   .entryComplete 0 0 (2 ^ 16) false [] [], .invocationMessage { h := aRole, kind := .member 0 [], record := [] } ] : List Instr).all (fun c => !c.wf) = true := by decide +kernel

theorem test_wf_Instr_2 : ([
   .cheapPoint 544 0 [], .cheapPoint 0 (2 ^ 32) [], .saveComplete 544, .coreFault 544, .coreWatchdog 544, .spareRestoreComplete 544,
   .spareSelfTest 544 false, .engRetest { aCmd with ring := 2 ^ 14 } false, .coreRemoteIssue 544 (.await 0), .fence 544 none,
   .fence 0 (some (2 ^ 15)), .hifRing { aCmd with ring := 2 ^ 14 }, .hifRingDisable { aCmd with ring := 2 ^ 14 },
   .compStage { aCmd with ring := 2 ^ 14 }, .cmpTableLoad { aCmd with ring := 2 ^ 14 }, .sepLoad { aCmd with ring := 2 ^ 14 },
   .sepUnload { aCmd with ring := 2 ^ 14 }, .sepInvoke { aCmd with ring := 2 ^ 14 }, .kvModel { aCmd with ring := 2 ^ 14 },
   .kvPaddock { aCmd with ring := 2 ^ 14 }, .stlCancel { aCmd with ring := 2 ^ 14 }, .stlRelease { aCmd with ring := 2 ^ 14 },
   .stlSpill { aCmd with ring := 2 ^ 14 }, .srchAttach { aCmd with ring := 2 ^ 14 }, .srchDetach { aCmd with ring := 2 ^ 14 },
   .srchDir { aCmd with ring := 2 ^ 14 }, .srchQuery { aCmd with ring := 2 ^ 14 }, .srchMutate { aCmd with ring := 2 ^ 14 },
   .memRegion { aCmd with ring := 2 ^ 14 }, .memRegionRemove { aCmd with ring := 2 ^ 14 }, .memFlush { aCmd with ring := 2 ^ 14 },
   .memPfLoad { aCmd with ring := 2 ^ 14 }, .hayFormat { aCmd with ring := 2 ^ 14 } [], .azfRoute { aCmd with ring := 2 ^ 14 },
   .azfRegion { aCmd with ring := 2 ^ 14 }, .azfRegionRemove { aCmd with ring := 2 ^ 14 }, .azfJob { aCmd with ring := 2 ^ 14 },
   .azfJobRemove { aCmd with ring := 2 ^ 14 }, .azfTeardown { aCmd with ring := 2 ^ 14 }, .qpPd { aCmd with ring := 2 ^ 14 },
   .qpCreate { aCmd with ring := 2 ^ 14 }, .qpModify { aCmd with ring := 2 ^ 14 }, .qpDestroy { aCmd with ring := 2 ^ 14 },
   .qpPost { aCmd with ring := 2 ^ 14 } none, .qpRecv { aCmd with ring := 2 ^ 14 } [], .hltCkpt { aCmd with ring := 2 ^ 14 } [],
   .hltRestore { aCmd with ring := 2 ^ 14 } [] [], .hltDeclare { aCmd with ring := 2 ^ 14 }, .hbmRefresh 256,
   .bounce { src := 2 ^ 15, code := 0, epoch := 0, roleEpoch := 0, what := .other, msgEpoch := 0, msgRoleEpoch := 0 },
   .laneLockLoss 16 0, .laneLockLoss 0 8, .laneRetrain 16 0 false, .laneRetrain 0 8 false, .portDown 16, .portUp 16 0 0 0,
   .portUp 0 256 0 0, .portUp 0 0 (2 ^ 15) 0, .portUp 0 0 0 (2 ^ 16), .controlFlitSend 16 ] : List Instr).all (fun c => !c.wf) = true := by decide +kernel

theorem test_wf_Instr_3 : ([
   .controlFlitReceive 16 { src := 0 }, .controlFlitReceive 0 { src := 2 ^ 15 }, .flitCrcFail 16 0, .flitCrcFail 0 4096,
   .packetForward 16 aPacket, .packetForward 0 { aPacket with op := 256 }, .egressSend 16, .load 16 aPacket,
   .load 0 { aPacket with op := 256 }, .store 16 aPacket, .store 0 { aPacket with op := 256 }, .add 16 aPacket,
   .add 0 { aPacket with op := 256 }, .fetchAdd 16 aPacket, .fetchAdd 0 { aPacket with op := 256 }, .cas 16 aPacket,
   .cas 0 { aPacket with op := 256 }, .fadd 16 aPacket, .fadd 0 { aPacket with op := 256 }, .copyWrite 16 aPacket,
   .copyWrite 0 { aPacket with op := 256 }, .copyWriteCoded 16 aPacket, .copyWriteCoded 0 { aPacket with op := 256 },
   .msg 16 aPacket .fragment, .msg 0 { aPacket with op := 256 } .fragment, .loadRsp 16 aPacket, .loadRsp 0 { aPacket with op := 256 },
   .addRsp 16 aPacket, .addRsp 0 { aPacket with op := 256 }, .casRsp 16 aPacket, .casRsp 0 { aPacket with op := 256 },
   .ack (2 ^ 15) 0 0 [], .ack 0 8 0 [], .ack 0 0 (2 ^ 32) [], .nak (2 ^ 15) 0 .unknown, .nak 0 8 .unknown, .streamTimer (2 ^ 15) 0,
   .streamTimer 0 8, .streamContextRetire (2 ^ 15) 0 false, .streamContextRetire 0 8 false, .roundAsk (2 ^ 15) 0 0,
   .roundAsk 0 (2 ^ 16) 0, .roundAsk 0 0 (2 ^ 64), .roundDone (2 ^ 15) 0 0 [], .roundDone 0 (2 ^ 16) 0 [], .roundDone 0 0 (2 ^ 64) [],
   .roundClose (2 ^ 16) 0, .roundClose 0 (2 ^ 64), .deadPoisonTimer (2 ^ 15), .qpRequestPacket 16 aPacket,
   .qpRequestPacket 0 { aPacket with op := 256 }, .qpAck 16 aPacket, .qpAck 0 { aPacket with op := 256 }, .qpNak 16 aPacket,
   .qpNak 0 { aPacket with op := 256 }, .readRsp 16 aPacket, .readRsp 0 { aPacket with op := 256 }, .atomicRsp 16 aPacket,
   .atomicRsp 0 { aPacket with op := 256 }, .qpTimer (2 ^ 16) ] : List Instr).all (fun c => !c.wf) = true := by decide +kernel

theorem test_wf_Instr_4 : ([
   .rnrWaitExpiry (2 ^ 16), .contextWriteComplete (2 ^ 16), .contextFetchComplete (2 ^ 16) false, .contextFetchTimeout (2 ^ 16),
   .waitSatisfied (2 ^ 16), .policerMeter 16 0, .policerMeter 0 8, .parkPannier { hdr := [], regions := [], opens := [] },
   .parkAck { h := aRole, body := [] }, .parkRetry (2 ^ 17) 0 0, .parkRetry 0 (2 ^ 32) 0, .parkRetry 0 0 (2 ^ 16),
   .shipNotice { aShip with record := [] }, .pullRequest { aPullReq with stall := 2 ^ 17 },
   .pullReply { hdr := [], regions := [], opens := [] }, .pullRefusal { aPullNo with status := 2 ^ 16 }, .pullTimeout (2 ^ 15) 0 0,
   .pullTimeout 0 (2 ^ 17) 0, .pullTimeout 0 0 (2 ^ 32), .pullComplete { h := aRole, stall := 2 ^ 17, member := 0, status := 0 },
   .releaseNotice { h := aRole, home := 2 ^ 15, stall := 0, work := false, parked := [] }, .reparkNotice { aRepark with home := 2 ^ 15 },
   .lossParkWaitEnd (2 ^ 15), .tailRebuildComplete (2 ^ 15) 0 0, .tailRebuildComplete 0 (2 ^ 17) 0, .tailRebuildComplete 0 0 (2 ^ 16),
   .shardQuery { aShardQ with dim := 1 }, .shardAnswer 0 (2 ^ 16) { status := 0 }, .passageRead (2 ^ 17) [],
   .mutationRecord { aMut with record := [] }, .space4Read 0 (2 ^ 48) 0, .space4Read 0 0 (2 ^ 32),
   .space4Write 0 (2 ^ 48) [] false false, .writeBackDurable (2 ^ 32), .flushAge (2 ^ 32), .scrubRead 256 0 .clean,
   .scrubRead 0 (2 ^ 32) .clean, .channelFail 256, .hmapPageFail (2 ^ 32), .stackTempRead [], .stackTempRead (List.replicate 8 256),
   .hayRead (2 ^ 37) .clean, .hayWrite 32, .programComplete 32 0, .programFail 32 0, .programFail 0 32, .eraseComplete (2 ^ 22) none,
   .neighbourSilent (2 ^ 15) false, .voteCall { aBallot with vmsg := 256 }, .voteBallot { aBallot with vmsg := 256 },
   .voteDeclare { aBallot with vmsg := 256 }, .loadCutover (2 ^ 15) 0 {}, .loadCutover 0 (2 ^ 15) {}, .digest (2 ^ 15) [],
   .msixVectorUnmask 2048 ] : List Instr).all (fun c => !c.wf) = true := by decide +kernel

/-! ## The spec's worked examples -/

/-- FP32 numbers: n, and n halves, quarters, ... of it. -/
def f (n : Nat) (shift : Int) : Nat := fp32.round false n shift

/-- "Worked example: one reduction, three placements" (02): by R59 2^24, 1, −2^24 and 1 make 1 exactly. -/
theorem test_reduction : f32Tree [f 1 24, f 1 0, f32Neg (f 1 24), f 1 0] = f 1 0 := by decide +kernel

/-- "Worked merge" (09). -/
theorem test_merge :
    selMerge { asc := true, int := false } 0 4
      [{ entries := [(f 1 (-1), 17), (f 3 (-2), 40), (f 1 0, 9), (f 1 0, 52)], tieOut := 1 },
       { entries := [(f 3 (-2), 40), (f 7 (-3), 23), (f 1 0, 33), (f 5 (-2), 61)] }] =
    { entries := [(f 1 (-1), 17), (f 3 (-2), 40), (f 7 (-3), 23), (f 1 0, 9)], tieOut := 3, dup := true } := by decide +kernel

/-- "Worked sampling step" (09): the record, the row, the penalised row. -/
def stepSamp : Samp :=
  { vocab := 8, topK := 5, argmax := false, invTemp := f 1 0, topP := f 3 (-2), repPen := f 1 0, presPen := f 1 0, freqPen := f 1 (-8) }
def stepRow : List Nat := [f 2 0, f 5 0, f 4 0, f 5 0, f 1 0, f 3 0, f 4 0, 0]
def stepPen : List (Option Nat) := [f 2 0, f 2 0, f 4 0, f 5 0, f 1 0, f 3 0, f 4 0, 0].map some
theorem test_penalties : penRow stepSamp (List.replicate 512 1) stepRow = stepPen := by decide +kernel
theorem test_sampling_selection :
    selectPass { asc := false, int := false } 2 (f 1 0) 0 5 stepPen =
      { entries := [(f 5 0, 3), (f 4 0, 2), (f 4 0, 6), (f 3 0, 5), (f 2 0, 0)], tieOut := 1, selSum := f 19 (-3), restSum := f 7 (-5) } := by
  decide +kernel
theorem test_sampling_nucleus :
    rowCands stepSamp stepPen = { cands := [(3, f 1 0), (2, f 1 (-1)), (6, f 1 (-1))], sum := f 2 0 } := by decide +kernel
theorem test_sampling_walk :
    walkTo (f32Mul (fp32.round false 0xB00000 (-24)) (f 2 0)) 0 none (rowCands stepSamp stepPen).cands = some 2 := by decide +kernel
theorem test_argmax : argmaxOf stepPen = some 3 ∧ argmaxOf (stepRow.map some) = some 1 := by decide +kernel

/-- "Worked example: an MXFP8 dot product with a spread of 96" (03): blocks of 32 with one pair that is not zero. -/
def one (x : Nat) : List Sys2Proof.Machine.Num := elemVal 0x4 x :: List.replicate 31 (elemVal 0x4 0)
def spread (x : Nat) : LongAcc :=
  ((({} : LongAcc).block 0x8F 0x7F (one 0x3C) (one 0x38)).block 0x7F 0x7F (one 0x38) (one 0xB8)).block x x (one 0x01) (one 0x3F)
theorem test_long_accumulator :
    (spread 0x57).acc = 0x17FFF00000000000000000000 ∧ (spread 0x57).anchor = 16 ∧ (spread 0x57).rounded = true ∧ (spread 0x57).nblk = 3 ∧
    (spread 0x57).drain 0 none = leBytes 4 0x47BFFF80 ∧ (spread 0x5D).rounded = false := by decide +kernel

/-- "Worked example: a colour-aware pair" (15): the two policers, metering 304 bytes at the beats of the table. -/
def flow12 : Meter :=
  { cfg := { rate := 4096, burst := 1024, burst2 := 1024, bkind := 3, cls := 3, red := true }, tc := 4096 * 1024, tx := 4096 * 1024 }
def agg40 : Meter :=
  { cfg := { rate := 8192, burst := 2048, rate2 := 16384, burst2 := 4096, bkind := 4, cls := 3, mode := 1, aware := true }
    tc := 4096 * 2048, tx := 4096 * 4096 }
/-- The colours and buckets of the two, in bytes, packet by packet. -/
def police2 : List Nat → Meter → Meter → List (Nat × Nat × Nat × Nat × Nat × Nat)
  | [], _, _ => []
  | t :: ts, a, b =>
    let (c, a') := a.colour t 304 0
    if c = 2 then (c, 0, 0, 0, 0, 0) :: police2 ts a b
    else
      let (e, b') := b.colour t 304 c
      (c, a'.tc.toNat / 4096, a'.tx.toNat / 4096, e, b'.tc.toNat / 4096, b'.tx.toNat / 4096) :: police2 ts a' b'
theorem test_policers :
    police2 [0, 1, 2, 3, 4, 5, 6, 192, 496] flow12 agg40 =
      [(0, 720, 1024, 0, 1744, 3792), (0, 417, 1024, 0, 1442, 3492), (0, 114, 1024, 0, 1140, 3192), (1, 115, 720, 1, 1142, 2892),
       (1, 116, 416, 1, 1144, 2592), (1, 117, 112, 1, 1146, 2292), (2, 0, 0, 0, 0, 0), (0, 0, 112, 0, 1216, 2736), (0, 0, 112, 0, 1520, 3648)] := by
  decide +kernel

/-- A map in which the member of rank 64 of paddock 7, with two clusters as each of its members, is this device, with clusters 4 and 5 of
die 2: L 1,037 is position 5 of the second. -/
def fieldOf7 : CompMap := { members := [{ paddock := 7, device := 0, rank := 64, model := 1, clusters := 3 * 2 ^ 36, chgrps := 1, ports := 1 }] }
/-- "Worked example: the spare map after a substitution" (19): core 45 of die 2 has failed, spare 130 runs its L. -/
def substituted : Dev :=
  let d := { Dev.reset with pwr := { Dev.reset.pwr with state := .run, readyFw := true, engOk := true } }
  let d := { d with comp.cur := fieldOf7 }
  let d := d.setCore (2 * 136 + 45) { d.core (2 * 136 + 45) with state := .failed }
  d.setCore (2 * 136 + 130) { d.core (2 * 136 + 130) with state := .active, subst := some (2 * 136 + 45) }
theorem test_spare_map : substituted.readReg (F.ENG_SPARE_MAP_PAIRS 4).off = 0x00835D8200810080 := by decide +kernel
theorem test_core_stat :
    (substituted.setReg F.ENG_SEL_DIE.off 0x282).readReg F.ENG_CORE_STAT_STATE.off = 0x0000000780040D10 ∧
    (substituted.setReg F.ENG_SEL_DIE.off 0x22D).readReg F.ENG_CORE_STAT_STATE.off = 3 := by decide +kernel

/-- "Worked example: four deadlines around one step" (06): a decision at the scheduled end 41,900,000. -/
theorem test_deadlines :
    [41000000, 42000000, 42500000, 0].map (fun b => ({ deadline := b } : StallRec).passed 41900000) = [true, false, false, false] := by decide +kernel

/-- CRC-32C (RFC 3720, as R115 names it) of the digits 1 to 9: the known check value of that code (from outside the spec). -/
theorem test_crc32c : crc32c [0x31, 0x32, 0x33, 0x34, 0x35, 0x36, 0x37, 0x38, 0x39] = 0xE3069283 := by decide +kernel

/-! ## Single steps -/

/-- A step that takes the command at the front, from a part as it is after reset. -/
def after (d : Dev) (c : Instr) : Option State :=
  match step { dev := d, pending := [c] } with
  | .next t => some t
  | _ => none

/-- A command is taken off the queue's front. -/
theorem test_step_takes_the_front : (after Dev.reset .powerLoss).map (·.pending) = some [] := by decide +kernel

/-- Nothing of the table has bits: no word spells a command. -/
theorem test_no_word_decodes : decodeTableWord 16 0x1234 = none := by decide +kernel

/-- A part in `run` whose firmware serves every register, and what one command on it leaves of the part. -/
def aRunning : Dev := { Dev.reset with pwr := { Dev.reset.pwr with state := .run, readyFw := true } }
def left (d : Dev) (c : Instr) : Dev := ((after d c).map (·.dev)).getD d

/-- An RW field takes what is written (R10). -/
theorem test_write_rw : (left aRunning (.registerWrite F.HIF_BULK_SEGS_SEGS.off 7)).fld F.HIF_BULK_SEGS_SEGS = 7 := by decide +kernel

/-- A W1C field is cleared where a one is written, and kept where a zero is (R10). -/
theorem test_write_w1c :
    let d := aRunning.setFld F.PWR_RST_CAUSE_WARM_PIN 1
    (left d (.registerWrite F.PWR_RST_CAUSE_WARM_PIN.off 0)).fld F.PWR_RST_CAUSE_WARM_PIN = 1 ∧
    (left d (.registerWrite F.PWR_RST_CAUSE_WARM_PIN.off (2 ^ 64 - 1))).fld F.PWR_RST_CAUSE_WARM_PIN = 0 := by decide +kernel

/-- A read of an RC field clears it (R10). -/
theorem test_read_rc :
    (left (aRunning.setFld F.STL_SMP_CNT_NO_TOKEN 3) (.rcRead F.STL_SMP_CNT_NO_TOKEN.off)).fld F.STL_SMP_CNT_NO_TOKEN = 0 := by decide +kernel

/-- A narrow write changes no register (R6). -/
theorem test_narrow_write :
    (left aRunning (.narrowAccess F.HIF_BULK_SEGS_SEGS.off true)).fld F.HIF_BULK_SEGS_SEGS = aRunning.fld F.HIF_BULK_SEGS_SEGS := by decide +kernel

/-- PROCHOT_N low and high again (R509). -/
theorem test_prochot :
    (left aRunning .prochotNLow).therm.prochotN = false ∧ (left (left aRunning .prochotNLow) .prochotNHigh).therm.prochotN = true := by
  decide +kernel

/-- A lane that loses lock is removed from its port (R367). -/
theorem test_lane_lock_loss :
    let d := aRunning.onAzPort 3 fun q => { q with state := 2, lanes := 0xFF, neighbour := 1 }
    ((left d (.laneLockLoss 3 5)).azPort 3).lanes % 64 / 32 = 0 := by decide +kernel

end Sys2Proof.Tests
end

