-- ==== Sys2Proof/Tests/Witnesses.lean ====
section
/-!
SUPPORT. Tests/Witnesses.lean: for every statement of Obligations.lean that has hypotheses, a theorem that shows, for each of its
clauses, a concrete block and operands that meet the clause's hypotheses together.
-/

namespace Sys2Proof.Tests

open Sys2Proof.Machine

set_option Elab.async false

/-- A part in `run` whose firmware serves every register. -/
def up : Dev := { Dev.reset with pwr := { Dev.reset.pwr with state := .run, readyFw := true } }

/-- That part with the host interface enabled and one command waiting on ring 0, the admin ring. -/
def rup : Dev :=
  { up.setFld F.HIF_CTRL_EN 1 with hif := { up.hif with cmd := [(0, { en := true, log2 := 8, admin := true, prod := 1 })], cpl := [(0, { en := true, log2 := 8 })] } }

/-- The block around a part, with no command waiting. -/
def blk (d : Dev) : State := { dev := d, pending := [] }

/-- A command on ring 0 with every argument zero. -/
def cmd : HostCmd := { ring := 0, opcode := 0x11 }

/-- n bytes that are zero but for the fields listed: offset, size and value. -/
def mk (n : Nat) (l : List (Nat × Nat × Nat)) : Bytes :=
  l.foldl (fun b x => b.take x.1 ++ leBytes x.2.1 x.2.2 ++ b.drop (x.1 + x.2.1)) (List.replicate n 0)

/-- The same with a CRC-32C of the whole in a field of four bytes. -/
def mkC (n crc : Nat) (l : List (Nat × Nat × Nat)) : Bytes :=
  let b := mk n l
  b.take crc ++ leBytes 4 (crc32c b) ++ b.drop (crc + 4)

/-- A firmware header that passes its checks, what the boot ROM measures of it, and the fuses that trust its key. -/
def fwHdr : Bytes := mk 512 [(0, 4, 0x57465956), (4, 2, 1), (16, 4, 4096)]
def fwGood : Measured := { keyHash := List.replicate 48 1, bodyHash := List.replicate 48 0, sigOk := true }
def fwFuses : Fuses := { keyHash := [List.replicate 48 1] }
def slotNone : SlotRead := { hdr := [], m := { readOk := false } }

/-- A map in which this device, 0, serves model 1 alone in paddock 1 with one cluster and one channel group. -/
def oneMapAs (role : Nat) : CompMap :=
  { devices := [{ device := 0, role := role, spare := false, roleEpoch := 0, shadow := 0xFFFF }]
    members := [{ paddock := 1, device := 0, rank := 0, model := 1, clusters := 1, chgrps := 1, ports := 1 }] }
def oneMap : CompMap := oneMapAs 2

/-- A stall with no key-value pages that may stand in any state of R162. -/
def aStall : Stall := {}

/-- An intake item of 64 bytes: its opcode, and fields. -/
def item (op : Nat) (l : List (Nat × Nat × Nat)) : Bytes := mk 64 ((0, 1, op) :: l)

/-- A NEW with one prompt token for model 1, and a part that may take it: a prompt paddock, a bulk segment and room in the stall pool. -/
def ask : Bytes := item 1 [(6, 2, 1), (16, 4, 1), (40, 4, 2 ^ 16)]
def intakeUp : Dev :=
  let d := { up with comp.cur := oneMapAs 1, stl.levels := [(0, [{ bytes := ask, ring := none, fabric := 0 }])] }
  ((d.setFld F.STL_CTRL_EN 1).setFld F.HIF_BULK_SEGS_SEGS 1).setReg F.STL_POOL_SIZE_SIZE.off (BitVec.ofNat 64 (2 ^ 24))
def grab (d : Dev) (n : Nat) : Nat × Dev := (d.poolAlloc n 0).getD (0, d)

/-- A stall of which a prefill chunk of 64 positions runs, and of which a peloton step runs. -/
def inChunk : Stall := { phase := .chunk 1 0 64 0, r := { execValid := true, model := 1, lenPrompt := 256, lenLimit := 512, lenParked := 64 } }
def inStep : Stall := { phase := .decode 1, r := { execValid := true, model := 1, lenLimit := 512, state := .decode } }
def chunkEnd : UnitEnd := { stall := 0, exec := 0, epoch := 0 }

/-- A map image of epoch 1 with no device and no member, and a coding table of MXFP4 in which every code has four bits. -/
def mapImg : Bytes := mkC 64 28 [(0, 4, 0x50414D43), (4, 4, 1), (8, 8, 2 ^ 16)]
def codeTable : Bytes := mkC 144 4 ([(0, 1, 1), (1, 1, 4), (2, 2, 16)] ++ (List.range 8).map fun i => (16 + i, 1, 0x44))

/-- A program of 128 bytes without entries for one cluster, and a device of role 2 that holds it in slot 0 of paddock 1. -/
def prog : Bytes :=
  mkC 128 20 [(0, 4, 0x50545053), (4, 2, 1), (6, 1, 14), (8, 4, 8), (12, 2, 1), (16, 4, 128), (24, 4, 1), (28, 4, 256), (100, 4, 1)]
def withProg (d : Dev) (img : Bytes) : Dev :=
  { d with comp.cur := oneMap, comp.role := 2, sep.pads := [(1, { slots := [(0, { img := img, base := 5 * 2 ^ 60 })] })] }
/-- A model record (one layer, head and shard, pages of 256 positions), a paddock record, and a device of role 2 that serves model 1 in
paddock 1 with them: a peloton in entry 0, and program `img` in slot 0. -/
def modelRec : Bytes :=
  mkC 64 28 [(0, 2, 1), (2, 1, 8), (3, 1, 4), (4, 2, 1), (6, 2, 1), (8, 2, 32), (10, 2, 1), (12, 2, 1), (20, 4, 256), (24, 4, 0x3F800000)]
def zeros64 : Bytes := List.replicate 64 0
def padRec : Bytes := [1, 0] ++ List.replicate 10 0 ++ leBytes 4 2375248952 ++ List.replicate 496 0
def aModel : KvModel := { model := 1, shards := 1 }
def decPad : KvPaddock := { draftEn := true, pels := [{ period := 500000, maxSeq := 16, en := true, phase := 0 }] }
def inPel : ExecStall := { paddock := 1, started := true, record := { lenLimit := 512 }, samp := List.replicate 512 1 }
def kvUp (d : Dev) (img : Bytes) : Dev :=
  { withProg d img with kv := { d.kv with models := [(1, aModel)], paddocks := [(1, decPad)], execs := [(0, inPel)],
                                          regions := [(1, [{ base := 0, size := 65536, key := 0, use := .page, page := 0, shard := 0 }])] } }

theorem crc_next (a b : Nat) (l m : Bytes) (h : m.foldl (crcByte 0x82F63B78) a = b) :
    (m ++ l).foldl (crcByte 0x82F63B78) a = l.foldl (crcByte 0x82F63B78) b := by rw [List.foldl_append, h]

/-- The CRC of the paddock record, taken 64 bytes at a time. -/
theorem padRec_crc : crc32c (padRec.take 12 ++ [0, 0, 0, 0] ++ padRec.drop 16) = 2375248952 := by
  have h : padRec.take 12 ++ [0, 0, 0, 0] ++ padRec.drop 16 =
      ([1, 0] ++ List.replicate 62 0) ++ (zeros64 ++ (zeros64 ++ (zeros64 ++ (zeros64 ++ (zeros64 ++ (zeros64 ++ zeros64)))))) := by decide +kernel
  rw [h, crc32c, crc_next _ 2285501338 _ _ (by decide +kernel), crc_next 2285501338 2655671686 _ _ (by decide +kernel), crc_next 2655671686 598753127 _ _ (by decide +kernel), crc_next 598753127 2604414155 _ _ (by decide +kernel), crc_next 2604414155 572947375 _ _ (by decide +kernel), crc_next 572947375 1168505094 _ _ (by decide +kernel), crc_next 1168505094 1457029866 _ _ (by decide +kernel),
    show zeros64.foldl (crcByte 0x82F63B78) 1457029866 = 1919718343 from by decide +kernel]
  decide +kernel
theorem padRec_ok : kvPaddockFieldsOk padRec = true := by
  unfold kvPaddockFieldsOk; rw [padRec_crc]; decide +kernel
/-- A program with one entry of a kind on core 0: operator 0, so many beats after the base. -/
def progE (kind start : Nat) : Bytes :=
  mkC 192 20 [(0, 4, 0x50545053), (4, 2, 1), (6, 1, 14), (8, 4, 8), (12, 2, 1), (16, 4, 192), (32, 4, 128), (36, 4, 1),
    (128, 4, start), (132, 4, 10), (148, 1, kind), (160, 4, 1)]
def invP : Inv := { paddock := 1, slot := 0, tag := .host { ring := 0, opcode := 0x30, tag := 0, quiet := false } }
/-- A device on which invocation 0 of that program is under way. -/
def running (img : Bytes) (i : Inv) : Dev := let d := withProg up img; { d with sep := { d.sep with invs := [(0, i)] } }
/-- A save of job 0 in the first save slot of a core, and a program whose cheap point 0 is at 7. -/
def aSave : Save := { slot := 0, yields := false, job := { inv := 0, entry := 0, task := 0 }, cheap := 0, body := [] }
def progC : Bytes := mk 256 [(56, 4, 192), (60, 4, 1), (192, 4, 7)]
/-- A program with one copy of 64 bytes from the start of the paddock's HBM to its second kilobyte; the device that carries it out. -/
def progCp : Bytes := mk 256 [(48, 4, 128), (52, 4, 1), (128, 8, 5 * 2 ^ 60), (136, 8, 5 * 2 ^ 60 + 1024), (144, 8, 64)]
def aCopy : CopyRun := { inv := 0, entry := 0, desc := 0, cores := [0], prime := false }
/-- A device on which invocation 0 runs and these bytes stand at the start of its HBM. -/
def selDev (l : List (Nat × Nat × Nat)) : Dev := (running prog invP).store (memKey 1 0) (mk 64 l)
def fiveAt : Nat := 5 * 2 ^ 60
def anOp : OutOp := { ref := { core := 0, id := 0, inv := 0, entry := 0, ctr := 0, result := 0, width := 0 }, p := { op := 0, src := 0, dst := 0 } }
/-- A device whose unified range begins with one region of 64 KiB pinned in HBM; a query record of one shard; a shard header of one slot. -/
def mapped (d : Dev) : Dev := let d := d.setFld F.MEM_CTRL_EN 1; { d with memt.regions := [(0, { base := 0, size := 65536, tiers := 1 })] }
def queryRec : Bytes := mkC 64 28 [(1, 1, 1), (2, 2, 1), (4, 2, 16), (8, 2, 1), (12, 2, 32)]
def shardRec : Bytes :=
  mkC 128 24 [(0, 4, 0x53485244), (5, 1, 2), (8, 4, 1), (12, 2, 64), (14, 2, 32), (16, 1, 16), (19, 1, 1), (20, 2, 16), (32, 4, 0xFFFFFFFF),
    (36, 4, 0xFFFFFFFF), (40, 4, 0xFFFFFFFF), (44, 4, 0xFFFFFFFF), (56, 8, 0x1000), (64, 8, 0x2000), (72, 8, 0x3000), (96, 8, 0x4000)]
def aQuery : Query := { src := .host { ring := 0, opcode := 0, tag := 0, quiet := false } 0, desc := [], tenant := 0, qbeat := 0, issued := 0, timeout := 0, vec := [], code := [], subs := [] }
def aShardQuery : ShardQuery := { h := { src := 0, epoch := 0, roleEpoch := 0 }, qid := 0, index := 0, shard := 0, k := 0, ef := 0, rerank := 0, maxExpand := 0, filtA := 0, filtB := 0, dim := 32, vec := [], code := [0], qbeat := 0, tenant := 0, expires := 0 }
def delRec : Bytes := mk 48 [(0, 1, 2), (4, 4, 1)]
/-- A region record of 64 KiB for HBM and host, its removal, and a device with regions and units of its unified range as given. -/
def regRec : Bytes := mkC 64 4 [(0, 2, 1), (2, 1, 3), (16, 8, 65536)]
def regDrop : Bytes := mkC 64 4 [(0, 2, 1), (3, 1, 4)]
def aRegion : MemRegion := { base := 0, size := 65536, tiers := 7, lba := some 0 }
def hayRegion : MemRegion := { base := 0, size := 65536, tiers := 5, lba := some 0 }
def range (d : Dev) (r : MemRegion) (x : MUnit) : Dev :=
  let d := d.setFld F.MEM_CTRL_EN 1; { d with memt := { d.memt with regions := [(0, r)], units := [(0, x)] } }
/-- A prefetch entry of one unit needed at beat 0, one needed at beat 5, one that evicts at a beat, and a device whose invocation 0 has it. -/
def pfNow : Bytes := mk 32 [(16, 8, 65536)]
def pfLater : Bytes := mk 32 [(0, 4, 5)]
def pfEvict (at_ : Nat) : Bytes := mk 32 [(16, 8, 65536), (24, 1, 1), (28, 4, at_)]
def withPf (d : Dev) (e : Bytes) : Dev := { d with sep := { d.sep with pads := [(1, { pf := [(0, [e])] })], invs := [(0, invP)] } }
/-- A flash of eight large blocks on target 0, an anchor of it, a unit written from a region and being programmed, and a device whose
hayloft is ready with these blocks, write points and writes. -/
def hayGeom : HayGeom := { luns := 4, planes := 8, cell := 1, pages := 4096, blocks := 8 }
def twoGeom : HayGeom := { luns := 1, planes := 2, cell := 1, pages := 16, blocks := 2 }
def anAnchor : HAnchor := { seq := 1, dir := [], blocks := [], replay := 0, geom := hayGeom, targets := [0], units := 1, ring := 1 }
def aWrite : HayWrite := { lba := 0, cells := [], owner := .unit 0 }
def aProg : HayProg := { ppa := 0, tag := { kind := 0, key := 0, seq := 1, src := 0 }, cells := [], owner := some (.unit 0) }
def hayUp (d : Dev) (bs : Tbl HBlk) (ps : Tbl WPoint) (q : List HayWrite) : Dev :=
  let d := d.setFld F.HAY_CAP_UNITS 1
  { d with hay := { d.hay with state := .ready, geom := hayGeom, accepted := [0], blocks := bs, points := ps, queue := q, media := { anchor := some anAnchor } } }
/-- A device whose hayloft awaits HAY_FORMAT. -/
def hayBlank : Dev := let d := (hayUp rup [] [] []).setFld F.HAY_JRN_BLOCKS 1; { d with hay := { d.hay with state := .blank } }
theorem hayBlank_room (m : Nat) (h : m ≤ 2) : hayBlank.fld F.HAY_CAP_UNITS ≤
    ({ (hayBlank.hay.erased [] (hayBlank.fld F.HAY_JRN_BLOCKS)).reserve m with jrn := [] } : Hay).good * hayBlank.hay.geom.native * 119 / 128 := by
  have h3 : m = 0 ∨ m = 1 ∨ m = 2 := by omega
  rcases h3 with rfl | rfl | rfl <;> decide +kernel
theorem ckptRoom_le (h : Hay) (n k : Nat)
    (hk : 2 * ceilDiv (8 * ceilDiv n 512 + 4096 * (h.allBlocks.length + 1)) (4096 * max 1 (h.geom.cap true)) ≤ k) : h.ckptRoom n ≤ k :=
  Nat.le_trans (Nat.min_le_right _ _) hk
theorem formatted_eq (h : Hay) (l : List Nat) (r n : Nat) :
    h.formatted l r n = { (h.erased l r).reserve ((h.erased l r).ckptRoom n) with jrn := [] } := rfl
theorem hayBlank_fits : hayBlank.fld F.HAY_CAP_UNITS ≤
    (hayBlank.hay.formatted [] (hayBlank.fld F.HAY_JRN_BLOCKS) (hayBlank.fld F.HAY_CAP_UNITS)).good * hayBlank.hay.geom.native * 119 / 128 := by
  rw [formatted_eq]
  exact hayBlank_room _ (ckptRoom_le _ _ _ (by decide +kernel))
/-- A shadow table with the records of n stalls of device 0, none of them stall 0. -/
def shadowed (n : Nat) : Dev := { up with stl.shadow := (List.range n).map fun k => (k + 1, {}) }
theorem shadowed_length (n : Nat) : (shadowed n).stl.shadow.length = n := by simp [shadowed]
theorem no_key_zero {α : Type} (v : α) (l : List Nat) : Tbl.at? (l.map fun k => (k + 1, v)) 0 = none := by
  induction l with
  | nil => rfl
  | cons a l ih => simp [Tbl.at?, ih]
theorem shadowed_none (n : Nat) : Tbl.at? (shadowed n).stl.shadow 0 = none := no_key_zero _ _
/-- A part with port 0 up to neighbour 1 on eight lanes, a route to device 1 by it, a packet, and a region of 4 KiB that gives no right. -/
def link (d : Dev) : Dev := d.onAzPort 0 fun q => { q with state := 2, lanes := 255, neighbour := 1 }
def routed (d : Dev) : Dev := let d := link d; { d with fab.routes := [(1, [0])] }
def aPkt : Packet := { op := 0, src := 0, dst := 0 }
def anEg : EgPkt := { p := { aPkt with dst := 1 }, since := 0 }
def aFabRegion : FabRegion := { base := 0, size := 4096, key := 0, tenant := 0, perm := 0, jbase := 0 }
/-- A packet that the home takes at once. -/
theorem inOrder_of (d : Dev) (port : Nat) (p : Packet) (r : RecvStream)
    (h : port < 16 ∧ (d.azPort port).up = true ∧ p.dst = d.me ∧ p.cls < 8 ∧ d.flag F.SHP_CTRL_EN = false ∧ p.rsv = false ∧
      (p.paddock = 0 ∨ p.op = 0x20 ∨ 0x80 ≤ p.op)) (hc : d.calm)
    (hr : d.recv? (streamKey p.src p.cls) = some r ∧ (p.sync = true ∨ r.e = p.ssn)) : d.inOrder port p :=
  ⟨h.1, h.2.1, h.2.2.1, h.2.2.2.1, hc, h.2.2.2.2.1, h.2.2.2.2.2.1, h.2.2.2.2.2.2, r, hr⟩
/-- A home with a stream from device 1 and region 0, 4 KiB of HBM with every right; a packet to it; one of a round of paddock 1. -/
def home : Dev :=
  let d := (routed up).setFld F.AZF_CTRL_EN 1
  { d with fab := { d.fab with recvs := [(streamKey 1 0, { e := 0 })], regions := [(0, { base := 2 ^ 48, size := 4096, key := 0, tenant := 0, perm := 7, jbase := 0 })] } }
def pktOp (op : Nat) (body : Bytes) : Packet := { op := op, src := 1, dst := 0, len := 4, body := body }
def four : Bytes := [1, 2, 3, 4]
def pktOrd : Packet := { pktOp 2 four with paddock := 1, issue := 5, ord := 256 }
def aRound : Round := { paddock := 1, issue := 5, members := [] }
def heldOp (rank : Nat) : HeldOp := { p := pktOrd, rank := rank, key := memKey 1 0, records := 0 }
def aStoreOp : OutOp := { ref := { core := 0, id := 0, inv := 0, entry := 0, ctr := 0, result := 0, width := 0 }, p := { op := 2, src := 0, dst := 1 } }
/-- The operation a core's store to region 0 of device 1 asks for, and the core's device. -/
def storeReq : OpReq := { op := 2, addr := 0, dst := some 1, rkey := 0, ctr := 0, len := 4, body := four }
def coreUp : Dev :=
  let d := ((running (progE 0 0) invP).setCore 0 { job := some { inv := 0, entry := 0, task := 0 } }).onAzPort 0 fun q => { q with state := 2, lanes := 255, neighbour := 1 }
  { d with fab.routes := [(1, [0])] }
/-- The header of an empty block. -/
def emptyBlk : Bytes := let b := mk 12 [(5, 1, 1)]; b ++ leBytes 2 (crc32c b % 2 ^ 16) ++ [0, 0]
/-- A queue pair with device 1 in domain 0, which has region 0; records that make them; a work request; a packet of the pair. -/
def aQp : Qp :=
  { pd := 0, remote := 1, rqpn := 0, sqRing := 0, cqRing := 0, rcqRing := 0, cls := 0, rwEn := true, rdEn := true, atEn := true, timerLog2 := 8
    retryMax := 2, spsn0 := 0, epsn0 := 0, rqBase := 0, rqLog2 := 0, rnrMax := 2, rnrLog2 := 8, winLog2 := 2, maxAtomic := 1, sqDepth := 4 }
def pdRec : Bytes := mkC 16 8 []
def qpRec : Bytes := mkC 64 40 [(4, 2, 1), (15, 1, 40), (33, 1, 65), (35, 1, 1), (36, 2, 1)]
def aWqe : Wqe :=
  { cmd := { ring := 0, opcode := 0, tag := 0, quiet := false }, op := 1, flags := 0, len := 0, laddr := 0, raddr := 0, rkey := 0, imm := 0, opnd := 0
    swap := 0, bulk := none, psn := 0, n := 1, sent := 1 }
def qpHome (q : Qp) : Dev :=
  let d := home.setFld F.QPX_CTRL_EN 1; { d with qpx := { d.qpx with pds := [(0, { tenant := 0, job := 0, regs := [0] })], qps := [(0, q)] } }
def qpPkt (n op : Nat) : Packet := pktOp 0x20 (mk n [(0, 1, op)])
/-- The device with a work queue: a ring that posts to the pair. -/
def qpPoster (q : Qp) : Dev :=
  let d := (routed rup).setFld F.QPX_CTRL_EN 1; { d with qpx := { d.qpx with pds := [(0, { tenant := 0, job := 0, regs := [0] })], qps := [(0, q)] } }
/-- A pannier's header, an empty region of page 0 and shard 0, what a holder and a puller know of it, a pull with one request, a notice. -/
def panRec (kind n epoch : Nat) : Bytes := mkC 64 48 [(0, 4, 0x50414E4E), (4, 1, kind), (6, 1, n), (16, 4, epoch)]
def aPanRegion : PanRegion := { page := 0, shard := 0, fill := 0, cmp := false, crc := 0, size := 0, blocksOk := true, plainCrc := 0, body := [] }
def aHeld : HeldRegion := { home := 0, stall := 0, page := 0, shard := 0, desc := {}, size := 0, paddock := none, frames := [], poison := false, body := [] }
def aReq : PullReq := { pullId := 0, src := 0, pageFirst := 0, pageN := 1, shardFirst := 0, shardN := 1, eager := false, fromWork := false, seqs := [], lastSeen := false, progress := 0, resent := false, retries := 0 }
def aNotice : ShipNotice := { h := { src := 0, epoch := 0, roleEpoch := 0 }, stall := 0, home := 0, paddock := 1, record := [], kvEnd := 0, pageFirst := 0, prev := none, parks := [] }
def aPull : Pull := { state := .main, notice := some aNotice, reqs := [aReq] }
def aHdr : RoleHdr := { src := 0, epoch := 0, roleEpoch := 0 }
def aRegionUse : Region := { base := 0, size := 65536, key := 0, use := .page, page := 0, shard := 0 }
def panUp : Dev := (up.setFld F.PAN_CTRL_EN 1).setFld F.MEM_POOL_GRP_MASK 1
def parkAckTo (dev status : Nat) : Bytes := mk 32 [(4, 2, dev), (6, 2, dev), (14, 2, status)]
/-- A vote on the loss of device 1, and one with ballots; a part with a silent neighbour; a device with every stall taken. -/
def aVote (subject : Nat) (l : List Nat) : Vote :=
  { vkind := 1, subject := subject, callBeat := 0, caller := 0, ballots := l.map fun b => { sender := 2, ballot := b, cast := 0 } }
def voting (v : Vote) : Dev := { up with cad.count := 2048, hlt.votes := [v] }
def hearing : Dev := (up.onAzPort 0 fun q => { q with trained := some 0, neighbour := 1 }).setFld F.HLT_CTRL_EN 1
def tableOf (n : Nat) : Dev := { up with stl.stalls := (List.range n).map fun i => (i, aStall) }
theorem lowestFree_none (t : List Nat) : ∀ n k, (∀ i, k ≤ i → i < k + n → i ∈ t) → lowestFree t n k = none := by
  intro n
  induction n with
  | zero => intro k _; rfl
  | succ n ih =>
    intro k h
    have h1 : t.contains k = true := by simpa using h k (Nat.le_refl k) (by omega)
    simp only [lowestFree, h1, if_true]
    exact ih (k + 1) fun i a b => h i (by omega) (by omega)
theorem tableOf_none (n : Nat) (h : n = 131072) : (tableOf n).lowestStall = none := by
  have hk : Tbl.keys (tableOf n).stl.stalls = List.range n := by simp [tableOf, Tbl.keys, Function.comp_def]
  have hl : (tableOf n).stl.stalls.length = n := by simp [tableOf]
  unfold Dev.lowestStall
  rw [hk, hl]
  exact lowestFree_none _ _ _ fun i _ h => by simp at h ⊢; omega
theorem tableOf_free (n x : Nat) (h : n = 131072) : (tableOf n).freeStalls ≤ x := by
  have hl : (tableOf n).stl.stalls.length = n := by simp [tableOf]
  unfold Dev.freeStalls; omega

theorem witness_AStepRunsTheFrontCommand :
    (∃ (s : State), ∃ (c : Instr), ∃ (rest : List Instr), (s.pending = c :: rest)) ∧
    (∃ (s : State), (s.pending = []) ∧ (s.dev.counting = true) ∧ (s.dev.cad.skip = false)) ∧
    (∃ (s : State), (s.pending = []) ∧ (s.dev.counting = true) ∧ (s.dev.cad.skip = true)) ∧
    (∃ (s : State), (s.pending = []) ∧ (s.dev.counting = false)) :=
  ⟨⟨{ dev := up, pending := [.powerLoss] }, .powerLoss, [], by decide +kernel⟩,
   ⟨blk (let d := up; let d := { d with cad.state := .locked }; d), by decide +kernel⟩,
   ⟨blk (let d := up; let d := { d with cad.skip := true }; let d := { d with cad.state := .locked }; d), by decide +kernel⟩,
   ⟨blk (up), by decide +kernel⟩⟩

theorem witness_EveryCommandAnswersANextState : ∃ (s : State), ∃ (c : Instr), (s.dev.alive = false) ∧ (needsService c = true) :=
  ⟨blk (let d := up; let d := { d with pwr.state := .off }; d), .healthDecay, by decide +kernel⟩

theorem witness_EveryStepKeepsTheCanonicalForm :
    (∃ (s : State), ∃ (t : State), (s.Canonical) ∧ (step s = .next t)) ∧
    (∃ (s : State), ∃ (t : State), (s.Canonical) ∧ (t.Canonical) ∧ ((∀ a, s.dev.byte a = t.dev.byte a))) :=
  ⟨⟨{ dev := up.store 5 [7], pending := [.powerLoss] }, (let d := up.store 5 [7]; { dev := { d.cleared with pwr := { d.cleared.pwr with state := .off } }, pending := [] }), by unfold State.Canonical; decide +kernel, (rfl)⟩,
   ⟨blk up, blk rup, by unfold State.Canonical; decide +kernel, by unfold State.Canonical; decide +kernel, (fun _ => rfl)⟩⟩

theorem witness_ResetsKeepFusesAndFlash : ∃ (s : State), ∃ (c : Instr), ∃ (cause : Fld), (s.dev.pwr.state ≠ .off) ∧ (s.dev.pwr.state ≠ .trip) ∧ ((c = .wrstNLow ∧ cause = F.PWR_RST_CAUSE_WARM_PIN ∨ c = .firmwareWatchdog ∧ cause = F.PWR_RST_CAUSE_WATCHDOG ∨ c = .pwrResetWarm ∧ cause = F.PWR_RST_CAUSE_WARM_REG ∧ s.dev.alive = true ∧ (s.dev.serving = .all ∨ s.dev.serving = .held))) :=
  ⟨blk (up), .wrstNLow, F.PWR_RST_CAUSE_WARM_PIN, by decide +kernel⟩

theorem witness_FirmwareBootsAndReports :
    (∃ (s : State), ∃ (a : SlotRead), ∃ (b : SlotRead), ∃ (rb : Nat), (s.dev.alive = true) ∧ (s.dev.pwr.state = .start) ∧ (s.dev.pwr.fwRunning = false) ∧ (s.dev.pwr.recovery = false) ∧ (s.dev.pwr.bootMode = 0) ∧ (s.dev.pwr.testEn = false) ∧ (s.dev.pwr.warmRetained = false) ∧ (headerCheck s.dev.pwr.fuses a = none) ∧ (bodyCheck a = none) ∧ (headerCheck s.dev.pwr.fuses b = some rb)) ∧
    (∃ (s : State), ∃ (a : SlotRead), ∃ (b : SlotRead), ∃ (ra : Nat), ∃ (rb : Nat), (s.dev.alive = true) ∧ (s.dev.pwr.state = .start) ∧ (s.dev.pwr.fwRunning = false) ∧ (s.dev.pwr.recovery = false) ∧ (s.dev.pwr.bootMode = 0) ∧ (s.dev.pwr.testEn = false) ∧ (s.dev.pwr.warmRetained = false) ∧ (headerCheck s.dev.pwr.fuses a = some ra) ∧ (headerCheck s.dev.pwr.fuses b = some rb)) ∧
    (∃ (s : State), (s.dev.alive = true) ∧ (s.dev.pwr.state = .start) ∧ (s.dev.pwr.fwRunning = false) ∧ (s.dev.pwr.recovery = false) ∧ (s.dev.pwr.bootMode = 1) ∧ (s.dev.pwr.testEn = false)) ∧
    (∃ (s : State), ∃ (m : Measured), (s.dev.alive = true) ∧ (s.dev.pwr.recovery = true) ∧ (s.dev.pwr.testEn = false) ∧ (bodyCheck { hdr := s.dev.windowBytes 512, m := m } = none)) ∧
    (∃ (s : State), ∃ (m : Measured), ∃ r, (s.dev.alive = true) ∧ (s.dev.pwr.recovery = true) ∧ (s.dev.pwr.testEn = false) ∧ (bodyCheck { hdr := s.dev.windowBytes 512, m := m } = some r)) ∧
    (∃ (s : State), ∃ (m : Measured), (s.dev.alive = true) ∧ (s.dev.pwr.fwRunning = true) ∧ (headerCheck s.dev.pwr.fuses { hdr := s.dev.windowBytes 512, m := m } = none) ∧ (bodyCheck { hdr := s.dev.windowBytes 512, m := m } = none)) ∧
    (∃ (s : State), (s.dev.alive = true) ∧ (s.dev.pwr.fwRunning = true) ∧ (s.dev.pwr.readyFw = false) ∧ (s.dev.pwr.fwSlotEvt = false) ∧ (s.dev.pwr.tripEvt = false)) ∧
    (∃ (s : State), (s.dev.alive = true) ∧ (s.dev.pwr.state = .start) ∧ (s.dev.pwr.readyFw = true) ∧ (s.dev.pwr.testEn = false) ∧ (s.dev.pwr.engOk = true) ∧ (s.dev.pwr.hbmOk = true) ∧ (s.dev.pwr.azfOk = true) ∧ (s.dev.cadOk = true)) :=
  ⟨⟨blk (let d := up; let d := { d with pwr.state := .start }; let d := { d with pwr.fuses := fwFuses }; d), { hdr := fwHdr, m := fwGood }, slotNone, 7, by decide +kernel⟩,
   ⟨blk (let d := up; let d := { d with pwr.state := .start }; d), slotNone, slotNone, 7, 7, by decide +kernel⟩,
   ⟨blk (let d := up; let d := { d with pwr.state := .start }; let d := { d with pwr.bootMode := 1 }; d), by decide +kernel⟩,
   ⟨blk (let d := up; let d := { d with pwr.recovery := true }; d), fwGood, by decide +kernel⟩,
   ⟨blk (let d := up; let d := { d with pwr.recovery := true }; d), {}, 5, by decide +kernel⟩,
   ⟨blk (let d := up; let d := { d with pwr.fwRunning := true }; let d := { d with pwr.fuses := fwFuses }; let d := { d with pwr.window := [(0, BitVec.ofNat 64 (0x57465956 + 2 ^ 32)), (2, 4096)] }; d), fwGood, by decide +kernel⟩,
   ⟨blk (let d := up; let d := { d with pwr.fwRunning := true }; let d := { d with pwr.readyFw := false }; d), by decide +kernel⟩,
   ⟨blk (let d := up; let d := { d with pwr.state := .start }; let d := { d with pwr.readyFw := true }; let d := { d with pwr.engOk := true }; let d := { d with pwr.hbmOk := true }; let d := { d with pwr.azfOk := true }; let d := { d with cad.state := .locked }; d), by decide +kernel⟩⟩

theorem witness_StabledEntersAndWakes :
    (∃ (s : State), ∃ (v : Nat), (s.dev.alive = true) ∧ (s.dev.serving = .all) ∧ (v % 8 = 4) ∧ ((s.dev.pwr.state = .run ∨ s.dev.pwr.state = .idle)) ∧ (s.dev.mayStable = true)) ∧
    (∃ (s : State), ∃ (v : Nat), (s.dev.alive = true) ∧ (s.dev.serving = .all) ∧ (v % 8 = 4) ∧ ((s.dev.pwr.state = .run ∨ s.dev.pwr.state = .idle)) ∧ (s.dev.mayStable = false)) ∧
    (∃ (s : State), (s.dev.alive = true) ∧ (s.dev.pwr.state = .stabled)) ∧
    (∃ (s : State), (s.dev.alive = true) ∧ (s.dev.pwr.state = .entering) ∧ (s.dev.quiet = true)) ∧
    (∃ (s : State), (s.dev.alive = true) ∧ (s.dev.pwr.state = .waking)) ∧
    (∃ (s : State), (s.dev.alive = true) ∧ (s.dev.pwr.state = .waking) ∧ (s.dev.therm.wakeBeat + 200000 ≤ s.dev.now)) ∧
    (∃ (s : State), ∃ (c : HostCmd), (s.dev.alive = true) ∧ (s.dev.pwr.state = .stabled) ∧ (s.dev.flag F.HIF_CTRL_EN = true) ∧ (c.ring = 0) ∧ (s.dev.ringReady 0 = true) ∧ (c.opcode ≠ 0x11)) :=
  ⟨⟨blk (let d := up; let d := { d with pwr.state := .run }; d), 4, by decide +kernel⟩,
   ⟨blk (let d := up; let d := { d with pwr.state := .run }; let d := { d with comp.role := 1 }; d), 4, by decide +kernel⟩,
   ⟨blk (let d := up; let d := { d with pwr.state := .stabled }; d), by decide +kernel⟩,
   ⟨blk (let d := up; let d := { d with pwr.state := .entering }; d), by decide +kernel⟩,
   ⟨blk (let d := up; let d := { d with pwr.state := .waking }; d), by decide +kernel⟩,
   ⟨blk (let d := up; let d := { d with pwr.state := .waking }; let d := { d with cad.count := 200000 }; d), by decide +kernel⟩,
   ⟨blk (let d := rup; let d := { d with pwr.state := .stabled }; let d := d.setFld F.HIF_CTRL_EN 1; d), { cmd with opcode := 0x12 }, by decide +kernel⟩⟩

theorem witness_ClocksFollowTheRules :
    (∃ (s : State), (s.dev.alive = true)) ∧
    (∃ (s : State), ∃ (avg : Nat), (s.dev.alive = true) ∧ (s.dev.fld F.PWR_CAP_WATTS < avg) ∧ (s.dev.therm.capped = true)) ∧
    (∃ (s : State), ∃ (avg : Nat), (s.dev.alive = true) ∧ (s.dev.fld F.PWR_CAP_WATTS < avg) ∧ (s.dev.therm.capped = false)) ∧
    (∃ (s : State), ∃ (avg : Nat), (s.dev.alive = true) ∧ (avg ≤ s.dev.fld F.PWR_CAP_WATTS)) ∧
    (∃ (s : State), ∃ (l : List (List (Option Nat))), (s.dev.alive = true) ∧ (l.any tripping = true)) ∧
    (∃ (s : State), ∃ (l : List (List (Option Nat))), (s.dev.alive = true) ∧ (l.any tripping = false) ∧ ((∀ i, i < 5 → ((l.map hottest).getD i (0, 0)).1 ≤ 100))) ∧
    (∃ (s : State), (s.dev.alive = true)) ∧
    (∃ (s : State), ∃ (rail : Nat), (s.dev.alive = true) ∧ (s.dev.therm.avsFails.getD rail 0 = 2)) ∧
    (∃ (s : State), ∃ (die : Nat), (s.dev.alive = true) ∧ (die < 4) ∧ (s.dev.dieGated die = false) ∧ (s.dev.dieWorks die = false) ∧ ((∀ b ∈ s.dev.dueOn die, s.dev.now + 1024 < b))) ∧
    (∃ (s : State), ∃ (die : Nat), (s.dev.alive = true) ∧ (die < 4) ∧ (s.dev.dieGated die = true) ∧ ((∃ b ∈ s.dev.dueOn die, b ≤ s.dev.now + 256))) ∧
    (∃ (s : State), ∃ (ch : Nat), (s.dev.alive = true) ∧ (ch < 256) ∧ (s.dev.therm.hbmSelfRefresh = false) ∧ (Tbl.rd (fun _ => 0) s.dev.memt.refresh ch ≤ s.dev.now)) :=
  ⟨⟨blk (up), by decide +kernel⟩,
   ⟨blk (let d := up; let d := { d with therm.capped := true }; d), 100000, by decide +kernel⟩,
   ⟨blk (up), 100000, by decide +kernel⟩,
   ⟨blk (up), 0, by decide +kernel⟩,
   ⟨blk (up), [[some 115]], by decide +kernel⟩,
   ⟨blk (up), {}, by decide +kernel⟩,
   ⟨blk (up), by decide +kernel⟩,
   ⟨blk (let d := up; let d := { d with therm.avsFails := [2] }; d), 0, by decide +kernel⟩,
   ⟨blk (up), 0, by decide +kernel⟩,
   ⟨blk (let d := up; let d := { d with comp.cur := oneMap }; let d := { d with kv.execs := [(0, { paddock := 1, started := true })] }; let d := d.setGate 0 true; d), 0, by decide +kernel⟩,
   ⟨blk (up), 0, by decide +kernel⟩⟩

theorem witness_AccessesReachRegisters :
    (∃ (s : State), (s.dev.alive = true) ∧ (s.dev.serving = .all)) ∧
    (∃ (s : State), (s.dev.alive = true) ∧ (s.dev.serving = .all)) ∧
    (∃ (s : State), (s.dev.alive = true) ∧ (s.dev.serving = .all)) ∧
    (∃ (s : State), ∃ (off : Nat), (s.dev.alive = true) ∧ (s.dev.serving = .all) ∧ (off % 8 = 0) ∧ (regAt off = none) ∧ (inWindow off = false)) ∧
    (∃ (s : State), ∃ (off : Nat), (s.dev.alive = true) ∧ (s.dev.serving = .all) ∧ (off % 8 = 0) ∧ (regAt off = none)) ∧
    (∃ (s : State), (s.dev.alive = true) ∧ (s.dev.serving = .all) ∧ (s.dev.flag F.AZF_CTRL_EN = true)) ∧
    (∃ (s : State), (s.dev.alive = true) ∧ (s.dev.serving = .all) ∧ (s.dev.flag F.DBG_CTRL_JTAG_RW = true)) :=
  ⟨⟨blk (up), by decide +kernel⟩,
   ⟨blk (up), by decide +kernel⟩,
   ⟨blk (up), by decide +kernel⟩,
   ⟨blk (up), 0xFFFF8, by decide +kernel⟩,
   ⟨blk (up), 0xFFFF8, by decide +kernel⟩,
   ⟨blk (let d := up; let d := d.setFld F.AZF_CTRL_EN 1; d), by decide +kernel⟩,
   ⟨blk (let d := up; let d := d.setFld F.DBG_CTRL_JTAG_RW 1; d), by decide +kernel⟩⟩

theorem witness_TapInstructionsTakeEffect :
    (∃ (s : State), ∃ (c : Instr), ∃ (ir : Nat), ((c = .extest ∧ ir = 0x00 ∨ c = .samplePreload ∧ ir = 0x01 ∨ c = .clamp ∧ ir = 0x03 ∨ c = .highz ∧ ir = 0x04 ∨ c = .extestPulse ∧ ir = 0x08 ∨ c = .extestTrain ∧ ir = 0x09 ∨ c = .scan ∧ ir = 0x30 ∧ s.dev.pwr.testEn = true))) ∧
    (∃ (s : State), ∃ (c : Instr), ∃ (ir : Nat), ((c = .idcode ∧ ir = 0x02 ∨ (∃ k, c = .bypass k) ∧ ir = 0xFF ∨ c = .scan ∧ ir = 0xFF ∧ s.dev.pwr.testEn = false))) ∧
    (∃ (s : State), ∃ (cmd : Nat), ∃ (b : Bytes), (s.dev.pwr.state ≠ .off) ∧ (s.dev.smbus s.dev.hbState cmd = some b)) ∧
    (∃ (cmd : Nat), (cmd = 0 ∨ 5 < cmd)) :=
  ⟨⟨blk (up), .extest, 0x00, by decide +kernel⟩,
   ⟨blk (up), .idcode, 0x02, Or.inl ⟨rfl, rfl⟩⟩,
   ⟨blk (up), 4, [0, 0], by decide +kernel⟩,
   ⟨0, by decide +kernel⟩⟩

theorem witness_RingsDoorbellsAndInterrupts :
    (∃ (s : State), ∃ (v : Nat), (s.dev.alive = true) ∧ (s.dev.serving = .all) ∧ (s.dev.flag F.HIF_CTRL_EN = false) ∧ (bit v 0 = true) ∧ ((s.dev.cplRing 0).waiting = [])) ∧
    (∃ (s : State), ∃ (r : Nat), ∃ (p : Nat), (s.dev.alive = true) ∧ (s.dev.flag F.HIF_CTRL_EN = true) ∧ ((s.dev.pwr.state = .run ∨ s.dev.pwr.state = .idle)) ∧ (r < 64) ∧ (p < 2 ^ 32) ∧ ((s.dev.cmdRing r).en = true) ∧ ((p + 2 ^ 32 - (s.dev.cmdRing r).cons) % 2 ^ 32 ≤ 2 ^ (s.dev.cmdRing r).log2)) ∧
    (∃ (s : State), ∃ (r : Nat), ∃ (p : PartialReq), (s.dev.alive = true) ∧ (Tbl.at? s.dev.hif.partials r = some p) ∧ (p.since + 2 ^ 16 ≤ s.dev.now)) ∧
    (∃ (s : State), ∃ (r : Nat), ∃ (cons : Nat), ∃ (c : Cpl), (s.dev.alive = true) ∧ ((s.dev.cplRing r).en = true) ∧ ((s.dev.cplRing r).waiting = [(c, none)]) ∧ (s.dev.hlt.events = []) ∧ (s.dev.hif.dmaFail = false) ∧ (((s.dev.cplRing r).prod + 2 ^ 32 - cons % 2 ^ 32) % 2 ^ 32 < 2 ^ (s.dev.cplRing r).log2)) ∧
    (∃ (s : State), (s.dev.alive = true)) ∧
    (∃ (s : State), ∃ (r : Nat), (s.dev.alive = true) ∧ ((s.dev.cplRing r).due s.dev.now = true) ∧ (s.dev.hif.dmaFail = false)) ∧
    (∃ (s : State), (s.dev.alive = true) ∧ (s.dev.hif.dmaFail = false)) :=
  ⟨⟨blk (up), 0 + 2 ^ 0, by decide +kernel⟩,
   ⟨blk (let d := rup; let d := d.setFld F.HIF_CTRL_EN 1; let d := { d with pwr.state := .run }; d), 0, 1, by decide +kernel⟩,
   ⟨blk (let d := up; let d := { d with hif.partials := [((0), ({ items := [], since := 0 } : PartialReq))] }; let d := { d with cad.count := 2 ^ 16 }; d), 0, { items := [], since := 0 }, by decide +kernel⟩,
   ⟨blk (let d := up; let d := { d with hif.cpl := [(0, { en := true, log2 := 4, waiting := [(.command 0 0 0 0 [], none)] })] }; d), 0, 0, .command 0 0 0 0 [], by decide +kernel⟩,
   ⟨blk (up), by decide +kernel⟩,
   ⟨blk (let d := up; let d := { d with hif.cpl := [(0, { en := true, intEn := true, unsignalled := 1 })] }; d), 0, by decide +kernel⟩,
   ⟨blk (up), by decide +kernel⟩⟩

theorem witness_RingCommandsAreTaken :
    (∃ (s : State), ∃ (c : HostCmd), (s.dev.alive = true) ∧ (s.dev.takes { rsvOk := ringRsv } c) ∧ (bit c.a0 15 = false) ∧ (bit c.a0 14 = false) ∧ (ringCheck (s.dev.taken c) c = none)) ∧
    (∃ (s : State), ∃ (c : HostCmd), (s.dev.alive = true) ∧ (s.dev.takes { rsvOk := ringRsv } c) ∧ (bit c.a0 15 = true) ∧ (bit c.a0 14 = false) ∧ (bits c.a0 13 0 ≠ 0) ∧ ((s.dev.cmdRing (bits c.a0 13 0)).en = true) ∧ (Tbl.at? s.dev.hif.partials (bits c.a0 13 0) = none)) ∧
    (∃ (s : State), ∃ (c : HostCmd), (s.dev.alive = true) ∧ (s.dev.takes { rsvOk := ringRsv } c) ∧ (bit c.a0 15 = false) ∧ (bit c.a0 14 = false) ∧ (ringCheck (s.dev.taken c) c = none) ∧ (bit c.cflags 1 = false) ∧ (s.dev.hif.dmaFail = false) ∧ ((s.dev.cplRing (s.dev.cmdRing c.ring).cpl).en = true) ∧ ((s.dev.cplRing (s.dev.cmdRing c.ring).cpl).waiting = []) ∧ ((s.dev.cplRing (s.dev.cmdRing c.ring).cpl).room = true)) ∧
    (∃ (s : State), ∃ (c : HostCmd), ∃ (code : Nat), (s.dev.alive = true) ∧ (s.dev.consuming = true) ∧ (s.dev.nextRing = some c.ring) ∧ (bit c.cflags 0 = false) ∧ (Tbl.at? s.dev.hif.partials c.ring = none) ∧ (check484 { rsvOk := ringRsv } c (s.dev.taken c) = some code)) :=
  ⟨⟨blk (rup), { cmd with a0 := 1 + 2 ^ 18, haddr := 2 ^ 20 }, by decide +kernel, by unfold Dev.takes; decide +kernel, by decide +kernel, by decide +kernel, by decide +kernel⟩,
   ⟨blk (let d := rup; let d := { d with hif.cmd := d.hif.cmd ++ [(1, { en := true })] }; d), { cmd with a0 := 1 + 2 ^ 15 }, by decide +kernel, by unfold Dev.takes; decide +kernel, by decide +kernel, by decide +kernel, by decide +kernel, by decide +kernel, by decide +kernel⟩,
   ⟨blk (rup), { cmd with a0 := 1 + 2 ^ 18, haddr := 2 ^ 20 }, by decide +kernel, by unfold Dev.takes; decide +kernel, by decide +kernel, by decide +kernel, by decide +kernel, by decide +kernel, by decide +kernel, by decide +kernel, by decide +kernel, by decide +kernel⟩,
   ⟨blk (rup), { cmd with opcode := 0xFF }, C.HIF_OPCODE, by decide +kernel⟩⟩

theorem witness_MapsTablesAndProgramsAreLoaded :
    (∃ (s : State), ∃ (c : HostCmd), ∃ (m : CompMap), (s.dev.alive = true) ∧ (s.dev.takes stageSpec c) ∧ ((s.dev.taken c).stageCheck c.data (2 ^ 16) = .inr (some m)) ∧ (s.dev.stl.stalls = []) ∧ (s.dev.memt.units = []) ∧ (s.dev.pan.held = [])) ∧
    (∃ (s : State), ∃ (c : HostCmd), (s.dev.alive = true) ∧ (s.dev.takes (recSpec 144 0 0) c) ∧ (tableOk c.data = true) ∧ (Tbl.at? s.dev.cmp (field c.data 0 1) = none)) ∧
    (∃ (s : State), ∃ (c : HostCmd), (s.dev.alive = true) ∧ (s.dev.takes { rsvOk := argMask true 0xFFFFF (2 ^ 64 - 1) 0 0, lenOk := fun c => c.hlen == field c.data 16 4 } c) ∧ (s.dev.sepCheck (c.a0 % 2 ^ 16) (bits c.a0 19 16) c.a1 c.data = none) ∧ (s.dev.slotImg (c.a0 % 2 ^ 16) (bits c.a0 19 16) = none)) ∧
    (∃ (s : State), ∃ (c : HostCmd), (s.dev.alive = true) ∧ (s.dev.takes (argSpec 0xFFFFF 0 0) c) ∧ (s.dev.slotBusy (c.a0 % 2 ^ 16) (bits c.a0 19 16) = false)) ∧
    (∃ (s : State), ∃ (c : HostCmd), (s.dev.alive = true) ∧ (s.dev.takes { shared := true, rsvOk := argMask true 0 0 0 0, lenOk := fun c => c.hlen == 64 } c) ∧ (s.dev.verdict (s.dev.hostInvHdr c) true = .process) ∧ (bit (field c.data 26 1) 0 = false) ∧ (s.dev.invCheck (field c.data 0 2) (field c.data 2 1 % 16) (field c.data 4 4) (invRecordOk c.data) = none)) ∧
    (∃ (s : State), ∃ (c : HostCmd), ∃ (core : Nat), (s.dev.alive = true) ∧ (s.dev.takes (argSpec 0x3FF 0 0) c) ∧ (bits c.a0 7 0 < 136) ∧ (core = bits c.a0 9 8 * 136 + bits c.a0 7 0) ∧ ((s.dev.core core).state = .failed) ∧ (s.dev.inAnyPaddock (pairClusters (pairOf core)) = false)) :=
  ⟨⟨blk (rup), { cmd with data := mapImg, hlen := 64 }, CompMap.read mapImg, by decide +kernel, by unfold Dev.takes; decide +kernel, by decide +kernel, by decide +kernel, by decide +kernel, by decide +kernel⟩,
   ⟨blk (rup), { cmd with data := codeTable, hlen := 144 }, by decide +kernel, by unfold Dev.takes; decide +kernel, by decide +kernel, by decide +kernel⟩,
   ⟨blk (let d := rup; let d := { d with comp.cur := oneMap }; d), { cmd with data := prog, hlen := 128, a0 := 1, a1 := 5 * 2 ^ 60 }, by decide +kernel, by unfold Dev.takes; decide +kernel, by decide +kernel, by decide +kernel⟩,
   ⟨blk (rup), cmd, by decide +kernel, by unfold Dev.takes; decide +kernel, by decide +kernel⟩,
   ⟨blk ((withProg rup prog)), { cmd with data := mk 64 [(0, 2, 1), (4, 4, imgCrc prog)], hlen := 64 }, by decide +kernel, by unfold Dev.takes; decide +kernel, by decide +kernel, by decide +kernel, by decide +kernel⟩,
   ⟨blk (let d := rup; let d := d.setCore (bits (cmd : HostCmd).a0 9 8 * 136 + bits (cmd : HostCmd).a0 7 0) { d.core (bits (cmd : HostCmd).a0 9 8 * 136 + bits (cmd : HostCmd).a0 7 0) with state := .failed }; d), cmd, bits (cmd : HostCmd).a0 9 8 * 136 + bits (cmd : HostCmd).a0 7 0, by decide +kernel, by unfold Dev.takes; decide +kernel, by decide +kernel, by decide +kernel, by decide +kernel, by decide +kernel⟩⟩

theorem witness_CadenceFollowsItsStates :
    (∃ (s : State), ∃ (v : Nat), (s.dev.alive = true) ∧ (s.dev.serving = .all) ∧ (bit v 0 = true)) ∧
    (∃ (s : State), (s.dev.alive = true) ∧ (s.dev.cad.state = .acquire) ∧ (s.dev.cad.arm = true)) ∧
    (∃ (s : State), (s.dev.alive = true) ∧ ((s.dev.cad.state = .locked ∨ s.dev.cad.state = .refonly)) ∧ ((s.dev.cad.count % 2 ^ 20 ≤ 2 ∨ 2 ^ 20 - 2 ≤ s.dev.cad.count % 2 ^ 20))) ∧
    (∃ (s : State), (s.dev.alive = true) ∧ (s.dev.cad.state = .refonly) ∧ (s.dev.cad.glitch = none) ∧ (2 < s.dev.cad.count % 2 ^ 20) ∧ (s.dev.cad.count % 2 ^ 20 < 2 ^ 20 - 2)) ∧
    (∃ (s : State), (s.dev.alive = true) ∧ (s.dev.cad.state = .locked) ∧ (s.dev.cad.absent = 0)) ∧
    (∃ (s : State), (s.dev.alive = true) ∧ (s.dev.cad.state = .locked) ∧ (1 ≤ s.dev.cad.absent)) ∧
    (∃ (s : State), (s.dev.alive = true) ∧ (s.dev.cad.state = .acquire)) ∧
    (∃ (s : State), (s.dev.alive = true) ∧ (s.dev.cad.state = .locked ∨ s.dev.cad.state = .refonly ∨ s.dev.cad.state = .slew) ∧ (s.dev.cad.nbrs = [])) ∧
    (∃ (s : State), (s.dev.alive = true)) ∧
    (∃ (s : State), ∃ (b : Nat), (s.dev.alive = true) ∧ (s.dev.cad.state = .follow) ∧ (s.dev.cad.noSrc = some b) ∧ (s.dev.cad.nbrs = []) ∧ (b + 2 ^ 12 ≤ s.dev.now)) ∧
    (∃ (s : State), (s.dev.alive = true) ∧ (s.dev.cad.nextSlew ≤ s.dev.cad.count) ∧ (0 < s.dev.cad.slew)) ∧
    (∃ (s : State), (s.dev.alive = true) ∧ (s.dev.cad.nextSlew ≤ s.dev.cad.count) ∧ (s.dev.cad.slew < 0)) ∧
    (∃ (s : State), (s.dev.alive = true) ∧ (s.dev.serving = .all) ∧ (s.dev.myMembers = []) ∧ (s.dev.comp.pending = none)) :=
  ⟨⟨blk (up), 0 + 2 ^ 0, by decide +kernel⟩,
   ⟨blk (let d := up; let d := { d with cad.state := .acquire }; let d := { d with cad.arm := true }; d), by decide +kernel⟩,
   ⟨blk (let d := up; let d := { d with cad.state := .locked }; d), by decide +kernel⟩,
   ⟨blk (let d := up; let d := { d with cad.state := .refonly }; let d := { d with cad.count := 3 }; d), by decide +kernel⟩,
   ⟨blk (let d := up; let d := { d with cad.state := .locked }; d), by decide +kernel⟩,
   ⟨blk (let d := up; let d := { d with cad.state := .locked }; let d := { d with cad.absent := 1 }; d), by decide +kernel⟩,
   ⟨blk (let d := up; let d := { d with cad.state := .acquire }; d), by decide +kernel⟩,
   ⟨blk (let d := up; let d := { d with cad.state := .locked }; d), by decide +kernel⟩,
   ⟨blk (up), by decide +kernel⟩,
   ⟨blk (let d := up; let d := { d with cad.state := .follow }; let d := { d with cad.noSrc := some (0) }; let d := { d with cad.count := 4096 }; d), 0, by decide +kernel⟩,
   ⟨blk (let d := up; let d := { d with cad.slew := 1 }; d), by decide +kernel⟩,
   ⟨blk (let d := up; let d := { d with cad.slew := -1 }; d), by decide +kernel⟩,
   ⟨blk (up), by decide +kernel⟩⟩

theorem witness_MapSwitchesGraceEndsAndBouncesAreKept :
    (∃ (s : State), ∃ (m : CompMap), (s.dev.alive = true) ∧ (s.dev.comp.pending = some m) ∧ (s.dev.now < m.effBeat)) ∧
    (∃ (s : State), ∃ (m : CompMap), (s.dev.alive = true) ∧ (Dev.reset.keeps s.dev [.regs, .mem, .poison, .out, .fresh, .pwr, .therm, .tap, .cad, .comp, .hif]) ∧ (s.dev.comp.pending = some m) ∧ (s.dev.comp.old = none) ∧ (s.dev.comp.staged = none) ∧ (s.dev.comp.held = []) ∧ (m.effBeat ≤ s.dev.now) ∧ (m.grace ≠ 0) ∧ (m.memberships s.dev.me = []) ∧ (((m.entry s.dev.me).any fun (e : DevEntry) => e.spare) = false)) ∧
    (∃ (s : State), ∃ (o : CompMap), (s.dev.alive = true) ∧ (Dev.reset.keeps s.dev [.regs, .mem, .poison, .out, .fresh, .pwr, .therm, .tap, .cad, .comp, .hif]) ∧ (s.dev.comp.old = some o) ∧ (s.dev.comp.state = .grace) ∧ (o.memberships s.dev.me = []) ∧ (s.dev.comp.cur.effBeat + s.dev.comp.cur.grace ≤ s.dev.now)) ∧
    (∃ (s : State), ∃ (b : BounceMsg), (s.dev.alive = true) ∧ (s.dev.pan.bounced = []) ∧ (b.code = C.NACK_ROLE) ∧ (s.dev.roleEpochOf b.src = b.msgRoleEpoch)) ∧
    (∃ (s : State), ∃ (b : BounceMsg), (s.dev.alive = true) ∧ (s.dev.pan.bounced = []) ∧ (b.code = C.NACK_EPOCH) ∧ ((b.epoch + 2 ^ 32 - s.dev.comp.cur.epoch) % 2 ^ 32 ≠ 0) ∧ ((b.epoch + 2 ^ 32 - s.dev.comp.cur.epoch) % 2 ^ 32 < 2 ^ 31)) ∧
    (∃ (s : State), ∃ (b : BounceMsg), (s.dev.alive = true) ∧ (s.dev.pan.bounced = []) ∧ (b.code = C.NACK_EPOCH) ∧ (2 ^ 31 ≤ (b.epoch + 2 ^ 32 - s.dev.comp.cur.epoch) % 2 ^ 32)) ∧
    (∃ (s : State), ∃ (id : Nat), ∃ (dst : Nat), ∃ (b : Nat), ∃ (n : Nat), ∃ (i : Inv), (s.dev.alive = true) ∧ (s.dev.pan.bounced = [{ what := .invocation id, dst := dst, hold := .resend b n }]) ∧ (b ≠ 0) ∧ (b ≤ s.dev.now) ∧ (s.dev.inv? id = some i) ∧ ((s.dev.paddockDevs i.paddock).contains dst = true) ∧ (s.dev.hif.dmaFail = false)) :=
  ⟨⟨blk (let d := up; let d := { d with comp.pending := some ({ effBeat := 1 } : CompMap) }; d), { effBeat := 1 }, by decide +kernel⟩,
   ⟨blk (let d := up; let d := { d with comp.pending := some ({} : CompMap) }; d), {}, by decide +kernel, (by intro b hb; cases b <;> first | (simp at hb; done) | rfl | (intro a; rfl)), by decide +kernel, by decide +kernel, by decide +kernel, by decide +kernel, by decide +kernel, by decide +kernel, by decide +kernel, by decide +kernel⟩,
   ⟨blk (let d := up; let d := { d with comp.old := some ({} : CompMap) }; let d := { d with comp.state := .grace }; let d := { d with cad.count := 2 ^ 20 }; d), {}, by decide +kernel, (by intro b hb; cases b <;> first | (simp at hb; done) | rfl | (intro a; rfl)), by decide +kernel, by decide +kernel, by decide +kernel, by decide +kernel⟩,
   ⟨blk (up), { ({ src := 0, code := 0, epoch := 0, roleEpoch := 0, what := .other, msgEpoch := 0, msgRoleEpoch := 0 } : BounceMsg) with code := C.NACK_ROLE }, by decide +kernel⟩,
   ⟨blk (up), { src := 0, code := C.NACK_EPOCH, epoch := 1, roleEpoch := 0, what := .other, msgEpoch := 0, msgRoleEpoch := 0 }, by decide +kernel⟩,
   ⟨blk (up), { src := 0, code := C.NACK_EPOCH, epoch := 2 ^ 31, roleEpoch := 0, what := .other, msgEpoch := 0, msgRoleEpoch := 0 }, by decide +kernel⟩,
   ⟨blk (let d := up; let d := { d with pan.bounced := [{ what := .invocation (0), dst := (0), hold := .resend (1) (0) }] }; let d := { d with sep.invs := [((0), ({ paddock := 1, slot := 0, tag := .host { ring := 0, opcode := 0, tag := 0, quiet := false } } : Inv))] }; let d := { d with comp.cur := oneMap }; let d := { d with cad.count := 1 }; d), 0, 0, 1, 0, { paddock := 1, slot := 0, tag := .host { ring := 0, opcode := 0, tag := 0, quiet := false } }, by decide +kernel⟩⟩

theorem witness_IntakeItemsAreQueuedAndRead :
    (∃ (s : State), ∃ (q : IntakeReq), ∃ (c : Instr), ((c = .newItem q ∨ c = .continueItem q)) ∧ (s.dev.alive = true) ∧ (q.ring = none) ∧ (s.dev.pwr.state = .run) ∧ (check179 s.dev q.items = none)) ∧
    (∃ (s : State), ∃ (q : IntakeReq), ∃ (c : Instr), ((c = .newItem q ∨ c = .continueItem q)) ∧ (s.dev.alive = true) ∧ (q.ring = none) ∧ (s.dev.pwr.state = .run) ∧ (s.dev.flag F.INTK_CTRL_EN = false) ∧ (s.dev.hif.dmaFail = false)) ∧
    (∃ (s : State), ∃ (r : Nat), ∃ (src : Nat), ∃ (it : Bytes), ∃ (ref : CmdRef), ∃ (c : Instr), ((c = .newItem { ring := some r, src := src, items := [it] } ∨ c = .continueItem { ring := some r, src := src, items := [it] })) ∧ (s.dev.alive = true) ∧ (s.dev.consuming = true) ∧ (s.dev.nextRing = some r) ∧ (Tbl.at? s.dev.hif.partials r = none) ∧ (itemMore it = false) ∧ (ref = { ring := r, opcode := itemOp it, tag := field it 2 2, quiet := false }) ∧ (check484Item (s.dev.consume ref 1) r it = none) ∧ (check179 (s.dev.consume ref 1) [it] = none)) ∧
    (∃ (s : State), ∃ (l : Nat), ∃ (q : QItem), ∃ (t : List QItem), (s.dev.alive = true) ∧ (s.dev.serving = .all) ∧ (s.dev.flag F.INTK_CTRL_MANUAL = true) ∧ ((s.dev.stl.openLvl = some l ∨ s.dev.stl.openLvl = none ∧ s.dev.headLevel = some l)) ∧ (s.dev.level l = q :: t)) ∧
    (∃ (s : State), (s.dev.alive = true) ∧ (s.dev.serving = .all) ∧ (s.dev.flag F.INTK_CTRL_MANUAL = true) ∧ (s.dev.stl.openLvl = none) ∧ (s.dev.headLevel = none)) ∧
    (∃ (s : State), ∃ (l : Nat), (s.dev.alive = true) ∧ (s.dev.serving = .all) ∧ (s.dev.flag F.INTK_CTRL_MANUAL = true) ∧ (s.dev.stl.openLvl = some l)) ∧
    (∃ (s : State), ∃ (r : AllocRead), ∃ (l : Nat), ∃ (q : QItem), ∃ (rest : List QItem), ∃ st, (s.dev.alive = true) ∧ (s.dev.flag F.STL_CTRL_EN = true) ∧ (s.dev.flag F.INTK_CTRL_MANUAL = false) ∧ (s.dev.pwr.state = .run) ∧ (s.dev.stl.waiting = none) ∧ (s.dev.stl.openLvl = none) ∧ (s.dev.headLevel = some l) ∧ (s.dev.level l = q :: rest) ∧ (itemMore q.bytes = false) ∧ (check180 (s.dev.setLevel l rest) q [q.bytes] r.handed = some st)) ∧
    (∃ (s : State), ∃ (r : AllocRead), ∃ (l : Nat), ∃ (q : QItem), ∃ (rest : List QItem), (s.dev.alive = true) ∧ (s.dev.flag F.STL_CTRL_EN = true) ∧ (s.dev.flag F.INTK_CTRL_MANUAL = false) ∧ (s.dev.pwr.state = .run) ∧ (s.dev.stl.waiting = none) ∧ (s.dev.stl.openLvl = none) ∧ (s.dev.headLevel = some l) ∧ (s.dev.level l = q :: rest) ∧ (itemMore q.bytes = false) ∧ (check180 (s.dev.setLevel l rest) q [q.bytes] r.handed = none) ∧ (s.dev.stl.stalls = []) ∧ (emptyRequest q.bytes = true)) ∧
    (∃ (s : State), ∃ (r : AllocRead), ∃ (l : Nat), ∃ (q : QItem), ∃ (rest : List QItem), ∃ a, ∃ b, ∃ e1, ∃ e2, (s.dev.alive = true) ∧ (s.dev.flag F.STL_CTRL_EN = true) ∧ (s.dev.flag F.INTK_CTRL_MANUAL = false) ∧ (s.dev.pwr.state = .run) ∧ (s.dev.stl.waiting = none) ∧ (s.dev.stl.openLvl = none) ∧ (s.dev.headLevel = some l) ∧ (s.dev.level l = q :: rest) ∧ (itemMore q.bytes = false) ∧ (check180 (s.dev.setLevel l rest) q [q.bytes] r.handed = none) ∧ (s.dev.stl.stalls = []) ∧ (emptyRequest q.bytes = false) ∧ (itemOp q.bytes = 1) ∧ (s.dev.hlt.active = false) ∧ (s.dev.fld F.STL_CTRL_PROMOTE_RSV < 131072) ∧ (s.dev.poolAlloc (tokLogBytes (field q.bytes 16 4 + field q.bytes 20 4)) 0 = some (a, e1)) ∧ (e1.poolAlloc (s.dev.listBytes (field q.bytes 6 2) (field q.bytes 16 4 + field q.bytes 20 4)) 0 = some (b, e2))) :=
  ⟨⟨blk (let d := up; let d := { d with pwr.state := .run }; let d := d.setFld F.INTK_CTRL_EN 1; d), { ring := none, items := [item 1 []] }, .newItem { ring := none, items := [item 1 []] }, by decide +kernel⟩,
   ⟨blk (let d := up; let d := { d with pwr.state := .run }; d), { ring := none, items := [] }, .newItem ({ ring := none, items := [] } : IntakeReq), by decide +kernel⟩,
   ⟨blk (let d := rup; let d := d.setFld F.INTK_CTRL_EN 1; let d := d.setCmdRing 0 { d.cmdRing 0 with intake := true }; d), 0, 0, item 1 [], { ring := (0), opcode := itemOp (item 1 [] : Bytes), tag := field (item 1 [] : Bytes) 2 2, quiet := false }, .newItem { ring := some (0), src := (0), items := [(item 1 [] : Bytes)] }, by decide +kernel⟩,
   ⟨blk (let d := up; let d := d.setFld F.INTK_CTRL_MANUAL 1; let d := { d with stl.openLvl := some (0) }; let d := { d with stl.levels := [(0, [{ bytes := item 1 [], ring := none, fabric := 0 }])] }; d), 0, { bytes := item 1 [], ring := none, fabric := 0 }, [], by decide +kernel⟩,
   ⟨blk (let d := up; let d := d.setFld F.INTK_CTRL_MANUAL 1; d), by decide +kernel⟩,
   ⟨blk (let d := up; let d := d.setFld F.INTK_CTRL_MANUAL 1; let d := { d with stl.openLvl := some (0) }; d), 0, by decide +kernel⟩,
   ⟨blk (let d := up; let d := d.setFld F.STL_CTRL_EN 1; let d := { d with pwr.state := .run }; let d := { d with stl.levels := [(0, [{ bytes := item 1 [(26, 2, 5)], ring := none, fabric := 0 }])] }; d), { handed := [] }, 0, { bytes := item 1 [(26, 2, 5)], ring := none, fabric := 0 }, [], C.STL_BAD_RING, by decide +kernel⟩,
   ⟨blk (let d := up; let d := d.setFld F.STL_CTRL_EN 1; let d := { d with pwr.state := .run }; let d := { d with stl.levels := [(0, [{ bytes := item 1 [(6, 2, 1)], ring := none, fabric := 0 }])] }; let d := { d with comp.cur := oneMapAs 1 }; d), { handed := [] }, 0, { bytes := item 1 [(6, 2, 1)], ring := none, fabric := 0 }, [], by decide +kernel⟩,
   ⟨blk (intakeUp), { handed := [0] }, 0, { bytes := ask, ring := none, fabric := 0 }, [], (grab intakeUp (tokLogBytes 1)).1, (grab (grab intakeUp (tokLogBytes 1)).2 65536).1, (grab intakeUp (tokLogBytes 1)).2, (grab (grab intakeUp (tokLogBytes 1)).2 65536).2, by decide +kernel⟩⟩

theorem witness_ShadowsAndTheEndOfIntake :
    (∃ (s : State), ∃ (m : ReplMsg), (s.dev.alive = true) ∧ (s.dev.hif.dmaFail = false) ∧ (s.dev.stl.shadow.length < 131072 ∨ (Tbl.at? s.dev.stl.shadow (stallKey m.src m.stall)).isSome = true)) ∧
    (∃ (s : State), ∃ (m : ReplMsg), (s.dev.alive = true) ∧ (s.dev.hif.dmaFail = false) ∧ (131072 ≤ s.dev.stl.shadow.length) ∧ (Tbl.at? s.dev.stl.shadow (stallKey m.src m.stall) = none)) ∧
    (∃ (s : State), ∃ (m : ReplMsg), (s.dev.alive = true) ∧ (s.dev.hif.dmaFail = false) ∧ (Tbl.at? s.dev.stl.shadow (stallKey m.src m.stall) = none)) ∧
    (∃ (s : State), ∃ (m : ReplMsg), ∃ e, (s.dev.alive = true) ∧ (s.dev.hif.dmaFail = false) ∧ (Tbl.at? s.dev.stl.shadow (stallKey m.src m.stall) = some e) ∧ (1 ≤ (field m.record 104 4 + 2 ^ 32 - e.r.version) % 2 ^ 32) ∧ ((field m.record 104 4 + 2 ^ 32 - e.r.version) % 2 ^ 32 < 2 ^ 31)) ∧
    (∃ (s : State), ∃ (m : ReplMsg), ∃ e, (s.dev.alive = true) ∧ (s.dev.hif.dmaFail = false) ∧ (Tbl.at? s.dev.stl.shadow (stallKey m.src m.stall) = some e) ∧ (2 ^ 31 ≤ (field m.record 104 4 + 2 ^ 32 - e.r.version) % 2 ^ 32)) ∧
    (∃ (s : State), ∃ (k : Nat), ∃ (st : Nat), ∃ (v : Nat), ∃ (toks : List Nat), ∃ (rec : Bytes), ∃ (c : Instr), (s.dev.alive = true) ∧ (s.dev.stall? k = none) ∧ ((c = .intakeAcknowledgement k st ∨ c = .replicationAck k v ∨ c = .replicationRefused k st ∨ c = .samplingRecordCheck k rec ∨ c = .endOfIntake k toks))) ∧
    (∃ (s : State), ∃ (k : Nat), ∃ (x : Stall), (s.dev.alive = true) ∧ (s.dev.stall? k = some x) ∧ (x.acked = false) ∧ (x.waitMirror = false)) ∧
    (∃ (s : State), ∃ (k : Nat), ∃ (x : Stall), (s.dev.alive = true) ∧ (s.dev.stall? k = some x) ∧ (x.owed = []) ∧ (x.turnEnd = none) ∧ (x.side = 0)) ∧
    (∃ (s : State), ∃ (k : Nat), ∃ (x : Stall), (s.dev.alive = true) ∧ (s.dev.stall? k = some x) ∧ (x.r.shadowOk = true) ∧ (x.owed = []) ∧ (x.turnEnd = none) ∧ (x.side = 0)) ∧
    (∃ (s : State), ∃ (k : Nat), ∃ (x : Stall), ∃ (rec : Bytes), (s.dev.alive = true) ∧ (s.dev.stall? k = some x) ∧ (x.r.state = .intake) ∧ (x.sampDone = false) ∧ (x.owed = []) ∧ (x.phase = .none) ∧ (x.prev = none) ∧ (x.side = 0) ∧ (sampOk rec = true)) ∧
    (∃ (s : State), ∃ (k : Nat), ∃ (x : Stall), ∃ (rec : Bytes), (s.dev.alive = true) ∧ (s.dev.stall? k = some x) ∧ (x.r.state = .intake) ∧ (x.sampDone = false) ∧ (x.owed = []) ∧ (x.phase = .none) ∧ (x.prev = none) ∧ (x.side = 0) ∧ (sampOk rec = false)) ∧
    (∃ (s : State), ∃ (k : Nat), ∃ (x : Stall), ∃ (toks : List Nat), ∃ m, (s.dev.alive = true) ∧ (s.dev.stall? k = some x) ∧ (x.copying = true) ∧ (toks.length = x.given) ∧ (x.sampDone = true) ∧ (x.penDone = true) ∧ (x.retrieve = none) ∧ (x.side = 0) ∧ (x.owed = []) ∧ (x.phase = .none) ∧ (x.prev = none) ∧ (s.dev.flat) ∧ (x.cancel = false) ∧ (x.r.passed s.dev.now = false) ∧ (s.dev.model? x.r.model = some m) ∧ (s.dev.servers 1 x.r.model = []) ∧ (x.reTo = none) ∧ (0 < x.lenMax) ∧ (x.pages.kvEnd + 1 < x.turnBase + toks.length)) ∧
    (∃ (s : State), ∃ (k : Nat), ∃ (x : Stall), ∃ (toks : List Nat), (s.dev.alive = true) ∧ (s.dev.stall? k = some x) ∧ (x.copying = true) ∧ (toks.length = x.given) ∧ (x.sampDone = true) ∧ (x.penDone = true) ∧ (x.retrieve = none) ∧ (x.side = 0) ∧ (x.owed = []) ∧ (x.phase = .none) ∧ (x.prev = none) ∧ (s.dev.flat) ∧ (x.cancel = true)) :=
  ⟨⟨blk (up), { src := 0, stall := 0, record := [] }, by decide +kernel⟩,
   ⟨blk ((shadowed 131072)), { src := 0, stall := 0, record := [] }, by decide +kernel, by decide +kernel, (Nat.le_of_eq (shadowed_length 131072).symm), (shadowed_none 131072)⟩,
   ⟨blk (up), { src := 0, stall := 0, record := [] }, by decide +kernel⟩,
   ⟨blk (let d := up; let d := { d with stl.shadow := [(0, {})] }; d), { src := 0, stall := 0, record := mk 128 [(104, 4, 1)] }, {}, by decide +kernel⟩,
   ⟨blk (let d := up; let d := { d with stl.shadow := [(0, {})] }; d), { src := 0, stall := 0, record := mk 128 [(104, 4, 2 ^ 31)] }, {}, by decide +kernel⟩,
   ⟨blk (up), 0, 0, 0, [], [], .intakeAcknowledgement (0) (0), by decide +kernel⟩,
   ⟨blk (let d := up; let d := { d with stl.stalls := [((0), ({} : Stall))] }; d), 0, {}, by decide +kernel⟩,
   ⟨blk (let d := up; let d := { d with stl.stalls := [((0), ({ ({} : Stall) with side := 0 } : Stall))] }; d), 0, { ({} : Stall) with side := 0 }, by decide +kernel⟩,
   ⟨blk (let d := up; let d := { d with stl.stalls := [((0), ({ ({} : Stall) with r.shadowOk := true, side := 0 } : Stall))] }; d), 0, { ({} : Stall) with r.shadowOk := true, side := 0 }, by decide +kernel⟩,
   ⟨blk (let d := up; let d := { d with stl.stalls := [((0), ({ ({} : Stall) with r.state := .intake, phase := .none, side := 0 } : Stall))] }; d), 0, { ({} : Stall) with r.state := .intake, phase := .none, side := 0 }, mkC 128 32 [(0, 4, 0x504D4153), (4, 4, 2), (12, 4, 0x3F800000), (16, 4, 0x3F800000), (20, 4, 0x3F800000)], by decide +kernel⟩,
   ⟨blk (let d := up; let d := { d with stl.stalls := [((0), ({ ({} : Stall) with r.state := .intake, phase := .none, side := 0 } : Stall))] }; d), 0, { ({} : Stall) with r.state := .intake, phase := .none, side := 0 }, [], by decide +kernel⟩,
   ⟨blk (let d := up; let d := { d with stl.stalls := [((0), ({ copying := true, given := 2, sampDone := true, penDone := true, lenMax := 1 } : Stall))] }; let d := { d with kv.models := [(({ copying := true, given := 2, sampDone := true, penDone := true, lenMax := 1 } : Stall).r.model, ({}))] }; d), 0, { copying := true, given := 2, sampDone := true, penDone := true, lenMax := 1 }, [1, 2], {}, by decide +kernel, by decide +kernel, by decide +kernel, by decide +kernel, by decide +kernel, by decide +kernel, by decide +kernel, by decide +kernel, by decide +kernel, by decide +kernel, by decide +kernel, (by unfold Dev.flat; intro u r h; cases h), by decide +kernel, by decide +kernel, by decide +kernel, by decide +kernel, by decide +kernel, by decide +kernel, by decide +kernel⟩,
   ⟨blk (let d := up; let d := { d with stl.stalls := [((0), ({ ({} : Stall) with copying := true, sampDone := true, penDone := true, side := 0, phase := .none, cancel := true } : Stall))] }; d), 0, { ({} : Stall) with copying := true, sampDone := true, penDone := true, side := 0, phase := .none, cancel := true }, [], by decide +kernel, by decide +kernel, by decide +kernel, by decide +kernel, by decide +kernel, by decide +kernel, by decide +kernel, by decide +kernel, by decide +kernel, by decide +kernel, by decide +kernel, (by unfold Dev.flat; intro u r h; cases h), by decide +kernel⟩⟩

theorem witness_UnitsOfWorkMoveTheStall :
    (∃ (s : State), ∃ (k : Nat), ∃ (base : Nat), ∃ (period : Nat), ∃ (p : Nat), ∃ (x : Stall), ∃ (m : KvModel), (s.dev.alive = true) ∧ (s.dev.stall? k = some x) ∧ (x.phase = .pulled p) ∧ (x.copying = false) ∧ (x.cancel = false) ∧ (x.r.passed base = false) ∧ (s.dev.model? x.r.model = some m) ∧ (s.dev.admits p (base + period) = true) ∧ (s.dev.hif.dmaFail = false)) ∧
    (∃ (s : State), ∃ (k : Nat), ∃ (base : Nat), ∃ (p : Nat), ∃ (x : Stall), (s.dev.alive = true) ∧ (s.dev.stall? k = some x) ∧ (x.phase = .pulled p) ∧ (x.copying = false) ∧ (x.cancel = false) ∧ (x.r.passed base = true) ∧ (x.owed = []) ∧ (x.side = 0)) ∧
    (∃ (s : State), ∃ (u : UnitEnd), ∃ (x : Stall), ∃ (p : Nat), ∃ (first : Nat), ∃ (count : Nat), ∃ (sch : Nat), (s.dev.alive = true) ∧ (s.dev.stall? u.stall = some x) ∧ (x.phase = .chunk p first count sch) ∧ (x.r.current u = false)) ∧
    (∃ (s : State), ∃ (u : UnitEnd), ∃ (x : Stall), ∃ (p : Nat), ∃ (first : Nat), ∃ (count : Nat), ∃ (sch : Nat), (s.dev.alive = true) ∧ (s.dev.stall? u.stall = some x) ∧ (x.phase = .chunk p first count sch) ∧ (x.r.current u = true) ∧ (u.kind = .ended) ∧ (u.status = C.FAB_POISON)) ∧
    (∃ (s : State), ∃ (u : UnitEnd), ∃ (x : Stall), ∃ (y : Stall), ∃ (p : Nat), ∃ (first : Nat), ∃ (count : Nat), ∃ (sch : Nat), ∃ (m : KvModel), (s.dev.alive = true) ∧ (s.dev.stall? u.stall = some x) ∧ (x.phase = .chunk p first count sch) ∧ (x.r.current u = true) ∧ (u.kind = .ended) ∧ (u.status = C.OK) ∧ (u.poison = false) ∧ (x.cancel = false) ∧ (x.r.passed u.beat = false) ∧ (x.commitTo (first + count) u.works = (y, [])) ∧ (s.dev.model? x.r.model = some m) ∧ (y.reTo = none) ∧ (y.r.lenPrompt < y.r.lenLimit) ∧ (first + count < y.r.lenPrompt - 1) ∧ (gateOpen m.np y.r.lenParked (first + count) = true) ∧ (y.pages.kvEnd = first + count) ∧ (y.r.model = x.r.model) ∧ ((s.dev.servers 1 x.r.model).head? = some p)) ∧
    (∃ (s : State), ∃ (u : UnitEnd), ∃ (x : Stall), ∃ (y : Stall), ∃ (p : Nat), ∃ (t : Nat), (s.dev.alive = true) ∧ (s.dev.stall? u.stall = some x) ∧ (x.phase = .decode p) ∧ (x.r.current u = true) ∧ (u.kind = .ended) ∧ (u.status = C.OK) ∧ (u.poison = false) ∧ (x.cancel = false) ∧ (x.r.passed u.beat = false) ∧ (u.tokens = [t]) ∧ (t < 2 ^ 32) ∧ (x.stopTokens.contains t = false) ∧ (x.r.lenCommit + 1 < x.r.lenLimit) ∧ ((s.dev.servers 2 x.r.model).contains p = true) ∧ (x.r.shadowOk = false) ∧ (x.side = 0) ∧ (x.owed = []) ∧ (x.turnEnd = none) ∧ (x.commitTo x.r.lenCommit u.works = (y, [])) ∧ (y.r = x.r) ∧ (y.owed = []) ∧ (y.turnEnd = none) ∧ (y.side = 0) ∧ (s.dev.flat)) ∧
    (∃ (s : State), ∃ (k : Nat), ∃ (x : Stall), (s.dev.alive = true) ∧ (s.dev.stall? k = some x) ∧ ((x.r.state = .done ∨ x.r.state = .late ∨ x.r.state = .fail)) ∧ (x.turnEnd = none) ∧ (x.owed = [])) ∧
    (∃ (s : State), ∃ (k : Nat), ∃ (x : Stall), (s.dev.alive = true) ∧ (s.dev.stall? k = some x) ∧ ((x.r.state = .park ∨ x.r.state = .spill)) ∧ (s.dev.pwr.state = .run) ∧ (s.dev.now < x.restBeat + (s.dev.reg F.STL_PARK_TTL_TTL.off).toNat)) ∧
    (∃ (s : State), ∃ (k : Nat), ∃ (x : Stall), (s.dev.alive = true) ∧ (s.dev.stall? k = some x) ∧ ((x.r.state = .park ∨ x.r.state = .spill)) ∧ (s.dev.pwr.state = .run) ∧ ((s.dev.reg F.STL_PARK_TTL_TTL.off).toNat ≠ 0) ∧ (x.restBeat + (s.dev.reg F.STL_PARK_TTL_TTL.off).toNat ≤ s.dev.now) ∧ (s.dev.continueWaits k = false) ∧ (x.owed = []) ∧ (x.side = 0)) :=
  ⟨⟨blk (let d := up; let d := { d with stl.stalls := [((0), ({ ({} : Stall) with phase := .pulled (0) } : Stall))] }; let d := { d with kv.models := [(({ ({} : Stall) with phase := .pulled (0) } : Stall).r.model, ({} : KvModel))] }; d), 0, 0, 0, 0, { ({} : Stall) with phase := .pulled (0) }, {}, by decide +kernel⟩,
   ⟨blk (let d := up; let d := { d with stl.stalls := [((0), ({ phase := .pulled 0, r := { deadline := 1 } } : Stall))] }; d), 0, 1, 0, { phase := .pulled 0, r := { deadline := 1 } }, by decide +kernel⟩,
   ⟨blk (let d := up; let d := { d with stl.stalls := [((chunkEnd : UnitEnd).stall, ({ phase := .chunk 0 0 0 0 } : Stall))] }; d), chunkEnd, { phase := .chunk 0 0 0 0 }, 0, 0, 0, 0, by decide +kernel⟩,
   ⟨blk (let d := up; let d := { d with stl.stalls := [(({ chunkEnd with status := C.FAB_POISON } : UnitEnd).stall, (inChunk : Stall))] }; d), { chunkEnd with status := C.FAB_POISON }, inChunk, 1, 0, 64, 0, by decide +kernel⟩,
   ⟨blk (let d := up; let d := { d with stl.stalls := [((chunkEnd : UnitEnd).stall, (inChunk : Stall))] }; let d := { d with kv.models := [((inChunk : Stall).r.model, ({} : KvModel))] }; let d := { d with comp.cur := oneMapAs 1 }; d), chunkEnd, inChunk, (inChunk.commitTo 64 []).1, 1, 0, 64, 0, {}, by decide +kernel⟩,
   ⟨blk (let d := up; let d := { d with stl.stalls := [(({ chunkEnd with tokens := [0] } : UnitEnd).stall, (inStep : Stall))] }; let d := { d with comp.cur := oneMap }; d), { chunkEnd with tokens := [0] }, inStep, inStep, 1, 0, by decide +kernel, by decide +kernel, by decide +kernel, by decide +kernel, by decide +kernel, by decide +kernel, by decide +kernel, by decide +kernel, by decide +kernel, by decide +kernel, by decide +kernel, by decide +kernel, by decide +kernel, by decide +kernel, by decide +kernel, by decide +kernel, by decide +kernel, by decide +kernel, by decide +kernel, by decide +kernel, by decide +kernel, by decide +kernel, by decide +kernel, (by unfold Dev.flat; intro u r h; cases h)⟩,
   ⟨blk (let d := up; let d := { d with stl.stalls := [((0), ({ ({} : Stall) with r.state := .done } : Stall))] }; d), 0, { ({} : Stall) with r.state := .done }, by decide +kernel⟩,
   ⟨blk (let d := up; let d := { d with stl.stalls := [((0), ({ ({} : Stall) with r.state := .park } : Stall))] }; let d := { d with pwr.state := .run }; let d := d.setReg F.STL_PARK_TTL_TTL.off 1; d), 0, { ({} : Stall) with r.state := .park }, by decide +kernel⟩,
   ⟨blk (let d := up; let d := { d with stl.stalls := [((0), ({ ({} : Stall) with r.state := .park, side := 0 } : Stall))] }; let d := { d with pwr.state := .run }; let d := d.setReg F.STL_PARK_TTL_TTL.off 1; let d := { d with cad.count := 1 }; d), 0, { ({} : Stall) with r.state := .park, side := 0 }, by decide +kernel⟩⟩

theorem witness_StallCommandsAndMasks :
    (∃ (s : State), ∃ (c : HostCmd), ∃ (i : Instr), ((i = .stlCancel c ∨ i = .stlRelease c ∨ i = .stlSpill c)) ∧ (s.dev.alive = true) ∧ (s.dev.takes stlSpec c) ∧ (s.dev.namedStall c = none)) ∧
    (∃ (s : State), ∃ (c : HostCmd), ∃ (x : Stall), (s.dev.alive = true) ∧ (s.dev.takes stlSpec c) ∧ (s.dev.namedStall c = some x) ∧ ((x.r.state = .intake ∨ x.r.state = .prefill ∨ x.r.state = .ship ∨ x.r.state = .decode)) ∧ (x.phase ≠ .waitPrompt) ∧ (x.phase ≠ .waitGen)) ∧
    (∃ (s : State), ∃ (c : HostCmd), ∃ (x : Stall), ∃ (i : Instr), ((i = .stlRelease c ∨ i = .stlSpill c)) ∧ (s.dev.alive = true) ∧ (s.dev.takes stlSpec c) ∧ (s.dev.namedStall c = some x) ∧ (x.r.resting = false)) ∧
    (∃ (s : State), ∃ (c : HostCmd), ∃ (x : Stall), (s.dev.alive = true) ∧ (s.dev.takes stlSpec c) ∧ (s.dev.namedStall c = some x) ∧ (x.r.resting = true) ∧ (s.dev.continueWaits (bits c.a0 16 0) = false) ∧ (x.owed = []) ∧ (x.side = 0)) ∧
    (∃ (s : State), ∃ (c : HostCmd), ∃ (x : Stall), (s.dev.alive = true) ∧ (s.dev.takes stlSpec c) ∧ (s.dev.namedStall c = some x) ∧ (x.r.resting = true) ∧ (s.dev.continueWaits (bits c.a0 16 0) = false) ∧ (x.r.state = .park) ∧ (x.pages.ents = [])) ∧
    (∃ (s : State), (s.dev.alive = true) ∧ (s.dev.stl.stalls = [])) ∧
    (∃ (s : State), ∃ (k : Nat), ∃ (page : Nat), ∃ (shard : Nat), ∃ (x : Stall), (s.dev.alive = true) ∧ (s.dev.stall? k = some x) ∧ ((x.pages.ent page shard).state ≠ .full)) ∧
    (∃ (s : State), ∃ (k : Nat), ∃ (page : Nat), ∃ (shard : Nat), ∃ (x : Stall), (s.dev.alive = true) ∧ (s.dev.stall? k = some x) ∧ ((x.pages.ent page shard).state = .full) ∧ (s.dev.cachePaddock x.r.model = none)) :=
  ⟨⟨blk (rup), cmd, .stlCancel (cmd : HostCmd), by decide +kernel, by decide +kernel, by unfold Dev.takes; decide +kernel, by decide +kernel⟩,
   ⟨blk (let d := rup; let d := { d with stl.stalls := [(0, { r := { state := .decode } })] }; d), cmd, { r := { state := .decode } }, by decide +kernel, by unfold Dev.takes; decide +kernel, by decide +kernel, by decide +kernel, by decide +kernel, by decide +kernel⟩,
   ⟨blk (let d := rup; let d := { d with stl.stalls := [(0, { r := { state := .decode } })] }; d), cmd, { r := { state := .decode } }, .stlRelease (cmd : HostCmd), by decide +kernel, by decide +kernel, by unfold Dev.takes; decide +kernel, by decide +kernel, by decide +kernel⟩,
   ⟨blk (let d := rup; let d := { d with stl.stalls := [(0, { r := { state := .park } })] }; d), cmd, { r := { state := .park } }, by decide +kernel, by unfold Dev.takes; decide +kernel, by decide +kernel, by decide +kernel, by decide +kernel, by decide +kernel, by decide +kernel⟩,
   ⟨blk (let d := rup; let d := { d with stl.stalls := [(0, { r := { state := .park } })] }; d), cmd, { r := { state := .park } }, by decide +kernel, by unfold Dev.takes; decide +kernel, by decide +kernel, by decide +kernel, by decide +kernel, by decide +kernel, by decide +kernel⟩,
   ⟨blk (up), by decide +kernel⟩,
   ⟨blk (let d := up; let d := { d with stl.stalls := [((0), ({} : Stall))] }; d), 0, 0, 0, {}, by decide +kernel⟩,
   ⟨blk (let d := up; let d := { d with stl.stalls := [((0), ({ pages := { shards := 1, npage := 1, ents := [(0, { state := .full })] } } : Stall))] }; d), 0, 0, 0, { pages := { shards := 1, npage := 1, ents := [(0, { state := .full })] } }, by decide +kernel⟩⟩

theorem witness_ModelsPaddocksAndPelotons :
    (∃ (s : State), ∃ (c : HostCmd), (s.dev.alive = true) ∧ (s.dev.takes (recSpec 64 0 0) c) ∧ (kvModelOk c.data = false)) ∧
    (∃ (s : State), ∃ (c : HostCmd), (s.dev.alive = true) ∧ (s.dev.takes (recSpec 64 0 0) c) ∧ (kvModelOk c.data = true) ∧ (s.dev.model? (KvModel.read c.data).model = none)) ∧
    (∃ (s : State), ∃ (c : HostCmd), ∃ old, (s.dev.alive = true) ∧ (s.dev.takes (recSpec 64 0 0) c) ∧ (kvModelOk c.data = true) ∧ (s.dev.model? (KvModel.read c.data).model = some old) ∧ (old.raw ≠ c.data) ∧ (s.dev.modelInUse (KvModel.read c.data).model = true)) ∧
    (∃ (s : State), ∃ (c : HostCmd), (s.dev.alive = true) ∧ (s.dev.takes (recSpec 512 0 0) c) ∧ (s.dev.shapeIn s.dev.comp.cur (field c.data 0 2) = none)) ∧
    (∃ (s : State), ∃ (c : HostCmd), ∃ p, (s.dev.alive = true) ∧ (s.dev.takes (recSpec 512 0 0) c) ∧ (s.dev.shapeIn s.dev.comp.cur (field c.data 0 2) = some p) ∧ (kvPaddockFieldsOk c.data = true) ∧ ((KvPaddock.read c.data).heapSize = 0) ∧ (Tbl.at? s.dev.kv.paddocks (field c.data 0 2) = none) ∧ (((p.saveArea :: s.dev.slotRanges (field c.data 0 2) none).any (overlaps ((KvPaddock.read c.data).heapBase % 2 ^ 40, 0))) = false)) ∧
    (∃ (s : State), ∃ (home : Nat), ∃ (stall : Nat), ∃ (x : ExecStall), (s.dev.alive = true) ∧ (Tbl.at? s.dev.kv.execs (stallKey home stall) = some x)) ∧
    (∃ (s : State), ∃ (pad : Nat), ∃ (k : Nat), ∃ (p : KvPaddock), ∃ (m : KvModel), (s.dev.alive = true) ∧ (s.dev.rankIn pad = some 0) ∧ (s.dev.comp.role = 2) ∧ (k < 26) ∧ (Tbl.at? s.dev.kv.pendingPad pad = none) ∧ (Tbl.at? s.dev.kv.paddocks pad = some p) ∧ (s.dev.padModel pad = some m) ∧ ((p.pels.getD k {}).en = true) ∧ (s.dev.now < (s.dev.peloton pad k).next)) ∧
    (∃ (s : State), ∃ (pad : Nat), ∃ (k : Nat), ∃ (key : Nat), ∃ (p : KvPaddock), ∃ (m : KvModel), ∃ (x : ExecStall), ∃ (img : SepSlot), (s.dev.alive = true) ∧ (s.dev.rankIn pad = some 0) ∧ (s.dev.comp.role = 2) ∧ (k < 26) ∧ (Tbl.at? s.dev.kv.pendingPad pad = none) ∧ (Tbl.at? s.dev.kv.paddocks pad = some p) ∧ (s.dev.padModel pad = some m) ∧ ((p.pels.getD k {}).en = true) ∧ ((s.dev.peloton pad k).next ≤ s.dev.now) ∧ (s.dev.slotImg pad p.decSlot = some img) ∧ (s.dev.admits pad ((s.dev.peloton pad k).next + imgPeriod img.img) = true) ∧ (0 < (p.pels.getD k {}).maxSeq) ∧ (s.dev.pelStalls pad k = [(key, x)]) ∧ (x.record.passed (s.dev.peloton pad k).next = false) ∧ (gateOpen m.np x.parkedNote x.kvEnd = true) ∧ (s.dev.missingPages pad m key x.kvEnd (draftsOf p x + 1) = []) ∧ (s.dev.invCheck pad p.decSlot (imgCrc img.img) true = none) ∧ (s.dev.unitCheck pad (((s.dev.comp.cur.paddock pad).head?.map (·.model)).getD 0) = none)) ∧
    (∃ (s : State), ∃ (pad : Nat), ∃ (k : Nat), ∃ (key : Nat), ∃ (p : KvPaddock), ∃ (m : KvModel), ∃ (x : ExecStall), ∃ (img : SepSlot), (s.dev.alive = true) ∧ (s.dev.rankIn pad = some 0) ∧ (s.dev.comp.role = 2) ∧ (k < 26) ∧ (Tbl.at? s.dev.kv.paddocks pad = some p) ∧ (s.dev.padModel pad = some m) ∧ ((p.pels.getD k {}).en = true) ∧ (0 < (p.pels.getD k {}).maxSeq) ∧ (p.draftEn = true) ∧ (s.dev.slotImg pad p.draftSlot = some img) ∧ (s.dev.pelStalls pad k = [(key, x)]) ∧ (draftsOf p x ≠ 0) ∧ ((s.dev.peloton pad k).next - p.draftLead ≤ s.dev.now) ∧ (s.dev.invCheck pad p.draftSlot (imgCrc img.img) true = none) ∧ (s.dev.unitCheck pad (((s.dev.comp.cur.paddock pad).head?.map (·.model)).getD 0) = none)) :=
  ⟨⟨blk (rup), { cmd with hlen := 64 }, by decide +kernel, by unfold Dev.takes; decide +kernel, by decide +kernel⟩,
   ⟨blk (rup), { cmd with hlen := 64, data := modelRec }, by decide +kernel, by unfold Dev.takes; decide +kernel, by decide +kernel, by decide +kernel⟩,
   ⟨blk ({ rup with kv.models := [(1, aModel)], stl.stalls := [(0, { r := { model := 1 } })] }), { cmd with hlen := 64, data := modelRec }, aModel, by decide +kernel, by unfold Dev.takes; decide +kernel, by decide +kernel, by decide +kernel, by decide +kernel, by decide +kernel⟩,
   ⟨blk (rup), { cmd with hlen := 512 }, by decide +kernel, by unfold Dev.takes; decide +kernel, by decide +kernel⟩,
   ⟨blk ({ rup with comp.cur := oneMap }), { cmd with hlen := 512, data := padRec }, ((rup.shapeIn oneMap 1).getD { p := 0, n := 0, hbm := 0, rank := 0, own := 0, model := 0 }), by decide +kernel, by unfold Dev.takes; decide +kernel, by decide +kernel, (padRec_ok), by decide +kernel, by decide +kernel, by decide +kernel⟩,
   ⟨blk (let d := up; let d := { d with kv.execs := [((stallKey (0) (0)), ({} : ExecStall))] }; d), 0, 0, {}, by decide +kernel⟩,
   ⟨blk ((let d := kvUp up prog; { d with kv.pelotons := [(32, { next := 5 })] })), 1, 0, decPad, aModel, by decide +kernel⟩,
   ⟨blk ((kvUp up prog)), 1, 0, 0, decPad, aModel, inPel, { img := prog, base := 5 * 2 ^ 60 }, by decide +kernel⟩,
   ⟨blk ((kvUp up prog)), 1, 0, 0, decPad, aModel, inPel, { img := prog, base := 5 * 2 ^ 60 }, by decide +kernel⟩⟩

theorem witness_InvocationsAndEntriesRun :
    (∃ (s : State), ∃ (m : InvMsg), (s.dev.alive = true) ∧ (s.dev.verdict m.h false = .hold)) ∧
    (∃ (s : State), ∃ (m : InvMsg), ∃ id, (s.dev.alive = true) ∧ (s.dev.verdict m.h false = .process) ∧ (m.kind = .member id []) ∧ (bit (field m.record 26 1) 0 = false) ∧ (s.dev.invCheck (field m.record 0 2) (field m.record 2 1 % 16) (field m.record 4 4) (invRecordOk m.record) = none)) ∧
    (∃ (s : State), ∃ (inv : Nat), ∃ (k : Nat), ∃ (i : Inv), ∃ (img : Bytes), ∃ (e : Bytes), (s.dev.alive = true) ∧ (s.dev.inv? inv = some i) ∧ (s.dev.invImg i = some img) ∧ (e = imgEntry img k) ∧ (s.dev.now < launchBeat i e)) ∧
    (∃ (s : State), ∃ (inv : Nat), ∃ (k : Nat), ∃ (i : Inv), ∃ (img : Bytes), ∃ (e : Bytes), (s.dev.alive = true) ∧ (s.dev.inv? inv = some i) ∧ (s.dev.invImg i = some img) ∧ (e = imgEntry img k) ∧ (k < s.dev.invEntries i) ∧ (s.dev.canLaunch i k e = true) ∧ (s.dev.outranked inv i (s.dev.rangeCores i e) = false) ∧ ((s.dev.sepPad i.paddock).last = some i.slot) ∧ (i.primeLeft = none) ∧ (i.bound = false) ∧ (field e 16 4 = 0) ∧ (field e 20 1 = 0) ∧ (field e 8 4 ≠ 0xFFFFFFFF) ∧ (field e 32 4 ≠ 0) ∧ (s.dev.rangeCores i e ≠ [])) ∧
    (∃ (s : State), ∃ (core : Nat), ∃ (k : Nat), ∃ (t : Nat), ∃ (j : Job), ∃ (i : Inv), ∃ (x : EntState), ∃ (img : Bytes), (s.dev.alive = true) ∧ ((s.dev.core core).state = .active) ∧ ((s.dev.core core).job = some j) ∧ ((s.dev.core core).saving = none) ∧ ((s.dev.core core).yield = none) ∧ (s.dev.sep.invs = [(j.inv, i)]) ∧ (s.dev.invImg i = some img) ∧ (j.entry = k) ∧ (i.ents = [(k, x)]) ∧ (field (imgEntry img k) 20 1 = 1) ∧ (s.dev.rangeCores i (imgEntry img k) = [core]) ∧ (x.launched = true) ∧ (x.ended = false) ∧ (i.stopping = false) ∧ (x.yielded = []) ∧ (x.waiting = [t])) ∧
    (∃ (s : State), ∃ (inv : Nat), ∃ (k : Nat), ∃ (i : Inv), ∃ (x : EntState), ∃ (r : CmdRef), (s.dev.alive = true) ∧ (s.dev.sep.invs = [(inv, i)]) ∧ (i.ents = [(k, x)]) ∧ (x.launched = true) ∧ (x.ended = false) ∧ (x.waiting = []) ∧ (x.yielded = []) ∧ (x.status = 0) ∧ (i.tag = .host r) ∧ (s.dev.mirrored i.paddock = false)) ∧
    (∃ (s : State), ∃ (inv : Nat), ∃ (n : Nat), ∃ (i : Inv), ∃ (img : Bytes), (s.dev.alive = true) ∧ (s.dev.inv? inv = some i) ∧ (i.primeLeft = some n) ∧ ((s.dev.sep.copies.any fun c => c.inv == inv && c.prime) = false) ∧ (s.dev.invImg i = some img) ∧ (s.dev.now < launchBeat i (imgEntry img 0))) ∧
    (∃ (s : State), ∃ (inv : Nat), ∃ (i : Inv), ∃ (img : Bytes), ∃ (r : CmdRef), (s.dev.alive = true) ∧ (s.dev.inv? inv = some i) ∧ (i.tag = .host r) ∧ (i.bound = false) ∧ (s.dev.invImg i = some img) ∧ (s.dev.invEnded i = true) ∧ (s.dev.hlt.heldInvs = []) ∧ ((s.dev.paddockDevs i.paddock).length = 1) ∧ (s.dev.rankIn i.paddock = some 0)) :=
  ⟨⟨blk (let d := up; let d := { d with comp.pending := some {} }; d), { h := { src := 1, epoch := 1, roleEpoch := 0 }, kind := .member 0 [], record := [] }, by decide +kernel⟩,
   ⟨blk ((withProg up prog)), { h := { src := 1, epoch := 0, roleEpoch := 0 }, kind := .member 0 [], record := mk 64 [(0, 2, 1), (4, 4, imgCrc prog)] }, 0, by decide +kernel⟩,
   ⟨blk ((running (progE 0 5) invP)), 0, 0, invP, progE 0 5, imgEntry (progE 0 5) 0, by decide +kernel⟩,
   ⟨blk ((let d := running (progE 0 0) invP; { d with sep.pads := d.sep.pads.map fun x => (x.1, { x.2 with last := some 0 }) })), 0, 0, invP, progE 0 0, imgEntry (progE 0 0) 0, by decide +kernel⟩,
   ⟨blk (((running (progE 1 0) { invP with ents := [(0, { launched := true, waiting := [0] })] }).setCore 0 { job := some { inv := 0, entry := 0, task := 0 } })), 0, 0, 0, { inv := 0, entry := 0, task := 0 }, { invP with ents := [(0, { launched := true, waiting := [0] })] }, { launched := true, waiting := [0] }, progE 1 0, by decide +kernel⟩,
   ⟨blk (let d := up; let d := { d with sep.invs := [((0), ({ ({ paddock := 0, slot := 0, tag := (.host { ring := 0, opcode := 0, tag := 0, quiet := false }) } : Inv) with ents := [((0), ({ ({} : EntState) with launched := true, status := 0 } : EntState))], tag := .host ({ ring := 0, opcode := 0, tag := 0, quiet := false } : CmdRef) } : Inv))] }; d), 0, 0, { ({ paddock := 0, slot := 0, tag := (.host { ring := 0, opcode := 0, tag := 0, quiet := false }) } : Inv) with ents := [((0), ({ ({} : EntState) with launched := true, status := 0 } : EntState))], tag := .host ({ ring := 0, opcode := 0, tag := 0, quiet := false } : CmdRef) }, { ({} : EntState) with launched := true, status := 0 }, { ring := 0, opcode := 0, tag := 0, quiet := false }, by decide +kernel⟩,
   ⟨blk ((running (progE 0 5) { invP with primeLeft := some 1 })), 0, 1, { invP with primeLeft := some 1 }, progE 0 5, by decide +kernel⟩,
   ⟨blk ((running prog invP)), 0, invP, prog, { ring := 0, opcode := 0x30, tag := 0, quiet := false }, by decide +kernel⟩⟩

theorem witness_CoresSaveFailAndAreReplaced :
    (∃ (s : State), ∃ (core : Nat), ∃ (pc : Nat), ∃ (k : Nat), ∃ (j : Job), ∃ (i : Inv), ∃ (img : Bytes), (s.dev.alive = true) ∧ ((s.dev.core core).job = some j) ∧ ((s.dev.core core).saving = none) ∧ (s.dev.inv? j.inv = some i) ∧ (i.stopping = false) ∧ (i.setAside = false) ∧ (neverYields i.level = true) ∧ (s.dev.invImg i = some img) ∧ (cheapAt img pc = some k) ∧ ((s.dev.sep.copies.any fun r => r.inv == j.inv && r.cores == [core]) = false) ∧ (s.dev.fab.ops = [])) ∧
    (∃ (s : State), ∃ (core : Nat), ∃ (a : Nat), ∃ (v : Save), ∃ (i : Inv), (s.dev.alive = true) ∧ ((s.dev.core core).saving = some v) ∧ (v.yields = false) ∧ (s.dev.inv? v.job.inv = some i) ∧ (neverYields i.level = true) ∧ (s.dev.saveKey core v.slot = some a)) ∧
    (∃ (s : State), ∃ (core : Nat), ∃ (c : Instr), (s.dev.alive = true) ∧ (core < 544) ∧ ((c = .coreFault core ∨ c = .coreWatchdog core ∧ (s.dev.core core).job.isSome = true)) ∧ ((s.dev.core core).state = .active) ∧ (s.dev.hlt.spare = .none) ∧ (s.dev.inAnyPaddock (clusterBit ((s.dev.core core).subst.getD core)) = false)) ∧
    (∃ (s : State), ∃ (core : Nat), ∃ (c : Instr), ∃ sp, (s.dev.alive = true) ∧ (core < 544) ∧ ((c = .coreFault core ∨ c = .coreWatchdog core ∧ (s.dev.core core).job.isSome = true)) ∧ ((s.dev.core core).state = .active) ∧ (s.dev.hlt.spare = .none) ∧ (s.dev.inAnyPaddock (clusterBit ((s.dev.core core).subst.getD core)) = true) ∧ (s.dev.pairSpare (pairOf core) = some sp) ∧ (sp ≠ core)) ∧
    (∃ (s : State), ∃ (core : Nat), (s.dev.alive = true) ∧ ((s.dev.core core).state = .failed ∨ (s.dev.core core).state = .spare)) ∧
    (∃ (s : State), ∃ (core : Nat), (s.dev.alive = true) ∧ ((s.dev.core core).job = none)) ∧
    (∃ (s : State), ∃ (core : Nat), (s.dev.alive = true) ∧ ((s.dev.core core).state = .loading) ∧ ((s.dev.core core).job = none) ∧ (s.dev.sep.invs = [])) ∧
    (∃ (s : State), ∃ (core : Nat), ∃ j, ∃ i, (s.dev.alive = true) ∧ ((s.dev.core core).state = .loading) ∧ ((s.dev.core core).job = some j) ∧ (s.dev.inv? j.inv = some i) ∧ ((s.dev.core core).current = none)) ∧
    (∃ (s : State), ∃ (core : Nat), (s.dev.alive = true) ∧ (core < 544) ∧ ((s.dev.core core).state = .spare) ∧ (s.dev.hlt.spare = .none)) :=
  ⟨⟨blk (((running progC { invP with level := 1 }).setCore 0 { job := some { inv := 0, entry := 0, task := 0 } })), 0, 7, 0, { inv := 0, entry := 0, task := 0 }, { invP with level := 1 }, progC, by decide +kernel⟩,
   ⟨blk (((running progC { invP with level := 1 }).setCore 0 { saving := some aSave })), 0, memKey 1 (2 ^ 35 - 24 * 2 ^ 20), aSave, { invP with level := 1 }, by decide +kernel⟩,
   ⟨blk (let d := up; let d := { d with hlt.spare := .none }; let d := d.setCore (0) { d.core (0) with state := .active }; d), 0, .coreFault (0), by decide +kernel⟩,
   ⟨blk (let d := up; let d := { d with hlt.spare := .none }; let d := d.setCore (0) { d.core (0) with state := .active }; let d := { d with comp.cur := oneMap }; d), 0, .coreFault 0, 128, by decide +kernel⟩,
   ⟨blk (let d := up; let d := d.setCore (0) { d.core (0) with state := .failed }; d), 0, by decide +kernel⟩,
   ⟨blk (let d := up; let d := d.setCore (0) { d.core (0) with job := none }; d), 0, by decide +kernel⟩,
   ⟨blk (let d := up; let d := d.setCore (0) { d.core (0) with state := .loading, job := none }; d), 0, by decide +kernel⟩,
   ⟨blk (((running progC invP).setCore 0 { state := .loading, job := some { inv := 0, entry := 0, task := 0 } })), 0, { inv := 0, entry := 0, task := 0 }, invP, by decide +kernel⟩,
   ⟨blk (let d := up; let d := { d with hlt.spare := .none }; let d := d.setCore (0) { d.core (0) with state := .spare }; d), 0, by decide +kernel⟩⟩

theorem witness_CopiesAndSelectionsLand :
    (∃ (s : State), ∃ (inv : Nat), ∃ (desc : Nat), ∃ (core : Nat), ∃ (a : Nat), ∃ (b : Nat), ∃ (i : Inv), ∃ (img : Bytes), ∃ (c : Bytes), ∃ (r : CopyRun), (s.dev.alive = true) ∧ ((s.dev.sep.copies.find? fun x => x.inv == inv && x.desc == desc) = some r) ∧ (s.dev.inv? inv = some i) ∧ (s.dev.invImg i = some img) ∧ (c = imgCopy img desc) ∧ (r.cores = [core]) ∧ (r.prime = false) ∧ (field c 24 1 = 0) ∧ (field c 25 1 = 0) ∧ (0 < field c 16 8) ∧ (s.dev.localKey i (field c 0 8) = some a) ∧ (s.dev.localKey i (field c 8 8) = some b) ∧ (a / 2 ^ 64 = 1) ∧ (b / 2 ^ 64 = 1)) ∧
    (∃ (s : State), ∃ (inv : Nat), ∃ (k : Nat), ∃ (desc : Nat), ∃ (i : Inv), ∃ (r : Bytes), ∃ (rem : Tbl Bytes), ∃ code, (s.dev.alive = true) ∧ (s.dev.inv? inv = some i) ∧ (r = (s.dev.readAddr i desc 64 rem).1) ∧ ((i.ent k).status = 0) ∧ (selDescCheck false r = some code)) ∧
    (∃ (s : State), ∃ (inv : Nat), ∃ (k : Nat), ∃ (desc : Nat), ∃ (i : Inv), ∃ (r : Bytes), ∃ (rem : Tbl Bytes), ∃ code, (s.dev.alive = true) ∧ (s.dev.inv? inv = some i) ∧ (r = (s.dev.readAddr i desc 64 rem).1) ∧ ((i.ent k).status = 0) ∧ (selDescCheck true r = some code)) ∧
    (∃ (s : State), ∃ (inv : Nat), ∃ (desc : Nat), ∃ (a : Nat), ∃ (i : Inv), ∃ (r : Bytes), ∃ (row : Bytes), ∃ (res : SelRes), ∃ (rem : Tbl Bytes), (s.dev.alive = true) ∧ (s.dev.inv? inv = some i) ∧ (r = (s.dev.readAddr i desc 64 rem).1) ∧ (selDescCheck false r = none) ∧ (field r 8 8 = 0) ∧ (s.dev.localKey i (field r 16 8) = some a) ∧ (a / 2 ^ 64 = 1) ∧ (row = (s.dev.readAddr i (field r 0 8) ((if field r 37 1 = 2 then 2 else 4) * field r 32 4) rem).1) ∧ (res = selectPass (selModeOf r) (bits (field r 38 1) 2 1) (field r 40 4) (field r 24 6) (field r 36 1) (rowScores (field r 37 1) (field r 32 4) row none))) ∧
    (∃ (s : State), ∃ (inv : Nat), ∃ (desc : Nat), ∃ (a : Nat), ∃ (i : Inv), ∃ (r : Bytes), ∃ (addrs : Bytes), ∃ (ins : List (Bytes × Bool)), ∃ (res : SelRes), ∃ (rem : Tbl Bytes), (s.dev.alive = true) ∧ (s.dev.inv? inv = some i) ∧ (r = (s.dev.readAddr i desc 64 rem).1) ∧ (selDescCheck true r = none) ∧ (addrs = (s.dev.readAddr i (field r 0 8) (8 * field r 32 4) rem).1) ∧ (ins = (List.range (field r 32 4)).map (fun j => s.dev.readAddr i (field addrs (8 * j) 8) (32 + 16 * field r 36 1) rem)) ∧ (ins.all (fun x => selInputOk r x.1) = true) ∧ (s.dev.localKey i (field r 16 8) = some a) ∧ (a / 2 ^ 64 = 1) ∧ (res = selMerge (selModeOf r) (bits (field r 38 1) 2 1) (field r 36 1) (ins.map fun x => SelRes.read x.1))) ∧
    (∃ (s : State), ∃ (core : Nat), (s.dev.alive = true) ∧ (core < 544) ∧ ((s.dev.core core).job.isSome = true) ∧ (s.dev.fab.fences = []) ∧ (s.dev.fab.ops = [])) ∧
    (∃ (s : State), ∃ (core : Nat), ∃ (o : OutOp), (s.dev.alive = true) ∧ (core < 544) ∧ ((s.dev.core core).job.isSome = true) ∧ (s.dev.fab.fences = []) ∧ (s.dev.fab.ops = [o]) ∧ (o.ref.core = core) ∧ (o.acked = false)) ∧
    (∃ (s : State), (s.dev.alive = true) ∧ (s.dev.fab.ops = [])) :=
  ⟨⟨blk ((let d := running progCp invP; { d with sep := { d.sep with copies := [aCopy] } })), 0, 0, 0, memKey 1 0, memKey 1 1024, invP, progCp, imgCopy progCp 0, aCopy, by decide +kernel⟩,
   ⟨blk ((selDev [(30, 2, 1)])), 0, 0, fiveAt, invP, ((selDev [(30, 2, 1)]).readAddr invP fiveAt 64 []).1, {}, C.HIF_RESERVED, by decide +kernel⟩,
   ⟨blk ((selDev [])), 0, 0, fiveAt, invP, ((selDev []).readAddr invP fiveAt 64 []).1, {}, C.SEL_DESC_BAD, by decide +kernel⟩,
   ⟨blk ((selDev [(0, 8, fiveAt + 256), (16, 8, fiveAt + 1024), (32, 4, 1)])), 0, fiveAt, memKey 1 1024, invP, mk 64 [(0, 8, fiveAt + 256), (16, 8, fiveAt + 1024), (32, 4, 1)], leBytes 4 0, selectPass (selModeOf (mk 64 [(0, 8, fiveAt + 256), (16, 8, fiveAt + 1024), (32, 4, 1)] : Bytes)) (bits (field (mk 64 [(0, 8, fiveAt + 256), (16, 8, fiveAt + 1024), (32, 4, 1)] : Bytes) 38 1) 2 1) (field (mk 64 [(0, 8, fiveAt + 256), (16, 8, fiveAt + 1024), (32, 4, 1)] : Bytes) 40 4) (field (mk 64 [(0, 8, fiveAt + 256), (16, 8, fiveAt + 1024), (32, 4, 1)] : Bytes) 24 6) (field (mk 64 [(0, 8, fiveAt + 256), (16, 8, fiveAt + 1024), (32, 4, 1)] : Bytes) 36 1) (rowScores (field (mk 64 [(0, 8, fiveAt + 256), (16, 8, fiveAt + 1024), (32, 4, 1)] : Bytes) 37 1) (field (mk 64 [(0, 8, fiveAt + 256), (16, 8, fiveAt + 1024), (32, 4, 1)] : Bytes) 32 4) (leBytes 4 0 : Bytes) none), {}, by decide +kernel⟩,
   ⟨blk ((selDev [(0, 8, fiveAt + 256), (16, 8, fiveAt + 1024), (32, 4, 1), (38, 1, 8)])), 0, fiveAt, memKey 1 1024, invP, mk 64 [(0, 8, fiveAt + 256), (16, 8, fiveAt + 1024), (32, 4, 1), (38, 1, 8)], leBytes 8 0, [(List.replicate 32 0, false)], selMerge (selModeOf (mk 64 [(0, 8, fiveAt + 256), (16, 8, fiveAt + 1024), (32, 4, 1), (38, 1, 8)] : Bytes)) (bits (field (mk 64 [(0, 8, fiveAt + 256), (16, 8, fiveAt + 1024), (32, 4, 1), (38, 1, 8)] : Bytes) 38 1) 2 1) (field (mk 64 [(0, 8, fiveAt + 256), (16, 8, fiveAt + 1024), (32, 4, 1), (38, 1, 8)] : Bytes) 36 1) (([(List.replicate 32 0, false)] : List (Bytes × Bool)).map fun x => SelRes.read x.1), {}, by decide +kernel⟩,
   ⟨blk ((up.setCore 0 { job := some { inv := 0, entry := 0, task := 0 } })), 0, by decide +kernel⟩,
   ⟨blk ((let d := up.setCore 0 { job := some { inv := 0, entry := 0, task := 0 } }; { d with fab.ops := [anOp] })), 0, anOp, by decide +kernel⟩,
   ⟨blk (up), by decide +kernel⟩⟩

theorem witness_QueriesAndMutationsAtTheirIssuer :
    (∃ (s : State), ∃ (c : HostCmd), ∃ (b : Bytes), (s.dev.alive = true) ∧ (s.dev.takes { rsvOk := argMask true 0 0 0 0, lenOk := fun c => c.hlen % 8 == 0 && decide (c.hlen ≤ 8 * 16384) } c) ∧ (chunks 8 16384 c.data = [b]) ∧ (field b 1 1 = 0) ∧ (s.dev.srch.dir.length < 16384)) ∧
    (∃ (s : State), ∃ (c : HostCmd), ∃ st, (s.dev.alive = true) ∧ (s.dev.takes { shared := true, rsvOk := argMask true 0 (2 ^ 64 - 1) 0 0, lenOk := fun c => c.hlen == 64 } c) ∧ (queryCheck c.data = some st)) ∧
    (∃ (s : State), ∃ (c : HostCmd), ∃ sh, ∃ o, ∃ alt, (s.dev.alive = true) ∧ (s.dev.takes { shared := true, rsvOk := argMask true 0 (2 ^ 64 - 1) 0 0, lenOk := fun c => c.hlen == 64 } c) ∧ (queryCheck c.data = none) ∧ (s.dev.flag F.SRCH_CTRL_EN = true) ∧ (s.dev.hif.dmaFail = false) ∧ (field c.data 2 2 = 1) ∧ (field c.data 1 1 ≠ 0) ∧ (s.dev.mapped (field c.data 48 8) 2 = true) ∧ (field c.data 40 8 = 0) ∧ (s.dev.mapped (field c.data 32 8) (field c.data 12 2 * (if field c.data 14 1 = 0 then 4 else 2)) = true) ∧ (field (s.dev.load (memKey 4 (field c.data 48 8)) 2) 0 2 = sh) ∧ (s.dev.shardOwner (field c.data 0 1) sh = some (o, alt)) ∧ (s.dev.isLost o = false)) ∧
    (∃ (s : State), ∃ (qid : Nat), ∃ (sh : Nat), ∃ (a : ShardAns), ∃ (q : Query), ∃ (x : SubQuery), ∃ (y : SubQuery), (s.dev.alive = true) ∧ (Tbl.at? s.dev.srch.queries qid = some q) ∧ (q.subs = [x, y]) ∧ (x.shard = sh) ∧ (y.shard ≠ sh) ∧ (x.ans = none) ∧ (y.ans = none) ∧ (a.status ≠ C.SRCH_BUSY)) ∧
    (∃ (s : State), ∃ (qid : Nat), ∃ (q : Query), (s.dev.alive = true) ∧ (Tbl.at? s.dev.srch.queries qid = some q) ∧ (s.dev.now < q.issued + q.timeout / 2)) ∧
    (∃ (s : State), ∃ (qid : Nat), ∃ (q : Query), ∃ x, ∃ o, ∃ alt, (s.dev.alive = true) ∧ (Tbl.at? s.dev.srch.queries qid = some q) ∧ (q.issued + q.timeout / 2 ≤ s.dev.now) ∧ (q.subs = [x]) ∧ (x.ans = none) ∧ (x.alt = false) ∧ (s.dev.shardOwner (field q.desc 0 1) x.shard = some (o, alt)) ∧ (alt ≠ 0xFFFF) ∧ (s.dev.hif.dmaFail = false)) ∧
    (∃ (s : State), ∃ (qid : Nat), ∃ (q : Query), (s.dev.alive = true) ∧ (Tbl.at? s.dev.srch.queries qid = some q) ∧ (s.dev.now < q.issued + q.timeout)) ∧
    (∃ (s : State), ∃ (qid : Nat), ∃ (addr : Nat), ∃ (q : Query), ∃ (r : CmdRef), (s.dev.alive = true) ∧ (Tbl.at? s.dev.srch.queries qid = some q) ∧ (q.issued + q.timeout ≤ s.dev.now) ∧ (q.src = .host r addr) ∧ (s.dev.hif.dmaFail = false)) ∧
    (∃ (s : State), ∃ (k : Nat), ∃ (reads : List PassageRead), ∃ (x : Stall), ∃ (b : Bytes), (s.dev.alive = true) ∧ (s.dev.stall? k = some x) ∧ (x.retrieve = some b) ∧ (x.r.state = .intake) ∧ (x.spliced = false) ∧ (x.query = none) ∧ (x.found ≠ []) ∧ (reads.map (·.global) = x.found) ∧ (s.dev.flag F.HLT_TANDEM_EN = false)) ∧
    (∃ (s : State), ∃ (c : HostCmd), (s.dev.alive = true) ∧ (s.dev.takes { shared := true, rsvOk := argMask true 0 (2 ^ 64 - 1) 0 0, lenOk := fun c => c.hlen % 48 == 0 && decide (c.hlen ≤ 48 * 4096) } c) ∧ (chunks 48 4096 c.data = [])) ∧
    (∃ (s : State), ∃ (c : HostCmd), ∃ b, ∃ o, ∃ alt, (s.dev.alive = true) ∧ (s.dev.takes { shared := true, rsvOk := argMask true 0 (2 ^ 64 - 1) 0 0, lenOk := fun c => c.hlen % 48 == 0 && decide (c.hlen ≤ 48 * 4096) } c) ∧ (chunks 48 4096 c.data = [b]) ∧ (s.dev.flag F.SRCH_CTRL_EN = true) ∧ (mutOk b = true) ∧ (s.dev.hif.dmaFail = false) ∧ (s.dev.shardOwner (field b 1 1) (field b 2 2) = some (o, alt)) ∧ (s.dev.isLost o = false)) ∧
    (∃ (s : State), ∃ (cmd : Nat), ∃ (pos : Nat), ∃ (m : MutCmd), (s.dev.alive = true) ∧ (Tbl.at? s.dev.srch.muts cmd = some m) ∧ (m.missing = [pos]) ∧ (s.dev.hif.dmaFail = false)) :=
  ⟨⟨blk (rup), { cmd with hlen := 8, data := List.replicate 8 0 }, List.replicate 8 0, by decide +kernel, by unfold Dev.takes; decide +kernel, by decide +kernel, by decide +kernel, by decide +kernel⟩,
   ⟨blk (rup), { cmd with hlen := 64, data := mk 64 [(15, 1, 1)] }, C.HIF_RESERVED, by decide +kernel, by unfold Dev.takes; decide +kernel, by decide +kernel⟩,
   ⟨blk (let d := (mapped rup); let d := d.setFld F.SRCH_CTRL_EN 1; let d := { d with srch.dir := [(shardKey 0 0, (1, 2))] }; d), { cmd with hlen := 64, data := queryRec }, 0, 1, 2, by decide +kernel, by unfold Dev.takes; decide +kernel, by decide +kernel, by decide +kernel, by decide +kernel, by decide +kernel, by decide +kernel, by decide +kernel, by decide +kernel, by decide +kernel, by decide +kernel, by decide +kernel, by decide +kernel⟩,
   ⟨blk (let d := up; let d := { d with srch.queries := [((0), ({ aQuery with subs := [{ shard := 0, asked := 0 }, { shard := 1, asked := 0 }] } : Query))] }; d), 0, 0, { status := 0 }, { aQuery with subs := [{ shard := 0, asked := 0 }, { shard := 1, asked := 0 }] }, { ({ shard := 0, asked := 0 } : SubQuery) with shard := (0) }, { shard := 1, asked := 0 }, by decide +kernel⟩,
   ⟨blk (let d := up; let d := { d with srch.queries := [((0), ({ aQuery with timeout := 10 } : Query))] }; d), 0, { aQuery with timeout := 10 }, by decide +kernel⟩,
   ⟨blk (let d := up; let d := { d with srch.queries := [(0, { aQuery with subs := [{ shard := 0, asked := 0 }] })] }; let d := { d with srch.dir := [(shardKey 0 0, (1, 2))] }; d), 0, { aQuery with subs := [{ shard := 0, asked := 0 }] }, { shard := 0, asked := 0 }, 1, 2, by decide +kernel⟩,
   ⟨blk (let d := up; let d := { d with srch.queries := [((0), ({ aQuery with timeout := 10 } : Query))] }; d), 0, { aQuery with timeout := 10 }, by decide +kernel⟩,
   ⟨blk (let d := up; let d := { d with srch.queries := [((0), ({ ({ src := (.host { ring := 0, opcode := 0, tag := 0, quiet := false } 0), desc := [], tenant := 0, qbeat := 0, issued := 0, timeout := 0, vec := [], code := [], subs := [] } : Query) with src := .host ({ ring := 0, opcode := 0, tag := 0, quiet := false } : CmdRef) (0) } : Query))] }; d), 0, 0, { ({ src := (.host { ring := 0, opcode := 0, tag := 0, quiet := false } 0), desc := [], tenant := 0, qbeat := 0, issued := 0, timeout := 0, vec := [], code := [], subs := [] } : Query) with src := .host ({ ring := 0, opcode := 0, tag := 0, quiet := false } : CmdRef) (0) }, { ring := 0, opcode := 0, tag := 0, quiet := false }, by decide +kernel⟩,
   ⟨blk (let d := up; let d := { d with stl.stalls := [((0), ({ retrieve := some [], found := [1], r := { state := .intake } } : Stall))] }; d), 0, [{ global := 1, toks := none }], { retrieve := some [], found := [1], r := { state := .intake } }, [], by decide +kernel⟩,
   ⟨blk (rup), cmd, by decide +kernel, by unfold Dev.takes; decide +kernel, by decide +kernel⟩,
   ⟨blk (let d := rup; let d := d.setFld F.SRCH_CTRL_EN 1; let d := { d with srch.dir := [(shardKey 0 0, (1, 2))] }; d), { cmd with hlen := 48, data := delRec }, delRec, 1, 2, by decide +kernel, by unfold Dev.takes; decide +kernel, by decide +kernel, by decide +kernel, by decide +kernel, by decide +kernel, by decide +kernel, by decide +kernel⟩,
   ⟨blk (let d := up; let d := { d with srch.muts := [((0), ({ ({ cmd := { ring := 0, opcode := 0, tag := 0, quiet := false }, addr := 0, count := 0, missing := [] } : MutCmd) with missing := [(0)] } : MutCmd))] }; d), 0, 0, { ({ cmd := { ring := 0, opcode := 0, tag := 0, quiet := false }, addr := 0, count := 0, missing := [] } : MutCmd) with missing := [(0)] }, by decide +kernel⟩⟩

theorem witness_ShardsWalksAndMutationsAtTheOwner :
    (∃ (s : State), ∃ (c : HostCmd), (s.dev.alive = true) ∧ (s.dev.takes (recSpec 128 0 0) c) ∧ (s.dev.flag F.SRCH_CTRL_EN = false)) ∧
    (∃ (s : State), ∃ (c : HostCmd), (s.dev.alive = true) ∧ (s.dev.takes (recSpec 128 0 0) c) ∧ (s.dev.flag F.SRCH_CTRL_EN = true) ∧ (s.dev.comp.role ≠ 3)) ∧
    (∃ (s : State), ∃ (c : HostCmd), (s.dev.alive = true) ∧ (s.dev.takes (recSpec 128 0 0) c) ∧ (s.dev.flag F.SRCH_CTRL_EN = true) ∧ (s.dev.comp.role = 3) ∧ (shardHdrOk c.data = true) ∧ (shProduct c.data = false) ∧ (bit (field c.data 5 1) 1 = true) ∧ (((shardRanges c.data).dropLast.all fun r => s.dev.pinnedHbm r.1 r.2) = true) ∧ (rangesApart (shardRanges c.data) = true) ∧ (s.dev.shard? (field c.data 4 1) (field c.data 6 2) = none) ∧ (s.dev.srch.shards.length < 64)) ∧
    (∃ (s : State), ∃ (c : HostCmd), (s.dev.alive = true) ∧ (s.dev.takes (argSpec 0xFFFFFF 0 0) c) ∧ (s.dev.shard? (bits c.a0 7 0) (bits c.a0 23 8) = none)) ∧
    (∃ (s : State), ∃ (c : HostCmd), ∃ x, (s.dev.alive = true) ∧ (s.dev.takes (argSpec 0xFFFFFF 0 0) c) ∧ (s.dev.srch.shards = [(shardKey (bits c.a0 7 0) (bits c.a0 23 8), x)]) ∧ (x.detaching = none) ∧ (s.dev.shardBusy (shardKey (bits c.a0 7 0) (bits c.a0 23 8)) = false)) ∧
    (∃ (s : State), ∃ (q : ShardQuery), (s.dev.alive = true) ∧ (s.dev.verdict q.h false = .process) ∧ (s.dev.flag F.SRCH_CTRL_EN = false) ∧ (s.dev.hif.dmaFail = false)) ∧
    (∃ (s : State), ∃ (q : ShardQuery), (s.dev.alive = true) ∧ (s.dev.verdict q.h false = .process) ∧ (s.dev.shardCheck q = none)) ∧
    (∃ (s : State), ∃ (k : Nat), ∃ (w : WalkWork), (s.dev.alive = true) ∧ (s.dev.srch.waiting = [(k, w)]) ∧ (s.dev.srch.contexts.length < 16384) ∧ (s.dev.poolUsed + s.dev.walkUnits w ≤ 2 ^ 18)) ∧
    (∃ (s : State), ∃ (k : Nat), ∃ (q : ShardQuery), ∃ (x : ShardRec), ∃ (a : ShardAns), (s.dev.alive = true) ∧ (Tbl.at? s.dev.srch.contexts k = some (.query q)) ∧ ((∀ y ∈ s.dev.srch.shards, y.2.detaching = none)) ∧ (s.dev.hif.dmaFail = false) ∧ (s.dev.shard? q.index q.shard = some x) ∧ (({ s.dev with srch := { s.dev.srch with contexts := Tbl.del s.dev.srch.contexts k } } : Dev).shardAnswer x q = (a, 0))) ∧
    (∃ (s : State), ∃ (k : Nat), ∃ (q : ShardQuery), (s.dev.alive = true) ∧ (Tbl.at? s.dev.srch.contexts k = some (.query q)) ∧ (s.dev.now ≤ q.expires)) ∧
    (∃ (s : State), ∃ (k : Nat), ∃ (q : ShardQuery), (s.dev.alive = true) ∧ (Tbl.at? s.dev.srch.contexts k = some (.query q)) ∧ (q.expires < s.dev.now) ∧ ((∀ y ∈ s.dev.srch.shards, y.2.detaching = none))) ∧
    (∃ (s : State), ∃ (m : MutMsg), (s.dev.alive = true) ∧ (s.dev.verdict m.h false = .process) ∧ (s.dev.hif.dmaFail = false) ∧ (s.dev.flag F.SRCH_CTRL_EN = false)) ∧
    (∃ (s : State), ∃ (m : MutMsg), ∃ x, (s.dev.alive = true) ∧ (s.dev.verdict m.h false = .process) ∧ (s.dev.hif.dmaFail = false) ∧ (s.dev.flag F.SRCH_CTRL_EN = true) ∧ (s.dev.shard? (field m.record 1 1) (field m.record 2 2) = some x) ∧ (x.detaching = none) ∧ (mutOk m.record = true) ∧ (m.forwarded = false) ∧ (x.applied = []) ∧ (field m.record 0 1 = 2) ∧ (s.dev.slotState x.hdr (field m.record 4 4) = 0)) ∧
    (∃ (s : State), ∃ (k : Nat), ∃ (index : Nat), ∃ (shard : Nat), ∃ (i : Nat), ∃ (m : MutMsg), ∃ (x : ShardRec), (s.dev.alive = true) ∧ (s.dev.flat) ∧ (Tbl.at? s.dev.srch.contexts k = some (.insert index shard i m)) ∧ (s.dev.shard? index shard = some x) ∧ (x.delWait = []) ∧ ((∀ y ∈ s.dev.srch.shards, y.2.detaching = none))) ∧
    (∃ (s : State), (s.dev.alive = true) ∧ (s.dev.flag F.SRCH_CTRL_GROOM_EN = false)) ∧
    (∃ (s : State), ∃ index, ∃ shard, ∃ x, (s.dev.alive = true) ∧ (s.dev.flag F.SRCH_CTRL_GROOM_EN = true) ∧ (s.dev.fld F.SRCH_GROOM_ROWS = 1) ∧ (s.dev.flat) ∧ (shard < 2 ^ 16) ∧ (s.dev.srch.shards = [(shardKey index shard, x)]) ∧ (x.row + 1 < shCap x.hdr)) :=
  ⟨⟨blk (rup), { cmd with hlen := 128 }, by decide +kernel, by unfold Dev.takes; decide +kernel, by decide +kernel⟩,
   ⟨blk (let d := rup; let d := d.setFld F.SRCH_CTRL_EN 1; d), { cmd with hlen := 128 }, by decide +kernel, by unfold Dev.takes; decide +kernel, by decide +kernel, by decide +kernel⟩,
   ⟨blk (let d := (mapped rup); let d := d.setFld F.SRCH_CTRL_EN 1; let d := { d with comp.role := 3 }; d), { cmd with hlen := 128, data := shardRec }, by decide +kernel, by unfold Dev.takes; decide +kernel, by decide +kernel, by decide +kernel, by decide +kernel, by decide +kernel, by decide +kernel, by decide +kernel, by decide +kernel, by decide +kernel, by decide +kernel⟩,
   ⟨blk (rup), cmd, by decide +kernel, by unfold Dev.takes; decide +kernel, by decide +kernel⟩,
   ⟨blk (let d := rup; let d := { d with srch.shards := [(shardKey (bits (cmd : HostCmd).a0 7 0) (bits (cmd : HostCmd).a0 23 8), ({ hdr := [], entries := [] }))] }; d), cmd, { hdr := [], entries := [] }, by decide +kernel, by unfold Dev.takes; decide +kernel, by decide +kernel, by decide +kernel, by decide +kernel⟩,
   ⟨blk (up), { h := { src := 0, epoch := 0, roleEpoch := 0 }, qid := 0, index := 0, shard := 0, k := 0, ef := 0, rerank := 0, maxExpand := 0, filtA := 0, filtB := 0, dim := 0, vec := [], code := [], qbeat := 0, tenant := 0, expires := 0 }, by decide +kernel⟩,
   ⟨blk (let d := up; let d := { d with srch.shards := [(shardKey 0 0, { hdr := mk 128 [(8, 4, 1), (14, 2, 32)], entries := [] })] }; let d := d.setFld F.SRCH_CTRL_EN 1; d), aShardQuery, by decide +kernel⟩,
   ⟨blk (let d := up; let d := { d with srch.waiting := [((0), ((.query { h := { src := 0, epoch := 0, roleEpoch := 0 }, qid := 0, index := 0, shard := 0, k := 0, ef := 0, rerank := 0, maxExpand := 0, filtA := 0, filtB := 0, dim := 0, vec := [], code := [], qbeat := 0, tenant := 0, expires := 0 }) : WalkWork))] }; d), 0, (.query { h := { src := 0, epoch := 0, roleEpoch := 0 }, qid := 0, index := 0, shard := 0, k := 0, ef := 0, rerank := 0, maxExpand := 0, filtA := 0, filtB := 0, dim := 0, vec := [], code := [], qbeat := 0, tenant := 0, expires := 0 }), by decide +kernel⟩,
   ⟨blk (let d := up; let d := { d with srch.contexts := [((0), (.query ({ h := { src := 0, epoch := 0, roleEpoch := 0 }, qid := 0, index := 0, shard := 0, k := 0, ef := 0, rerank := 0, maxExpand := 0, filtA := 0, filtB := 0, dim := 0, vec := [], code := [], qbeat := 0, tenant := 0, expires := 0 } : ShardQuery)))] }; let d := { d with srch.shards := [(shardKey ({ h := { src := 0, epoch := 0, roleEpoch := 0 }, qid := 0, index := 0, shard := 0, k := 0, ef := 0, rerank := 0, maxExpand := 0, filtA := 0, filtB := 0, dim := 0, vec := [], code := [], qbeat := 0, tenant := 0, expires := 0 } : ShardQuery).index ({ h := { src := 0, epoch := 0, roleEpoch := 0 }, qid := 0, index := 0, shard := 0, k := 0, ef := 0, rerank := 0, maxExpand := 0, filtA := 0, filtB := 0, dim := 0, vec := [], code := [], qbeat := 0, tenant := 0, expires := 0 } : ShardQuery).shard, ({ hdr := [], entries := [] } : ShardRec))] }; d), 0, { h := { src := 0, epoch := 0, roleEpoch := 0 }, qid := 0, index := 0, shard := 0, k := 0, ef := 0, rerank := 0, maxExpand := 0, filtA := 0, filtB := 0, dim := 0, vec := [], code := [], qbeat := 0, tenant := 0, expires := 0 }, { hdr := [], entries := [] }, { status := 0 }, by decide +kernel⟩,
   ⟨blk (let d := up; let d := { d with srch.contexts := [((0), (.query ({ h := { src := 0, epoch := 0, roleEpoch := 0 }, qid := 0, index := 0, shard := 0, k := 0, ef := 0, rerank := 0, maxExpand := 0, filtA := 0, filtB := 0, dim := 0, vec := [], code := [], qbeat := 0, tenant := 0, expires := 0 } : ShardQuery)))] }; d), 0, { h := { src := 0, epoch := 0, roleEpoch := 0 }, qid := 0, index := 0, shard := 0, k := 0, ef := 0, rerank := 0, maxExpand := 0, filtA := 0, filtB := 0, dim := 0, vec := [], code := [], qbeat := 0, tenant := 0, expires := 0 }, by decide +kernel⟩,
   ⟨blk (let d := up; let d := { d with srch.contexts := [((0), (.query ({ h := { src := 0, epoch := 0, roleEpoch := 0 }, qid := 0, index := 0, shard := 0, k := 0, ef := 0, rerank := 0, maxExpand := 0, filtA := 0, filtB := 0, dim := 0, vec := [], code := [], qbeat := 0, tenant := 0, expires := 0 } : ShardQuery)))] }; let d := { d with cad.count := 1 }; d), 0, { h := { src := 0, epoch := 0, roleEpoch := 0 }, qid := 0, index := 0, shard := 0, k := 0, ef := 0, rerank := 0, maxExpand := 0, filtA := 0, filtB := 0, dim := 0, vec := [], code := [], qbeat := 0, tenant := 0, expires := 0 }, by decide +kernel⟩,
   ⟨blk (up), { h := { src := 0, epoch := 0, roleEpoch := 0 }, issuer := 0, cmd := 0, pos := 0, record := [] }, by decide +kernel⟩,
   ⟨blk (let d := up; let d := d.setFld F.SRCH_CTRL_EN 1; let d := { d with srch.shards := [(shardKey (field ({ h := { src := 0, epoch := 0, roleEpoch := 0 }, issuer := 0, cmd := 0, pos := 0, record := delRec } : MutMsg).record 1 1) (field ({ h := { src := 0, epoch := 0, roleEpoch := 0 }, issuer := 0, cmd := 0, pos := 0, record := delRec } : MutMsg).record 2 2), ({ hdr := [], entries := [] }))] }; d), { h := { src := 0, epoch := 0, roleEpoch := 0 }, issuer := 0, cmd := 0, pos := 0, record := delRec }, { hdr := [], entries := [] }, by decide +kernel⟩,
   ⟨blk (let d := up; let d := { d with srch.contexts := [((0), (.insert (0) (0) (0) ({ h := { src := 0, epoch := 0, roleEpoch := 0 }, issuer := 0, cmd := 0, pos := 0, record := [] } : MutMsg)))] }; let d := { d with srch.shards := [(shardKey (0) (0), ({ hdr := [], entries := [] } : ShardRec))] }; d), 0, 0, 0, 0, { h := { src := 0, epoch := 0, roleEpoch := 0 }, issuer := 0, cmd := 0, pos := 0, record := [] }, { hdr := [], entries := [] }, by decide +kernel, (by unfold Dev.flat; intro u r h; cases h), by decide +kernel, by decide +kernel, by decide +kernel, by decide +kernel⟩,
   ⟨blk (let d := up; let d := d.setFld F.SRCH_CTRL_GROOM_EN 0; d), by decide +kernel⟩,
   ⟨blk (let d := up; let d := d.setFld F.SRCH_CTRL_GROOM_EN 1; let d := d.setFld F.SRCH_GROOM_ROWS 1; let d := { d with srch.shards := [(shardKey (0) (0), ({ hdr := mk 128 [(8, 4, 2)], entries := [] }))] }; d), 0, 0, { hdr := mk 128 [(8, 4, 2)], entries := [] }, by decide +kernel, by decide +kernel, by decide +kernel, (by unfold Dev.flat; intro u r h; cases h), by decide +kernel, by decide +kernel, by decide +kernel⟩⟩

theorem witness_RegionsAreDefinedFlushedAndRemoved :
    (∃ (s : State), ∃ (c : HostCmd), (s.dev.alive = true) ∧ (s.dev.takes (recSpec 64 0 0) c) ∧ (bit (field c.data 3 1) 2 = false) ∧ (regionBad308 c.data (s.dev.fld F.HAY_CAP_UNITS) = true)) ∧
    (∃ (s : State), ∃ (c : HostCmd), (s.dev.alive = true) ∧ (s.dev.takes (recSpec 64 0 0) c) ∧ (bit (field c.data 3 1) 2 = false) ∧ (regionBad308 c.data (s.dev.fld F.HAY_CAP_UNITS) = false) ∧ (bit (field c.data 3 1) 0 = false) ∧ (s.dev.regionBusy (field c.data 0 2) (field c.data 8 8) (field c.data 16 8) none = true)) ∧
    (∃ (s : State), ∃ (c : HostCmd), (s.dev.alive = true) ∧ (s.dev.takes (recSpec 64 0 0) c) ∧ (bit (field c.data 3 1) 2 = false) ∧ (regionBad308 c.data (s.dev.fld F.HAY_CAP_UNITS) = false) ∧ (bit (field c.data 3 1) 0 = false) ∧ (s.dev.regionBusy (field c.data 0 2) (field c.data 8 8) (field c.data 16 8) none = false) ∧ (field c.data 2 1 = 3) ∧ (bit (field c.data 3 1) 1 = false) ∧ ((s.dev.taken c).takeFrames (ceilDiv (8 * (field c.data 16 8 / memUnit)) memUnit) 1 = none)) ∧
    (∃ (s : State), ∃ (c : HostCmd), ∃ t, ∃ d1, (s.dev.alive = true) ∧ (s.dev.takes (recSpec 64 0 0) c) ∧ (bit (field c.data 3 1) 2 = false) ∧ (regionBad308 c.data (s.dev.fld F.HAY_CAP_UNITS) = false) ∧ (bit (field c.data 3 1) 0 = false) ∧ (s.dev.regionBusy (field c.data 0 2) (field c.data 8 8) (field c.data 16 8) none = false) ∧ (field c.data 2 1 = 3) ∧ (bit (field c.data 3 1) 1 = false) ∧ ((s.dev.taken c).takeFrames (ceilDiv (8 * (field c.data 16 8 / memUnit)) memUnit) 1 = some (t, d1))) ∧
    (∃ (s : State), ∃ (c : HostCmd), (s.dev.alive = true) ∧ (s.dev.takes (recSpec 64 0 0) c) ∧ (bit (field c.data 3 1) 2 = true) ∧ (Tbl.at? s.dev.memt.regions (field c.data 0 2) = none)) ∧
    (∃ (s : State), ∃ (c : HostCmd), ∃ r, (s.dev.alive = true) ∧ (s.dev.takes (recSpec 64 0 0) c) ∧ (bit (field c.data 3 1) 2 = true) ∧ (s.dev.memt.regions = [(field c.data 0 2, r)]) ∧ (removalBad c.data = false) ∧ (r.removing = none) ∧ (r.tiers = 3) ∧ (s.dev.memt.units = []) ∧ (s.dev.memt.wbs = []) ∧ (s.dev.memt.waits = []) ∧ (r.lba = none)) ∧
    (∃ (s : State), ∃ (c : HostCmd), ∃ (us : List Nat), (s.dev.alive = true) ∧ (s.dev.takes { shared := true, rsvOk := argMask false 0 (2 ^ 48 - 1) (2 ^ 64 - 1) 0 } c) ∧ (us = (s.dev.memt.units.filter fun x => x.2.dirty && decide (c.a1 < (x.1 + 1) * memUnit) && decide (x.1 * memUnit < c.a1 + c.a2)).map (·.1)) ∧ (s.dev.memt.wbs = []) ∧ (c.a2 = 0)) ∧
    (∃ (s : State), ∃ (c : HostCmd), ∃ (us : List Nat), (s.dev.alive = true) ∧ (s.dev.takes { shared := true, rsvOk := argMask false 0 (2 ^ 48 - 1) (2 ^ 64 - 1) 0 } c) ∧ (us = (s.dev.memt.units.filter fun x => x.2.dirty && decide (c.a1 < (x.1 + 1) * memUnit) && decide (x.1 * memUnit < c.a1 + c.a2)).map (·.1)) ∧ (s.dev.memt.wbs = []) ∧ (c.a2 ≠ 0) ∧ ((2 ^ 48 < c.a1 + c.a2 ∨ s.dev.mapped c.a1 c.a2 = false))) ∧
    (∃ (s : State), ∃ (c : HostCmd), ∃ (us : List Nat), (s.dev.alive = true) ∧ (s.dev.takes { shared := true, rsvOk := argMask false 0 (2 ^ 48 - 1) (2 ^ 64 - 1) 0 } c) ∧ (us = (s.dev.memt.units.filter fun x => x.2.dirty && decide (c.a1 < (x.1 + 1) * memUnit) && decide (x.1 * memUnit < c.a1 + c.a2)).map (·.1)) ∧ (s.dev.memt.wbs = []) ∧ (c.a2 ≠ 0) ∧ (c.a1 + c.a2 ≤ 2 ^ 48) ∧ (s.dev.mapped c.a1 c.a2 = true) ∧ (us = [])) ∧
    (∃ (s : State), ∃ (c : HostCmd), ∃ (us : List Nat), (s.dev.alive = true) ∧ (s.dev.takes { shared := true, rsvOk := argMask false 0 (2 ^ 48 - 1) (2 ^ 64 - 1) 0 } c) ∧ (us = (s.dev.memt.units.filter fun x => x.2.dirty && decide (c.a1 < (x.1 + 1) * memUnit) && decide (x.1 * memUnit < c.a1 + c.a2)).map (·.1)) ∧ (s.dev.memt.wbs = []) ∧ (c.a2 ≠ 0) ∧ (c.a1 + c.a2 ≤ 2 ^ 48) ∧ (s.dev.mapped c.a1 c.a2 = true) ∧ (us ≠ [])) ∧
    (∃ (s : State), ∃ (c : HostCmd), ∃ (es : List Bytes), (s.dev.alive = true) ∧ (s.dev.takes { rsvOk := argMask true 0xFFFFF 0 0 0, lenOk := fun c => c.hlen % 32 == 0 && decide (c.hlen ≤ 32 * 4096) } c) ∧ (es = chunks 32 4096 c.data) ∧ (es.all (pfEntryOk s.dev) = false ∨ needRises (es.map fun e => field e 0 4) = false)) ∧
    (∃ (s : State), ∃ (c : HostCmd), ∃ (es : List Bytes), ∃ fr, ∃ d2, (s.dev.alive = true) ∧ (s.dev.takes { rsvOk := argMask true 0xFFFFF 0 0 0, lenOk := fun c => c.hlen % 32 == 0 && decide (c.hlen ≤ 32 * 4096) } c) ∧ (es = chunks 32 4096 c.data) ∧ (es.all (pfEntryOk s.dev) = true) ∧ (needRises (es.map fun e => field e 0 4) = true) ∧ (es ≠ []) ∧ (Tbl.at? (s.dev.sepPad (bits c.a0 15 0)).pfFrames (bits c.a0 19 16) = none) ∧ ((s.dev.taken c).takeFrames (ceilDiv (32 * es.length) memUnit) 1 = some (fr, d2))) :=
  ⟨⟨blk (rup), { cmd with hlen := 64 }, by decide +kernel, by unfold Dev.takes; decide +kernel, by decide +kernel, by decide +kernel⟩,
   ⟨blk ({ rup with memt.regions := [(0, aRegion)] }), { cmd with hlen := 64, data := regRec }, by decide +kernel, by unfold Dev.takes; decide +kernel, by decide +kernel, by decide +kernel, by decide +kernel, by decide +kernel⟩,
   ⟨blk (rup), { cmd with hlen := 64, data := regRec }, by decide +kernel, by unfold Dev.takes; decide +kernel, by decide +kernel, by decide +kernel, by decide +kernel, by decide +kernel, by decide +kernel, by decide +kernel, by decide +kernel⟩,
   ⟨blk (let d := rup; let d := d.setFld F.MEM_POOL_GRP_MASK 1; d), { cmd with hlen := 64, data := regRec }, ((((rup.setFld F.MEM_POOL_GRP_MASK 1).taken { cmd with hlen := 64, data := regRec }).takeFrames 1 1).getD ([], up)).1, ((((rup.setFld F.MEM_POOL_GRP_MASK 1).taken { cmd with hlen := 64, data := regRec }).takeFrames 1 1).getD ([], up)).2, by decide +kernel, by unfold Dev.takes; decide +kernel, by decide +kernel, by decide +kernel, by decide +kernel, by decide +kernel, by decide +kernel, by decide +kernel, by decide +kernel⟩,
   ⟨blk (rup), { cmd with hlen := 64, data := regDrop }, by decide +kernel, by unfold Dev.takes; decide +kernel, by decide +kernel, by decide +kernel⟩,
   ⟨blk ({ rup with memt.regions := [(1, { base := 0, size := 65536, tiers := 3 })] }), { cmd with hlen := 64, data := regDrop }, { base := 0, size := 65536, tiers := 3 }, by decide +kernel, by unfold Dev.takes; decide +kernel, by decide +kernel, by decide +kernel, by decide +kernel, by decide +kernel, by decide +kernel, by decide +kernel, by decide +kernel, by decide +kernel, by decide +kernel⟩,
   ⟨blk (rup), { (cmd : HostCmd) with a2 := 0 }, [], by decide +kernel, by unfold Dev.takes; decide +kernel, by decide +kernel, by decide +kernel, by decide +kernel⟩,
   ⟨blk (rup), { cmd with a2 := 65536 }, [], by decide +kernel, by unfold Dev.takes; decide +kernel, by decide +kernel, by decide +kernel, by decide +kernel, by decide +kernel⟩,
   ⟨blk ((mapped rup)), { cmd with a2 := 65536 }, [], by decide +kernel, by unfold Dev.takes; decide +kernel, by decide +kernel, by decide +kernel, by decide +kernel, by decide +kernel, by decide +kernel, by decide +kernel⟩,
   ⟨blk ((range rup aRegion { dirty := true })), { cmd with a2 := 65536 }, [0], by decide +kernel, by unfold Dev.takes; decide +kernel, by decide +kernel, by decide +kernel, by decide +kernel, by decide +kernel, by decide +kernel, by decide +kernel⟩,
   ⟨blk (rup), { cmd with hlen := 32, data := List.replicate 32 1 }, [List.replicate 32 1], by decide +kernel, by unfold Dev.takes; decide +kernel, by decide +kernel, by decide +kernel⟩,
   ⟨blk (((range rup aRegion {}).setFld F.MEM_POOL_GRP_MASK 1)), { cmd with hlen := 32, data := pfNow }, [pfNow], (((((range rup aRegion {}).setFld F.MEM_POOL_GRP_MASK 1).taken { cmd with hlen := 32, data := pfNow }).takeFrames 1 1).getD ([], up)).1, (((((range rup aRegion {}).setFld F.MEM_POOL_GRP_MASK 1).taken { cmd with hlen := 32, data := pfNow }).takeFrames 1 1).getD ([], up)).2, by decide +kernel, by unfold Dev.takes; decide +kernel, by decide +kernel, by decide +kernel, by decide +kernel, by decide +kernel, by decide +kernel, by decide +kernel⟩⟩

theorem witness_AccessesOfTheUnifiedRange :
    (∃ (s : State), ∃ (addr : Nat), (s.dev.alive = true) ∧ (s.dev.flag F.MEM_CTRL_EN = false ∨ s.dev.openRegion (addr % 2 ^ 48 / memUnit) = none)) ∧
    (∃ (s : State), ∃ (addr : Nat), ∃ r, (s.dev.alive = true) ∧ (s.dev.flag F.MEM_CTRL_EN = true) ∧ (s.dev.openRegion (addr % 2 ^ 48 / memUnit) = some r) ∧ ((s.dev.unit (addr % 2 ^ 48 / memUnit)).state = .hbm)) ∧
    (∃ (s : State), ∃ (addr : Nat), ∃ (data : Bytes), ∃ r, (s.dev.alive = true) ∧ (s.dev.flag F.MEM_CTRL_EN = true) ∧ (s.dev.openRegion (addr % 2 ^ 48 / memUnit) = some r) ∧ ((s.dev.unit (addr % 2 ^ 48 / memUnit)).state = .hbm) ∧ (data.length ≤ unitRoom (addr % 2 ^ 48))) ∧
    (∃ (s : State), ∃ (addr : Nat), ∃ r, ∃ st, ∃ k, ∃ d1, (s.dev.alive = true) ∧ (s.dev.flag F.MEM_CTRL_EN = true) ∧ (s.dev.openRegion (addr % 2 ^ 48 / memUnit) = some r) ∧ ((s.dev.unit (addr % 2 ^ 48 / memUnit)).state = .hay) ∧ ((s.dev.warmed (addr % 2 ^ 48 / memUnit) r).moves < 1024) ∧ ((s.dev.warmed (addr % 2 ^ 48 / memUnit) r).takeFrame r = some (st, k, d1))) ∧
    (∃ (s : State), ∃ (who : Nat), (s.dev.alive = true) ∧ ((∀ w ∈ s.dev.memt.waits, w.who = who → s.dev.now < w.since + 2 ^ 20))) ∧
    (∃ (s : State), ∃ (who : Nat), ∃ w, (s.dev.alive = true) ∧ (s.dev.memt.waits = [w]) ∧ (w.who = who) ∧ (w.since + 2 ^ 20 ≤ s.dev.now)) :=
  ⟨⟨blk (up), 0, by decide +kernel⟩,
   ⟨blk (let d := (range up aRegion { state := .hbm }); let d := d.setFld F.MEM_CTRL_EN 1; d), 0, aRegion, by decide +kernel⟩,
   ⟨blk (let d := (range up aRegion { state := .hbm }); let d := d.setFld F.MEM_CTRL_EN 1; d), 0, [], aRegion, by decide +kernel⟩,
   ⟨blk (let d := ((range up aRegion { state := .hay }).setFld F.MEM_POOL_GRP_MASK 1); let d := d.setFld F.MEM_CTRL_EN 1; d), 0, aRegion, .hbm, ((((((range up aRegion { state := .hay }).setFld F.MEM_POOL_GRP_MASK 1).setFld F.MEM_CTRL_EN 1).warmed 0 aRegion).takeFrame aRegion).getD (.hbm, 0, up)).2.1, ((((((range up aRegion { state := .hay }).setFld F.MEM_POOL_GRP_MASK 1).setFld F.MEM_CTRL_EN 1).warmed 0 aRegion).takeFrame aRegion).getD (.hbm, 0, up)).2.2, by decide +kernel⟩,
   ⟨blk (up), 0, by decide +kernel⟩,
   ⟨blk (let d := { up with memt.waits := [{ who := 0, addr := 0, len := 0, write := none, sharp := false, poison := false, since := 0 }] }; let d := { d with cad.count := 2 ^ 20 }; d), 0, { who := 0, addr := 0, len := 0, write := none, sharp := false, poison := false, since := 0 }, by decide +kernel⟩⟩

theorem witness_AStoreIsReadBack : ∃ (s : State), ∃ (addr : Nat), ∃ (data : Bytes), ∃ (r : MemRegion), (s.dev.alive = true) ∧ (s.dev.flag F.MEM_CTRL_EN = true) ∧ (s.dev.openRegion (addr % 2 ^ 48 / memUnit) = some r) ∧ ((s.dev.unit (addr % 2 ^ 48 / memUnit)).state = .hbm) ∧ (data.length ≤ unitRoom (addr % 2 ^ 48)) :=
  ⟨blk (let d := (range up aRegion { state := .hbm }); let d := d.setFld F.MEM_CTRL_EN 1; d), 0, [], aRegion, by decide +kernel⟩

theorem witness_UnitsMoveAndAreWrittenBack :
    (∃ (s : State), ∃ (u : Nat), ∃ (pass : Nat), ∃ (x : MUnit), (s.dev.alive = true) ∧ (s.dev.unit u = x) ∧ (x.state ≠ .moving ∨ x.dst = .hay ∨ x.restarts ≠ pass)) ∧
    (∃ (s : State), ∃ (u : Nat), ∃ (pass : Nat), ∃ (x : MUnit), (s.dev.alive = true) ∧ (s.dev.unit u = x) ∧ (x.state = .moving) ∧ (x.src = .host) ∧ (x.dst = .hbm) ∧ (x.restarts = pass) ∧ (s.dev.memt.waits = []) ∧ (s.dev.memt.want = []) ∧ ((∀ y ∈ s.dev.memt.regions, y.2.removing = none))) ∧
    (∃ (s : State), ∃ (home : Nat), ∃ (stall : Nat), ∃ (page : Nat), ∃ (shard : Nat), (s.dev.alive = true) ∧ (s.dev.heldAt home stall page shard = none)) ∧
    (∃ (s : State), (s.dev.alive = true) ∧ (Tbl.rising s.dev.memt.units = true)) ∧
    (∃ (s : State), (s.dev.alive = true) ∧ (s.dev.memt.units = []) ∧ (s.dev.pan.held = [])) ∧
    (∃ (s : State), ∃ u, ∃ x, ∃ r, (s.dev.alive = true) ∧ (s.dev.memt.units = [(u, x)]) ∧ (s.dev.pan.held = []) ∧ (s.dev.fld F.MEM_HOST_SIZE_SIZE = 0) ∧ (s.dev.framesFree < s.dev.fld F.MEM_WM_LOW) ∧ (s.dev.framesFree < s.dev.fld F.MEM_WM_HIGH) ∧ (s.dev.regionOf u = some r) ∧ (r.pinned = false) ∧ (r.allowsHost = false) ∧ (r.allowsHay = true) ∧ (x.state = .hbm) ∧ (x.dirty = false) ∧ (x.hayValid = true) ∧ (x.still ≤ s.dev.now) ∧ (s.dev.poolGroups.contains (x.frame / 2 ^ 19) = true)) ∧
    (∃ (s : State), ∃ (u : Nat), (s.dev.alive = true) ∧ (u ∉ s.dev.memt.wbs)) ∧
    (∃ (s : State), ∃ (u : Nat), (s.dev.alive = true) ∧ (u ∈ s.dev.memt.wbs) ∧ ((s.dev.unit u).state = .hbm) ∧ (HayOwner.unit u ∈ s.dev.hay.failedOwners)) ∧
    (∃ (s : State), ∃ (u : Nat), ∃ c, (s.dev.alive = true) ∧ (u ∈ s.dev.memt.wbs) ∧ ((s.dev.unit u).state = .hbm) ∧ (HayOwner.unit u ∉ s.dev.hay.failedOwners) ∧ (s.dev.hayPending (.unit u) = false) ∧ (s.dev.memt.wbWant = []) ∧ (s.dev.memt.waits = []) ∧ (s.dev.memt.want = []) ∧ ((∀ y ∈ s.dev.memt.regions, y.2.removing = none)) ∧ (s.dev.memt.flushes = [(c, [u])])) ∧
    (∃ (s : State), ∃ (u : Nat), (s.dev.alive = true) ∧ (s.dev.fld F.MEM_FLUSH_AGE_AGE = 0 ∨ (s.dev.unit u).dirty = false ∨ u ∈ s.dev.memt.wbs ∨ s.dev.now < (s.dev.unit u).since + s.dev.fld F.MEM_FLUSH_AGE_AGE)) ∧
    (∃ (s : State), ∃ (u : Nat), ∃ (lba : Nat), ∃ (r : MemRegion), (s.dev.alive = true) ∧ (s.dev.fld F.MEM_FLUSH_AGE_AGE ≠ 0) ∧ ((s.dev.unit u).dirty = true) ∧ (u ∉ s.dev.memt.wbs) ∧ ((s.dev.unit u).since + s.dev.fld F.MEM_FLUSH_AGE_AGE ≤ s.dev.now) ∧ (s.dev.regionOf u = some r) ∧ (r.backing u = some lba) ∧ (s.dev.poisoned (unitKey u) memUnit = false) ∧ (s.dev.memt.wbWant = []) ∧ (s.dev.memt.wbs.length < 256)) ∧
    (∃ (s : State), ∃ (inv : Nat), ∃ (e : Nat), ∃ (i : Inv), ∃ (x : Bytes), (s.dev.alive = true) ∧ (s.dev.inv? inv = some i) ∧ ((s.dev.pfOf i)[e]? = some x) ∧ (s.dev.now < i.base + field x 0 4 - s.dev.pfLead x ∨ (inv, e) ∈ s.dev.memt.pfStarted)) ∧
    (∃ (s : State), ∃ (inv : Nat), ∃ (e : Nat), ∃ (u : Nat), ∃ (i : Inv), ∃ (x : Bytes), (s.dev.alive = true) ∧ (s.dev.inv? inv = some i) ∧ ((s.dev.pfOf i)[e]? = some x) ∧ (i.base + field x 0 4 - s.dev.pfLead x ≤ s.dev.now) ∧ ((inv, e) ∉ s.dev.memt.pfStarted) ∧ (pfUnits x = [u]) ∧ ((s.dev.unit u).state = .host)) ∧
    (∃ (s : State), ∃ (inv : Nat), ∃ (e : Nat), ∃ (i : Inv), ∃ (x : Bytes), (s.dev.alive = true) ∧ (s.dev.inv? inv = some i) ∧ ((s.dev.pfOf i)[e]? = some x) ∧ (bit (field x 24 1) 0 = false)) ∧
    (∃ (s : State), ∃ (inv : Nat), ∃ (e : Nat), ∃ (u : Nat), ∃ (i : Inv), ∃ (x : Bytes), ∃ (r : MemRegion), (s.dev.alive = true) ∧ (s.dev.inv? inv = some i) ∧ ((s.dev.pfOf i)[e]? = some x) ∧ (bit (field x 24 1) 0 = true) ∧ (s.dev.pfOf i = [x]) ∧ (pfUnits x = [u]) ∧ (s.dev.memt.pfStarted = []) ∧ (s.dev.regionOf u = some r) ∧ (r.pinned = false) ∧ (r.allowsHost = false) ∧ (r.allowsHay = true) ∧ ((s.dev.unit u).state = .hbm) ∧ ((s.dev.unit u).dirty = false) ∧ ((s.dev.unit u).hayValid = true) ∧ ((s.dev.unit u).still ≤ s.dev.now) ∧ (s.dev.moves < 768) ∧ (s.dev.now < i.base + field x 28 4)) ∧
    (∃ (s : State), ∃ (inv : Nat), ∃ (e : Nat), ∃ (u : Nat), ∃ (i : Inv), ∃ (x : Bytes), ∃ (r : MemRegion), (s.dev.alive = true) ∧ (s.dev.inv? inv = some i) ∧ ((s.dev.pfOf i)[e]? = some x) ∧ (bit (field x 24 1) 0 = true) ∧ (s.dev.pfOf i = [x]) ∧ (pfUnits x = [u]) ∧ (s.dev.memt.pfStarted = []) ∧ (s.dev.regionOf u = some r) ∧ (r.pinned = false) ∧ (r.allowsHost = false) ∧ (r.allowsHay = true) ∧ ((s.dev.unit u).state = .hbm) ∧ ((s.dev.unit u).dirty = false) ∧ ((s.dev.unit u).hayValid = true) ∧ ((s.dev.unit u).still ≤ s.dev.now) ∧ (s.dev.moves < 768) ∧ (i.base + field x 28 4 ≤ s.dev.now)) :=
  ⟨⟨blk (up), 0, 0, {}, by decide +kernel⟩,
   ⟨blk ((range up aRegion { state := .moving, src := .host, dst := .hbm })), 0, 0, { state := .moving, src := .host, dst := .hbm }, by decide +kernel⟩,
   ⟨blk (up), 0, 0, 0, 0, by decide +kernel⟩,
   ⟨blk (up), by decide +kernel⟩,
   ⟨blk (up), by decide +kernel⟩,
   ⟨blk (((((range up hayRegion { state := .hbm, hayValid := true }).setFld F.MEM_POOL_GRP_MASK 1).setFld F.MEM_WM_LOW (2 ^ 19 + 1)).setFld F.MEM_WM_HIGH (2 ^ 19 + 1))), 0, { state := .hbm, hayValid := true }, hayRegion, by decide +kernel⟩,
   ⟨blk (up), 0, by decide +kernel⟩,
   ⟨blk ((let d := range up aRegion { state := .hbm }; { d with memt.wbs := [0], hay.failedOwners := [.unit 0] })), 0, by decide +kernel⟩,
   ⟨blk ((let d := range up aRegion { state := .hbm }; { d with memt.wbs := [0], memt.flushes := [({ ring := 0, opcode := 0, tag := 0, quiet := false }, [0])] })), 0, { ring := 0, opcode := 0, tag := 0, quiet := false }, by decide +kernel⟩,
   ⟨blk (up), 0, by decide +kernel⟩,
   ⟨blk (let d := ((range up aRegion { state := .hbm, dirty := true }).setFld F.MEM_FLUSH_AGE_AGE 1); let d := { d with cad.count := 1 }; d), 0, 0, aRegion, by decide +kernel⟩,
   ⟨blk ((withPf up pfLater)), 0, 0, invP, pfLater, by decide +kernel⟩,
   ⟨blk ((withPf (range up aRegion { state := .host }) pfNow)), 0, 0, 0, invP, pfNow, by decide +kernel⟩,
   ⟨blk ((withPf up pfLater)), 0, 0, invP, pfLater, by decide +kernel⟩,
   ⟨blk ((withPf (range up hayRegion { state := .hbm, hayValid := true }) (pfEvict 5))), 0, 0, 0, invP, pfEvict 5, hayRegion, by decide +kernel⟩,
   ⟨blk ((withPf (range up hayRegion { state := .hbm, hayValid := true }) (pfEvict 0))), 0, 0, 0, invP, pfEvict 0, hayRegion, by decide +kernel⟩⟩

theorem witness_MemoryFaultsAreCounted :
    (∃ (s : State), ∃ (channel : Nat), (s.dev.alive = true) ∧ (s.dev.flag F.MEM_CTRL_SCRUB_EN = false ∨ 256 ≤ channel)) ∧
    (∃ (s : State), ∃ (channel : Nat), ∃ p, ∃ n, (s.dev.alive = true) ∧ (s.dev.flag F.MEM_CTRL_SCRUB_EN = true) ∧ (channel < 256) ∧ (Tbl.rd (fun _ => (0, 0)) s.dev.memt.scrub channel = (n, p))) ∧
    (∃ (s : State), ∃ (channel : Nat), ∃ (row : Nat), ∃ p, ∃ n, (s.dev.alive = true) ∧ (s.dev.flag F.MEM_CTRL_SCRUB_EN = true) ∧ (channel < 256) ∧ (Tbl.rd (fun _ => (0, 0)) s.dev.memt.scrub channel = (n, p)) ∧ (Tbl.at? s.dev.memt.ceRows (channel * 2 ^ 32 + row) = none)) ∧
    (∃ (s : State), ∃ (k : Nat), (s.dev.alive = true) ∧ (256 ≤ k ∨ k ∈ s.dev.memt.failed)) ∧
    (∃ (s : State), ∃ (k : Nat), (s.dev.alive = true) ∧ (k < 256) ∧ (k ∉ s.dev.memt.failed) ∧ (bit (s.dev.fld F.MEM_POOL_GRP_MASK) (k / 8) = false) ∧ (s.dev.comp.cur.memberships s.dev.me = []) ∧ (s.dev.hlt.spare = .none)) ∧
    (∃ (s : State), ∃ (u : Nat), ∃ (x : MUnit), (s.dev.alive = true) ∧ (s.dev.memt.units = [(u, x)]) ∧ (x.state = .host) ∧ (x.dirty = false) ∧ (x.hayValid = true) ∧ ((∀ y ∈ s.dev.memt.regions, y.2.tiers ≠ 2 ∧ y.2.removing = none)) ∧ (s.dev.memt.waits = []) ∧ (s.dev.memt.want = [])) ∧
    (∃ (s : State), ∃ (page : Nat), (s.dev.alive = true) ∧ (page ∈ s.dev.memt.hmapBad)) ∧
    (∃ (s : State), ∃ (page : Nat), (s.dev.alive = true) ∧ (page ∉ s.dev.memt.hmapBad)) ∧
    (∃ (s : State), ∃ (t : List Nat), (s.dev.alive = true) ∧ (t.length = 8) ∧ ((∀ x ∈ t, x ≤ 95))) ∧
    (∃ (s : State), ∃ (t : List Nat), (s.dev.alive = true) ∧ (t.length = 8) ∧ ((∃ x ∈ t, 105 ≤ x))) :=
  ⟨⟨blk (up), 256, by decide +kernel⟩,
   ⟨blk (let d := up; let d := d.setFld F.MEM_CTRL_SCRUB_EN 1; d), 0, 0, 0, by decide +kernel⟩,
   ⟨blk (let d := up; let d := d.setFld F.MEM_CTRL_SCRUB_EN 1; d), 0, 0, 0, 0, by decide +kernel⟩,
   ⟨blk (up), 256, by decide +kernel⟩,
   ⟨blk (let d := up; let d := { d with hlt.spare := .none }; d), 0, by decide +kernel⟩,
   ⟨blk (let d := up; let d := { d with memt.units := [((0), ({ ({} : MUnit) with state := .host, hayValid := true } : MUnit))] }; d), 0, { ({} : MUnit) with state := .host, hayValid := true }, by decide +kernel⟩,
   ⟨blk (let d := up; let d := { d with memt.hmapBad := [0] }; d), 0, by decide +kernel⟩,
   ⟨blk (up), 0, by decide +kernel⟩,
   ⟨blk (up), [0, 0, 0, 0, 0, 0, 0, 0], by decide +kernel⟩,
   ⟨blk (up), [110, 0, 0, 0, 0, 0, 0, 0], by decide +kernel⟩⟩

theorem witness_TheHayloftStartsFormatsAndRebuilds :
    (∃ (s : State), ∃ (v : Nat), (s.dev.alive = true) ∧ (s.dev.serving = .all) ∧ (bit v 0 = true) ∧ (s.dev.hay.state = .off)) ∧
    (∃ (s : State), ∃ (v : Nat), (s.dev.alive = true) ∧ (s.dev.serving = .all) ∧ (bit v 0 = false) ∧ (s.dev.hay.state ≠ .off) ∧ (s.dev.hay.points = []) ∧ (s.dev.hlt.ckpts = []) ∧ ((∀ y ∈ s.dev.srch.shards, y.2.detaching = none))) ∧
    (∃ (s : State), (s.dev.alive = true) ∧ (s.dev.hay.state ≠ .probe)) ∧
    (∃ (s : State), ∃ (ts : List TargetReport), ∃ t, (s.dev.alive = true) ∧ (s.dev.hay.state = .probe) ∧ (ts = [t]) ∧ (targetOk t = true) ∧ ((targetGeom t).raw ≤ 2 ^ 48)) ∧
    (∃ (s : State), (s.dev.alive = true) ∧ (s.dev.hay.state = .probe)) ∧
    (∃ (s : State), ∃ (c : HostCmd), (s.dev.alive = true) ∧ (s.dev.takes (argSpec 0 0 0) c) ∧ (s.dev.hay.state = .off ∨ s.dev.hay.state = .probe)) ∧
    (∃ (s : State), ∃ (c : HostCmd), (s.dev.alive = true) ∧ (s.dev.takes (argSpec 0 0 0) c) ∧ (s.dev.hay.state = .rebuild)) ∧
    (∃ (s : State), ∃ (c : HostCmd), ∃ (marks : List Nat), (s.dev.alive = true) ∧ (s.dev.takes (argSpec 0 0 0) c) ∧ (s.dev.hay.state = .blank ∨ s.dev.hay.state = .ready) ∧ (s.dev.fld F.HAY_CAP_UNITS ≠ 0) ∧ (s.dev.memt.regions = []) ∧ (s.dev.fld F.HAY_CAP_UNITS ≤ (s.dev.hay.formatted marks (s.dev.fld F.HAY_JRN_BLOCKS) (s.dev.fld F.HAY_CAP_UNITS)).good * s.dev.hay.geom.native * 119 / 128)) ∧
    (∃ (s : State), (s.dev.alive = true) ∧ (s.dev.hay.state ≠ .rebuild)) ∧
    (∃ (s : State), ∃ a, (s.dev.alive = true) ∧ (s.dev.hay.state = .rebuild) ∧ (s.dev.hay.media.anchor = some a)) :=
  ⟨⟨blk (let d := up; let d := { d with hay.state := .off }; d), 0 + 2 ^ 0, by decide +kernel⟩,
   ⟨blk (let d := up; let d := { d with hay.state := .ready }; d), 0, by decide +kernel⟩,
   ⟨blk (up), by decide +kernel⟩,
   ⟨blk (let d := up; let d := { d with hay.state := .probe }; d), [{ target := 0, dataBytes := 16384, spareBytes := 2048, luns := 1, planes := 2, pages := 16, blocks := 2, cell := 1, slc := true }], { target := 0, dataBytes := 16384, spareBytes := 2048, luns := 1, planes := 2, pages := 16, blocks := 2, cell := 1, slc := true }, by decide +kernel⟩,
   ⟨blk (let d := up; let d := { d with hay.state := .probe }; d), by decide +kernel⟩,
   ⟨blk (let d := rup; let d := { d with hay.state := .off }; d), cmd, by decide +kernel, by unfold Dev.takes; decide +kernel, by decide +kernel⟩,
   ⟨blk (let d := rup; let d := { d with hay.state := .rebuild }; d), cmd, by decide +kernel, by unfold Dev.takes; decide +kernel, by decide +kernel⟩,
   ⟨blk (hayBlank), cmd, [], by decide +kernel, by unfold Dev.takes; decide +kernel, by decide +kernel, by decide +kernel, by decide +kernel, (by rw [show (blk hayBlank).dev = hayBlank from rfl]; exact hayBlank_fits)⟩,
   ⟨blk (up), by decide +kernel⟩,
   ⟨blk (let d := up; let d := { d with hay.state := .rebuild }; let d := { d with hay.media.anchor := some (anAnchor) }; d), anAnchor, by decide +kernel⟩⟩

theorem witness_HayloftReadsWritesAndPrograms :
    (∃ (s : State), ∃ (lba : Nat), ∃ k, (s.dev.alive = true) ∧ (s.dev.hayRefuses lba false = some k)) ∧
    (∃ (s : State), (s.dev.alive = true) ∧ (s.dev.hay.serves = false)) ∧
    (∃ (s : State), ∃ (lba : Nat), (s.dev.alive = true) ∧ (s.dev.hay.serves = true) ∧ (s.dev.fld F.HAY_CAP_UNITS ≤ lba)) ∧
    (∃ (s : State), ∃ (lba : Nat), (s.dev.alive = true) ∧ (s.dev.hayRefuses lba false = none) ∧ (Tbl.at? s.dev.hay.map lba = none)) ∧
    (∃ (s : State), ∃ (lba : Nat), ∃ p, (s.dev.alive = true) ∧ (s.dev.hayRefuses lba false = none) ∧ (Tbl.at? s.dev.hay.map lba = some p)) ∧
    (∃ (s : State), ∃ (lba : Nat), ∃ p, (s.dev.alive = true) ∧ (s.dev.hayRefuses lba false = none) ∧ (Tbl.at? s.dev.hay.map lba = some p) ∧ (s.dev.pan.held = []) ∧ (s.dev.memt.regions = [])) ∧
    (∃ (s : State), (s.dev.alive = true) ∧ (s.dev.hay.queue = [])) ∧
    (∃ (s : State), ∃ (x : HayWrite), ∃ (t : List HayWrite), ∃ k, ∃ u, (s.dev.alive = true) ∧ (s.dev.hay.queue = x :: t) ∧ (x.owner = .unit u) ∧ (s.dev.hayRefuses x.lba true = some k)) ∧
    (∃ (s : State), ∃ (w : Nat), ∃ (x : HayWrite), ∃ (t : List HayWrite), ∃ b, (s.dev.alive = true) ∧ (s.dev.hay.queue = x :: t) ∧ (s.dev.hayRefuses x.lba true = none) ∧ (s.dev.hay.jrnFull = false) ∧ (w < 30) ∧ ((s.dev.hay.point w).block = some b) ∧ ((s.dev.hay.blk b).written < s.dev.hay.geom.cap (s.dev.hay.blk b).slc)) ∧
    (∃ (s : State), ∃ (w : Nat), ∃ (p : HayProg), (s.dev.alive = true) ∧ ((s.dev.hay.point w).progs = [p]) ∧ (p.tag.kind = 0) ∧ ((∀ c ∈ p.cells, c.1 < 4096)) ∧ (s.dev.hay.copyQ = []) ∧ (s.dev.hlt.ckpts = [])) ∧
    (∃ (s : State), ∃ (w : Nat), (s.dev.alive = true) ∧ ((s.dev.hay.point w).block = none)) ∧
    (∃ (s : State), ∃ (w : Nat), ∃ b, ∃ p, ∃ o, (s.dev.alive = true) ∧ ((s.dev.hay.point w).block = some b) ∧ ((s.dev.hay.point w).progs = [p]) ∧ (p.tag.kind = 0) ∧ (p.owner = some o) ∧ (s.dev.hay.copyQ = []) ∧ (s.dev.hay.copies = []) ∧ (s.dev.hay.validIn b = []) ∧ ((s.dev.hay.blk b).marks = [])) :=
  ⟨⟨blk (up), 0, C.HAY_NOT_READY, by decide +kernel⟩,
   ⟨blk (up), by decide +kernel⟩,
   ⟨blk ((hayUp up [] [] [])), 1, by decide +kernel⟩,
   ⟨blk ((hayUp up [] [] [])), 0, by decide +kernel⟩,
   ⟨blk ((let d := hayUp up [] [] []; { d with hay.map := [(0, 0)] })), 0, 0, by decide +kernel⟩,
   ⟨blk ((let d := hayUp up [] [] []; { d with hay.map := [(0, 0)] })), 0, 0, by decide +kernel⟩,
   ⟨blk (up), by decide +kernel⟩,
   ⟨blk ((hayUp up [] [] [{ aWrite with lba := 1 }])), { aWrite with lba := 1 }, [], C.HAY_RANGE, 0, by decide +kernel⟩,
   ⟨blk ((hayUp up [(0, { state := .open })] [(0, { block := some 0 })] [aWrite])), 0, aWrite, [], 0, by decide +kernel⟩,
   ⟨blk ((hayUp up [] [(0, { block := some 0, progs := [aProg] })] [])), 0, aProg, by decide +kernel⟩,
   ⟨blk (up), 0, by decide +kernel⟩,
   ⟨blk ((hayUp up [] [(0, { block := some 0, progs := [aProg] })] [])), 0, 0, aProg, .unit 0, by decide +kernel⟩⟩

theorem witness_TheJournalCollectionAndMediaCare :
    (∃ (s : State), (s.dev.alive = true) ∧ (s.dev.hay.serves = false ∨ s.dev.hay.flushing.isSome = true ∨ (s.dev.hay.force = false ∧ s.dev.now < s.dev.hay.lastFlush + s.dev.fld F.HAY_JRN_INTERVAL))) ∧
    (∃ (s : State), (s.dev.alive = true) ∧ (s.dev.hay.serves = true) ∧ (s.dev.hay.flushing = none) ∧ ((s.dev.hay.force = true ∨ s.dev.hay.lastFlush + s.dev.fld F.HAY_JRN_INTERVAL ≤ s.dev.now)) ∧ (s.dev.hay.jrnSince + (16 * s.dev.hay.jrn.length + 320) ≤ s.dev.hay.ringBytes)) ∧
    (∃ (s : State), (s.dev.alive = true) ∧ (s.dev.hay.flushing = none)) ∧
    (∃ (s : State), ∃ f, (s.dev.alive = true) ∧ (s.dev.hay.flushing = some f) ∧ (s.dev.hay.erasable = []) ∧ (s.dev.hay.copyQ = [])) ∧
    (∃ (s : State), (s.dev.alive = true) ∧ (s.dev.hay.serves = false ∨ (s.dev.hay.jrnFull = false ∧ s.dev.now < s.dev.hay.roundAt + 2 ^ s.dev.fld F.HAY_CKPT_ROUND_LOG2 ∧ s.dev.hay.jrnSince ≤ s.dev.fld F.HAY_CKPT_JRN_MAX_GIB * 2 ^ 30))) ∧
    (∃ (s : State), ∃ a, (s.dev.alive = true) ∧ (s.dev.hay.serves = true) ∧ (s.dev.hay.roundAt + 2 ^ s.dev.fld F.HAY_CKPT_ROUND_LOG2 ≤ s.dev.now) ∧ (s.dev.hay.media.anchor = some a) ∧ (s.dev.hay.dirty = [])) ∧
    (∃ (s : State), ∃ (c : HayProg), (s.dev.alive = true) ∧ (s.dev.hay.copies = [c]) ∧ (c.tag.kind = 1) ∧ (Tbl.at? s.dev.hay.map c.tag.key = some c.tag.src)) ∧
    (∃ (s : State), ∃ (c : HayProg), (s.dev.alive = true) ∧ (s.dev.hay.copies = [c]) ∧ (c.tag.kind = 1) ∧ (Tbl.at? s.dev.hay.map c.tag.key ≠ some c.tag.src)) ∧
    (∃ (s : State), ∃ (b : Nat), (s.dev.alive = true) ∧ ((s.dev.hay.blk b).state ≠ .erasing)) ∧
    (∃ (s : State), ∃ (b : Nat), (s.dev.alive = true) ∧ ((s.dev.hay.blk b).state = .erasing) ∧ ((s.dev.hay.blk b).marks = []) ∧ ((s.dev.hay.blk b).erases < s.dev.fld F.HAY_WEAR_PE_LIMIT) ∧ (s.dev.hay.state = .ready)) ∧
    (∃ (s : State), (s.dev.alive = true) ∧ (s.dev.hay.serves = false)) ∧
    (∃ (s : State), ∃ b, ∃ x, (s.dev.alive = true) ∧ (s.dev.hay.serves = true) ∧ ((s.dev.hay.blocks.find? fun x => x.2.state == .closed && x.2.refresh) = some (b, x)) ∧ (s.dev.hay.validIn b = []) ∧ (s.dev.hay.copyQ = [])) ∧
    (∃ (s : State), (s.dev.alive = true) ∧ (s.dev.hay.serves = false ∨ s.dev.flag F.HAY_CTRL_GROOM_EN = false ∨ s.dev.hay.slcUsed ≤ s.dev.hay.target)) ∧
    (∃ (s : State), ∃ b, ∃ n, (s.dev.alive = true) ∧ (s.dev.hay.serves = true) ∧ (s.dev.flag F.HAY_CTRL_GROOM_EN = true) ∧ (s.dev.hay.target < s.dev.hay.slcUsed) ∧ ((s.dev.bestVictim fun _ x => x.slc && !x.reserved) = some (b, n)) ∧ (s.dev.hay.validIn b = []) ∧ (s.dev.hay.copyQ = [])) ∧
    (∃ (s : State), (s.dev.alive = true) ∧ (s.dev.hay.serves = false ∨ s.dev.flag F.HAY_CTRL_WL_EN = false)) ∧
    (∃ (s : State), ∃ (l : Nat), ∃ (m : Nat), (s.dev.alive = true) ∧ (s.dev.hay.serves = true) ∧ (s.dev.flag F.HAY_CTRL_WL_EN = true) ∧ (s.dev.hay.allBlocks = [l, m]) ∧ ((s.dev.hay.blk l).state = .closed) ∧ ((s.dev.hay.blk l).reserved = false) ∧ ((s.dev.hay.blk m).state = .free) ∧ ((s.dev.hay.blk m).reserved = false) ∧ (m ∉ s.dev.hay.claimed) ∧ (s.dev.hay.validIn l = []) ∧ (s.dev.hay.copyQ = []) ∧ ((s.dev.hay.blk l).erases + s.dev.fld F.HAY_WEAR_WEAR_GAP < (s.dev.hay.blk m).erases)) :=
  ⟨⟨blk (up), by decide +kernel⟩,
   ⟨blk ((let d := hayUp up [] [] []; { d with hay.force := true })), by decide +kernel⟩,
   ⟨blk (up), by decide +kernel⟩,
   ⟨blk (let d := up; let d := { d with hay.flushing := some ({ seq := 1, lastSeq := 0, beat := 0, entries := [], scan := [] }) }; d), { seq := 1, lastSeq := 0, beat := 0, entries := [], scan := [] }, by decide +kernel⟩,
   ⟨blk (up), by decide +kernel⟩,
   ⟨blk ((let d := hayUp up [] [] []; { d with cad.count := 2 ^ 63 })), anAnchor, by decide +kernel⟩,
   ⟨blk (let d := up; let d := { d with hay.copies := [({ ({ ppa := 0, tag := { kind := 0, key := 0, seq := 0, src := 0 }, cells := [], owner := none } : HayProg) with tag.kind := 1 } : HayProg)] }; let d := { d with hay.map := [(({ ({ ppa := 0, tag := { kind := 0, key := 0, seq := 0, src := 0 }, cells := [], owner := none } : HayProg) with tag.kind := 1 } : HayProg).tag.key, ({ ({ ppa := 0, tag := { kind := 0, key := 0, seq := 0, src := 0 }, cells := [], owner := none } : HayProg) with tag.kind := 1 } : HayProg).tag.src)] }; d), { ({ ppa := 0, tag := { kind := 0, key := 0, seq := 0, src := 0 }, cells := [], owner := none } : HayProg) with tag.kind := 1 }, by decide +kernel⟩,
   ⟨blk (let d := up; let d := { d with hay.copies := [({ ({ ppa := 0, tag := { kind := 0, key := 0, seq := 0, src := 0 }, cells := [], owner := none } : HayProg) with tag.kind := 1 } : HayProg)] }; d), { ({ ppa := 0, tag := { kind := 0, key := 0, seq := 0, src := 0 }, cells := [], owner := none } : HayProg) with tag.kind := 1 }, by decide +kernel⟩,
   ⟨blk (up), 0, by decide +kernel⟩,
   ⟨blk ((hayUp up [(0, { state := .erasing })] [] [])), 0, by decide +kernel⟩,
   ⟨blk (up), by decide +kernel⟩,
   ⟨blk ((hayUp up [(0, { state := .closed, refresh := true })] [] [])), 0, { state := .closed, refresh := true }, by decide +kernel⟩,
   ⟨blk (up), by decide +kernel⟩,
   ⟨blk (((hayUp up [(0, { state := .closed, slc := true })] [] []).setFld F.HAY_CTRL_GROOM_EN 1)), 0, (hayUp up [(0, { state := .closed, slc := true })] [] []).gcScore 0, by decide +kernel⟩,
   ⟨blk (up), by decide +kernel⟩,
   ⟨blk ((let d := (hayUp up [(0, { state := .closed }), (1, { erases := 2 ^ 32 })] [] []).setFld F.HAY_CTRL_WL_EN 1; { d with hay.geom := twoGeom })), 0, 1, by decide +kernel⟩⟩

theorem witness_FabricCommandsSetRoutesRegionsAndJobs :
    (∃ (s : State), ∃ (c : HostCmd), (s.dev.alive = true) ∧ (s.dev.takes { rsvOk := argMask true 0x7FFF 0 0 0, lenOk := fun c => c.hlen % 4 == 0 && decide (c.hlen ≤ 4 * 32768) } c) ∧ (32768 < c.a0 % 2 ^ 15 + c.hlen / 4)) ∧
    (∃ (s : State), ∃ (c : HostCmd), (s.dev.alive = true) ∧ (s.dev.takes { rsvOk := argMask true 0x7FFF 0 0 0, lenOk := fun c => c.hlen % 4 == 0 && decide (c.hlen ≤ 4 * 32768) } c) ∧ (c.a0 % 2 ^ 15 + c.hlen / 4 ≤ 32768) ∧ ((∀ k, k < c.hlen / 4 → ∀ i ∈ routeEntry (slice c.data (4 * k) 4), i ≤ 15))) ∧
    (∃ (s : State), ∃ (c : HostCmd), (s.dev.alive = true) ∧ (s.dev.takes { rsvOk := argMask true 0x800FFFFF 0 0 0, lenOk := fun c => c.hlen == if bit c.a0 31 then 0 else 32 } c) ∧ (bit c.a0 31 = false) ∧ (regionEntryOk c.data (s.dev.fld F.AZF_CTRL_PROT_MODE == 1) = false)) ∧
    (∃ (s : State), ∃ (c : HostCmd), (s.dev.alive = true) ∧ (s.dev.takes { rsvOk := argMask true 0x800FFFFF 0 0 0, lenOk := fun c => c.hlen == if bit c.a0 31 then 0 else 32 } c) ∧ (bit c.a0 31 = false) ∧ (regionEntryOk c.data (s.dev.fld F.AZF_CTRL_PROT_MODE == 1) = true) ∧ ((s.dev.fld F.AZF_CTRL_PROT_MODE = 1 → (s.dev.fab.regions.filter fun x => x.2.key == field c.data 16 4 && x.1 != c.a0 % 2 ^ 20).length < 256)) ∧ ((Tbl.at? s.dev.fab.regFrames (c.a0 % 2 ^ 20 / 2048)).isSome = true)) ∧
    (∃ (s : State), ∃ (c : HostCmd), (s.dev.alive = true) ∧ (s.dev.takes { rsvOk := argMask true 0x800FFFFF 0 0 0, lenOk := fun c => c.hlen == if bit c.a0 31 then 0 else 32 } c) ∧ (bit c.a0 31 = false) ∧ (regionEntryOk c.data (s.dev.fld F.AZF_CTRL_PROT_MODE == 1) = true) ∧ ((s.dev.fld F.AZF_CTRL_PROT_MODE = 1 → (s.dev.fab.regions.filter fun x => x.2.key == field c.data 16 4 && x.1 != c.a0 % 2 ^ 20).length < 256)) ∧ (Tbl.at? s.dev.fab.regFrames (c.a0 % 2 ^ 20 / 2048) = none) ∧ ((s.dev.taken c).takeFrames 1 1 = none)) ∧
    (∃ (s : State), ∃ (c : HostCmd), ∃ l, ∃ d1, (s.dev.alive = true) ∧ (s.dev.takes { rsvOk := argMask true 0x800FFFFF 0 0 0, lenOk := fun c => c.hlen == if bit c.a0 31 then 0 else 32 } c) ∧ (bit c.a0 31 = false) ∧ (regionEntryOk c.data (s.dev.fld F.AZF_CTRL_PROT_MODE == 1) = true) ∧ ((s.dev.fld F.AZF_CTRL_PROT_MODE = 1 → (s.dev.fab.regions.filter fun x => x.2.key == field c.data 16 4 && x.1 != c.a0 % 2 ^ 20).length < 256)) ∧ (Tbl.at? s.dev.fab.regFrames (c.a0 % 2 ^ 20 / 2048) = none) ∧ ((s.dev.taken c).takeFrames 1 1 = some (l, d1))) ∧
    (∃ (s : State), ∃ (c : HostCmd), (s.dev.alive = true) ∧ (s.dev.takes { rsvOk := argMask true 0x800FFFFF 0 0 0, lenOk := fun c => c.hlen == if bit c.a0 31 then 0 else 32 } c) ∧ (bit c.a0 31 = true)) ∧
    (∃ (s : State), ∃ (c : HostCmd), (s.dev.alive = true) ∧ (s.dev.takes (argSpec 0x8FFFFFFF 0xFFFF 0) c) ∧ (bit c.a0 31 = false)) ∧
    (∃ (s : State), ∃ (c : HostCmd), (s.dev.alive = true) ∧ (s.dev.takes (argSpec 0x8FFFFFFF 0xFFFF 0) c) ∧ (bit c.a0 31 = true)) ∧
    (∃ (s : State), ∃ (c : HostCmd), (s.dev.alive = true) ∧ (s.dev.takes (argSpec 0xFFFF 0 0) c) ∧ (s.dev.fld F.AZF_CTRL_PROT_MODE = 0) ∧ (s.dev.sep.invs = []) ∧ (s.dev.qpx.qps = []) ∧ (s.dev.fab.waitCtx = []) ∧ (s.dev.fab.releases = []) ∧ (s.dev.fab.fences = []) ∧ (s.dev.fab.ops = [])) ∧
    (∃ (s : State), ∃ (c : HostCmd), ∃ o, (s.dev.alive = true) ∧ (s.dev.takes (argSpec 0xFFFF 0 0) c) ∧ (s.dev.fld F.AZF_CTRL_PROT_MODE = 0) ∧ (s.dev.sep.invs = []) ∧ (s.dev.qpx.qps = []) ∧ (s.dev.fab.waitCtx = []) ∧ (s.dev.fab.releases = []) ∧ (s.dev.fab.fences = []) ∧ (s.dev.fab.ops = [o]) ∧ (o.p.paddock = c.a0 % 2 ^ 16) ∧ (o.p.paddock ≠ 0) ∧ (o.p.dst ≠ s.dev.me) ∧ (s.dev.isDead o.p.dst = true) ∧ (s.dev.replays o.ref = false)) ∧
    (∃ (d : Dev), ∃ (p : Packet), (p.pform = false) ∧ (d.flag F.AZF_CTRL_EN = false)) ∧
    (∃ (d : Dev), ∃ (p : Packet), (p.pform = false) ∧ (d.flag F.AZF_CTRL_EN = true) ∧ (alignOk p = false)) ∧
    (∃ (d : Dev), ∃ (p : Packet), ∃ r, (p.pform = false) ∧ (d.flag F.AZF_CTRL_EN = true) ∧ (alignOk p = true) ∧ (d.fld F.AZF_CTRL_PROT_MODE = 0) ∧ (bits p.addr 63 60 = 0) ∧ (Tbl.at? d.fab.regions (bits p.addr 59 40) = some r) ∧ (r.key ≠ p.rkey)) ∧
    (∃ (d : Dev), ∃ (p : Packet), ∃ r, (p.pform = false) ∧ (d.flag F.AZF_CTRL_EN = true) ∧ (alignOk p = true) ∧ (d.fld F.AZF_CTRL_PROT_MODE = 0) ∧ (bits p.addr 63 60 = 0) ∧ (Tbl.at? d.fab.regions (bits p.addr 59 40) = some r) ∧ (r.key = p.rkey) ∧ (bit r.perm (permBit p.op) = false)) ∧
    (∃ (d : Dev), ∃ (p : Packet), ∃ r, (p.pform = false) ∧ (d.flag F.AZF_CTRL_EN = true) ∧ (alignOk p = true) ∧ (d.fld F.AZF_CTRL_PROT_MODE = 0) ∧ (bits p.addr 63 60 = 0) ∧ (Tbl.at? d.fab.regions (bits p.addr 59 40) = some r) ∧ (r.key = p.rkey) ∧ (bit r.perm (permBit p.op) = true) ∧ (r.size < p.addr % 2 ^ 40 + p.len)) ∧
    (∃ (d : Dev), ∃ (p : Packet), ∃ r, (p.pform = false) ∧ (d.flag F.AZF_CTRL_EN = true) ∧ (alignOk p = true) ∧ (d.fld F.AZF_CTRL_PROT_MODE = 0) ∧ (bits p.addr 63 60 = 0) ∧ (Tbl.at? d.fab.regions (bits p.addr 59 40) = some r) ∧ (r.key = p.rkey) ∧ (bit r.perm (permBit p.op) = true) ∧ (p.addr % 2 ^ 40 + p.len ≤ r.size)) :=
  ⟨⟨blk (rup), { cmd with a0 := 32767, hlen := 8 }, by decide +kernel, by unfold Dev.takes; decide +kernel, by decide +kernel⟩,
   ⟨blk (rup), cmd, by decide +kernel, by unfold Dev.takes; decide +kernel, by decide +kernel, by decide +kernel⟩,
   ⟨blk (rup), { cmd with hlen := 32, data := mk 32 [(23, 1, 1)] }, by decide +kernel, by unfold Dev.takes; decide +kernel, by decide +kernel, by decide +kernel⟩,
   ⟨blk (let d := rup; let d := { d with fab.regFrames := [(0, [0])] }; d), { cmd with hlen := 32, data := mk 32 [] }, by decide +kernel, by unfold Dev.takes; decide +kernel, by decide +kernel, by decide +kernel, by decide +kernel, by decide +kernel⟩,
   ⟨blk (rup), { cmd with hlen := 32, data := mk 32 [] }, by decide +kernel, by unfold Dev.takes; decide +kernel, by decide +kernel, by decide +kernel, by decide +kernel, by decide +kernel, by decide +kernel⟩,
   ⟨blk (let d := rup; let d := d.setFld F.MEM_POOL_GRP_MASK 1; d), { cmd with hlen := 32, data := mk 32 [] }, ((((rup.setFld F.MEM_POOL_GRP_MASK 1).taken { cmd with hlen := 32, data := mk 32 [] }).takeFrames 1 1).getD ([], up)).1, ((((rup.setFld F.MEM_POOL_GRP_MASK 1).taken { cmd with hlen := 32, data := mk 32 [] }).takeFrames 1 1).getD ([], up)).2, by decide +kernel, by unfold Dev.takes; decide +kernel, by decide +kernel, by decide +kernel, by decide +kernel, by decide +kernel, by decide +kernel⟩,
   ⟨blk (rup), { cmd with a0 := 2 ^ 31 }, by decide +kernel, by unfold Dev.takes; decide +kernel, by decide +kernel⟩,
   ⟨blk (rup), cmd, by decide +kernel, by unfold Dev.takes; decide +kernel, by decide +kernel⟩,
   ⟨blk (rup), { cmd with a0 := 2 ^ 31 }, by decide +kernel, by unfold Dev.takes; decide +kernel, by decide +kernel⟩,
   ⟨blk (rup), cmd, by decide +kernel, by unfold Dev.takes; decide +kernel, by decide +kernel, by decide +kernel, by decide +kernel, by decide +kernel, by decide +kernel, by decide +kernel, by decide +kernel⟩,
   ⟨blk ({ rup with fab.ops := [{ anOp with p := { op := 0, src := 0, dst := 1, paddock := 1 } }], fab.dead := [(1, 0)] }), { cmd with a0 := 1 }, { anOp with p := { op := 0, src := 0, dst := 1, paddock := 1 } }, by decide +kernel, by unfold Dev.takes; decide +kernel, by decide +kernel, by decide +kernel, by decide +kernel, by decide +kernel, by decide +kernel, by decide +kernel, by decide +kernel, by decide +kernel, by decide +kernel, by decide +kernel, by decide +kernel, by decide +kernel⟩,
   ⟨(up), { op := 0, src := 0, dst := 0 }, by decide +kernel⟩,
   ⟨(let d := up; let d := d.setFld F.AZF_CTRL_EN 1; d), { op := 1, src := 0, dst := 0, len := 512 }, by decide +kernel⟩,
   ⟨(let d := up; let d := d.setFld F.AZF_CTRL_EN 1; let d := { d with fab.regions := [((bits ({ op := 0, src := 0, dst := 0 } : Packet).addr 59 40), ({ aFabRegion with key := 1 }))] }; d), { op := 0, src := 0, dst := 0 }, { aFabRegion with key := 1 }, by decide +kernel⟩,
   ⟨(let d := up; let d := d.setFld F.AZF_CTRL_EN 1; let d := { d with fab.regions := [((bits ({ op := 0, src := 0, dst := 0 } : Packet).addr 59 40), (aFabRegion))] }; d), { op := 0, src := 0, dst := 0 }, aFabRegion, by decide +kernel⟩,
   ⟨(let d := up; let d := d.setFld F.AZF_CTRL_EN 1; let d := { d with fab.regions := [((bits ({ op := 0, src := 0, dst := 0, addr := 4096, len := 4 } : Packet).addr 59 40), ({ aFabRegion with perm := 4 }))] }; d), { op := 0, src := 0, dst := 0, addr := 4096, len := 4 }, { aFabRegion with perm := 4 }, by decide +kernel⟩,
   ⟨(let d := up; let d := d.setFld F.AZF_CTRL_EN 1; let d := { d with fab.regions := [((bits ({ op := 0, src := 0, dst := 0 } : Packet).addr 59 40), ({ aFabRegion with perm := 4 }))] }; d), { op := 0, src := 0, dst := 0 }, { aFabRegion with perm := 4 }, by decide +kernel⟩⟩

theorem witness_LinksLanesAndFlits :
    (∃ (s : State), ∃ (port : Nat), ∃ (lane : Nat), (s.dev.alive = true) ∧ ((s.dev.azPort port).linked = false ∨ bit (s.dev.azPort port).lanes lane = false)) ∧
    (∃ (s : State), ∃ (port : Nat), ∃ (lane : Nat), (s.dev.alive = true) ∧ (port < 16) ∧ (lane < 8) ∧ ((s.dev.azPort port).linked = true) ∧ (bit (s.dev.azPort port).lanes lane = true) ∧ ((s.dev.azPort port).lanes ≠ 2 ^ lane) ∧ (s.dev.fld F.AZF_CTRL_MIN_LANES ≤ laneCount ((s.dev.azPort port).lanes - 2 ^ lane))) ∧
    (∃ (s : State), ∃ (port : Nat), ∃ (lane : Nat), (s.dev.alive = true) ∧ (port < 16) ∧ (lane < 8) ∧ ((s.dev.azPort port).up = true) ∧ (bit (s.dev.azPort port).lanes lane = false)) ∧
    (∃ (s : State), ∃ (port : Nat), (s.dev.alive = true) ∧ (port < 16) ∧ ((s.dev.azPort port).linked = false)) ∧
    (∃ (s : State), ∃ (port : Nat), (s.dev.alive = true) ∧ (port < 16) ∧ ((s.dev.azPort port).linked = true)) ∧
    (∃ (s : State), (s.dev.alive = true) ∧ (s.dev.pwr.testEn = true)) ∧
    (∃ (s : State), ∃ (port : Nat), ∃ (neighbour : Nat), (s.dev.alive = true) ∧ (s.dev.pwr.testEn = false) ∧ (port < 16) ∧ (neighbour = s.dev.me)) ∧
    (∃ (s : State), ∃ (port : Nat), ∃ (lanes : Nat), ∃ (neighbour : Nat), ∃ (rtt : Nat), (s.dev.alive = true) ∧ (s.dev.pwr.testEn = false) ∧ (port < 16) ∧ (neighbour ≠ s.dev.me) ∧ (lanes < 256) ∧ (rtt ≤ 2048) ∧ (neighbour < 2 ^ 15) ∧ ((s.dev.azPort port).state ≠ 2) ∧ (s.dev.pwr.state ≠ .stabled) ∧ (s.dev.fld F.AZF_CTRL_MIN_LANES ≤ laneCount lanes)) ∧
    (∃ (s : State), ∃ (port : Nat), ∃ (lanes : Nat), ∃ (neighbour : Nat), ∃ (rtt : Nat), (s.dev.alive = true) ∧ (s.dev.pwr.testEn = false) ∧ (port < 16) ∧ (neighbour ≠ s.dev.me) ∧ (lanes < 256) ∧ (rtt ≤ 2048) ∧ (neighbour < 2 ^ 15) ∧ ((s.dev.azPort port).state ≠ 2) ∧ (s.dev.pwr.state = .stabled) ∧ (bit lanes 0 = true)) ∧
    (∃ (s : State), ∃ (port : Nat), (s.dev.alive = true) ∧ (s.dev.fab.asks = []) ∧ ((s.dev.azPort port).linked = false)) ∧
    (∃ (s : State), ∃ (port : Nat), ∃ mask, (s.dev.alive = true) ∧ (s.dev.fab.asks = []) ∧ (port < 16) ∧ ((s.dev.azPort port).linked = true) ∧ ((s.dev.azPort port).replay.length < 4096) ∧ (mask = natOfBits ((List.range 8).map fun c => s.dev.pauses (s.dev.azPort port) c))) ∧
    (∃ (s : State), ∃ (port : Nat), (s.dev.alive = true) ∧ ((s.dev.azPort port).linked = false)) ∧
    (∃ (s : State), ∃ (port : Nat), ∃ (f : CtlFlit), (s.dev.alive = true) ∧ (port < 16) ∧ ((s.dev.azPort port).linked = true) ∧ (f.src = s.dev.me)) ∧
    (∃ (s : State), ∃ (port : Nat), ∃ (f : CtlFlit), (s.dev.alive = true) ∧ (port < 16) ∧ ((s.dev.azPort port).linked = true) ∧ (f.src ≠ s.dev.me) ∧ (f.replay = none) ∧ (f.cad = none) ∧ (f.map = none) ∧ (f.hb = none) ∧ (f.msgs = []) ∧ (f.pauses.length = 8)) ∧
    (∃ (s : State), ∃ (port : Nat), (s.dev.alive = true) ∧ ((s.dev.azPort port).linked = false)) ∧
    (∃ (s : State), ∃ (port : Nat), (s.dev.alive = true) ∧ (port < 16) ∧ ((s.dev.azPort port).linked = true) ∧ ((s.dev.azPort port).fails < 7)) :=
  ⟨⟨blk (up), 0, 0, by decide +kernel⟩,
   ⟨blk ((link up)), 0, 0, by decide +kernel⟩,
   ⟨blk ((up.onAzPort 0 fun q => { q with state := 2, lanes := 1 })), 0, 1, by decide +kernel⟩,
   ⟨blk (up), 0, by decide +kernel⟩,
   ⟨blk ((link up)), 0, by decide +kernel⟩,
   ⟨blk (let d := up; let d := { d with pwr.testEn := true }; d), by decide +kernel⟩,
   ⟨blk (up), 0, 0, by decide +kernel⟩,
   ⟨blk (up), 0, 255, 1, 0, by decide +kernel⟩,
   ⟨blk (let d := up; let d := { d with pwr.state := .stabled }; d), 0, 1, 1, 0, by decide +kernel⟩,
   ⟨blk (up), 0, by decide +kernel⟩,
   ⟨blk ((link up)), 0, natOfBits ((List.range 8).map fun c => (link up).pauses ((link up).azPort 0) c), by decide +kernel⟩,
   ⟨blk (up), 0, by decide +kernel⟩,
   ⟨blk ((link up)), 0, { src := 0 }, by decide +kernel⟩,
   ⟨blk ((link up)), 0, { src := 1, pauses := [0, 0, 0, 0, 0, 0, 0, 0] }, by decide +kernel⟩,
   ⟨blk (up), 0, by decide +kernel⟩,
   ⟨blk ((link up)), 0, by decide +kernel⟩⟩

theorem witness_PacketsAreForwardedAgedAndSent :
    (∃ (s : State), ∃ (port : Nat), ∃ (p : Packet), (s.dev.alive = true) ∧ (16 ≤ port ∨ (s.dev.azPort port).up = false ∨ p.dst = s.dev.me)) ∧
    (∃ (s : State), ∃ (port : Nat), ∃ (p : Packet), (s.dev.alive = true) ∧ (port < 16) ∧ ((s.dev.azPort port).up = true) ∧ (p.dst ≠ s.dev.me) ∧ (6 ≤ p.hops)) ∧
    (∃ (s : State), ∃ (port : Nat), ∃ (p : Packet), ∃ i, (s.dev.alive = true) ∧ (port < 16) ∧ ((s.dev.azPort port).up = true) ∧ (p.dst ≠ s.dev.me) ∧ (p.hops < 6) ∧ (s.dev.routePort p.dst = some i)) ∧
    (∃ (s : State), ∃ (port : Nat), ∃ (p : Packet), (s.dev.alive = true) ∧ (port < 16) ∧ ((s.dev.azPort port).up = true) ∧ (p.dst ≠ s.dev.me) ∧ (p.hops < 6) ∧ (s.dev.routePort p.dst = none)) ∧
    (∃ (s : State), (s.dev.alive = true) ∧ ((∀ i, i < 16 → (∀ e ∈ (s.dev.azPort i).queue, s.dev.now < e.since + 40000) ∧ ∀ w ∈ (s.dev.azPort i).ingress, s.dev.now < w.since + 40000)) ∧ ((∀ e ∈ s.dev.fab.noPort, s.dev.now < e.since + 40000))) ∧
    (∃ (s : State), ∃ e, (s.dev.alive = true) ∧ ((∀ i, i < 16 → (s.dev.azPort i).queue = [] ∧ (s.dev.azPort i).ingress = [])) ∧ (s.dev.fab.noPort = [e]) ∧ (e.own = false) ∧ (e.since + 40000 ≤ s.dev.now)) ∧
    (∃ (s : State), ∃ (port : Nat), (s.dev.alive = true) ∧ (16 ≤ port)) ∧
    (∃ (s : State), ∃ (port : Nat), (s.dev.alive = true) ∧ ((s.dev.azPort port).queue = [])) ∧
    (∃ (s : State), ∃ (port : Nat), ∃ (e : EgPkt), (s.dev.alive = true) ∧ (port < 16) ∧ ((s.dev.azPort port).up = true) ∧ ((s.dev.azPort port).replay.length < 4096) ∧ ((s.dev.azPort port).queue = [e]) ∧ (((s.dev.azPort port).paused[e.p.cls]?).getD 0 ≤ s.dev.now) ∧ (e.own = false)) ∧
    (∃ (s : State), ∃ (port : Nat), ∃ (e : EgPkt), ∃ x, (s.dev.alive = true) ∧ (port < 16) ∧ ((s.dev.azPort port).up = true) ∧ ((s.dev.azPort port).replay.length < 4096) ∧ ((s.dev.azPort port).queue = [e]) ∧ (((s.dev.azPort port).paused[e.p.cls]?).getD 0 ≤ s.dev.now) ∧ (x = s.dev.stream (streamKey e.p.dst e.p.cls)) ∧ (e.own = true) ∧ (e.fresh = true) ∧ (e.ref = none) ∧ (x.wait = none) ∧ ((x.state = .idle ∨ x.state = .opened)) ∧ (x.out.length ≤ min 255 (s.dev.fld F.AZF_STREAM_WINDOW_M1)) ∧ (s.dev.flag F.SHP_CTRL_EN = false)) :=
  ⟨⟨blk (up), 0, { op := 0, src := 0, dst := 0 }, by decide +kernel⟩,
   ⟨blk ((link up)), 0, { aPkt with dst := 1, hops := 6 }, by decide +kernel⟩,
   ⟨blk ((routed up)), 0, { aPkt with dst := 1 }, 0, by decide +kernel⟩,
   ⟨blk ((link up)), 0, { aPkt with dst := 1 }, by decide +kernel⟩,
   ⟨blk (up), by decide +kernel⟩,
   ⟨blk ({ up with cad.count := 40000, fab.noPort := [anEg] }), anEg, by decide +kernel, (by intro i h; exact ⟨rfl, rfl⟩), by decide +kernel, by decide +kernel, by decide +kernel⟩,
   ⟨blk (up), 16, by decide +kernel⟩,
   ⟨blk (let d := up; let d := d.onAzPort (0) fun q => { q with queue := [] }; d), 0, by decide +kernel⟩,
   ⟨blk (((link up).onAzPort 0 fun q => { q with queue := [anEg] })), 0, anEg, by decide +kernel⟩,
   ⟨blk (((link up).onAzPort 0 fun q => { q with queue := [{ anEg with own := true, fresh := true }] })), 0, { anEg with own := true, fresh := true }, {}, by decide +kernel⟩⟩

theorem witness_OperationsOfTheFabricReachMemory :
    (∃ (s : State), ∃ (port : Nat), ∃ (op : Nat), ∃ (p : Packet), ∃ (c : Instr), (s.dev.alive = true) ∧ ((c, op) ∈ [(Instr.load port p, 1), (.store port p, 2), (.add port p, 3), (.fetchAdd port p, 4), (.cas port p, 5), (.fadd port p, 6), (.copyWrite port p, 0x10), (.copyWriteCoded port p, 0x11), (.msg port p .fragment, 0x20), (.loadRsp port p, 0x81), (.addRsp port p, 0x84), (.casRsp port p, 0x85)]) ∧ ((16 ≤ port ∨ p.op ≠ op ∨ 8 ≤ p.cls ∨ (s.dev.azPort port).up = false))) ∧
    (∃ (s : State), ∃ (port : Nat), ∃ (p : Packet), (s.dev.alive = true) ∧ (s.dev.inOrder port p) ∧ (p.op = 0x20)) ∧
    (∃ (s : State), ∃ (port : Nat), ∃ (k : Nat), ∃ (p : Packet), ∃ (c : Instr), (s.dev.alive = true) ∧ (s.dev.inOrder port p) ∧ (s.dev.fabKey p = .inr k) ∧ (p.len ≠ 0) ∧ ((c, p.op) ∈ [(Instr.store port p, 2), (.copyWrite port p, 0x10)]) ∧ (p.body.length = p.len)) ∧
    (∃ (s : State), ∃ (port : Nat), ∃ (k : Nat), ∃ (p : Packet), ∃ i, (s.dev.alive = true) ∧ (s.dev.inOrder port p) ∧ (s.dev.fabKey p = .inr k) ∧ (p.len ≠ 0) ∧ (p.op = 1) ∧ (s.dev.reaches p.src p.cls i)) ∧
    (∃ (s : State), ∃ (port : Nat), ∃ (k : Nat), ∃ (p : Packet), ∃ (c : Instr), ∃ old, (s.dev.alive = true) ∧ (s.dev.inOrder port p) ∧ (s.dev.fabKey p = .inr k) ∧ (p.len ≠ 0) ∧ ((c, p.op) ∈ [(Instr.add port p, 3), (.fadd port p, 6)]) ∧ (old = s.dev.word k p.len)) ∧
    (∃ (s : State), ∃ (port : Nat), ∃ (k : Nat), ∃ (p : Packet), ∃ (c : Instr), ∃ old, ∃ i, (s.dev.alive = true) ∧ (s.dev.inOrder port p) ∧ (s.dev.fabKey p = .inr k) ∧ (p.len ≠ 0) ∧ ((c, p.op) ∈ [(Instr.fetchAdd port p, 4), (.cas port p, 5)]) ∧ (old = s.dev.word k p.len) ∧ (s.dev.reaches p.src p.cls i)) ∧
    (∃ (s : State), ∃ (port : Nat), ∃ (code : Nat), ∃ (p : Packet), (s.dev.alive = true) ∧ (s.dev.inOrder port p) ∧ (s.dev.fabKey p = .inl code) ∧ (code ≠ 0) ∧ (p.len ≠ 0) ∧ (p.op = 2)) ∧
    (∃ (s : State), ∃ (port : Nat), ∃ (k : Nat), ∃ (p : Packet), (s.dev.alive = true) ∧ (s.dev.inOrder port p) ∧ (s.dev.fabKey p = .inr k) ∧ (p.len ≠ 0) ∧ (p.op = 0x11) ∧ (s.dev.fab.coded = []) ∧ (p.body.length < 16)) ∧
    (∃ (s : State), ∃ (port : Nat), ∃ (k : Nat), ∃ (p : Packet), ∃ unit, (s.dev.alive = true) ∧ (s.dev.inOrder port p) ∧ (s.dev.fabKey p = .inr k) ∧ (p.len ≠ 0) ∧ (p.op = 0x11) ∧ (s.dev.fab.coded = []) ∧ (16 + (readHdr (p.body.take 16)).coded ≤ p.body.length) ∧ (16 ≤ p.body.length) ∧ (expandBlock s.dev.cmp (p.body.take 16) (p.body.drop 16) (min 4096 (readHdr (p.body.take 16)).decl) = (unit, none)) ∧ (unit.length = min 4096 (readHdr (p.body.take 16)).decl)) ∧
    (∃ (s : State), ∃ (port : Nat), ∃ (k : Nat), ∃ (p : Packet), ∃ (r : RecvStream), ∃ (x : Round), (s.dev.alive = true) ∧ (port < 16) ∧ ((s.dev.azPort port).up = true) ∧ (p.dst = s.dev.me) ∧ (p.cls < 8) ∧ (s.dev.calm) ∧ (s.dev.flag F.SHP_CTRL_EN = false) ∧ (p.rsv = false) ∧ (p.op = 2) ∧ (p.len ≠ 0) ∧ (s.dev.recv? (streamKey p.src p.cls) = some r) ∧ (r.e = p.ssn) ∧ (p.sync = false) ∧ (p.paddock ≠ 0) ∧ (p.epoch = s.dev.comp.cur.epoch) ∧ (s.dev.comp.cur.epoch < 2 ^ 32) ∧ (s.dev.fabKey p = .inr k) ∧ (s.dev.ordered p = true) ∧ (s.dev.roundClosed p = false) ∧ (s.dev.canHold p = true) ∧ (s.dev.fab.rounds = [x]) ∧ (x.paddock = p.paddock) ∧ (x.issue = p.issue) ∧ (x.ops = []) ∧ (x.lost = [])) :=
  ⟨⟨blk (up), 0, 1, { op := 0, src := 0, dst := 0 }, .load 0 { op := 0, src := 0, dst := 0 }, by decide +kernel⟩,
   ⟨blk (home), 0, pktOp 0x20 four, by decide +kernel, inOrder_of _ _ _ { e := 0 } (by decide +kernel) (by unfold Dev.calm; decide +kernel) (by decide +kernel), by decide +kernel⟩,
   ⟨blk (home), 0, memKey 1 0, pktOp 2 four, .store 0 (pktOp 2 four), by decide +kernel, inOrder_of _ _ _ { e := 0 } (by decide +kernel) (by unfold Dev.calm; decide +kernel) (by decide +kernel), by decide +kernel, by decide +kernel, by decide +kernel, by decide +kernel⟩,
   ⟨blk (home), 0, memKey 1 0, pktOp 1 [], 0, by decide +kernel, inOrder_of _ _ _ { e := 0 } (by decide +kernel) (by unfold Dev.calm; decide +kernel) (by decide +kernel), by decide +kernel, by decide +kernel, by decide +kernel, by unfold Dev.reaches; decide +kernel⟩,
   ⟨blk (home), 0, memKey 1 0, pktOp 3 four, .add 0 (pktOp 3 four), home.word (memKey 1 0) 4, by decide +kernel, inOrder_of _ _ _ { e := 0 } (by decide +kernel) (by unfold Dev.calm; decide +kernel) (by decide +kernel), by decide +kernel, by decide +kernel, by decide +kernel, by decide +kernel⟩,
   ⟨blk (home), 0, memKey 1 0, pktOp 4 four, .fetchAdd 0 (pktOp 4 four), home.word (memKey 1 0) 4, 0, by decide +kernel, inOrder_of _ _ _ { e := 0 } (by decide +kernel) (by unfold Dev.calm; decide +kernel) (by decide +kernel), by decide +kernel, by decide +kernel, by decide +kernel, by decide +kernel, by unfold Dev.reaches; decide +kernel⟩,
   ⟨blk (home), 0, C.FAB_RANGE, { pktOp 2 four with addr := 4096 }, by decide +kernel, inOrder_of _ _ _ { e := 0 } (by decide +kernel) (by unfold Dev.calm; decide +kernel) (by decide +kernel), by decide +kernel, by decide +kernel, by decide +kernel, by decide +kernel⟩,
   ⟨blk (home), 0, memKey 1 0, pktOp 0x11 [], by decide +kernel, inOrder_of _ _ _ { e := 0 } (by decide +kernel) (by unfold Dev.calm; decide +kernel) (by decide +kernel), by decide +kernel, by decide +kernel, by decide +kernel, by decide +kernel, by decide +kernel⟩,
   ⟨blk (home), 0, memKey 1 0, pktOp 0x11 emptyBlk, [], by decide +kernel, inOrder_of _ _ _ { e := 0 } (by decide +kernel) (by unfold Dev.calm; decide +kernel) (by decide +kernel), by decide +kernel, by decide +kernel, by decide +kernel, by decide +kernel, by decide +kernel, by decide +kernel, by decide +kernel, by decide +kernel⟩,
   ⟨blk ({ home with fab.rounds := [aRound] }), 0, memKey 1 0, pktOrd, { e := 0 }, aRound, by decide +kernel, by decide +kernel, by decide +kernel, by decide +kernel, by decide +kernel, by unfold Dev.calm; decide +kernel, by decide +kernel, by decide +kernel, by decide +kernel, by decide +kernel, by decide +kernel, by decide +kernel, by decide +kernel, by decide +kernel, by decide +kernel, by decide +kernel, by decide +kernel, by decide +kernel, by decide +kernel, by decide +kernel, by decide +kernel, by decide +kernel, by decide +kernel, by decide +kernel, by decide +kernel⟩⟩

theorem witness_ResponsesAndAcknowledgementsCompleteOperations :
    (∃ (s : State), ∃ (port : Nat), ∃ (p : Packet), ∃ (c : Instr), ∃ (o : OutOp), (s.dev.alive = true) ∧ (s.dev.inOrder port p) ∧ ((c, p.op) ∈ [(Instr.loadRsp port p, 0x81), (.addRsp port p, 0x84), (.casRsp port p, 0x85)]) ∧ (s.dev.fab.ops = [o]) ∧ (o.first.isSome = true) ∧ (o.p.dst = p.src) ∧ (o.p.cls = p.cls) ∧ (o.p.ssn = p.re) ∧ (o.p.op + 0x80 = p.op) ∧ (s.dev.fab.releases = []) ∧ (s.dev.fab.fences = []) ∧ (s.dev.replays o.ref = false) ∧ (p.status = 0) ∧ (o.ref.result + p.body.length ≤ 2 ^ 21)) ∧
    (∃ (s : State), ∃ (src : Nat), ∃ (cls : Nat), ∃ (x : SendStream), (s.dev.alive = true) ∧ (x = s.dev.stream (streamKey src cls)) ∧ (x.state ≠ .opened)) ∧
    (∃ (s : State), ∃ (src : Nat), ∃ (cls : Nat), ∃ (ssn : Nat), ∃ (fails : List (Nat × Nat)), ∃ (x : SendStream), ∃ p, ∃ o, (s.dev.alive = true) ∧ (x = s.dev.stream (streamKey src cls)) ∧ (x.state = .opened) ∧ (x.out = [p]) ∧ (ssnLe p.ssn ssn = true) ∧ (s.dev.fab.ops = [o]) ∧ (o.p = p) ∧ (p.dst = src) ∧ (p.cls = cls) ∧ (p.op = 2) ∧ (o.first.isSome = true) ∧ (s.dev.fab.releases = []) ∧ (s.dev.fab.fences = []) ∧ (fails = []) ∧ (s.dev.replays o.ref = false)) ∧
    (∃ (s : State), ∃ (src : Nat), ∃ (cls : Nat), ∃ (x : SendStream), (s.dev.alive = true) ∧ (x = s.dev.stream (streamKey src cls)) ∧ (x.state = .idle ∨ x.out = [])) ∧
    (∃ (s : State), ∃ (src : Nat), ∃ (cls : Nat), ∃ (x : SendStream), (s.dev.alive = true) ∧ (x = s.dev.stream (streamKey src cls)) ∧ (x.state = .opened) ∧ (x.out ≠ [])) ∧
    (∃ (s : State), ∃ (dst : Nat), ∃ (cls : Nat), ∃ (x : SendStream), (s.dev.alive = true) ∧ (x = s.dev.stream (streamKey dst cls)) ∧ (x.wait = none) ∧ (x.out = [] ∨ s.dev.now < x.progress + s.dev.streamBeats)) ∧
    (∃ (s : State), ∃ (dst : Nat), ∃ (cls : Nat), ∃ (x : SendStream), ∃ p, ∃ i, (s.dev.alive = true) ∧ (x = s.dev.stream (streamKey dst cls)) ∧ (x.wait = none) ∧ (x.out = [p]) ∧ (x.state = .opened) ∧ (x.progress + s.dev.streamBeats ≤ s.dev.now) ∧ (cls < 8) ∧ (x.retries < s.dev.fld F.AZF_STREAM_RETRY_MAX) ∧ (s.dev.routePort dst = some i)) ∧
    (∃ (s : State), ∃ (dev : Nat), ∃ (cls : Nat), ∃ x, (s.dev.alive = true) ∧ (Tbl.at? s.dev.fab.recvs (streamKey dev cls) = some x) ∧ (s.dev.now < x.used + 2 ^ 20)) ∧
    (∃ (s : State), ∃ (dev : Nat), ∃ (cls : Nat), ∃ x, (s.dev.alive = true) ∧ (Tbl.at? s.dev.fab.recvs (streamKey dev cls) = some x) ∧ (x.used + 2 ^ 20 ≤ s.dev.now)) ∧
    (∃ (s : State), ∃ (dev : Nat), ∃ (cls : Nat), ∃ x, (s.dev.alive = true) ∧ (Tbl.at? s.dev.fab.sends (streamKey dev cls) = some x) ∧ (x.state ≠ .idle ∨ s.dev.now < x.used + 2 ^ 20)) ∧
    (∃ (s : State), ∃ (dev : Nat), ∃ (cls : Nat), ∃ x, (s.dev.alive = true) ∧ (Tbl.at? s.dev.fab.sends (streamKey dev cls) = some x) ∧ (x.state = .idle) ∧ (x.used + 2 ^ 20 ≤ s.dev.now) ∧ (s.dev.fab.waitCtx = [])) ∧
    (∃ (s : State), ∃ (dst : Nat), (s.dev.alive = true) ∧ (s.dev.isDead dst = false ∨ s.dev.tearsDown = true)) ∧
    (∃ (s : State), ∃ (dst : Nat), ∃ o, (s.dev.alive = true) ∧ (s.dev.isDead dst = true) ∧ (s.dev.tearsDown = false) ∧ (s.dev.fab.ops = [o]) ∧ (o.p.dst = dst) ∧ (dst ≠ s.dev.me) ∧ (o.first = none) ∧ (o.p.op = 2) ∧ (s.dev.replays o.ref = false) ∧ (s.dev.fab.releases = []) ∧ (s.dev.fab.fences = []) ∧ (s.dev.inv? o.ref.inv = none)) ∧
    (∃ (s : State), ∃ (core : Nat), ∃ (addr : Nat), ∃ (dst : Nat), ∃ (rkey : Nat), ∃ (ctr : Nat), ∃ (k : Nat), ∃ (data : Bytes), ∃ (poison : Bool), ∃ (arrival : Bool), ∃ (j : Job), ∃ (i : Inv), ∃ (img : Bytes), ∃ (q : OpReq), ∃ (p : Packet), (s.dev.alive = true) ∧ ((s.dev.core core).state = .active) ∧ ((s.dev.core core).job = some j) ∧ (s.dev.inv? j.inv = some i) ∧ (s.dev.invImg i = some img) ∧ ((s.dev.core core).replay = []) ∧ (s.dev.fab.ops = []) ∧ (s.dev.fab.loops = []) ∧ (s.dev.fab.releases = []) ∧ (opReq (.store addr (some dst) rkey ctr data poison arrival false) = some q) ∧ (p = s.dev.opPacket q i core (launchBeat i (imgEntry img j.entry)) (s.dev.core core).ords) ∧ ((s.dev.core core).ords < 256) ∧ (alignOk p = true) ∧ (p.dst ≠ s.dev.me) ∧ (s.dev.reaches p.dst p.cls k)) :=
  ⟨⟨blk ({ home with fab.ops := [{ anOp with p := { op := 1, src := 0, dst := 1 }, first := some 0 }] }), 0, { pktOp 0x81 [] with len := 0 }, .loadRsp 0 { pktOp 0x81 [] with len := 0 }, { anOp with p := { op := 1, src := 0, dst := 1 }, first := some 0 }, by decide +kernel, inOrder_of _ _ _ { e := 0 } (by decide +kernel) (by unfold Dev.calm; decide +kernel) (by decide +kernel), by decide +kernel, by decide +kernel, by decide +kernel, by decide +kernel, by decide +kernel, by decide +kernel, by decide +kernel, by decide +kernel, by decide +kernel, by decide +kernel, by decide +kernel, by decide +kernel⟩,
   ⟨blk (up), 0, 0, {}, by decide +kernel⟩,
   ⟨blk ({ up with fab.sends := [(streamKey 1 0, { state := .opened, out := [aStoreOp.p] })], fab.ops := [{ aStoreOp with first := some 0 }] }), 1, 0, 0, [], { state := .opened, out := [aStoreOp.p] }, aStoreOp.p, { aStoreOp with first := some 0 }, by decide +kernel⟩,
   ⟨blk (up), 0, 0, {}, by decide +kernel⟩,
   ⟨blk ({ up with fab.sends := [(streamKey 1 0, { state := .opened, out := [aStoreOp.p] })] }), 1, 0, { state := .opened, out := [aStoreOp.p] }, by decide +kernel⟩,
   ⟨blk (up), 0, 0, {}, by decide +kernel⟩,
   ⟨blk ((let d := routed up; { d with fab.sends := [(streamKey 1 0, { state := .opened, out := [aStoreOp.p] })], cad.count := 2 ^ 40 })), 1, 0, { state := .opened, out := [aStoreOp.p] }, aStoreOp.p, 0, by decide +kernel⟩,
   ⟨blk (let d := up; let d := { d with fab.recvs := [((streamKey (0) (0)), ({ e := 0 }))] }; d), 0, 0, { e := 0 }, by decide +kernel⟩,
   ⟨blk (let d := up; let d := { d with fab.recvs := [((streamKey (0) (0)), ({ e := 0 }))] }; let d := { d with cad.count := 2 ^ 20 }; d), 0, 0, { e := 0 }, by decide +kernel⟩,
   ⟨blk (let d := up; let d := { d with fab.sends := [((streamKey (0) (0)), ({ state := .opened }))] }; d), 0, 0, { state := .opened }, by decide +kernel⟩,
   ⟨blk (let d := { up with cad.count := 2 ^ 20, fab.sends := [(streamKey 0 0, {})] }; let d := { d with cad.count := 2 ^ 20 }; d), 0, 0, {}, by decide +kernel⟩,
   ⟨blk (up), 0, by decide +kernel⟩,
   ⟨blk (({ up with fab.ops := [aStoreOp], fab.dead := [(1, 0)] }.setFld F.AZF_CTRL_DEADMODE 2)), 1, aStoreOp, by decide +kernel⟩,
   ⟨blk (coreUp), 0, 0, 1, 0, 0, 0, four, false, false, { inv := 0, entry := 0, task := 0 }, invP, progE 0 0, storeReq, coreUp.opPacket storeReq invP 0 (launchBeat invP (imgEntry (progE 0 0) 0)) 0, by decide +kernel, by decide +kernel, by decide +kernel, by decide +kernel, by decide +kernel, by decide +kernel, by decide +kernel, by decide +kernel, by decide +kernel, by decide +kernel, by decide +kernel, by decide +kernel, by decide +kernel, by decide +kernel, by unfold Dev.reaches; decide +kernel⟩⟩

theorem witness_RoundsAreAskedDoneAndClosed :
    (∃ (s : State), ∃ (pad : Nat), ∃ (issue : Nat), (s.dev.alive = true) ∧ (s.dev.fab.asks = []) ∧ (s.dev.roundOver pad issue = false)) ∧
    (∃ (s : State), ∃ (src : Nat), ∃ (pad : Nat), ∃ (issue : Nat), ∃ i, (s.dev.alive = true) ∧ (s.dev.fab.asks = []) ∧ (s.dev.roundOver pad issue = true) ∧ ((∀ k, k < 16 → (s.dev.azPort k).queue = [])) ∧ (s.dev.fab.waitCtx = []) ∧ (s.dev.routePort src = some i)) ∧
    (∃ (s : State), ∃ (src : Nat), ∃ (pad : Nat), ∃ (issue : Nat), ∃ (x : Round), ∃ (y : Round), (s.dev.alive = true) ∧ (s.dev.fab.rounds = [x, y]) ∧ (x.paddock = pad) ∧ (x.issue = issue) ∧ (s.dev.placeDev src ∈ x.members) ∧ (x.done = []) ∧ (y.issue ≠ issue)) ∧
    (∃ (s : State), ∃ (pad : Nat), ∃ (issue : Nat), (s.dev.alive = true) ∧ (s.dev.calm) ∧ (s.dev.round? pad issue = none)) ∧
    (∃ (s : State), ∃ (pad : Nat), ∃ (issue : Nat), ∃ (x : Round), (s.dev.alive = true) ∧ (s.dev.calm) ∧ (s.dev.round? pad issue = some x) ∧ (s.dev.roundReady x = false)) ∧
    (∃ (s : State), ∃ (pad : Nat), ∃ (issue : Nat), ∃ (x : Round), ∃ o, (s.dev.alive = true) ∧ (s.dev.calm) ∧ (s.dev.fab.rounds = [x]) ∧ (x.paddock = pad) ∧ (x.issue = issue) ∧ (s.dev.roundReady x = true) ∧ (x.ops = [o]) ∧ (o.p.op = 2) ∧ (o.p.body.length = o.p.len) ∧ (s.dev.fab.loops = [])) ∧
    (∃ (s : State), ∃ (pad : Nat), ∃ (issue : Nat), ∃ (x : Round), ∃ o, ∃ o', (s.dev.alive = true) ∧ (s.dev.calm) ∧ (s.dev.fab.rounds = [x]) ∧ (x.paddock = pad) ∧ (x.issue = issue) ∧ (s.dev.roundReady x = true) ∧ (x.ops = [o, o']) ∧ (o.p.op = 2) ∧ (o'.p.op = 2) ∧ (o.p.body.length = o.p.len) ∧ (o'.p.body.length = o.p.len) ∧ (o'.p.len = o.p.len) ∧ (o'.key = o.key) ∧ (o.before o' = true) ∧ (s.dev.fab.loops = [])) :=
  ⟨⟨blk ((running (progE 0 5) invP)), 1, 5, by decide +kernel⟩,
   ⟨blk ((routed up)), 1, 0, 0, 0, by decide +kernel⟩,
   ⟨blk ({ up with fab.rounds := [{ aRound with members := [1] }, { aRound with issue := 6 }] }), 1, 1, 5, { aRound with members := [1] }, { aRound with issue := 6 }, by decide +kernel⟩,
   ⟨blk (up), 0, 0, by decide +kernel, by unfold Dev.calm; decide +kernel, by decide +kernel⟩,
   ⟨blk ({ up with fab.rounds := [{ aRound with members := [1] }] }), 1, 5, { aRound with members := [1] }, by decide +kernel, by unfold Dev.calm; decide +kernel, by decide +kernel, by decide +kernel⟩,
   ⟨blk ({ up with fab.rounds := [{ aRound with ops := [heldOp 0] }] }), 1, 5, { aRound with ops := [heldOp 0] }, heldOp 0, by decide +kernel, by unfold Dev.calm; decide +kernel, by decide +kernel, by decide +kernel, by decide +kernel, by decide +kernel, by decide +kernel, by decide +kernel, by decide +kernel, by decide +kernel⟩,
   ⟨blk ({ up with fab.rounds := [{ aRound with ops := [heldOp 0, heldOp 1] }] }), 1, 5, { aRound with ops := [heldOp 0, heldOp 1] }, heldOp 0, heldOp 1, by decide +kernel, by unfold Dev.calm; decide +kernel, by decide +kernel, by decide +kernel, by decide +kernel, by decide +kernel, by decide +kernel, by decide +kernel, by decide +kernel, by decide +kernel, by decide +kernel, by decide +kernel, by decide +kernel, by decide +kernel, by decide +kernel⟩⟩

theorem witness_QueuePairCommands :
    (∃ (s : State), ∃ (c : HostCmd), (s.dev.alive = true) ∧ (s.dev.takes { rsvOk := argMask true 0 0 0 0, lenOk := fun c => c.hlen == 16 + 4 * field c.data 6 2 } c) ∧ (s.dev.flag F.QPX_CTRL_EN = false)) ∧
    (∃ (s : State), ∃ (c : HostCmd), (s.dev.alive = true) ∧ (s.dev.takes { rsvOk := argMask true 0 0 0 0, lenOk := fun c => c.hlen == 16 + 4 * field c.data 6 2 } c) ∧ (s.dev.flag F.QPX_CTRL_EN = true) ∧ (s.dev.pdBad c.data = true)) ∧
    (∃ (s : State), ∃ (c : HostCmd), (s.dev.alive = true) ∧ (s.dev.takes { rsvOk := argMask true 0 0 0 0, lenOk := fun c => c.hlen == 16 + 4 * field c.data 6 2 } c) ∧ (s.dev.flag F.QPX_CTRL_EN = true) ∧ (s.dev.pdBad c.data = false)) ∧
    (∃ (s : State), ∃ (c : HostCmd), (s.dev.alive = true) ∧ (s.dev.takes (recSpec 64 0 0) c) ∧ (s.dev.flag F.QPX_CTRL_EN = true) ∧ (s.dev.createBad c.data = true)) ∧
    (∃ (s : State), ∃ (c : HostCmd), (s.dev.alive = true) ∧ (s.dev.takes (recSpec 64 0 0) c) ∧ (s.dev.flag F.QPX_CTRL_EN = true) ∧ (s.dev.createBad c.data = false) ∧ ((s.dev.qp? (field c.data 0 2)).isSome = true)) ∧
    (∃ (s : State), ∃ (c : HostCmd), (s.dev.alive = true) ∧ (s.dev.takes (recSpec 64 0 0) c) ∧ (s.dev.flag F.QPX_CTRL_EN = true) ∧ (s.dev.createBad c.data = false) ∧ (s.dev.qp? (field c.data 0 2) = none)) ∧
    (∃ (s : State), ∃ (c : HostCmd), ∃ (n : Nat), (s.dev.alive = true) ∧ (s.dev.takes (argSpec 0x3FFFF 0 0) c) ∧ (s.dev.flag F.QPX_CTRL_EN = true) ∧ (n = c.a0 % 2 ^ 16) ∧ (s.dev.qp? n = none)) ∧
    (∃ (s : State), ∃ (c : HostCmd), ∃ (n : Nat), ∃ q, (s.dev.alive = true) ∧ (s.dev.takes (argSpec 0x3FFFF 0 0) c) ∧ (s.dev.flag F.QPX_CTRL_EN = true) ∧ (n = c.a0 % 2 ^ 16) ∧ (s.dev.qp? n = some q) ∧ (q.cache = .evicted)) ∧
    (∃ (s : State), ∃ (c : HostCmd), ∃ (n : Nat), ∃ q, (s.dev.alive = true) ∧ (s.dev.takes (argSpec 0x3FFFF 0 0) c) ∧ (s.dev.flag F.QPX_CTRL_EN = true) ∧ (n = c.a0 % 2 ^ 16) ∧ (s.dev.qp? n = some q) ∧ (q.cache = .resident) ∧ (q.state = .reset) ∧ (bits c.a0 17 16 = 2) ∧ (q.wqes = [])) ∧
    (∃ (s : State), ∃ (c : HostCmd), ∃ (n : Nat), ∃ q, (s.dev.alive = true) ∧ (s.dev.takes (argSpec 0x3FFFF 0 0) c) ∧ (s.dev.flag F.QPX_CTRL_EN = true) ∧ (n = c.a0 % 2 ^ 16) ∧ (s.dev.qp? n = some q) ∧ (q.cache = .resident) ∧ (q.state = .ready) ∧ (bits c.a0 17 16 = 3) ∧ (q.wqes = [])) ∧
    (∃ (s : State), ∃ (c : HostCmd), ∃ (n : Nat), ∃ q, (s.dev.alive = true) ∧ (s.dev.takes (argSpec 0x3FFFF 0 0) c) ∧ (s.dev.flag F.QPX_CTRL_EN = true) ∧ (n = c.a0 % 2 ^ 16) ∧ (s.dev.qp? n = some q) ∧ (q.cache = .resident) ∧ (q.state = .error) ∧ (bits c.a0 17 16 = 1)) ∧
    (∃ (s : State), ∃ (c : HostCmd), ∃ (n : Nat), ∃ q, (s.dev.alive = true) ∧ (s.dev.takes (argSpec 0x3FFFF 0 0) c) ∧ (s.dev.flag F.QPX_CTRL_EN = true) ∧ (n = c.a0 % 2 ^ 16) ∧ (s.dev.qp? n = some q) ∧ (q.cache = .resident) ∧ (q.state = .reset) ∧ (bits c.a0 17 16 ≠ 2)) ∧
    (∃ (s : State), ∃ (c : HostCmd), ∃ (q : Qp), (s.dev.alive = true) ∧ (s.dev.takes (argSpec 0xFFFF 0 0) c) ∧ (s.dev.flag F.QPX_CTRL_EN = true) ∧ (s.dev.qp? (c.a0 % 2 ^ 16) = some q) ∧ (q.state = .ready)) ∧
    (∃ (s : State), ∃ (c : HostCmd), ∃ (q : Qp), (s.dev.alive = true) ∧ (s.dev.takes (argSpec 0xFFFF 0 0) c) ∧ (s.dev.flag F.QPX_CTRL_EN = true) ∧ (s.dev.qp? (c.a0 % 2 ^ 16) = some q) ∧ (q.state ≠ .ready) ∧ (s.dev.qpx.miss = [])) ∧
    (∃ (s : State), ∃ (c : HostCmd), ∃ (q : Qp), (s.dev.alive = true) ∧ (s.dev.takes { shared := true, rsvOk := argMask false 0xFFFFFFFF 0 0 0 } c) ∧ (s.dev.flag F.QPX_CTRL_EN = true) ∧ (s.dev.qp? (c.a0 % 2 ^ 16) = some q) ∧ (q.cache = .resident) ∧ (q.state = .reset)) ∧
    (∃ (s : State), ∃ (c : HostCmd), ∃ (q : Qp), (s.dev.alive = true) ∧ (s.dev.takes { shared := true, rsvOk := argMask false 0xFFFFFFFF 0 0 0 } c) ∧ (s.dev.flag F.QPX_CTRL_EN = true) ∧ (s.dev.qp? (c.a0 % 2 ^ 16) = some q) ∧ (q.cache = .resident) ∧ (q.state ≠ .reset) ∧ (2 ^ q.rqLog2 < (bits c.a0 31 16 + 2 ^ 16 - q.cons) % 2 ^ 16)) ∧
    (∃ (s : State), ∃ (c : HostCmd), ∃ (q : Qp), (s.dev.alive = true) ∧ (s.dev.takes { shared := true, rsvOk := argMask false 0xFFFFFFFF 0 0 0 } c) ∧ (s.dev.flag F.QPX_CTRL_EN = true) ∧ (s.dev.qp? (c.a0 % 2 ^ 16) = some q) ∧ (q.cache = .resident) ∧ (q.state ≠ .reset) ∧ ((bits c.a0 31 16 + 2 ^ 16 - q.cons) % 2 ^ 16 ≤ 2 ^ q.rqLog2)) ∧
    (∃ (s : State), ∃ (c : HostCmd), ∃ (c' : HostCmd), ∃ (q : Qp), ∃ (n : Nat), (s.dev.alive = true) ∧ (c' = { c with rsv48 := c.rsv48 / 2 ^ 64 }) ∧ (s.dev.takes { shared := true, lenOk := fun _ => true } c') ∧ (s.dev.flag F.QPX_CTRL_EN = true) ∧ (n = field (wrOf c) 0 2) ∧ (s.dev.qp? n = some q) ∧ (q.cache = .resident) ∧ (q.sqRing ≠ c.ring)) ∧
    (∃ (s : State), ∃ (c : HostCmd), ∃ (c' : HostCmd), ∃ (q : Qp), ∃ (n : Nat), (s.dev.alive = true) ∧ (c' = { c with rsv48 := c.rsv48 / 2 ^ 64 }) ∧ (s.dev.takes { shared := true, lenOk := fun _ => true } c') ∧ (s.dev.flag F.QPX_CTRL_EN = true) ∧ (n = field (wrOf c) 0 2) ∧ (s.dev.qp? n = some q) ∧ (q.cache = .resident) ∧ (q.sqRing = c.ring) ∧ (q.state = .reset)) ∧
    (∃ (s : State), ∃ (c : HostCmd), ∃ (c' : HostCmd), ∃ (q : Qp), ∃ (n : Nat), ∃ k, (s.dev.alive = true) ∧ (c' = { c with rsv48 := c.rsv48 / 2 ^ 64 }) ∧ (s.dev.takes { shared := true, lenOk := fun _ => true } c') ∧ (s.dev.flag F.QPX_CTRL_EN = true) ∧ (n = field (wrOf c) 0 2) ∧ (s.dev.qp? n = some q) ∧ (q.cache = .resident) ∧ (q.sqRing = c.ring) ∧ (q.state ≠ .reset) ∧ (s.dev.wrCheck (wrOf c) = some k)) ∧
    (∃ (s : State), ∃ (c : HostCmd), ∃ (c' : HostCmd), ∃ (q : Qp), ∃ (n : Nat), (s.dev.alive = true) ∧ (c' = { c with rsv48 := c.rsv48 / 2 ^ 64 }) ∧ (s.dev.takes { shared := true, lenOk := fun _ => true } c') ∧ (s.dev.flag F.QPX_CTRL_EN = true) ∧ (n = field (wrOf c) 0 2) ∧ (s.dev.qp? n = some q) ∧ (q.cache = .resident) ∧ (q.sqRing = c.ring) ∧ (q.state ≠ .reset) ∧ (s.dev.wrCheck (wrOf c) = none) ∧ (field (wrOf c) 2 1 ≠ 7) ∧ (q.sqDepth ≤ q.wqes.length)) ∧
    (∃ (s : State), ∃ (c : HostCmd), ∃ (c' : HostCmd), ∃ (q : Qp), ∃ (n : Nat), (s.dev.alive = true) ∧ (c' = { c with rsv48 := c.rsv48 / 2 ^ 64 }) ∧ (s.dev.takes { shared := true, lenOk := fun _ => true } c') ∧ (s.dev.flag F.QPX_CTRL_EN = true) ∧ (n = field (wrOf c) 0 2) ∧ (s.dev.qp? n = some q) ∧ (q.cache = .resident) ∧ (q.sqRing = c.ring) ∧ (q.state = .error) ∧ (s.dev.wrCheck (wrOf c) = none) ∧ (field (wrOf c) 2 1 ≠ 7) ∧ (q.wqes.length < q.sqDepth)) ∧
    (∃ (s : State), ∃ (c : HostCmd), ∃ (c' : HostCmd), ∃ (q : Qp), ∃ (n : Nat), ∃ i, (s.dev.alive = true) ∧ (c' = { c with rsv48 := c.rsv48 / 2 ^ 64 }) ∧ (s.dev.takes { shared := true, lenOk := fun _ => true } c') ∧ (s.dev.flag F.QPX_CTRL_EN = true) ∧ (n = field (wrOf c) 0 2) ∧ (s.dev.qp? n = some q) ∧ (q.cache = .resident) ∧ (q.sqRing = c.ring) ∧ (q.state = .ready) ∧ (s.dev.wrCheck (wrOf c) = none) ∧ (field (wrOf c) 2 1 = 1) ∧ (field (wrOf c) 4 4 = 0) ∧ (q.wqes = []) ∧ (q.sqDepth ≠ 0) ∧ (q.rnrWait = none) ∧ (q.spsn = q.una) ∧ (q.una < 2 ^ 24) ∧ (s.dev.reaches (s.dev.resolve q.remote) q.cls i)) :=
  ⟨⟨blk (rup), { cmd with hlen := 16, data := pdRec }, by decide +kernel, by unfold Dev.takes; decide +kernel, by decide +kernel⟩,
   ⟨blk (let d := rup; let d := d.setFld F.QPX_CTRL_EN 1; d), { cmd with hlen := 16, data := mk 16 [] }, by decide +kernel, by unfold Dev.takes; decide +kernel, by decide +kernel, by decide +kernel⟩,
   ⟨blk (let d := rup; let d := d.setFld F.QPX_CTRL_EN 1; d), { cmd with hlen := 16, data := pdRec }, by decide +kernel, by unfold Dev.takes; decide +kernel, by decide +kernel, by decide +kernel⟩,
   ⟨blk (let d := rup; let d := d.setFld F.QPX_CTRL_EN 1; d), { cmd with hlen := 64, data := qpRec }, by decide +kernel, by unfold Dev.takes; decide +kernel, by decide +kernel, by decide +kernel⟩,
   ⟨blk ((qpPoster aQp)), { cmd with hlen := 64, data := qpRec }, by decide +kernel, by unfold Dev.takes; decide +kernel, by decide +kernel, by decide +kernel, by decide +kernel⟩,
   ⟨blk ((let d := qpPoster aQp; { d with qpx.qps := [] })), { cmd with hlen := 64, data := qpRec }, by decide +kernel, by unfold Dev.takes; decide +kernel, by decide +kernel, by decide +kernel, by decide +kernel⟩,
   ⟨blk (let d := rup; let d := d.setFld F.QPX_CTRL_EN 1; d), cmd, (cmd : HostCmd).a0 % 2 ^ 16, by decide +kernel, by unfold Dev.takes; decide +kernel, by decide +kernel, by decide +kernel, by decide +kernel⟩,
   ⟨blk ((qpPoster { aQp with cache := .evicted })), cmd, (cmd : HostCmd).a0 % 2 ^ 16, { aQp with cache := .evicted }, by decide +kernel, by unfold Dev.takes; decide +kernel, by decide +kernel, by decide +kernel, by decide +kernel, by decide +kernel⟩,
   ⟨blk ((qpPoster aQp)), { cmd with a0 := 0x20000 }, ({ cmd with a0 := 0x20000 } : HostCmd).a0 % 2 ^ 16, aQp, by decide +kernel, by unfold Dev.takes; decide +kernel, by decide +kernel, by decide +kernel, by decide +kernel, by decide +kernel, by decide +kernel, by decide +kernel, by decide +kernel⟩,
   ⟨blk ((qpPoster { aQp with state := .ready })), { cmd with a0 := 0x30000 }, ({ cmd with a0 := 0x30000 } : HostCmd).a0 % 2 ^ 16, { aQp with state := .ready }, by decide +kernel, by unfold Dev.takes; decide +kernel, by decide +kernel, by decide +kernel, by decide +kernel, by decide +kernel, by decide +kernel, by decide +kernel, by decide +kernel⟩,
   ⟨blk ((qpPoster { aQp with state := .error })), { cmd with a0 := 0x10000 }, ({ cmd with a0 := 0x10000 } : HostCmd).a0 % 2 ^ 16, { aQp with state := .error }, by decide +kernel, by unfold Dev.takes; decide +kernel, by decide +kernel, by decide +kernel, by decide +kernel, by decide +kernel, by decide +kernel, by decide +kernel⟩,
   ⟨blk ((qpPoster aQp)), { cmd with a0 := 0x10000 }, ({ cmd with a0 := 0x10000 } : HostCmd).a0 % 2 ^ 16, aQp, by decide +kernel, by unfold Dev.takes; decide +kernel, by decide +kernel, by decide +kernel, by decide +kernel, by decide +kernel, by decide +kernel, by decide +kernel⟩,
   ⟨blk ((qpPoster { aQp with state := .ready })), cmd, { aQp with state := .ready }, by decide +kernel, by unfold Dev.takes; decide +kernel, by decide +kernel, by decide +kernel, by decide +kernel⟩,
   ⟨blk ((qpPoster aQp)), cmd, aQp, by decide +kernel, by unfold Dev.takes; decide +kernel, by decide +kernel, by decide +kernel, by decide +kernel, by decide +kernel⟩,
   ⟨blk ((qpPoster aQp)), cmd, aQp, by decide +kernel, by unfold Dev.takes; decide +kernel, by decide +kernel, by decide +kernel, by decide +kernel, by decide +kernel⟩,
   ⟨blk ((qpPoster { aQp with state := .ready })), { cmd with a0 := 2 * 2 ^ 16 }, { aQp with state := .ready }, by decide +kernel, by unfold Dev.takes; decide +kernel, by decide +kernel, by decide +kernel, by decide +kernel, by decide +kernel, by decide +kernel⟩,
   ⟨blk ((qpPoster { aQp with state := .ready })), cmd, { aQp with state := .ready }, by decide +kernel, by unfold Dev.takes; decide +kernel, by decide +kernel, by decide +kernel, by decide +kernel, by decide +kernel, by decide +kernel⟩,
   ⟨blk ((qpPoster { aQp with sqRing := 1 })), cmd, cmd, { aQp with sqRing := 1 }, field (wrOf (cmd : HostCmd)) 0 2, by decide +kernel, by decide +kernel, by unfold Dev.takes; decide +kernel, by decide +kernel, by decide +kernel, by decide +kernel, by decide +kernel, by decide +kernel⟩,
   ⟨blk ((qpPoster aQp)), cmd, cmd, aQp, field (wrOf (cmd : HostCmd)) 0 2, by decide +kernel, by decide +kernel, by unfold Dev.takes; decide +kernel, by decide +kernel, by decide +kernel, by decide +kernel, by decide +kernel, by decide +kernel, by decide +kernel⟩,
   ⟨blk ((qpPoster { aQp with state := .ready })), cmd, cmd, { aQp with state := .ready }, field (wrOf (cmd : HostCmd)) 0 2, C.HIF_RESERVED, by decide +kernel, by decide +kernel, by unfold Dev.takes; decide +kernel, by decide +kernel, by decide +kernel, by decide +kernel, by decide +kernel, by decide +kernel, by decide +kernel, by decide +kernel⟩,
   ⟨blk ((qpPoster { aQp with state := .ready, sqDepth := 0 })), { cmd with haddr := 2 ^ 16 }, { cmd with haddr := 2 ^ 16 }, { aQp with state := .ready, sqDepth := 0 }, field (wrOf ({ cmd with haddr := 2 ^ 16 } : HostCmd)) 0 2, by decide +kernel, by decide +kernel, by unfold Dev.takes; decide +kernel, by decide +kernel, by decide +kernel, by decide +kernel, by decide +kernel, by decide +kernel, by decide +kernel, by decide +kernel, by decide +kernel, by decide +kernel⟩,
   ⟨blk ((qpPoster { aQp with state := .error })), { cmd with haddr := 2 ^ 16 }, { cmd with haddr := 2 ^ 16 }, { aQp with state := .error }, field (wrOf ({ cmd with haddr := 2 ^ 16 } : HostCmd)) 0 2, by decide +kernel, by decide +kernel, by unfold Dev.takes; decide +kernel, by decide +kernel, by decide +kernel, by decide +kernel, by decide +kernel, by decide +kernel, by decide +kernel, by decide +kernel, by decide +kernel, by decide +kernel⟩,
   ⟨blk ((qpPoster { aQp with state := .ready })), { cmd with haddr := 2 ^ 16 }, { cmd with haddr := 2 ^ 16 }, { aQp with state := .ready }, field (wrOf ({ cmd with haddr := 2 ^ 16 } : HostCmd)) 0 2, 0, by decide +kernel, by decide +kernel, by unfold Dev.takes; decide +kernel, by decide +kernel, by decide +kernel, by decide +kernel, by decide +kernel, by decide +kernel, by decide +kernel, by decide +kernel, by decide +kernel, by decide +kernel, by decide +kernel, by decide +kernel, by decide +kernel, by decide +kernel, by decide +kernel, by unfold Dev.reaches; decide +kernel⟩⟩

theorem witness_QueuePairPackets :
    (∃ (s : State), ∃ (port : Nat), ∃ (p : Packet), ∃ (c : Instr), ∃ (ok : Nat → Bool), (s.dev.alive = true) ∧ (c = .qpRequestPacket port p ∧ ok = (fun q => decide (1 ≤ q) && decide (q ≤ 6)) ∨ c = .qpAck port p ∧ ok = (· == 0x40) ∨ c = .qpNak port p ∧ ok = (· == 0x41) ∨ c = .readRsp port p ∧ ok = (· == 0x42) ∨ c = .atomicRsp port p ∧ ok = (· == 0x43)) ∧ ((16 ≤ port ∨ p.op ≠ 0x20 ∨ 8 ≤ p.cls ∨ ok (field p.body 0 1) = false ∨ (s.dev.azPort port).up = false))) ∧
    (∃ (s : State), ∃ (port : Nat), ∃ (p : Packet), ∃ (n : Nat), ∃ (psn : Nat), ∃ (q : Qp), ∃ k, ∃ i, (s.dev.alive = true) ∧ (s.dev.inOrder port p) ∧ (p.op = 0x20) ∧ (n = field p.body 2 2) ∧ (psn = field p.body 4 4 % 2 ^ 24) ∧ (s.dev.flag F.QPX_CTRL_EN = true) ∧ (s.dev.qp? n = some q) ∧ (q.cache = .resident) ∧ (q.state = .ready) ∧ (q.epsn = psn) ∧ (field p.body 0 1 = 1) ∧ (32 < p.body.length) ∧ (q.rwEn = true) ∧ (field p.body 16 8 / 2 ^ 62 = 0) ∧ (s.dev.pdAccess q.pd (field p.body 16 8) (field p.body 8 4) (p.body.length - 32) 1 true = .inr k) ∧ (bit (field p.body 1 1) 2 = false) ∧ (s.dev.reaches (s.dev.resolve q.remote) q.cls i)) ∧
    (∃ (s : State), ∃ (port : Nat), ∃ (p : Packet), ∃ (n : Nat), ∃ (psn : Nat), ∃ (q : Qp), (s.dev.alive = true) ∧ (s.dev.inOrder port p) ∧ (p.op = 0x20) ∧ (n = field p.body 2 2) ∧ (psn = field p.body 4 4 % 2 ^ 24) ∧ (s.dev.flag F.QPX_CTRL_EN = true) ∧ (s.dev.qp? n = some q) ∧ (q.cache = .resident) ∧ (q.state = .ready) ∧ (q.epsn = psn) ∧ (field p.body 0 1 = 1) ∧ (32 < p.body.length) ∧ (q.rwEn = false) ∧ (q.wqes = [])) ∧
    (∃ (s : State), ∃ (port : Nat), ∃ (p : Packet), ∃ (n : Nat), ∃ (psn : Nat), ∃ (q : Qp), (s.dev.alive = true) ∧ (s.dev.inOrder port p) ∧ (p.op = 0x20) ∧ (n = field p.body 2 2) ∧ (psn = field p.body 4 4 % 2 ^ 24) ∧ (s.dev.flag F.QPX_CTRL_EN = true) ∧ (s.dev.qp? n = some q) ∧ (q.cache = .resident) ∧ (q.state = .ready) ∧ (field p.body 0 1 = 0x40) ∧ (q.advances psn = false)) ∧
    (∃ (s : State), ∃ (port : Nat), ∃ (p : Packet), ∃ (n : Nat), ∃ (psn : Nat), ∃ (q : Qp), ∃ w, (s.dev.alive = true) ∧ (s.dev.inOrder port p) ∧ (p.op = 0x20) ∧ (n = field p.body 2 2) ∧ (psn = field p.body 4 4 % 2 ^ 24) ∧ (s.dev.flag F.QPX_CTRL_EN = true) ∧ (s.dev.qp? n = some q) ∧ (q.cache = .resident) ∧ (q.state = .ready) ∧ (q.wqes = [w]) ∧ (w.sent = 1) ∧ (w.n = 1) ∧ (w.psn = psn) ∧ (q.una = psn) ∧ (q.spsn = (psn + 1) % 2 ^ 24) ∧ (field p.body 0 1 = 0x40) ∧ (w.op = 1)) ∧
    (∃ (s : State), ∃ (port : Nat), ∃ (p : Packet), ∃ (n : Nat), ∃ (psn : Nat), ∃ (q : Qp), ∃ w, ∃ k, (s.dev.alive = true) ∧ (s.dev.inOrder port p) ∧ (p.op = 0x20) ∧ (n = field p.body 2 2) ∧ (psn = field p.body 4 4 % 2 ^ 24) ∧ (s.dev.flag F.QPX_CTRL_EN = true) ∧ (s.dev.qp? n = some q) ∧ (q.cache = .resident) ∧ (q.state = .ready) ∧ (q.wqes = [w]) ∧ (w.sent = 1) ∧ (w.n = 1) ∧ (w.psn = psn) ∧ (q.una = psn) ∧ (q.spsn = (psn + 1) % 2 ^ 24) ∧ (field p.body 0 1 = 0x42) ∧ (w.op = 2) ∧ (w.got = []) ∧ (s.dev.localAddr q.pd w.laddr w.len 1 w.bulk.isSome = .mem k)) ∧
    (∃ (s : State), ∃ (port : Nat), ∃ (p : Packet), ∃ (n : Nat), ∃ (psn : Nat), ∃ (q : Qp), ∃ w, (s.dev.alive = true) ∧ (s.dev.inOrder port p) ∧ (p.op = 0x20) ∧ (n = field p.body 2 2) ∧ (psn = field p.body 4 4 % 2 ^ 24) ∧ (s.dev.flag F.QPX_CTRL_EN = true) ∧ (s.dev.qp? n = some q) ∧ (q.cache = .resident) ∧ (q.state = .ready) ∧ (q.wqes = [w]) ∧ (w.sent = 1) ∧ (w.n = 1) ∧ (w.psn = psn) ∧ (q.una = psn) ∧ (q.spsn = (psn + 1) % 2 ^ 24) ∧ (field p.body 0 1 = 0x43) ∧ (w.op = 5)) ∧
    (∃ (s : State), ∃ (port : Nat), ∃ (p : Packet), ∃ (n : Nat), ∃ (psn : Nat), ∃ (q : Qp), (s.dev.alive = true) ∧ (s.dev.inOrder port p) ∧ (p.op = 0x20) ∧ (n = field p.body 2 2) ∧ (psn = field p.body 4 4 % 2 ^ 24) ∧ (s.dev.flag F.QPX_CTRL_EN = true) ∧ (s.dev.qp? n = some q) ∧ (q.cache = .resident) ∧ (q.state = .ready) ∧ (field p.body 0 1 = 0x41) ∧ (field p.body 12 2 = C.QP_RNR) ∧ (q.rnrs + 1 < q.rnrMax)) ∧
    (∃ (s : State), ∃ (n : Nat), ∃ (t : Nat), ∃ (q : Qp), (s.dev.alive = true) ∧ (s.dev.qp? n = some q) ∧ (q.timer = some t) ∧ (q.state = .ready) ∧ (q.inFlight ≠ 0) ∧ (s.dev.isLost q.remote = false) ∧ (s.dev.now < t + 2 ^ q.timerLog2)) ∧
    (∃ (s : State), ∃ (n : Nat), ∃ (t : Nat), ∃ (q : Qp), (s.dev.alive = true) ∧ (s.dev.qp? n = some q) ∧ (q.timer = some t) ∧ (q.state = .ready) ∧ (q.inFlight ≠ 0) ∧ (s.dev.isLost q.remote = false) ∧ (t + 2 ^ q.timerLog2 ≤ s.dev.now) ∧ (q.retries + 1 < q.retryMax) ∧ (q.wqes = [])) ∧
    (∃ (s : State), ∃ (n : Nat), ∃ (t : Nat), ∃ (q : Qp), (s.dev.alive = true) ∧ (s.dev.qp? n = some q) ∧ (q.timer = some t) ∧ (q.state = .ready) ∧ (q.inFlight ≠ 0) ∧ (s.dev.isLost q.remote = false) ∧ (t + 2 ^ q.timerLog2 ≤ s.dev.now) ∧ (q.retryMax ≤ q.retries + 1) ∧ (q.wqes = [])) ∧
    (∃ (s : State), ∃ (n : Nat), ∃ (t : Nat), ∃ (psn : Nat), ∃ (q : Qp), (s.dev.alive = true) ∧ (s.dev.qp? n = some q) ∧ (q.rnrWait = some (t, psn)) ∧ (q.state = .ready) ∧ (s.dev.now < t + 2 ^ q.rnrLog2)) ∧
    (∃ (s : State), ∃ (n : Nat), ∃ (t : Nat), ∃ (psn : Nat), ∃ (q : Qp), (s.dev.alive = true) ∧ (s.dev.qp? n = some q) ∧ (q.rnrWait = some (t, psn)) ∧ (q.state = .ready) ∧ (t + 2 ^ q.rnrLog2 ≤ s.dev.now) ∧ (q.wqes = [])) :=
  ⟨⟨blk (up), 16, aPkt, .qpAck 16 aPkt, (· == 0x40), by refine ⟨by decide +kernel, ?_, ?_⟩; exact .inr (.inl ⟨rfl, rfl⟩); exact .inl (by decide)⟩,
   ⟨blk ((qpHome { aQp with state := .ready })), 0, qpPkt 36 1, field (qpPkt 36 1 : Packet).body 2 2, field (qpPkt 36 1 : Packet).body 4 4 % 2 ^ 24, { aQp with state := .ready }, memKey 1 0, 0, by decide +kernel, inOrder_of _ _ _ { e := 0 } (by decide +kernel) (by unfold Dev.calm; decide +kernel) (by decide +kernel), by decide +kernel, by decide +kernel, by decide +kernel, by decide +kernel, by decide +kernel, by decide +kernel, by decide +kernel, by decide +kernel, by decide +kernel, by decide +kernel, by decide +kernel, by decide +kernel, by decide +kernel, by decide +kernel, by unfold Dev.reaches; decide +kernel⟩,
   ⟨blk ((qpHome { aQp with state := .ready, rwEn := false })), 0, qpPkt 36 1, field (qpPkt 36 1 : Packet).body 2 2, field (qpPkt 36 1 : Packet).body 4 4 % 2 ^ 24, { aQp with state := .ready, rwEn := false }, by decide +kernel, inOrder_of _ _ _ { e := 0 } (by decide +kernel) (by unfold Dev.calm; decide +kernel) (by decide +kernel), by decide +kernel, by decide +kernel, by decide +kernel, by decide +kernel, by decide +kernel, by decide +kernel, by decide +kernel, by decide +kernel, by decide +kernel, by decide +kernel, by decide +kernel, by decide +kernel⟩,
   ⟨blk ((qpHome { aQp with state := .ready })), 0, qpPkt 36 0x40, field (qpPkt 36 0x40 : Packet).body 2 2, field (qpPkt 36 0x40 : Packet).body 4 4 % 2 ^ 24, { aQp with state := .ready }, by decide +kernel, inOrder_of _ _ _ { e := 0 } (by decide +kernel) (by unfold Dev.calm; decide +kernel) (by decide +kernel), by decide +kernel, by decide +kernel, by decide +kernel, by decide +kernel, by decide +kernel, by decide +kernel, by decide +kernel, by decide +kernel, by decide +kernel⟩,
   ⟨blk ((qpHome { aQp with state := .ready, wqes := [aWqe], spsn := 1 })), 0, qpPkt 36 0x40, field (qpPkt 36 0x40 : Packet).body 2 2, field (qpPkt 36 0x40 : Packet).body 4 4 % 2 ^ 24, { aQp with state := .ready, wqes := [aWqe], spsn := 1 }, aWqe, by decide +kernel, inOrder_of _ _ _ { e := 0 } (by decide +kernel) (by unfold Dev.calm; decide +kernel) (by decide +kernel), by decide +kernel, by decide +kernel, by decide +kernel, by decide +kernel, by decide +kernel, by decide +kernel, by decide +kernel, by decide +kernel, by decide +kernel, by decide +kernel, by decide +kernel, by decide +kernel, by decide +kernel, by decide +kernel, by decide +kernel⟩,
   ⟨blk ((qpHome { aQp with state := .ready, wqes := [{ aWqe with op := 2 }], spsn := 1 })), 0, qpPkt 36 0x42, field (qpPkt 36 0x42 : Packet).body 2 2, field (qpPkt 36 0x42 : Packet).body 4 4 % 2 ^ 24, { aQp with state := .ready, wqes := [{ aWqe with op := 2 }], spsn := 1 }, { aWqe with op := 2 }, memKey 1 0, by decide +kernel, inOrder_of _ _ _ { e := 0 } (by decide +kernel) (by unfold Dev.calm; decide +kernel) (by decide +kernel), by decide +kernel, by decide +kernel, by decide +kernel, by decide +kernel, by decide +kernel, by decide +kernel, by decide +kernel, by decide +kernel, by decide +kernel, by decide +kernel, by decide +kernel, by decide +kernel, by decide +kernel, by decide +kernel, by decide +kernel, by decide +kernel, by decide +kernel⟩,
   ⟨blk ((qpHome { aQp with state := .ready, wqes := [{ aWqe with op := 5 }], spsn := 1 })), 0, qpPkt 36 0x43, field (qpPkt 36 0x43 : Packet).body 2 2, field (qpPkt 36 0x43 : Packet).body 4 4 % 2 ^ 24, { aQp with state := .ready, wqes := [{ aWqe with op := 5 }], spsn := 1 }, { aWqe with op := 5 }, by decide +kernel, inOrder_of _ _ _ { e := 0 } (by decide +kernel) (by unfold Dev.calm; decide +kernel) (by decide +kernel), by decide +kernel, by decide +kernel, by decide +kernel, by decide +kernel, by decide +kernel, by decide +kernel, by decide +kernel, by decide +kernel, by decide +kernel, by decide +kernel, by decide +kernel, by decide +kernel, by decide +kernel, by decide +kernel, by decide +kernel⟩,
   ⟨blk ((qpHome { aQp with state := .ready })), 0, pktOp 0x20 (mk 36 [(0, 1, 0x41), (12, 2, C.QP_RNR)]), field (pktOp 0x20 (mk 36 [(0, 1, 0x41), (12, 2, C.QP_RNR)]) : Packet).body 2 2, field (pktOp 0x20 (mk 36 [(0, 1, 0x41), (12, 2, C.QP_RNR)]) : Packet).body 4 4 % 2 ^ 24, { aQp with state := .ready }, by decide +kernel, inOrder_of _ _ _ { e := 0 } (by decide +kernel) (by unfold Dev.calm; decide +kernel) (by decide +kernel), by decide +kernel, by decide +kernel, by decide +kernel, by decide +kernel, by decide +kernel, by decide +kernel, by decide +kernel, by decide +kernel, by decide +kernel, by decide +kernel⟩,
   ⟨blk ((qpHome { aQp with state := .ready, timer := some 0, spsn := 1 })), 0, 0, { aQp with state := .ready, timer := some 0, spsn := 1 }, by decide +kernel⟩,
   ⟨blk ((let d := qpHome { aQp with state := .ready, timer := some 0, spsn := 1 }; { d with cad.count := 256 })), 0, 0, { aQp with state := .ready, timer := some 0, spsn := 1 }, by decide +kernel⟩,
   ⟨blk ((let d := qpHome { aQp with state := .ready, timer := some 0, spsn := 1, retries := 1 }; { d with cad.count := 256 })), 0, 0, { aQp with state := .ready, timer := some 0, spsn := 1, retries := 1 }, by decide +kernel⟩,
   ⟨blk ((qpHome { aQp with state := .ready, rnrWait := some (0, 0) })), 0, 0, 0, { aQp with state := .ready, rnrWait := some (0, 0) }, by decide +kernel⟩,
   ⟨blk ((let d := qpHome { aQp with state := .ready, rnrWait := some (0, 0) }; { d with cad.count := 256 })), 0, 0, 0, { aQp with state := .ready, rnrWait := some (0, 0) }, by decide +kernel⟩⟩

theorem witness_ContextsWaitsAndShapers :
    (∃ (s : State), (s.dev.alive = true) ∧ (s.dev.qpPlaces ≤ 4032)) ∧
    (∃ (s : State), ∃ n, ∃ q, (s.dev.alive = true) ∧ (4032 < s.dev.qpPlaces) ∧ ((sortBy (fun (a b : Nat × Qp) => decide (a.2.used < b.2.used)) (s.dev.qpx.qps.filter s.dev.evictable)).head? = some (n, q)) ∧ (s.dev.hif.dmaFail = false)) ∧
    (∃ (s : State), ∃ (n : Nat), ∃ (q : Qp), (s.dev.alive = true) ∧ (s.dev.qp? n = some q) ∧ (q.cache ≠ .writing)) ∧
    (∃ (s : State), ∃ (n : Nat), ∃ (q : Qp), (s.dev.alive = true) ∧ (s.dev.qp? n = some q) ∧ (q.cache = .writing)) ∧
    (∃ (s : State), ∃ (n : Nat), ∃ (q : Qp), (s.dev.alive = true) ∧ (s.dev.qp? n = some q) ∧ (s.dev.calm) ∧ (q.cmds = []) ∧ (q.wqes = []) ∧ (s.dev.qpx.miss = []) ∧ (q.lost = false) ∧ (q.cache ≠ .fetching)) ∧
    (∃ (s : State), ∃ (n : Nat), ∃ (q : Qp), (s.dev.alive = true) ∧ (s.dev.qp? n = some q) ∧ (s.dev.calm) ∧ (q.cmds = []) ∧ (q.wqes = []) ∧ (s.dev.qpx.miss = []) ∧ (q.lost = false) ∧ (q.cache = .fetching)) ∧
    (∃ (s : State), ∃ (n : Nat), ∃ (q : Qp), (s.dev.alive = true) ∧ (s.dev.qp? n = some q) ∧ (s.dev.calm) ∧ (q.cmds = []) ∧ (q.wqes = []) ∧ (s.dev.qpx.miss = []) ∧ (q.lost = false) ∧ (q.cache = .fetching) ∧ (s.dev.now < q.fetchAt + 2 ^ 16)) ∧
    (∃ (s : State), ∃ (n : Nat), ∃ (q : Qp), (s.dev.alive = true) ∧ (s.dev.qp? n = some q) ∧ (s.dev.calm) ∧ (q.cmds = []) ∧ (q.wqes = []) ∧ (s.dev.qpx.miss = []) ∧ (q.lost = false) ∧ (q.cache = .fetching) ∧ (q.fetchAt + 2 ^ 16 ≤ s.dev.now)) ∧
    (∃ (s : State), ∃ (n : Nat), ∃ (q : Qp), ∃ (w : Wqe), (s.dev.alive = true) ∧ (s.dev.qp? n = some q) ∧ (q.wqes = [w]) ∧ (w.op ≠ 7 ∨ q.state ≠ .ready ∨ s.dev.waitMet w = false)) ∧
    (∃ (s : State), ∃ (n : Nat), ∃ (q : Qp), ∃ (w : Wqe), (s.dev.alive = true) ∧ (s.dev.qp? n = some q) ∧ (q.wqes = [w]) ∧ (w.op = 7) ∧ (q.state = .ready) ∧ (s.dev.waitMet w = true) ∧ (q.cache = .resident)) ∧
    (∃ (s : State), ∃ (i : Nat), (s.dev.alive = true) ∧ (s.dev.serving = .all) ∧ (i = s.dev.fld F.SHP_SEL_INDEX) ∧ (s.dev.shpStatus s.dev.stagedShp (s.dev.flag F.SHP_SEL_PL) i ≠ C.OK)) ∧
    (∃ (s : State), ∃ (i : Nat), (s.dev.alive = true) ∧ (s.dev.serving = .all) ∧ (i = s.dev.fld F.SHP_SEL_INDEX) ∧ (s.dev.shpStatus s.dev.stagedShp (s.dev.flag F.SHP_SEL_PL) i = C.OK) ∧ (s.dev.flag F.SHP_SEL_PL = true)) ∧
    (∃ (s : State), ∃ (i : Nat), (s.dev.alive = true) ∧ (s.dev.serving = .all) ∧ (i = s.dev.fld F.SHP_SEL_INDEX) ∧ (s.dev.shpStatus s.dev.stagedShp (s.dev.flag F.SHP_SEL_PL) i = C.OK) ∧ (s.dev.flag F.SHP_SEL_PL = false)) ∧
    (∃ (s : State), ∃ (i : Nat), ∃ c, (s.dev.alive = true) ∧ (s.dev.serving = .all) ∧ (i = s.dev.fld F.SHP_SEL_INDEX) ∧ (c = (if s.dev.flag F.SHP_SEL_PL then s.dev.policer i else s.dev.shaper i).cfg)) ∧
    (∃ (s : State), ∃ (i : Nat), (s.dev.alive = true) ∧ (i < 4096) ∧ ((∀ e ∈ s.dev.heldBy i, s.dev.now ≤ e.since + 2 ^ 20) ∨ rateOk (s.dev.shaper i).heldEvt s.dev.now = false)) ∧
    (∃ (s : State), ∃ (i : Nat), ∃ e, (s.dev.alive = true) ∧ (i < 4096) ∧ (e ∈ s.dev.heldBy i) ∧ (e.since + 2 ^ 20 < s.dev.now) ∧ (rateOk (s.dev.shaper i).heldEvt s.dev.now = true)) ∧
    (∃ (s : State), ∃ (port : Nat), ∃ (cls : Nat), ∃ (i : Nat), ∃ (w : InPkt), ∃ (r : RecvStream), (s.dev.alive = true) ∧ (port < 16) ∧ ((s.dev.azPort port).ingress = [w]) ∧ (w.p.cls = cls) ∧ (w.m = .fragment) ∧ (w.p.op = 0x20) ∧ (w.p.rsv = false) ∧ (w.pol = some [i]) ∧ (s.dev.flag F.SHP_CTRL_EN = true) ∧ (s.dev.recv? (streamKey w.p.src w.p.cls) = some r) ∧ (r.e = w.p.ssn) ∧ (w.p.sync = false) ∧ ((s.dev.policer i).cfg.yel = false) ∧ ((s.dev.policer i).cfg.red = false)) ∧
    (∃ (s : State), ∃ (port : Nat), ∃ (cls : Nat), ∃ (i : Nat), ∃ (w : InPkt), ∃ (r : RecvStream), (s.dev.alive = true) ∧ (port < 16) ∧ ((s.dev.azPort port).ingress = [w]) ∧ (w.p.cls = cls) ∧ (w.m = .fragment) ∧ (w.p.op = 0x20) ∧ (w.p.rsv = false) ∧ (w.pol = some [i]) ∧ (s.dev.flag F.SHP_CTRL_EN = true) ∧ (s.dev.recv? (streamKey w.p.src w.p.cls) = some r) ∧ (r.e = w.p.ssn) ∧ (w.p.sync = false) ∧ (((s.dev.policer i).colour s.dev.now (counted w.p (s.dev.policer i).cfg.overhead) 0).1 = 2) ∧ ((s.dev.policer i).cfg.red = true)) :=
  ⟨⟨blk (up), by decide +kernel⟩,
   ⟨blk ({ up with qpx.qps := (0, aQp) :: (List.range 4032).map fun k => (k + 1, { aQp with cache := .fetching }) }), 0, aQp, by decide +kernel⟩,
   ⟨blk ((qpHome aQp)), 0, aQp, by decide +kernel⟩,
   ⟨blk ((qpHome { aQp with cache := .writing })), 0, { aQp with cache := .writing }, by decide +kernel⟩,
   ⟨blk ((qpHome aQp)), 0, aQp, by decide +kernel, by decide +kernel, by unfold Dev.calm; decide +kernel, by decide +kernel, by decide +kernel, by decide +kernel, by decide +kernel, by decide +kernel⟩,
   ⟨blk ((qpHome { aQp with cache := .fetching })), 0, { aQp with cache := .fetching }, by decide +kernel, by decide +kernel, by unfold Dev.calm; decide +kernel, by decide +kernel, by decide +kernel, by decide +kernel, by decide +kernel, by decide +kernel⟩,
   ⟨blk ((qpHome { aQp with cache := .fetching })), 0, { aQp with cache := .fetching }, by decide +kernel, by decide +kernel, by unfold Dev.calm; decide +kernel, by decide +kernel, by decide +kernel, by decide +kernel, by decide +kernel, by decide +kernel, by decide +kernel⟩,
   ⟨blk ((let d := qpHome { aQp with cache := .fetching }; { d with cad.count := 2 ^ 16 })), 0, { aQp with cache := .fetching }, by decide +kernel, by decide +kernel, by unfold Dev.calm; decide +kernel, by decide +kernel, by decide +kernel, by decide +kernel, by decide +kernel, by decide +kernel, by decide +kernel⟩,
   ⟨blk ((qpHome { aQp with wqes := [aWqe] })), 0, { aQp with wqes := [aWqe] }, aWqe, by decide +kernel⟩,
   ⟨blk ((qpHome { aQp with state := .ready, wqes := [{ aWqe with op := 7 }] })), 0, { aQp with state := .ready, wqes := [{ aWqe with op := 7 }] }, { aWqe with op := 7 }, by decide +kernel⟩,
   ⟨blk (let d := up; let d := d.setFld F.SHP_CFG_BIND_BKIND 7; d), 0, by decide +kernel⟩,
   ⟨blk (let d := up; let d := d.setFld F.SHP_SEL_PL 1; d), 0, by decide +kernel⟩,
   ⟨blk (up), 0, by decide +kernel⟩,
   ⟨blk (up), 0, (up.shaper 0).cfg, by decide +kernel⟩,
   ⟨blk (up), 0, by decide +kernel⟩,
   ⟨blk ((let d := ((link up).onAzPort 0 fun q => { q with queue := [{ anEg with own := true, fresh := true, flow := some 0 }] }).setFld F.SHP_CTRL_EN 1; { d with cad.count := 2 ^ 21, shp := { d.shp with shapers := [(0, { cfg := { bkind := 1 } })] } })), 0, { anEg with own := true, fresh := true, flow := some 0 }, by decide +kernel⟩,
   ⟨blk (((home.onAzPort 0 fun q => { q with ingress := [{ p := pktOp 0x20 four, m := .fragment, since := 0, pol := some [0] }] }).setFld F.SHP_CTRL_EN 1)), 0, 0, 0, { p := pktOp 0x20 four, m := .fragment, since := 0, pol := some [0] }, { e := 0 }, by decide +kernel⟩,
   ⟨blk ((let d := (home.onAzPort 0 fun q => { q with ingress := [{ p := pktOp 0x20 four, m := .fragment, since := 0, pol := some [0] }] }).setFld F.SHP_CTRL_EN 1; { d with shp := { d.shp with policers := [(0, { cfg := { bkind := 1, red := true } })] } })), 0, 0, 0, { p := pktOp 0x20 four, m := .fragment, since := 0, pol := some [0] }, { e := 0 }, by decide +kernel⟩⟩

theorem witness_PanniersAreParkedServedAndLanded :
    (∃ (s : State), ∃ (p : Pannier), (s.dev.alive = true) ∧ (panHeaderOk p = false)) ∧
    (∃ (s : State), ∃ (p : Pannier), (s.dev.alive = true) ∧ (panHeaderOk p = true) ∧ (field p.hdr 4 1 = 2) ∧ (s.dev.verdict (panHdr p) false = .hold)) ∧
    (∃ (s : State), ∃ (p : Pannier), ∃ r, ∃ h, (s.dev.alive = true) ∧ (panHeaderOk p = true) ∧ (field p.hdr 4 1 = 2) ∧ (s.dev.verdict (panHdr p) false = .process) ∧ (p.regions = [r]) ∧ (s.dev.heldAt (panHome p) (panStall p) r.page r.shard = some h)) ∧
    (∃ (s : State), ∃ (p : Pannier), ∃ r, (s.dev.alive = true) ∧ (panHeaderOk p = true) ∧ (field p.hdr 4 1 = 2) ∧ (s.dev.verdict (panHdr p) false = .process) ∧ (p.regions = [r]) ∧ (s.dev.heldAt (panHome p) (panStall p) r.page r.shard = none) ∧ (s.dev.flag F.PAN_CTRL_EN = false)) ∧
    (∃ (s : State), ∃ (p : Pannier), ∃ r, ∃ pad, ∃ frames, ∃ addr, ∃ d1, ∃ desc, (s.dev.alive = true) ∧ (panHeaderOk p = true) ∧ (field p.hdr 4 1 = 2) ∧ (s.dev.verdict (panHdr p) false = .process) ∧ (p.regions = [r]) ∧ (s.dev.heldAt (panHome p) (panStall p) r.page r.shard = none) ∧ (s.dev.flag F.PAN_CTRL_EN = true) ∧ (s.dev.takeParked (field p.hdr 28 2) (panHome p) (panStall p) r.page r.shard r.size = some (pad, frames, addr, d1)) ∧ (regionBad r (2 ^ field p.hdr 7 1) = (false, false)) ∧ (desc = ({ addr := addr, holder := s.dev.me, tier := 1, cmp := r.cmp, fill := r.fill, crc := r.crc } : Desc))) ∧
    (∃ (s : State), ∃ (a : ParkAck), (s.dev.alive = true) ∧ (s.dev.verdict a.h true = .process) ∧ (field a.body 14 2 = C.OK) ∧ (field a.body 4 2 ≠ s.dev.me) ∧ (field a.body 6 2 ≠ s.dev.me) ∧ (s.dev.heldAt (field a.body 4 2) (field a.body 0 4 % 2 ^ 17) (field a.body 8 4) (field a.body 12 2) = none)) ∧
    (∃ (s : State), ∃ (a : ParkAck), ∃ h, (s.dev.alive = true) ∧ (s.dev.verdict a.h true = .process) ∧ (field a.body 14 2 = C.OK) ∧ (field a.body 4 2 ≠ s.dev.me) ∧ (field a.body 6 2 ≠ s.dev.me) ∧ (s.dev.heldAt (field a.body 4 2) (field a.body 0 4 % 2 ^ 17) (field a.body 8 4) (field a.body 12 2) = some h)) ∧
    (∃ (s : State), ∃ (a : ParkAck), ∃ x, ∃ desc, (s.dev.alive = true) ∧ (s.dev.verdict a.h true = .process) ∧ (field a.body 14 2 = C.OK) ∧ (field a.body 4 2 = s.dev.me) ∧ (s.dev.stall? (field a.body 0 4 % 2 ^ 17) = some x) ∧ ((x.pages.ent (field a.body 8 4) (field a.body 12 2)).state = .full) ∧ (desc = Desc.read (slice a.body 16 16)) ∧ ((x.applyPark (field a.body 8 4) (field a.body 12 2) desc).r.lenParked = x.r.lenParked) ∧ (x.r.shadowOk = false) ∧ (x.prePull = none) ∧ (s.dev.comp.pending = none) ∧ (s.dev.comp.old = none)) ∧
    (∃ (s : State), ∃ (q : PullRequest), (s.dev.alive = true) ∧ (s.dev.verdict q.h true = .process) ∧ (q.pageN = 1) ∧ (q.shardN = 1) ∧ (q.eager = false) ∧ (s.dev.flag F.PAN_CTRL_EN = false ∨ s.dev.regionFor q q.pageFirst q.shardFirst = none)) ∧
    (∃ (s : State), ∃ (q : PullRequest), ∃ h, (s.dev.alive = true) ∧ (s.dev.verdict q.h true = .process) ∧ (q.pageN = 1) ∧ (q.shardN = 1) ∧ (q.eager = false) ∧ (s.dev.flag F.PAN_CTRL_EN = true) ∧ (q.fromWork = false) ∧ (s.dev.heldAt q.home q.stall q.pageFirst q.shardFirst = some h)) ∧
    (∃ (s : State), ∃ (p : Pannier), (s.dev.alive = true) ∧ (panHeaderOk p = true) ∧ (field p.hdr 4 1 = 1) ∧ (s.dev.verdict (panHdr p) true = .process) ∧ ((s.dev.pan.reparks.find? fun x => x.pullId == field p.hdr 24 4) = none) ∧ (s.dev.pullOf (field p.hdr 24 4) = none)) ∧
    (∃ (s : State), ∃ (p : Pannier), ∃ key, ∃ pl, ∃ q, ∃ n, ∃ r, ∃ x, (s.dev.alive = true) ∧ (panHeaderOk p = true) ∧ (field p.hdr 4 1 = 1) ∧ (s.dev.verdict (panHdr p) true = .process) ∧ ((s.dev.pan.reparks.find? fun x => x.pullId == field p.hdr 24 4) = none) ∧ (s.dev.pullOf (field p.hdr 24 4) = some (key, pl, q)) ∧ (q.seqs.contains (field p.hdr 32 4) = false) ∧ (pl.notice = some n) ∧ (pl.state = .main) ∧ (pl.waitHeap = false) ∧ (pl.todo = []) ∧ (q.lastSeen = false) ∧ (bit (field p.hdr 5 1) 1 = false) ∧ (p.regions = [r]) ∧ (p.opens = []) ∧ (regionBad r (2 ^ field p.hdr 7 1) = (false, false)) ∧ (((s.dev.heap n.paddock).find? fun x => x.key == key && x.use == .page && x.page == r.page && x.shard == r.shard) = some x)) ∧
    (∃ (s : State), ∃ (r : PullNo), (s.dev.alive = true) ∧ (s.dev.verdict r.h true = .process) ∧ ((s.dev.pan.reparks.find? fun x => x.pullId == r.pullId) = none) ∧ (s.dev.pullOf r.pullId = none)) ∧
    (∃ (s : State), ∃ (r : PullNo), ∃ x, (s.dev.alive = true) ∧ (s.dev.verdict r.h true = .process) ∧ ((s.dev.pan.reparks.find? fun x => x.pullId == r.pullId) = some x)) ∧
    (∃ (s : State), ∃ (home : Nat), ∃ (stall : Nat), ∃ (pullId : Nat), ∃ (p : Pull), ∃ (q : PullReq), (s.dev.alive = true) ∧ (s.dev.pull? (stallKey home stall) = some p) ∧ (p.req pullId = some q) ∧ (s.dev.now < q.progress + 2 ^ s.dev.fld F.PAN_RETRY_TIMEOUT_LOG2)) ∧
    (∃ (s : State), ∃ (home : Nat), ∃ (stall : Nat), ∃ (pullId : Nat), ∃ (p : Pull), ∃ (q : PullReq), (s.dev.alive = true) ∧ (s.dev.pull? (stallKey home stall) = some p) ∧ (p.req pullId = some q) ∧ (q.progress + 2 ^ s.dev.fld F.PAN_RETRY_TIMEOUT_LOG2 ≤ s.dev.now) ∧ (q.resent = false)) ∧
    (∃ (s : State), ∃ (home : Nat), ∃ (stall : Nat), ∃ (pullId : Nat), ∃ (p : Pull), ∃ (q : PullReq), (s.dev.alive = true) ∧ (s.dev.pull? (stallKey home stall) = some p) ∧ (p.req pullId = some q) ∧ (q.progress + 2 ^ s.dev.fld F.PAN_RETRY_TIMEOUT_LOG2 ≤ s.dev.now) ∧ (q.resent = true)) :=
  ⟨⟨blk (up), { hdr := [], regions := [], opens := [] }, by decide +kernel⟩,
   ⟨blk (let d := up; let d := { d with comp.pending := some {} }; d), { hdr := panRec 2 0 1, regions := [], opens := [] }, by decide +kernel⟩,
   ⟨blk (let d := up; let d := { d with pan.held := [aHeld] }; d), { hdr := panRec 2 1 0, regions := [aPanRegion], opens := [] }, aPanRegion, aHeld, by decide +kernel⟩,
   ⟨blk ((up.setFld F.PAN_CTRL_EN 0)), { hdr := panRec 2 1 0, regions := [aPanRegion], opens := [] }, aPanRegion, by decide +kernel⟩,
   ⟨blk (panUp), { hdr := panRec 2 1 0, regions := [{ aPanRegion with size := 65536 }], opens := [] }, { aPanRegion with size := 65536 }, none, (((panUp.takeParked 0 0 0 0 0 65536).getD (none, [], 0, up))).2.1, (((panUp.takeParked 0 0 0 0 0 65536).getD (none, [], 0, up))).2.2.1, (((panUp.takeParked 0 0 0 0 0 65536).getD (none, [], 0, up))).2.2.2, { addr := (((panUp.takeParked 0 0 0 0 0 65536).getD (none, [], 0, up))).2.2.1, tier := 1 }, by decide +kernel⟩,
   ⟨blk (up), { h := aHdr, body := parkAckTo 1 0 }, by decide +kernel⟩,
   ⟨blk (let d := up; let d := { d with pan.held := [{ aHeld with home := 1 }] }; d), { h := aHdr, body := parkAckTo 1 0 }, { aHeld with home := 1 }, by decide +kernel⟩,
   ⟨blk (let d := up; let d := { d with stl.stalls := [(0, { pages := { shards := 1, npage := 2, pageLog2 := 8, ents := [(0, { state := .full })] }, r := { lenParked := 256 } })] }; d), { h := aHdr, body := parkAckTo 0 0 }, { pages := { shards := 1, npage := 2, pageLog2 := 8, ents := [(0, { state := .full })] }, r := { lenParked := 256 } }, Desc.read (slice (parkAckTo 0 0) 16 16), by decide +kernel⟩,
   ⟨blk (up), { ({ h := { src := 0, epoch := 0, roleEpoch := 0 }, stall := 0, home := 0, pullId := 0, pageFirst := 0, pageN := 0, shardFirst := 0, shardN := 0, eager := false, fromWork := false } : PullRequest) with pageN := 1, shardN := 1 }, by decide +kernel⟩,
   ⟨blk ((let d := up.setFld F.PAN_CTRL_EN 1; { d with pan.held := [aHeld] })), { h := aHdr, stall := 0, home := 0, pullId := 0, pageFirst := 0, pageN := 1, shardFirst := 0, shardN := 1, eager := false, fromWork := false }, aHeld, by decide +kernel⟩,
   ⟨blk (up), { hdr := panRec 1 0 0, regions := [], opens := [] }, by decide +kernel⟩,
   ⟨blk ({ up with pan.pulls := [(stallKey 0 0, aPull)], kv.regions := [(1, [aRegionUse])] }), { hdr := panRec 1 1 0, regions := [aPanRegion], opens := [] }, stallKey 0 0, aPull, aReq, aNotice, aPanRegion, aRegionUse, by decide +kernel⟩,
   ⟨blk (up), { h := { src := 0, epoch := 0, roleEpoch := 0 }, home := 0, stall := 0, pullId := 0, status := 0, page := 0, shard := 0 }, by decide +kernel⟩,
   ⟨blk (let d := up; let d := { d with pan.reparks := [{ pullId := 0, msg := { h := aHdr, home := 0, stall := 0, page := 0, shard := 0, model := 0, size := 0, departing := 0 } }] }; d), { h := aHdr, home := 0, stall := 0, pullId := 0, status := 0, page := 0, shard := 0 }, { pullId := 0, msg := { h := aHdr, home := 0, stall := 0, page := 0, shard := 0, model := 0, size := 0, departing := 0 } }, by decide +kernel⟩,
   ⟨blk (let d := up; let d := { d with pan.pulls := [(stallKey 0 0, aPull)] }; d), 0, 0, 0, aPull, aReq, by decide +kernel⟩,
   ⟨blk ({ up with pan.pulls := [(stallKey 0 0, aPull)], cad.count := 2 ^ 63 }), 0, 0, 0, aPull, aReq, by decide +kernel⟩,
   ⟨blk ({ up with pan.pulls := [(stallKey 0 0, { aPull with reqs := [{ aReq with resent := true }] })], cad.count := 2 ^ 63 }), 0, 0, 0, { aPull with reqs := [{ aReq with resent := true }] }, { aReq with resent := true }, by decide +kernel⟩⟩

theorem witness_ShipsReleasesAndReparks :
    (∃ (s : State), ∃ (n : ShipNotice), (s.dev.alive = true) ∧ (s.dev.verdict n.h false = .process) ∧ (s.dev.model? (StallRec.read n.record).model = none)) ∧
    (∃ (s : State), ∃ (n : ShipNotice), ∃ m, (s.dev.alive = true) ∧ (s.dev.verdict n.h false = .process) ∧ (s.dev.model? (StallRec.read n.record).model = some m)) ∧
    (∃ (s : State), ∃ (r : PullDone), (s.dev.alive = true) ∧ (s.dev.verdict r.h true = .process) ∧ (s.dev.stall? r.stall = none)) ∧
    (∃ (s : State), ∃ (r : PullDone), ∃ x, ∃ p, ∃ waiting, (s.dev.alive = true) ∧ (s.dev.verdict r.h true = .process) ∧ (s.dev.stall? r.stall = some x) ∧ (x.phase = .ship p waiting) ∧ (waiting.contains r.member = false)) ∧
    (∃ (s : State), ∃ (r : PullDone), ∃ x, ∃ p, ∃ waiting, (s.dev.alive = true) ∧ (s.dev.verdict r.h true = .process) ∧ (s.dev.stall? r.stall = some x) ∧ (x.phase = .ship p waiting) ∧ (waiting.contains r.member = true) ∧ (r.status = 0) ∧ (r.lost = []) ∧ (waiting.erase r.member ≠ [])) ∧
    (∃ (s : State), ∃ (r : PullDone), ∃ x, ∃ p, ∃ waiting, (s.dev.alive = true) ∧ (s.dev.verdict r.h true = .process) ∧ (s.dev.stall? r.stall = some x) ∧ (x.phase = .ship p waiting) ∧ (waiting.contains r.member = true) ∧ (r.status = 0) ∧ (r.lost = []) ∧ (waiting.erase r.member = []) ∧ (x.cancel = false) ∧ (x.r.state = .ship) ∧ ((s.dev.servers 2 x.r.model).contains p = true) ∧ (x.prev = none) ∧ (x.r.shadowOk = false)) ∧
    (∃ (s : State), ∃ (r : ReleaseMsg), ∃ i, ∃ k, ∃ h, (s.dev.alive = true) ∧ (s.dev.verdict r.h true = .process) ∧ (r.work = false) ∧ (r.parked = [(i, k)]) ∧ (s.dev.heldAt r.home r.stall i k = some h)) ∧
    (∃ (s : State), ∃ (r : ReleaseMsg), ∃ p, (s.dev.alive = true) ∧ (s.dev.verdict r.h true = .process) ∧ (r.work = true) ∧ (r.parked = []) ∧ (r.h.paddock = some p) ∧ (s.dev.pan.pulls = [])) ∧
    (∃ (s : State), ∃ (r : ReparkMsg), (s.dev.alive = true) ∧ (s.dev.verdict r.h true = .process)) ∧
    (∃ (s : State), ∃ (dev : Nat), (s.dev.alive = true) ∧ (s.dev.isLost dev = false)) ∧
    (∃ (s : State), ∃ (dev : Nat), ∃ id, ∃ x, ∃ q, (s.dev.alive = true) ∧ (s.dev.isLost dev = true) ∧ (s.dev.stl.stalls = [(id, x)]) ∧ (x.r.state = .ship) ∧ (x.phase.paddock = none) ∧ (x.prev = some q) ∧ ((s.dev.paddockDevs q).contains dev = true) ∧ (Tbl.at? s.dev.hlt.tpads q = none) ∧ ((∀ e ∈ x.pages.all, e.2.state ≠ .parked ∨ e.2.park.holder ≠ dev))) ∧
    (∃ (s : State), ∃ (home : Nat), ∃ (stall : Nat), ∃ (p : Pull), ∃ (n : ShipNotice), (s.dev.alive = true) ∧ (s.dev.pull? (stallKey home stall) = some p) ∧ (p.notice = some n) ∧ (p.state ≠ .rebuild)) ∧
    (∃ (s : State), ∃ (home : Nat), ∃ (stall : Nat), ∃ (status : Nat), ∃ (p : Pull), ∃ (n : ShipNotice), (s.dev.alive = true) ∧ (s.dev.pull? (stallKey home stall) = some p) ∧ (p.notice = some n) ∧ (p.state = .rebuild) ∧ (status / 256 = 0)) ∧
    (∃ (s : State), ∃ (home : Nat), ∃ (stall : Nat), ∃ (status : Nat), ∃ (p : Pull), ∃ (n : ShipNotice), (s.dev.alive = true) ∧ (s.dev.pull? (stallKey home stall) = some p) ∧ (p.notice = some n) ∧ (p.state = .rebuild) ∧ (status / 256 ≠ 0) ∧ (abandoned status = false)) :=
  ⟨⟨blk (up), { h := { src := 0, epoch := 0, roleEpoch := 0 }, stall := 0, home := 0, paddock := 0, record := [], kvEnd := 0, pageFirst := 0, prev := none, parks := [] }, by decide +kernel⟩,
   ⟨blk (let d := up; let d := { d with kv.models := [(0, {})] }; d), { aNotice with record := ({ } : StallRec).bytes }, {}, by decide +kernel⟩,
   ⟨blk (up), { h := { src := 0, epoch := 0, roleEpoch := 0 }, stall := 0, member := 0, status := 0 }, by decide +kernel⟩,
   ⟨blk (let d := up; let d := { d with stl.stalls := [(0, { phase := .ship 1 [] })] }; d), { h := aHdr, stall := 0, member := 0, status := 0 }, { phase := .ship 1 [] }, 1, [], by decide +kernel⟩,
   ⟨blk (let d := up; let d := { d with stl.stalls := [(0, { phase := .ship 1 [0, 1] })] }; d), { h := aHdr, stall := 0, member := 0, status := 0 }, { phase := .ship 1 [0, 1] }, 1, [0, 1], by decide +kernel⟩,
   ⟨blk ((let d := kvUp up prog; { d with stl.stalls := [(0, { phase := .ship 1 [0], r := { state := .ship, model := 1 } })] })), { h := aHdr, stall := 0, member := 0, status := 0 }, { phase := .ship 1 [0], r := { state := .ship, model := 1 } }, 1, [0], by decide +kernel⟩,
   ⟨blk (let d := up; let d := { d with pan.held := [aHeld] }; d), { h := aHdr, home := 0, stall := 0, work := false, parked := [(0, 0)] }, 0, 0, aHeld, by decide +kernel⟩,
   ⟨blk (up), { ({ h := { src := 0, epoch := 0, roleEpoch := 0 }, home := 0, stall := 0, work := false, parked := [] } : ReleaseMsg) with work := true, h.paddock := some (0) }, 0, by decide +kernel⟩,
   ⟨blk (up), { h := { src := 0, epoch := 0, roleEpoch := 0 }, home := 0, stall := 0, page := 0, shard := 0, model := 0, size := 0, departing := 0 }, by decide +kernel⟩,
   ⟨blk (up), 0, by decide +kernel⟩,
   ⟨blk ({ up with comp.cur := { (oneMap : CompMap) with members := [{ paddock := 1, device := 5, rank := 0, model := 1, clusters := 1, chgrps := 1, ports := 1 }] }, hlt.lost := [(5, true)], stl.stalls := [(0, { r := { state := .ship }, prev := some 1 })] }), 5, 0, { r := { state := .ship }, prev := some 1 }, 1, by decide +kernel⟩,
   ⟨blk (let d := up; let d := { d with pan.pulls := [(stallKey 0 0, aPull)] }; d), 0, 0, aPull, aNotice, by decide +kernel⟩,
   ⟨blk (let d := up; let d := { d with pan.pulls := [(stallKey 0 0, { aPull with state := .rebuild })] }; d), 0, 0, 0, { aPull with state := .rebuild }, aNotice, by decide +kernel⟩,
   ⟨blk (let d := up; let d := { d with pan.pulls := [(stallKey 0 0, { aPull with state := .rebuild })] }; d), 0, 0, 0x0600, { aPull with state := .rebuild }, aNotice, by decide +kernel⟩⟩

theorem witness_HealthDecaysSparesAndTandems :
    (∃ (s : State), (s.dev.alive = true)) ∧
    (∃ (s : State), (s.dev.alive = true) ∧ (s.dev.now % 256 ≠ 0)) ∧
    (∃ (s : State), (s.dev.alive = true) ∧ (s.dev.now % 256 = 0)) ∧
    (∃ (s : State), ∃ (pass : Bool), (s.dev.alive = true) ∧ (s.dev.hlt.spare = .unready) ∧ (pass = true) ∧ (s.dev.flag F.HLT_CTRL_SPARE_EN = true) ∧ (s.dev.score 0 0 < s.dev.fld F.HLT_THRESH_WARN)) ∧
    (∃ (s : State), ∃ (pass : Bool), (s.dev.alive = true) ∧ ((s.dev.hlt.spare ≠ .unready ∨ pass = false ∨ s.dev.flag F.HLT_CTRL_SPARE_EN = false ∨ s.dev.fld F.HLT_THRESH_WARN ≤ s.dev.score 0 0))) ∧
    (∃ (s : State), (s.dev.alive = true) ∧ (s.dev.serving = .all)) ∧
    (∃ (s : State), ∃ (v : Nat), (s.dev.alive = true) ∧ (s.dev.serving = .all) ∧ (s.dev.flag F.HLT_TANDEM_EN = false) ∧ (bit v 0 = true)) ∧
    (∃ (s : State), ∃ (b : Nat), (s.dev.alive = true) ∧ (s.dev.hlt.enAt = some b) ∧ (s.dev.flag F.HLT_TANDEM_EN = true) ∧ (s.dev.hlt.active = false) ∧ (s.dev.hlt.tandemBad = false) ∧ (s.dev.now < b + 2 ^ 20)) ∧
    (∃ (s : State), ∃ (b : Nat), (s.dev.alive = true) ∧ (s.dev.hlt.enAt = some b) ∧ (s.dev.flag F.HLT_TANDEM_EN = true) ∧ (s.dev.hlt.active = false) ∧ (s.dev.hlt.tandemBad = false) ∧ (b + 2 ^ 20 ≤ s.dev.now)) :=
  ⟨⟨blk (up), by decide +kernel⟩,
   ⟨blk (let d := up; let d := { d with cad.count := 1 }; d), by decide +kernel⟩,
   ⟨blk (up), by decide +kernel⟩,
   ⟨blk (let d := up; let d := { d with hlt.spare := .unready }; let d := d.setFld F.HLT_CTRL_SPARE_EN 1; d), true, by decide +kernel⟩,
   ⟨blk (up), false, by decide +kernel⟩,
   ⟨blk (up), by decide +kernel⟩,
   ⟨blk (up), 0 + 2 ^ 0, by decide +kernel⟩,
   ⟨blk (let d := up; let d := { d with hlt.enAt := some (0) }; let d := d.setFld F.HLT_TANDEM_EN 1; d), 0, by decide +kernel⟩,
   ⟨blk (let d := up; let d := { d with hlt.enAt := some (0) }; let d := d.setFld F.HLT_TANDEM_EN 1; let d := { d with cad.count := 2 ^ 20 }; d), 0, by decide +kernel⟩⟩

theorem witness_VotesOpenCollectAndClose :
    (∃ (s : State), ∃ (m : VoteMsg), ∃ (c : Instr), (s.dev.alive = true) ∧ ((c = .voteCall m ∧ m.vmsg = 1 ∨ c = .voteBallot m ∧ m.vmsg = 2 ∨ c = .voteDeclare m ∧ m.vmsg = 3)) ∧ ((m.ok = false ∨ s.dev.hlt.seen.contains [m.vmsg, m.vkind, m.subject, m.callBeat, m.caller, m.sender] = true))) ∧
    (∃ (s : State), ∃ (m : VoteMsg), ∃ (c : Instr), (s.dev.alive = true) ∧ ((c = .voteCall m ∧ m.vmsg = 1 ∨ c = .voteBallot m ∧ m.vmsg = 2 ∨ c = .voteDeclare m ∧ m.vmsg = 3)) ∧ (m.ok = true) ∧ (s.dev.hlt.seen.contains [m.vmsg, m.vkind, m.subject, m.callBeat, m.caller, m.sender] = false)) ∧
    (∃ (s : State), ∃ (x : Nat), (s.dev.alive = true) ∧ (s.dev.portsTo x = [])) ∧
    (∃ (s : State), ∃ (x : Nat), ∃ (idle : Bool), (s.dev.alive = true) ∧ (s.dev.portsTo x ≠ []) ∧ (x ≠ s.dev.me) ∧ (s.dev.flag F.HLT_CTRL_COMPAT = true) ∧ ((idle = true ∨ s.dev.silent x = true))) ∧
    (∃ (s : State), ∃ (x : Nat), ∃ (idle : Bool), (s.dev.alive = true) ∧ (s.dev.portsTo x ≠ []) ∧ (x ≠ s.dev.me) ∧ (s.dev.mayCall = true) ∧ ((idle = true ∨ s.dev.silent x = true)) ∧ (s.dev.isLost x = false) ∧ ((∀ v ∈ s.dev.hlt.votes, ¬(v.vkind = 1 ∧ v.subject = x))) ∧ (Tbl.at? s.dev.hlt.lossEnd x = none) ∧ (s.dev.hlt.seen.contains [1, 1, x, s.dev.now, s.dev.me, s.dev.me] = false)) ∧
    (∃ (s : State), (s.dev.alive = true) ∧ (s.dev.degraded = false)) ∧
    (∃ (s : State), (s.dev.alive = true) ∧ (s.dev.degraded = true) ∧ (s.dev.mayCall = true) ∧ (s.dev.pwr.state ≠ .stabled) ∧ (s.dev.hlt.spare ≠ .loading) ∧ (s.dev.hlt.loads = []) ∧ ((∀ v ∈ s.dev.hlt.votes, ¬(v.vkind = 2 ∧ v.subject = s.dev.me))) ∧ (Tbl.at? s.dev.hlt.aliases s.dev.me = none) ∧ (s.dev.hlt.expelKept = none) ∧ (s.dev.hlt.seen.contains [1, 2, s.dev.me, s.dev.now, s.dev.me, s.dev.me] = false)) ∧
    (∃ (s : State), (s.dev.alive = true) ∧ (s.dev.flag F.HLT_TANDEM_EN = false)) ∧
    (∃ (s : State), (s.dev.alive = true) ∧ (s.dev.mayCall = true) ∧ (s.dev.flag F.HLT_TANDEM_EN = true) ∧ (s.dev.isLost (partnerOf s.dev.me) = true) ∧ (Tbl.at? s.dev.hlt.aliases (partnerOf s.dev.me) = none) ∧ (s.dev.hlt.substAt = none) ∧ (s.dev.hlt.votes = []) ∧ (s.dev.hlt.seen.contains [1, 3, partnerOf s.dev.me, s.dev.now, s.dev.me, s.dev.me] = false)) ∧
    (∃ (s : State), (s.dev.alive = true) ∧ ((∀ v ∈ s.dev.hlt.votes, s.dev.now < v.callBeat + voteWindow v.vkind + 512)) ∧ ((∀ m ∈ s.dev.hlt.declares, s.dev.now < m.callBeat + 512))) ∧
    (∃ (s : State), ∃ v, (s.dev.alive = true) ∧ (s.dev.hlt.votes = [v]) ∧ (s.dev.hlt.declares = []) ∧ (v.callBeat + 1024 ≤ s.dev.now) ∧ (v.vkind = 1) ∧ ((∀ b ∈ v.ballots, b.cast ≤ v.callBeat + 512)) ∧ ((∀ b ∈ v.ballots, b.ballot ≠ 1))) ∧
    (∃ (s : State), ∃ v, (s.dev.alive = true) ∧ (s.dev.hlt.votes = [v]) ∧ (s.dev.hlt.declares = []) ∧ (v.callBeat + 1024 ≤ s.dev.now) ∧ (v.vkind = 1) ∧ ((∀ b ∈ v.ballots, b.cast ≤ v.callBeat + 512)) ∧ ((∃ b ∈ v.ballots, b.ballot = 1)) ∧ ((∃ b ∈ v.ballots, b.ballot = 2)) ∧ (v.own ≠ some 1)) ∧
    (∃ (s : State), ∃ v, (s.dev.alive = true) ∧ (s.dev.hlt.votes = [v]) ∧ (s.dev.hlt.declares = []) ∧ (v.callBeat + 1024 ≤ s.dev.now) ∧ (v.vkind = 1) ∧ ((∀ b ∈ v.ballots, b.cast ≤ v.callBeat + 512)) ∧ ((∃ b ∈ v.ballots, b.ballot = 1)) ∧ ((∀ b ∈ v.ballots, b.ballot ≠ 2)) ∧ (v.subject = s.dev.me) ∧ (s.dev.isLost s.dev.me = false) ∧ (s.dev.sep.invs = []) ∧ (s.dev.flag F.HLT_TANDEM_EN = false)) :=
  ⟨⟨blk (let d := up; let d := { d with hlt.seen := [[1, 1, 1, 0, 2, 2]] }; d), { vmsg := 1, vkind := 1, subject := 1, sender := 2, callBeat := 0, caller := 2 }, .voteCall { vmsg := 1, vkind := 1, subject := 1, sender := 2, callBeat := 0, caller := 2 }, by decide +kernel⟩,
   ⟨blk (up), { ({ vmsg := 0, vkind := 0, subject := 0, sender := 0, callBeat := 0, caller := 0 } : VoteMsg) with vmsg := 1, ok := true }, .voteCall ({ ({ vmsg := 0, vkind := 0, subject := 0, sender := 0, callBeat := 0, caller := 0 } : VoteMsg) with vmsg := 1, ok := true } : VoteMsg), by decide +kernel⟩,
   ⟨blk (up), 0, by decide +kernel⟩,
   ⟨blk ((hearing.setFld F.HLT_CTRL_COMPAT 1)), 1, true, by decide +kernel⟩,
   ⟨blk (hearing), 1, true, by decide +kernel⟩,
   ⟨blk (up), by decide +kernel⟩,
   ⟨blk ((let d := up.setFld F.HLT_CTRL_EN 1; { d with hay.state := .failed })), by decide +kernel⟩,
   ⟨blk (up), by decide +kernel⟩,
   ⟨blk ((let d := (up.setFld F.HLT_CTRL_EN 1).setFld F.HLT_TANDEM_EN 1; { d with hlt.lost := [(2 ^ 14, true)] })), by decide +kernel⟩,
   ⟨blk (up), by decide +kernel⟩,
   ⟨blk ((voting (aVote 1 []))), aVote 1 [], by decide +kernel⟩,
   ⟨blk ((voting (aVote 1 [1, 2]))), aVote 1 [1, 2], by decide +kernel⟩,
   ⟨blk ((voting (aVote 0 [1]))), aVote 0 [1], by decide +kernel⟩⟩

theorem witness_CheckpointsDeclarationsAndCutovers :
    (∃ (s : State), ∃ (c : HostCmd), ∃ (regions : List Bytes), ∃ code, (s.dev.alive = true) ∧ (s.dev.takes { rsvOk := argMask true 0x1FF (2 ^ 64 - 1) (2 ^ 64 - 1) (2 ^ 64 - 1) } c) ∧ ((s.dev.taken c).ckptBody (c.a0 % 2 ^ 8) c.a1 c.a2 regions = .inl code)) ∧
    (∃ (s : State), ∃ (c : HostCmd), (s.dev.alive = true) ∧ (s.dev.takes { rsvOk := argMask true 0x1FF (2 ^ 64 - 1) (2 ^ 64 - 1) (2 ^ 64 - 1) } c) ∧ (c.a0 % 2 ^ 8 = 3) ∧ (c.a1 < 2 ^ 48) ∧ (c.a1 + c.a2 ≤ 2 ^ 48) ∧ ((s.dev.taken c).mapped c.a1 c.a2 = true) ∧ (c.a3 < 64 + c.a2)) ∧
    (∃ (s : State), ∃ (c : HostCmd), (s.dev.alive = true) ∧ (s.dev.takes { rsvOk := argMask true 0x1FF (2 ^ 64 - 1) (2 ^ 64 - 1) (2 ^ 64 - 1) } c) ∧ (c.a0 % 2 ^ 8 = 3) ∧ (c.a1 < 2 ^ 48) ∧ (c.a1 + c.a2 ≤ 2 ^ 48) ∧ ((s.dev.taken c).mapped c.a1 c.a2 = true) ∧ (64 + c.a2 ≤ c.a3) ∧ (bit c.a0 8 = false) ∧ (s.dev.hif.dmaFail = false)) ∧
    (∃ (s : State), ∃ (c : HostCmd), ∃ (image : Bytes), (s.dev.alive = true) ∧ (s.dev.takes { rsvOk := argMask true 0x100 (2 ^ 64 - 1) 0 0 } c) ∧ (bit c.a0 8 = false) ∧ (field image 0 4 ≠ 0x54504B43)) ∧
    (∃ (s : State), ∃ (c : HostCmd), ∃ (image : Bytes), ∃ beat, ∃ a, ∃ body, (s.dev.alive = true) ∧ (s.dev.takes { rsvOk := argMask true 0x100 (2 ^ 64 - 1) 0 0 } c) ∧ (bit c.a0 8 = false) ∧ (image = ckptImage 3 beat a body.length body) ∧ (a < 2 ^ 48) ∧ (beat < 2 ^ 64) ∧ (a + body.length ≤ 2 ^ 48) ∧ ((s.dev.taken c).mapped a body.length = true) ∧ (s.dev.flat)) ∧
    (∃ (s : State), ∃ (c : HostCmd), (s.dev.alive = true) ∧ (s.dev.takes (argSpec 0xFF 0xFFFFFFFF 0) c) ∧ ((s.dev.flag F.HLT_CTRL_COMPAT = false ∨ s.dev.comp.cur.entry (c.a1 % 2 ^ 16) = none))) ∧
    (∃ (s : State), ∃ (c : HostCmd), (s.dev.alive = true) ∧ (s.dev.takes (argSpec 0xFF 0xFFFFFFFF 0) c) ∧ (s.dev.flag F.HLT_CTRL_COMPAT = true) ∧ ((s.dev.comp.cur.entry (c.a1 % 2 ^ 16)).isSome = true) ∧ (c.a0 = 1) ∧ (bits c.a1 31 16 = 0xFFFF) ∧ (s.dev.hlt.seen.contains [3, 1, c.a1 % 2 ^ 16, s.dev.now, 0xFFFF, s.dev.me] = false)) ∧
    (∃ (s : State), ∃ (subject : Nat), ∃ (spare : Nat), (s.dev.alive = true) ∧ (s.dev.hlt.tpads = []) ∧ (s.dev.stl.stalls = []) ∧ (spare = s.dev.me) ∧ (subject ≠ spare) ∧ (s.dev.hlt.spare ≠ .loading)) ∧
    (∃ (s : State), ∃ (subject : Nat), ∃ (spare : Nat), (s.dev.alive = true) ∧ (s.dev.hlt.tpads = []) ∧ (s.dev.stl.stalls = []) ∧ (spare ≠ s.dev.me) ∧ (subject ≠ s.dev.me)) ∧
    (∃ (s : State), ∃ (subject : Nat), ∃ (spare : Nat), (s.dev.alive = true) ∧ (s.dev.hlt.tpads = []) ∧ (s.dev.stl.stalls = []) ∧ (spare = s.dev.me) ∧ (subject ≠ spare) ∧ (s.dev.hlt.spare = .loading) ∧ (s.dev.hlt.spareFor = some subject) ∧ (s.dev.pwr.state ≠ .waking)) ∧
    (∃ (s : State), ∃ (src : Nat), ∃ (body : Bytes), (s.dev.alive = true) ∧ ((s.dev.mirrored (field body 0 2) = false ∨ src ≠ partnerOf s.dev.me ∨ s.dev.sep.invs = []))) ∧
    (∃ (s : State), ∃ (src : Nat), ∃ (body : Bytes), (s.dev.alive = true) ∧ (s.dev.mirrored (field body 0 2) = true) ∧ (src = partnerOf s.dev.me) ∧ ((∃ x ∈ s.dev.sep.invs, x.2.paddock = field body 0 2 ∧ x.2.base = field body 8 8 ∧ x.2.refused = none)) ∧ (s.dev.hlt.heldInvs = [])) :=
  ⟨⟨blk (rup), cmd, [], C.HLT_CKPT_BAD, by decide +kernel, by unfold Dev.takes; decide +kernel, by decide +kernel⟩,
   ⟨blk ((mapped rup)), { cmd with a0 := 3, a2 := 16 }, by decide +kernel, by unfold Dev.takes; decide +kernel, by decide +kernel, by decide +kernel, by decide +kernel, by decide +kernel, by decide +kernel⟩,
   ⟨blk ((mapped rup)), { cmd with a0 := 3, a2 := 16, a3 := 80 }, by decide +kernel, by unfold Dev.takes; decide +kernel, by decide +kernel, by decide +kernel, by decide +kernel, by decide +kernel, by decide +kernel, by decide +kernel, by decide +kernel⟩,
   ⟨blk (rup), cmd, [], by decide +kernel, by unfold Dev.takes; decide +kernel, by decide +kernel, by decide +kernel⟩,
   ⟨blk ((rup.setFld F.MEM_CTRL_EN 1)), cmd, ckptImage 3 0 0 0 [], 0, 0, [], by decide +kernel, by unfold Dev.takes; decide +kernel, by decide +kernel, by decide +kernel, by decide +kernel, by decide +kernel, by decide +kernel, by decide +kernel, (by unfold Dev.flat; intro u r h; cases h)⟩,
   ⟨blk (rup), cmd, by decide +kernel, by unfold Dev.takes; decide +kernel, by decide +kernel⟩,
   ⟨blk (let d := rup; let d := d.setFld F.HLT_CTRL_COMPAT 1; let d := { d with comp.cur := oneMap }; d), { cmd with a0 := 1, a1 := 0xFFFF0000 }, by decide +kernel, by unfold Dev.takes; decide +kernel, by decide +kernel, by decide +kernel, by decide +kernel, by decide +kernel, by decide +kernel⟩,
   ⟨blk (up), 1, 0, by decide +kernel⟩,
   ⟨blk (up), 2, 1, by decide +kernel⟩,
   ⟨blk (let d := up; let d := { d with hlt.spare := .loading }; let d := { d with hlt.spareFor := some (1) }; d), 1, 0, by decide +kernel⟩,
   ⟨blk (up), 0, [], by decide +kernel⟩,
   ⟨blk ((let d := running prog invP; { d with hlt.tpads := [(1, {})] })), 2 ^ 14, leBytes 2 1 ++ List.replicate 14 0, by decide +kernel⟩⟩

theorem witness_StallRecordsReadBack : ∃ (r : StallRec), (r.id < 2 ^ 17) ∧ (r.tenant < 2 ^ 12) ∧ (r.cls < 2 ^ 3) ∧ (r.model < 2 ^ 16) ∧ (r.deadline < 2 ^ 64) ∧ (r.lenCommit < 2 ^ 32) ∧ (r.lenTent < 2 ^ 32) ∧ (r.lenPrompt < 2 ^ 32) ∧ (r.lenLimit < 2 ^ 32) ∧ (r.lenParked < 2 ^ 32) ∧ (r.lenDeliv < 2 ^ 32) ∧ (r.pageList < 2 ^ 64) ∧ (r.seed < 2 ^ 64) ∧ (r.penTable < 2 ^ 64) ∧ (r.tokLog < 2 ^ 64) ∧ (r.samp < 2 ^ 64) ∧ (r.mapEpoch < 2 ^ 32) ∧ (r.home < 2 ^ 15) ∧ (r.shadow < 2 ^ 15) ∧ (r.exec < 2 ^ 15) ∧ (r.ring < 2 ^ 14) ∧ (r.altRing < 2 ^ 14) ∧ (r.tag < 2 ^ 16) ∧ (r.arrive < 2 ^ 64) ∧ (r.version < 2 ^ 32) ∧ (r.status < 2 ^ 16) ∧ (r.bulkSeg < 2 ^ 16) :=
  ⟨{}, by decide +kernel⟩

theorem witness_BytesAreLittleEndianAndDescriptorsReadBack : ∃ (x : Desc), (x.addr < 2 ^ 40) ∧ (x.holder < 2 ^ 15) ∧ (x.tier < 4) ∧ (x.fill < 2 ^ 13) ∧ (x.crc < 2 ^ 32) :=
  ⟨{}, by decide +kernel⟩

theorem witness_FaultEventsWaitUpToTheLimit :
    (∃ (d : Dev), (d.hlt.events.length ≤ 1024)) ∧
    (∃ (d : Dev), ∃ (e : Evt), (1024 ≤ d.hlt.events.length) ∧ (e.bit.lo < 64) ∧ (e.bit.width = 1) ∧ (e.bit.off ∉ [F.DBG_TRIG_ARM.off, F.DBG_TRIG_FIRED.off, F.DBG_TRIG_BEAT_BEAT.off, F.HLT_EVT_LOST_LOST.off])) ∧
    (∃ (d : Dev), ∃ (e : Evt), (d.hlt.events.length < 1024) ∧ (d.flag F.HLT_CTRL_EVT_EN = true) ∧ ((d.cplRing (d.fld F.HLT_CTRL_EVT_RING)).en = false) ∧ (e.bit.off ∉ [F.DBG_TRIG_ARM.off, F.DBG_TRIG_FIRED.off, F.DBG_TRIG_BEAT_BEAT.off, F.HLT_EVT_LOST_LOST.off, F.HLT_CTRL_EVT_EN.off])) ∧
    (∃ (d : Dev), (d.hif.dmaFail = false)) :=
  ⟨⟨(up), by decide +kernel⟩,
   ⟨({ up with hlt.events := List.replicate 1024 (.fault 0 0 0 0 0 0 0 0) }), { ({ code := 0, bit := { off := 0, lo := 0, width := 0 } } : Evt) with bit.width := 1 }, by decide +kernel⟩,
   ⟨(let d := up; let d := d.setFld F.HLT_CTRL_EVT_EN 1; d), { code := 0, bit := { off := 0, lo := 0, width := 0 } }, by decide +kernel⟩,
   ⟨(up), by decide +kernel⟩⟩

theorem witness_AReadOfAnEmptyIntakeReturnsTheIdleItem : ∃ (s : State), (s.dev.alive = true) ∧ (s.dev.serving = .all) ∧ (s.dev.flag F.INTK_CTRL_MANUAL = true) ∧ (s.dev.stl.openLvl = none) ∧ (s.dev.headLevel = none) :=
  ⟨blk (let d := up; let d := d.setFld F.INTK_CTRL_MANUAL 1; d), by decide +kernel⟩

theorem witness_ReplicationVersionsDecide :
    (∃ (old : Stall), ∃ (new : Stall), (new.r.shadowOk = true) ∧ (old.r.watched ≠ new.r.watched)) ∧
    (∃ (s : State), ∃ (m : ReplMsg), ∃ (e : ShadowEnt), (s.dev.alive = true) ∧ (Tbl.at? s.dev.stl.shadow (stallKey m.src m.stall) = some e) ∧ (1 ≤ (field m.record 104 4 + 2 ^ 32 - e.r.version) % 2 ^ 32) ∧ ((field m.record 104 4 + 2 ^ 32 - e.r.version) % 2 ^ 32 ≤ 2 ^ 31 - 1)) ∧
    (∃ (s : State), ∃ (m : ReplMsg), ∃ (e : ShadowEnt), (s.dev.alive = true) ∧ (Tbl.at? s.dev.stl.shadow (stallKey m.src m.stall) = some e) ∧ (((field m.record 104 4 + 2 ^ 32 - e.r.version) % 2 ^ 32 = 0 ∨ 2 ^ 31 ≤ (field m.record 104 4 + 2 ^ 32 - e.r.version) % 2 ^ 32))) :=
  ⟨⟨{}, { ({} : Stall) with r.shadowOk := true }, by decide +kernel⟩,
   ⟨blk (let d := up; let d := { d with stl.shadow := [((stallKey ({ src := 0, stall := 0, record := mk 128 [(104, 4, 1)] } : ReplMsg).src ({ src := 0, stall := 0, record := mk 128 [(104, 4, 1)] } : ReplMsg).stall), ({} : ShadowEnt))] }; d), { src := 0, stall := 0, record := mk 128 [(104, 4, 1)] }, {}, by decide +kernel⟩,
   ⟨blk (let d := up; let d := { d with stl.shadow := [((stallKey ({ src := 0, stall := 0, record := [] } : ReplMsg).src ({ src := 0, stall := 0, record := [] } : ReplMsg).stall), ({} : ShadowEnt))] }; d), { src := 0, stall := 0, record := [] }, {}, by decide +kernel⟩⟩

theorem witness_ScoresRollUp :
    (∃ e, (e < 5)) ∧
    (∃ k, (k < 8)) ∧
    (∃ p, (p < 16)) ∧
    (∃ t, (t < 256)) ∧
    (∃ e, (e < 4)) ∧
    (∃ e, ∃ c, (e < 4) ∧ (c < 136)) ∧
    (∃ p, (p < 16)) ∧
    (∃ p, ∃ l, (p < 16) ∧ (l < 8)) ∧
    (∃ k, ((k = 2 ∨ k = 3 ∨ k = 5 ∨ k = 6))) :=
  ⟨⟨0, by decide +kernel⟩,
   ⟨0, by decide +kernel⟩,
   ⟨0, by decide +kernel⟩,
   ⟨0, by decide +kernel⟩,
   ⟨0, by decide +kernel⟩,
   ⟨0, 0, by decide +kernel⟩,
   ⟨0, by decide +kernel⟩,
   ⟨0, 0, by decide +kernel⟩,
   ⟨2, by decide +kernel⟩⟩

theorem witness_StallsAreAllocatedLowestFirst :
    (∃ (d : Dev), ∃ (k : Nat), (d.lowestStall = some k)) ∧
    (∃ (d : Dev), ∃ (k : Nat), ∃ j, (d.lowestStall = some k) ∧ (j < k)) ∧
    (∃ (d : Dev), ∃ j, (d.lowestStall = none) ∧ (j < 131072)) ∧
    (∃ (d : Dev), (d.freeStalls ≤ d.fld F.STL_CTRL_PROMOTE_RSV)) ∧
    (∃ (shards : Nat), ∃ (n : Nat), ∃ (s : Nat), (s < shards) ∧ (0 < n)) ∧
    (∃ (p : PageList), (p.shards ≠ 0)) ∧
    (∃ n, (n ≤ 1024)) ∧
    (∃ (n : Nat), ∃ (b : Nat), (1 ≤ b) ∧ (b ≤ 12) ∧ (2 ^ (9 + b) < n) ∧ (n ≤ 2 ^ (10 + b))) :=
  ⟨⟨(up), 0, by decide +kernel⟩,
   ⟨({ up with stl.stalls := [(0, aStall)] }), 1, 0, by decide +kernel⟩,
   ⟨((tableOf 131072)), 0, (tableOf_none _ rfl), by decide +kernel⟩,
   ⟨((tableOf 131072)), (tableOf_free _ _ rfl)⟩,
   ⟨1, 1, 0, by decide +kernel⟩,
   ⟨{ shards := 1 }, by decide +kernel⟩,
   ⟨0, by decide +kernel⟩,
   ⟨1025, 1, by decide +kernel⟩⟩

end Sys2Proof.Tests
end

section
/-!
PROOFS of the statements on the scope of the model: structures in memory (O48, O49), an access that is read back (O28), and the state
after reset (O2). First the facts about the operations, then the statement that rests on them.
-/

namespace Sys2Proof.Machine

/-! ## Fields of a structure laid out as little-endian bytes (R5) -/

/-- The number that n bytes of x spell is x cut to n bytes. -/
theorem leNat_leBytes (n x : Nat) : leNat (leBytes n x) = x % 256 ^ n := by
  induction n generalizing x with
  | zero => simp [leBytes, leNat, Nat.mod_one]
  | succ n ih =>
    calc leNat (leBytes (n + 1) x) = x % 2 ^ 8 + 256 * (x / 256 % 256 ^ n) := by rw [leBytes, leNat, ih, BitVec.toNat_ofNat]
      _ = x % (256 * 256 ^ n) := (Nat.mod_mul ..).symm
      _ = x % 256 ^ (n + 1) := by rw [Nat.pow_succ']

/-- Byte i of a number is its bits 8i to 8i + 7. -/
theorem leBytes_getElem_toNat (n x i : Nat) (h : i < (leBytes n x).length) : ((leBytes n x)[i]).toNat = x / 256 ^ i % 256 := by
  induction n generalizing x i with
  | zero => simp [leBytes] at h
  | succ n ih =>
    cases i with
    | zero => simp [leBytes]
    | succ i =>
      have hi : i < (leBytes n (x / 256)).length := by simpa [leBytes] using h
      calc ((leBytes (n + 1) x)[i + 1]).toNat = ((leBytes n (x / 256))[i]).toNat := rfl
        _ = x / 256 / 256 ^ i % 256 := ih _ _ hi
        _ = x / 256 ^ (i + 1) % 256 := by rw [Nat.div_div_eq_div_mul, Nat.pow_succ']

/-- A string of bytes spells what its first part spells, and above it what the rest spells. -/
theorem leNat_append (a b : Bytes) : leNat (a ++ b) = leNat a + 256 ^ a.length * leNat b := by
  induction a with
  | nil => simp [leNat]
  | cons x t ih =>
    rw [List.cons_append, leNat, leNat, ih, List.length_cons, Nat.pow_succ', Nat.mul_add, Nat.mul_assoc, Nat.add_assoc]

/-- A field that lies within the first of two strings. -/
theorem field_append_left {a : Bytes} {off size : Nat} (b : Bytes) (h : off + size ≤ a.length) :
    field (a ++ b) off size = field a off size := by
  rw [field, field, List.drop_append_of_le_length (by omega), List.take_append_of_le_length (by simp; omega)]

/-- A field that lies behind the first of two strings. -/
theorem field_append_right {a : Bytes} {off : Nat} (b : Bytes) (size : Nat) (h : a.length ≤ off) :
    field (a ++ b) off size = field b (off - a.length) size := by
  rw [field, field, List.drop_append, List.drop_of_length_le h, List.nil_append]

theorem field_past_leBytes {n off : Nat} (x size : Nat) (t : Bytes) (h : n ≤ off) :
    field (leBytes n x ++ t) off size = field t (off - n) size := by
  have len := leBytes_length n x
  rw [field_append_right t size (Nat.le_trans (Nat.le_of_eq len) h), len]

theorem field_take {a : Bytes} {n off size : Nat} (h : off + size ≤ n) : field (a.take n) off size = field a off size := by
  rw [field, field, List.drop_take, List.take_take, Nat.min_eq_left (by omega)]

theorem field_drop (a : Bytes) (n off size : Nat) : field (a.drop n) off size = field a (n + off) size := by
  rw [field, field, List.drop_drop]

/-- More bytes of a number are its low bytes and then those of the rest. -/
theorem leBytes_add (n m x : Nat) : leBytes (n + m) x = leBytes n x ++ leBytes m (x / 256 ^ n) := by
  induction n generalizing x with
  | zero => simp [leBytes]
  | succ n ih => rw [Nat.add_right_comm, leBytes, leBytes, ih, Nat.div_div_eq_div_mul, ← Nat.pow_succ', List.cons_append]

/-- A field within the bytes of one number. -/
theorem field_leBytes {n off size : Nat} (x : Nat) (h : off + size ≤ n) :
    field (leBytes n x) off size = x / 256 ^ off % 256 ^ size := by
  obtain ⟨k, rfl⟩ := Nat.exists_eq_add_of_le h
  rw [Nat.add_assoc, leBytes_add off, leBytes_add size, field_past_leBytes _ _ _ (Nat.le_refl _), Nat.sub_self, field, List.drop_zero,
    List.take_left' (leBytes_length _ _), leNat_leBytes]

theorem field_leBytes_append {n off size : Nat} (x : Nat) (t : Bytes) (h : off + size ≤ n) :
    field (leBytes n x ++ t) off size = x / 256 ^ off % 256 ^ size := by
  rw [field_append_left t (by rw [leBytes_length]; exact h), field_leBytes x h]

/-! ## Truth values as bits -/

/-- A bit is what a truth value says where it is that value as a number. -/
theorem bit_eq_iff (x i : Nat) (b : Bool) : bit x i = b ↔ x / 2 ^ i % 2 = b2n b := by
  rcases Nat.mod_two_eq_zero_or_one (x / 2 ^ i) with h | h <;> cases b <;> simp [bit, b2n, h]

theorem b2n_lt (b : Bool) : b2n b < 2 := by cases b <;> decide

/-! ## O49: page descriptors (R195) -/

theorem Desc.bytes_length (x : Desc) : x.bytes.length = 16 := by simp [Desc.bytes, leBytes_length]

/-- A descriptor whose fields fit reads back from its bytes. -/
theorem Desc.read_bytes (x : Desc) (ha : x.addr < 2 ^ 40) (hh : x.holder < 2 ^ 15) (ht : x.tier < 4) (hf : x.fill < 2 ^ 13)
    (hc : x.crc < 2 ^ 32) : Desc.read x.bytes = x := by
  have hb := b2n_lt x.cmp
  obtain ⟨addr, holder, tier, cmp, fill, crc⟩ := x
  simp only [Desc.read, Desc.bytes, List.append_assoc, field_leBytes_append, field_leBytes, field_past_leBytes, Nat.reduceLeDiff,
    Nat.reduceSub, Nat.reduceAdd, Nat.pow_zero, Nat.div_one, Desc.mk.injEq] at *
  refine ⟨?_, ?_, ?_, ?_, ?_, ?_⟩
  · omega
  · omega
  · omega
  · rw [bit_eq_iff]; omega
  · omega
  · omega

/-- Settles O49, by induction on the bytes; a descriptor's fields are read back one by one. -/
theorem bytesAreLittleEndianAndDescriptorsReadBack : Obligations.BytesAreLittleEndianAndDescriptorsReadBack := by
  refine ⟨fun n x => ⟨leBytes_length n x, leNat_leBytes n x, leBytes_getElem_toNat n x⟩, leNat_append, ?_⟩
  intro x ha hh ht hf hc
  exact ⟨x.read_bytes ha hh ht hf hc, x.bytes_length⟩

/-! ## O48: stall records (R159, R161) -/

theorem StallRec.plain_length (r : StallRec) : r.plain.length = 128 := by
  unfold StallRec.plain
  simp [leBytes_length]

/-- What lies before the CRC field, and the CRC field. -/
theorem StallRec.upToCrc_length (r : StallRec) : (r.plain.take 116 ++ leBytes 4 (crc32c r.plain)).length = 120 := by
  simp [r.plain_length, leBytes_length]

theorem StallRec.bytes_length (r : StallRec) : r.bytes.length = 128 := by
  simp [StallRec.bytes, r.plain_length, leBytes_length]

/-- Outside the CRC field a record's bytes are those of the record with that field zero. -/
theorem StallRec.field_bytes (r : StallRec) {off size : Nat} (h : off + size ≤ 116 ∨ 120 ≤ off) :
    field r.bytes off size = field r.plain off size := by
  have before : (r.plain.take 116).length = 116 := by simp [r.plain_length]
  have upTo := r.upToCrc_length
  rw [StallRec.bytes]
  rcases h with h | h
  · rw [field_append_left _ (by omega), field_append_left _ (by omega), field_take h]
  · rw [field_append_right _ _ (by omega), upTo, field_drop, Nat.add_sub_cancel' h]

/-- The CRC field is the CRC of the record with the CRC field zero. -/
theorem StallRec.bytes_crc (r : StallRec) : field r.bytes 116 4 = crc32c r.plain % 2 ^ 32 := by
  have before : (r.plain.take 116).length = 116 := by simp [r.plain_length]
  have upTo := r.upToCrc_length
  rw [StallRec.bytes, field_append_left _ (by omega), field_append_right _ _ (by omega), before, field_leBytes _ (by omega),
    Nat.sub_self, Nat.pow_zero, Nat.div_one, show 256 ^ 4 = 2 ^ 32 from rfl]

/-- A code names the state it stands for. -/
theorem StallState.ofCode_code (x : StallState) : StallState.ofCode (x.code % 256 ^ 1 % 16) = x := by cases x <;> rfl

theorem StallState.code_lt (x : StallState) : x.code < 10 := by cases x <;> decide

/-- The five flags of a record read back from their byte. -/
theorem flags_byte (a b c d e : Bool) :
    let f := (b2n a + 2 * b2n b + 4 * b2n c + 8 * b2n d + 16 * b2n e) % 256 ^ 1
    bit f 0 = a ∧ bit f 1 = b ∧ bit f 2 = c ∧ bit f 3 = d ∧ bit f 4 = e := by
  have ha := b2n_lt a
  have hb := b2n_lt b
  have hc := b2n_lt c
  have hd := b2n_lt d
  have he := b2n_lt e
  simp only [bit_eq_iff]
  omega

/-- A record whose fields lie in their widths. -/
structure StallRec.Fits (r : StallRec) : Prop where
  id : r.id < 2 ^ 17
  tenant : r.tenant < 2 ^ 12
  cls : r.cls < 2 ^ 3
  model : r.model < 2 ^ 16
  deadline : r.deadline < 2 ^ 64
  lenCommit : r.lenCommit < 2 ^ 32
  lenTent : r.lenTent < 2 ^ 32
  lenPrompt : r.lenPrompt < 2 ^ 32
  lenLimit : r.lenLimit < 2 ^ 32
  lenParked : r.lenParked < 2 ^ 32
  lenDeliv : r.lenDeliv < 2 ^ 32
  pageList : r.pageList < 2 ^ 64
  seed : r.seed < 2 ^ 64
  penTable : r.penTable < 2 ^ 64
  tokLog : r.tokLog < 2 ^ 64
  samp : r.samp < 2 ^ 64
  mapEpoch : r.mapEpoch < 2 ^ 32
  home : r.home < 2 ^ 15
  shadow : r.shadow < 2 ^ 15
  exec : r.exec < 2 ^ 15
  ring : r.ring < 2 ^ 14
  altRing : r.altRing < 2 ^ 14
  tag : r.tag < 2 ^ 16
  arrive : r.arrive < 2 ^ 64
  version : r.version < 2 ^ 32
  status : r.status < 2 ^ 16
  bulkSeg : r.bulkSeg < 2 ^ 16

/-- The first word of a record holds the three numbers packed into it. -/
theorem packed_ids {i t c : Nat} (hi : i < 2 ^ 17) (ht : t < 2 ^ 12) (hc : c < 2 ^ 3) :
    let w := (i % 2 ^ 17 + t % 2 ^ 12 * 2 ^ 17 + c % 8 * 2 ^ 29) % 256 ^ 4
    bits w 16 0 = i ∧ bits w 28 17 = t ∧ bits w 31 29 = c := by
  simp only [bits]
  omega

/-- The executor and its valid bit read back from the word they share. -/
theorem exec_word {e : Nat} (he : e < 2 ^ 15) (v : Bool) :
    let w := (e % 2 ^ 15 + 2 ^ 15 * b2n v) % 256 ^ 2
    w % 2 ^ 15 = e ∧ bit w 15 = v := by
  have hv := b2n_lt v
  simp only [bit_eq_iff]
  omega

/-- A record whose fields fit reads back from its bytes. -/
theorem StallRec.read_bytes (r : StallRec) (h : r.Fits) : StallRec.read r.bytes = r := by
  obtain ⟨hid, htenant, hcls⟩ := packed_ids h.id h.tenant h.cls
  obtain ⟨hdrop, hkeep, hshadow, hpromoted, hcont⟩ := flags_byte r.dlDrop r.keep r.shadowOk r.promoted r.cont
  obtain ⟨hexec, hvalid⟩ := exec_word h.exec r.execValid
  cases h
  simp only [StallRec.read, r.field_bytes, Nat.reduceAdd, Nat.reduceLeDiff, true_or]
  unfold StallRec.plain
  simp only [List.append_assoc, field_leBytes_append, field_past_leBytes, Nat.reduceLeDiff, Nat.reduceSub, Nat.reduceAdd, Nat.pow_zero,
    Nat.div_one]
  simp only [hid, htenant, hcls, r.state.ofCode_code, hdrop, hkeep, hshadow, hpromoted, hcont, hexec, hvalid]
  simp (disch := omega) only [Nat.mod_eq_of_lt]

/-- The state code stands in byte 4. -/
theorem StallRec.bytes_state (r : StallRec) : field r.bytes 4 1 = r.state.code := by
  have h := r.state.code_lt
  rw [r.field_bytes (by decide)]
  unfold StallRec.plain
  simp only [List.append_assoc, field_leBytes_append, field_past_leBytes, Nat.reduceLeDiff, Nat.reduceSub, Nat.reduceAdd]
  omega

/-- The reserved fields of a record are zero. -/
theorem StallRec.bytes_reserved (r : StallRec) : field r.bytes 110 2 = 0 ∧ field r.bytes 114 2 = 0 ∧ field r.bytes 120 8 = 0 := by
  have bulk : r.bulkSeg % 2 ^ 16 / 256 ^ 2 % 256 ^ 2 = 0 := by omega
  rw [r.field_bytes (by decide), r.field_bytes (by decide), r.field_bytes (by decide)]
  unfold StallRec.plain
  simp only [List.append_assoc, field_leBytes_append, field_leBytes, field_past_leBytes, Nat.reduceLeDiff, Nat.reduceSub, Nat.reduceAdd,
    Nat.zero_div, Nat.zero_mod, bulk, and_self]

/-- Settles O48, field by field: `read_bytes` for the record as a whole, and one lemma each for the code, the CRC and the reserved
fields. -/
theorem stallRecordsReadBack : Obligations.StallRecordsReadBack := by
  intro r
  intros
  have fits : r.Fits := by constructor <;> assumption
  obtain ⟨h110, h114, h120⟩ := r.bytes_reserved
  exact ⟨r.read_bytes fits, r.bytes_length, r.bytes_crc, r.bytes_state, h110, h114, h120⟩

/-! ## O28: bytes of memory and the units that hold them -/

section
variable (d : Dev)

theorem Dev.setPoison_keeps (a n : Nat) (p : Bool) : d.keeps (d.setPoison a n p) [.poison] := by
  intro b hb
  unfold Dev.setPoison
  dsimp only
  split <;> cases b <;> simp_all [Blk.same, Dev.byte]

theorem Dev.cleanLines_keeps (a n : Nat) : d.keeps (d.cleanLines a n) [.poison] := by
  unfold Dev.cleanLines
  dsimp only
  split
  · exact d.setPoison_keeps _ _ _
  · exact Dev.keeps_refl d _

theorem Dev.store_keeps (a : Nat) (l : Bytes) : d.keeps (d.store a l) [.mem] := by
  obtain ⟨m, e⟩ := d.store_touches l a
  rw [e]
  intro b hb
  cases b <;> simp_all [Blk.same]

/-- A store with or without poison does to memory what the plain store does, and else marks lines. -/
theorem Dev.store_keeps_storeP (a : Nat) (l : Bytes) (p : Bool) : (d.store a l).keeps (d.storeP a l p) [.poison] := by
  unfold Dev.storeP
  dsimp only
  split
  · exact Dev.keeps_refl _ _
  · split
    · exact Dev.setPoison_keeps _ _ _ _
    · exact Dev.cleanLines_keeps _ _ _

theorem Dev.storeP_keeps (a : Nat) (l : Bytes) (p : Bool) : d.keeps (d.storeP a l p) [.mem, .poison] :=
  Dev.keeps_then (d.store_keeps a l) (d.store_keeps_storeP a l p) (by simp) (by simp)

/-- The bytes stored read back, whatever poison they carry. -/
theorem Dev.byte_storeP_in (a : Nat) (l : Bytes) (p : Bool) (i : Nat) (h : i < l.length) : (d.storeP a l p).byte (a + i) = l[i] := by
  rw [Dev.keeps_mem (d.store_keeps_storeP a l p) rfl, Dev.byte_store_in d l a i h]

/-- Loading a range whose bytes are those of a string. -/
theorem Dev.load_eq_of_bytes (l : Bytes) (a : Nat) (h : ∀ i (hi : i < l.length), d.byte (a + i) = l[i]) : d.load a l.length = l := by
  induction l generalizing a with
  | nil => rfl
  | cons b t ih =>
    have head : d.byte a = b := h 0 (by simp)
    have tail : d.load (a + 1) t.length = t := ih (a + 1) fun i hi => by
      rw [Nat.add_right_comm, Nat.add_assoc]
      exact h (i + 1) (by simpa using hi)
    rw [List.length_cons, Dev.load, head, tail]

/-- Loading reads nothing but bytes. -/
theorem Dev.load_congr {d e : Dev} (h : ∀ a, e.byte a = d.byte a) (a n : Nat) : e.load a n = d.load a n := by
  induction n generalizing a with
  | zero => rfl
  | succ n ih => rw [Dev.load, Dev.load, h, ih]

@[simp] theorem Dev.unit_setUnit_self (u : Nat) (x : MUnit) : (d.setUnit u x).unit u = x :=
  Tbl.rd_wr_self d.unitDef d.memt.units u x

theorem Dev.setUnit_keeps (u : Nat) (x : MUnit) : d.keeps (d.setUnit u x) [.memt] := by
  intro b hb
  cases b <;> simp_all [Blk.same, Dev.byte]

end

/-! ## Accesses of a unit that lies in HBM (R306, R314) -/

/-- Unit u may be accessed through region r and lies in HBM. -/
structure Dev.InHbm (d : Dev) (u : Nat) (r : MemRegion) : Prop where
  enabled : d.flag F.MEM_CTRL_EN = true
  opened : d.openRegion u = some r
  state : (d.unit u).state = .hbm

section
variable {d e : Dev} {u : Nat} {r : MemRegion}

/-- It depends on the registers and the tiers alone. -/
theorem Dev.InHbm.of_keeps (h : d.InHbm u r) (hr : e.regs = d.regs) (hm : e.memt = d.memt) : e.InHbm u r := by
  obtain ⟨enabled, opened, state⟩ := h
  constructor
  · rw [Dev.flag, Dev.fld_of_regs hr]; exact enabled
  · rw [← opened]; simp only [Dev.openRegion, Dev.regionOf, hm]
  · have regions : e.regionOf = d.regionOf := by funext v; rw [Dev.regionOf, Dev.regionOf, hm]
    have start : e.unitDef = d.unitDef := by funext v; rw [Dev.unitDef, Dev.unitDef, regions]
    rw [← state, Dev.unit, Dev.unit, start, hm]

/-- It stands when the unit changes and stays in HBM. -/
theorem Dev.InHbm.setUnit (h : d.InHbm u r) (x : MUnit) (hx : x.state = .hbm) : (d.setUnit u x).InHbm u r :=
  ⟨h.enabled, h.opened, by rw [Dev.unit_setUnit_self, hx]⟩

theorem Dev.InHbm.regionOf (h : d.InHbm u r) : d.regionOf u = some r := by
  have opened := h.opened
  unfold Dev.openRegion at opened
  split at opened
  · rename_i hr; split at opened <;> simp_all
  · cases opened

theorem Dev.warmed_keeps (d : Dev) (u : Nat) (r : MemRegion) : d.keeps (d.warmed u r) [.memt] := by
  unfold Dev.warmed
  split
  · exact Dev.keeps_refl d _
  · exact d.setUnit_keeps _ _

theorem Dev.InHbm.warmed (h : d.InHbm u r) : (d.warmed u r).InHbm u r := by
  unfold Dev.warmed
  split
  · exact h
  · exact h.setUnit _ h.state

/-- A store to a unit in HBM marks the unit and moves nothing. -/
theorem Dev.InHbm.storedTo_eq (h : d.InHbm u r) : ∃ x, x.state = .hbm ∧ d.storedTo u r = d.setUnit u x := by
  refine ⟨if r.lba.isSome && !(d.unit u).dirty then { d.unit u with dirty := true, since := d.now } else d.unit u, ?_, ?_⟩
  · split <;> exact h.state
  · have hs := h.state
    unfold Dev.storedTo
    dsimp only
    split <;> simp [hs]

/-- An access of such a unit is served at once. -/
theorem Dev.InHbm.access_eq {w : MemWait} (h : d.InHbm (w.addr / memUnit) r) :
    d.access w = (d.warmed (w.addr / memUnit) r).serve r w := by
  have served : (d.warmed (w.addr / memUnit) r).tryAccess w = some ((d.warmed (w.addr / memUnit) r).serve r w) := by
    simp only [Dev.tryAccess, h.warmed.regionOf, h.warmed.state]
  simp only [Dev.access, h.enabled, h.opened, if_true, served]

end

/-- Answering an access puts one message outside the part. -/
theorem Dev.answerMem_eq (d : Dev) (w : MemWait) (st : Nat) (l : Bytes) (p : Bool) :
    d.answerMem w st l p = { d with out := d.out ++ [.mem w.who st l p] } := by
  simp [Dev.answerMem, Dev.put, Put.toHost]

theorem Dev.answerMem_keeps (d : Dev) (w : MemWait) (st : Nat) (l : Bytes) (p : Bool) : d.keeps (d.answerMem w st l p) [.out] := by
  rw [Dev.answerMem_eq]
  intro b hb
  cases b <;> simp_all [Blk.same, Dev.byte]

theorem Dev.serve_read (d : Dev) (r : MemRegion) {w : MemWait} (hw : w.write = none) :
    d.serve r w = d.answerMem w C.OK (d.load (memKey 4 w.addr) w.len) (d.poisoned (memKey 4 w.addr) w.len) := by
  unfold Dev.serve; rw [hw]

theorem Dev.serve_write (d : Dev) (r : MemRegion) {w : MemWait} {data : Bytes} (hw : w.write = some data) :
    d.serve r w = ((d.storeP (memKey 4 w.addr) data w.poison).storedTo (w.addr / memUnit) r).answerMem w C.OK [] false := by
  unfold Dev.serve; rw [hw]

section
variable {d : Dev} {w : MemWait} {r : MemRegion}

/-- A read of a unit in HBM is answered with the bytes that lie there, and warms the unit. -/
theorem Dev.InHbm.access_read (h : d.InHbm (w.addr / memUnit) r) (hw : w.write = none) :
    (∃ p, (d.access w).out = d.out ++ [.mem w.who C.OK (d.load (memKey 4 w.addr) w.len) p]) ∧ d.keeps (d.access w) [.out, .memt] := by
  have warm := d.warmed_keeps (w.addr / memUnit) r
  have same := Dev.load_congr (Dev.keeps_mem warm rfl) (memKey 4 w.addr) w.len
  rw [h.access_eq, Dev.serve_read _ _ hw, Dev.answerMem_eq, same, Dev.keeps_out warm rfl]
  refine ⟨⟨_, rfl⟩, ?_⟩
  rw [← Dev.keeps_out warm rfl, ← Dev.answerMem_eq]
  exact Dev.keeps_then warm (Dev.answerMem_keeps _ _ _ _ _) (by simp) (by simp)

/-- A write to a unit in HBM stores its bytes, marks the unit, which stays there, and is answered. -/
theorem Dev.InHbm.serve_write {data : Bytes} (h : d.InHbm (w.addr / memUnit) r) (hw : w.write = some data) :
    ∃ x, ((d.storeP (memKey 4 w.addr) data w.poison).setUnit (w.addr / memUnit) x).InHbm (w.addr / memUnit) r ∧
      d.serve r w = ((d.storeP (memKey 4 w.addr) data w.poison).setUnit (w.addr / memUnit) x).answerMem w C.OK [] false := by
  have stores := d.storeP_keeps (memKey 4 w.addr) data w.poison
  have stored := h.of_keeps (Dev.keeps_regs stores rfl) (Dev.keeps_memt stores rfl)
  obtain ⟨x, hx, marked⟩ := stored.storedTo_eq
  exact ⟨x, stored.setUnit x hx, by rw [Dev.serve_write _ _ hw, marked]⟩

/-- A write to a unit in HBM leaves the unit there and the bytes in its range. -/
theorem Dev.InHbm.access_write {data : Bytes} (h : d.InHbm (w.addr / memUnit) r) (hw : w.write = some data) :
    (d.access w).InHbm (w.addr / memUnit) r ∧ (d.access w).load (memKey 4 w.addr) data.length = data ∧
      d.keeps (d.access w) [.mem, .poison, .out, .memt] := by
  obtain ⟨x, held, served⟩ := h.warmed.serve_write hw
  rw [h.access_eq, served]
  have warms := d.warmed_keeps (w.addr / memUnit) r
  have stores := (d.warmed (w.addr / memUnit) r).storeP_keeps (memKey 4 w.addr) data w.poison
  have bytes := (d.warmed (w.addr / memUnit) r).byte_storeP_in (memKey 4 w.addr) data w.poison
  generalize (d.warmed (w.addr / memUnit) r).storeP (memKey 4 w.addr) data w.poison = e at *
  have marks := e.setUnit_keeps (w.addr / memUnit) x
  have answers := (e.setUnit (w.addr / memUnit) x).answerMem_keeps w C.OK [] false
  have later := Dev.keeps_then (l := [.out, .memt]) marks answers (by simp) (by simp)
  refine ⟨held.of_keeps (Dev.keeps_regs answers rfl) (Dev.keeps_memt answers rfl), ?_, ?_⟩
  · rw [Dev.load_congr (Dev.keeps_mem later rfl), Dev.load_eq_of_bytes _ _ _ bytes]
  · exact Dev.keeps_then (Dev.keeps_then (l := [.mem, .poison, .memt]) warms stores (by simp) (by simp)) later (by simp) (by simp)

end

/-- A part in service stays so while its power state and its boundary scan stand. -/
theorem Dev.alive_of_keeps {d e : Dev} (hp : e.pwr = d.pwr) (ht : e.tap = d.tap) : e.alive = d.alive := by
  rw [Dev.alive, Dev.alive, hp, ht]

/-- The access SPACE4_READ makes of a range that ends within its unit (R306). -/
def Dev.readAccess (d : Dev) (who addr len : Nat) : MemWait :=
  { who := who, addr := addr % 2 ^ 48, len := len, write := none, sharp := false, poison := false, since := d.now }

/-- The access SPACE4_WRITE makes of a range that ends within its unit (R306). -/
def Dev.writeAccess (d : Dev) (who addr : Nat) (data : Bytes) (sharp poison : Bool) : MemWait :=
  { who := who, addr := addr % 2 ^ 48, len := 0, write := some data, sharp := sharp, poison := poison, since := d.now }

theorem exec_space4Read (who addr len : Nat) (s : State) (ha : s.dev.alive = true) (hl : len ≤ unitRoom (addr % 2 ^ 48)) :
    exec (.space4Read who addr len) s = .next { s with dev := (s.dev.access (s.dev.readAccess who addr len)).tidy } := by
  change execSpace4Read who addr len s = _
  rw [execSpace4Read, State.onDev_alive _ _ ha]
  dsimp only
  rw [Nat.min_eq_left hl, Dev.readAccess]

theorem exec_space4Write (who addr : Nat) (data : Bytes) (sharp poison : Bool) (s : State) (ha : s.dev.alive = true)
    (hl : data.length ≤ unitRoom (addr % 2 ^ 48)) : exec (.space4Write who addr data sharp poison) s =
      .next { s with dev := (s.dev.access (s.dev.writeAccess who addr data sharp poison)).tidy } := by
  change execSpace4Write who addr data sharp poison s = _
  rw [execSpace4Write, State.onDev_alive _ _ ha]
  dsimp only
  rw [List.take_of_length_le hl, Dev.writeAccess]

/-- Settles O28: the write leaves the unit in HBM with the bytes in its range, so the read finds both. -/
theorem aStoreIsReadBack : Obligations.AStoreIsReadBack := by
  intro s who addr data sharp poison r alive enabled opened hbm room
  have before : s.dev.InHbm (addr % 2 ^ 48 / memUnit) r := ⟨enabled, opened, hbm⟩
  obtain ⟨held, bytes, kept⟩ := before.access_write (w := s.dev.writeAccess who addr data sharp poison) rfl
  refine ⟨_, exec_space4Write who addr data sharp poison s alive room, ?_⟩
  generalize s.dev.access (s.dev.writeAccess who addr data sharp poison) = e at *
  have tidied := e.tidy_keeps
  have alive' : e.tidy.alive = true := by
    rw [Dev.alive_of_keeps (Dev.keeps_pwr tidied rfl) (Dev.keeps_tap tidied rfl),
      Dev.alive_of_keeps (Dev.keeps_pwr kept rfl) (Dev.keeps_tap kept rfl), alive]
  have held' : e.tidy.InHbm (addr % 2 ^ 48 / memUnit) r := held.of_keeps (Dev.keeps_regs tidied rfl) (Dev.keeps_memt tidied rfl)
  have bytes' : e.tidy.load (memKey 4 (addr % 2 ^ 48)) data.length = data :=
    (Dev.load_congr (Dev.keeps_mem tidied rfl) _ _).trans bytes
  obtain ⟨⟨p, answered⟩, still⟩ := held'.access_read (w := e.tidy.readAccess who addr data.length) rfl
  refine ⟨_, exec_space4Read who addr data.length { s with dev := e.tidy } alive' room, rfl, ⟨p, ?_⟩, Dev.keeps_tidy still⟩
  rw [Dev.tidy_out, answered]
  exact congrArg (fun l => e.tidy.out ++ [.mem who C.OK l p]) bytes'

/-! ## O2: the state after reset (R540, R547) -/

/-- After reset a register reads its Reset column. -/
theorem Dev.reset_reg (o : Nat) : Dev.reset.reg o = regReset o := rfl

/-- After reset no part has errors of its own. -/
theorem Dev.reset_part_own (k i : Nat) : (Dev.reset.part k i).own = 0 := by
  have listed : Dev.reset.part k i = {} := rfl
  rw [listed]; decide

/-- The largest of some scores is zero where they all are. -/
theorem maxOf_eq_zero {l : List Nat} (h : ∀ x ∈ l, x = 0) : maxOf l = 0 := by
  rw [List.eq_replicate_of_mem h, maxOf]
  induction l.length with
  | zero => rfl
  | succ n ih => exact ih

/-- Scores of zero roll up to zero (R444). -/
theorem Dev.reset_score : Dev.reset.score 0 0 = 0 := by
  have zeros (n : Nat) : maxOf ((List.range n).map fun _ => 0) = 0 := maxOf_eq_zero (by simp)
  simp only [Dev.score, Dev.reset_part_own, Nat.zero_div, zeros, ite_self, Nat.max_self]
  refine maxOf_eq_zero fun x hx => ?_
  simp only [List.map_const', List.mem_append, List.mem_singleton, List.mem_replicate] at hx
  omega

/-- Settles O2: an empty part reads its Reset columns, and the named registers' columns are the spec's numbers. -/
theorem resetLeavesTheSpecsValues : Obligations.ResetLeavesTheSpecsValues := by
  refine ⟨rfl, rfl, rfl, rfl, rfl, rfl, rfl, rfl, Dev.reset_score, Dev.reset_reg, ?_⟩
  decide

end Sys2Proof.Machine
end

section
/-!
PROOFS of the statements on the cadence (spec/02_cadence_and_determinism.md): what a step does (O1), and how the events move the
cadence state machine (O14).
-/

namespace Sys2Proof.Machine

/-! ## O1: a step -/

theorem step_of_cons {s : State} {c : Instr} {rest : List Instr} (h : s.pending = c :: rest) :
    step s = exec c { s with pending := rest } := by rw [step, h]

theorem step_of_nil {s : State} (h : s.pending = []) : step s = .next { s with dev := beat s.dev } := by rw [step, h]

section
variable {d : Dev}

/-- A count that has not been acquired stands (R43). -/
theorem beat_of_not_counting (h : d.counting = false) : beat d = d := by simp [beat, h]

/-- An increment may be omitted (R50). -/
theorem beat_of_skip (h : d.counting = true) (hs : d.cad.skip = true) : beat d = { d with cad.skip := false } := by
  simp [beat, h, hs]

theorem beat_of_counting (h : d.counting = true) (hs : d.cad.skip = false) :
    beat d = { d with cad.count := (d.cad.count + 1) % 2 ^ 64 } := by
  simp [beat, h, hs]

end

/-- Settles O1: a step splits on the queue, and a beat on whether the count runs and whether its increment is omitted. -/
theorem aStepRunsTheFrontCommand : Obligations.AStepRunsTheFrontCommand := by
  refine ⟨fun s c rest h => step_of_cons h, fun s h run go => ?_, fun s h run omitted => ?_, fun s h stand => ?_⟩
  · rw [step_of_nil h, beat_of_counting run go]
  · rw [step_of_nil h, beat_of_skip run omitted]
  · rw [step_of_nil h, beat_of_not_counting stand]

/-! ## A command whose whole effect is on the part -/

/-- It completes with what its effect leaves. -/
theorem State.does_of_onDev {s : State} {c : Instr} {P : Dev → Prop} (f : Dev → Dev) (run : exec c s = s.onDev f)
    (alive : s.dev.alive = true) (h : P (f s.dev).tidy) : s.does c P :=
  ⟨_, run.trans (s.onDev_alive f alive), rfl, h⟩

@[simp] theorem Dev.keeps_tidy_iff {x y : Dev} {l : List Blk} : x.keeps y.tidy l ↔ x.keeps y l := by
  refine ⟨fun h b hb => ?_, Dev.keeps_tidy⟩
  have agreed := h b hb
  cases b <;> simpa [Blk.same] using agreed

section
variable (d : Dev)

/-! ## Changes of the cadence alone -/

theorem Dev.setCad_keeps (c : Cad) : d.keeps { d with cad := c } [.cad] := by
  intro b hb; cases b <;> first | rfl | (intro a; rfl) | simp at hb

/-- What a change of the cadence with a fault event may change. -/
theorem Dev.setCad_raise_keeps (c : Cad) (e : Evt) :
    d.keeps (({ d with cad := c } : Dev).raise e) [.regs, .out, .cad, .hif, .hlt] :=
  Dev.keeps_then (d.setCad_keeps c) (Dev.raise_keeps _ e 0 0 0 none) (by simp) (by simp)

/-- An offset of at most 2 beats is left to slewing (R50). -/
theorem Dev.correct_of_le {off : Int} (h : off ≤ 2) :
    ∃ n, d.correct off = { d with cad := { d.cad with slew := off, nextSlew := n } } := by
  rw [Dev.correct, if_neg (by omega)]
  exact ⟨_, rfl⟩

/-- A first pulse far from the boundary, in `refonly`, is a glitch (R49). -/
theorem Dev.farPulse_of_first {d : Dev} (off : Int) (state : d.cad.state = .refonly) (first : d.cad.glitch = none) :
    d.farPulse off = ({ d with cad := { d.cad with glitch := some off, absent := 0 } } : Dev).raise E.CAD_GLITCH := by
  simp [Dev.farPulse, state, first]

theorem Dev.source_of_nbrs_nil (h : d.cad.nbrs = []) : d.source = none := by rw [Dev.source, h]; rfl

/-! ## Offsets of pulses (R42) -/

/-- The offset is within 2 beats exactly where the count is within 2 beats of a boundary. -/
theorem pulseOffset_near_iff (n : Nat) :
    (-2 ≤ pulseOffset n ∧ pulseOffset n ≤ 2) ↔ (n % 2 ^ 20 ≤ 2 ∨ 2 ^ 20 - 2 ≤ n % 2 ^ 20) := by
  have bound : n % 2 ^ 20 < 2 ^ 20 := Nat.mod_lt _ (by decide)
  simp only [pulseOffset, Int.ofNat_eq_natCast]
  split <;> omega

/-- Such an offset does not saturate. -/
theorem satOffset_of_near {o : Int} (h : -2 ≤ o ∧ o ≤ 2) : satOffset (16 * o) = 16 * o := by
  rw [satOffset]; omega

/-! ## Writes of CAD_LOAD and GLB_MODE (R49, R62) -/

/-- Storing a register of two fields, with every access code picked. -/
theorem Dev.storeReg_pair (o v : Nat) (f g : FieldSpec) : (d.storeReg ⟨o, [f, g]⟩ v fun _ => true).2 =
    d.setReg o (BitVec.ofNat 64
      (f.written (d.locked f) (d.reg o).toNat v * 2 ^ f.lo + g.written (d.locked g) (d.reg o).toNat v * 2 ^ g.lo)) := by
  simp only [Dev.storeReg, List.foldl_cons, List.foldl_nil, if_true, Nat.zero_add]

/-- CAD_LOAD.ARM as the map gives it (R70). -/
def cadLoadArmSpec : FieldSpec := ⟨0, 1, .w1s, 0, .any, none⟩

/-- CAD_LOAD.HI as the map gives it (R70). -/
def cadLoadHiSpec : FieldSpec := ⟨20, 44, .rw, 0, .any, none⟩

/-- The map's entry for CAD_LOAD. -/
def cadLoadReg : RegSpec := ⟨F.CAD_LOAD_ARM.off, [cadLoadArmSpec, cadLoadHiSpec]⟩

theorem regAt_cadLoad : regAt F.CAD_LOAD_ARM.off = some cadLoadReg := by decide

theorem bit_bits_lowest (v : Nat) : bit (bits v 0 0) 0 = bit v 0 := by simp [bit, bits]

theorem cadLoadArmSpec_written {v : Nat} (old : Nat) (h : bit v 0 = true) : cadLoadArmSpec.written false old v = 1 := by
  simp [FieldSpec.written, cadLoadArmSpec, natOfBits, bit_bits_lowest, h]

theorem cadLoadHiSpec_written (old v : Nat) : cadLoadHiSpec.written false old v = v / 2 ^ 20 % 2 ^ 44 := by
  simp [FieldSpec.written, cadLoadHiSpec, FieldSpec.norm1, bits]

/-- CAD_LOAD with its written fields stored, before the write takes effect. -/
def Dev.cadLoadStored (v : Nat) : Dev := (d.storeReg cadLoadReg v fun _ => true).2

theorem Dev.cadLoadStored_keeps (v : Nat) : d.keeps (d.cadLoadStored v) [.regs] := d.storeReg_keeps _ _ _

/-- A write with ARM set leaves ARM and the written HI in the register. -/
theorem Dev.cadLoadStored_reg {v : Nat} (h : bit v 0 = true) :
    ((d.cadLoadStored v).reg F.CAD_LOAD_ARM.off).toNat = 1 + v / 2 ^ 20 % 2 ^ 44 * 2 ^ 20 := by
  have arm : d.locked cadLoadArmSpec = false := rfl
  have hi : d.locked cadLoadHiSpec = false := rfl
  rw [Dev.cadLoadStored, cadLoadReg, Dev.storeReg_pair, Dev.reg_setReg_self, arm, hi, cadLoadArmSpec_written _ h,
    cadLoadHiSpec_written, BitVec.toNat_ofNat]
  simp only [cadLoadArmSpec, cadLoadHiSpec]
  omega

theorem Dev.cadLoadStored_arm {v : Nat} (h : bit v 0 = true) : (d.cadLoadStored v).flag F.CAD_LOAD_ARM = true := by
  rw [Dev.flag, Dev.fld, d.cadLoadStored_reg h, beq_iff_eq]
  simp only [F.CAD_LOAD_ARM, bits]
  omega

theorem Dev.cadLoadStored_hi {v : Nat} (h : bit v 0 = true) : (d.cadLoadStored v).fld F.CAD_LOAD_HI = v / 2 ^ 20 % 2 ^ 44 := by
  rw [Dev.fld, show F.CAD_LOAD_HI.off = F.CAD_LOAD_ARM.off from rfl, d.cadLoadStored_reg h]
  simp only [F.CAD_LOAD_HI, bits]
  omega

theorem Dev.writeEffects_cadLoad (before : Dev) (v : Nat) : Dev.writeEffects before d F.CAD_LOAD_ARM.off v = d.cadLoadWritten := by
  have other : (F.CAD_LOAD_ARM.off == F.GLB_MODE_DETM_REQ.off) = false := by decide
  simp only [Dev.writeEffects, other, beq_self_eq_true, Bool.false_eq_true, if_false, if_true]

theorem Dev.busWrite_cadLoad (v : Nat) (hs : d.serving = .all) :
    d.busWrite true F.CAD_LOAD_ARM.off v = (d.cadLoadStored v).cadLoadWritten := by
  rw [d.busWrite_free true _ v cadLoadReg hs (by decide) (by decide) regAt_cadLoad (by decide), Dev.writeEffects_cadLoad,
    Dev.cadLoadStored]

theorem Dev.cadLoadWritten_fld (f : Fld) : d.cadLoadWritten.fld f = (d.setFld F.CAD_LOAD_ARM 0).fld f := by
  rw [Dev.cadLoadWritten]; split <;> rfl

theorem Dev.cadLoadWritten_keeps : d.keeps d.cadLoadWritten [.regs, .cad] := by
  have cleared := d.setFld_keeps F.CAD_LOAD_ARM 0
  rw [Dev.cadLoadWritten]
  dsimp only
  split
  · exact Dev.keeps_then cleared (Dev.setCad_keeps _ _) (by simp) (by simp)
  · exact Dev.keeps_mono cleared (by simp)

/-- ARM is held in `unset` and `acquire` alone (R49). -/
theorem Dev.cadLoadWritten_cad (h : d.flag F.CAD_LOAD_ARM = true) : d.cadLoadWritten.cad =
    if d.cad.state = .unset ∨ d.cad.state = .acquire then { d.cad with arm := true } else d.cad := by
  rw [Dev.cadLoadWritten, h]
  simp only [Dev.setFld_cad, Bool.true_and, Bool.or_eq_true, beq_iff_eq]
  split <;> rfl

/-- With no paddock and no staged map the mode takes effect at once (R62). -/
theorem Dev.detmWritten_at_once (req : Bool) (hm : d.myMembers = []) (hp : d.comp.pending = none) :
    d.detmWritten req = { d with cad := { d.cad with detmReq := req, detm := req } } := by
  have members : ({ d with cad.detmReq := req } : Dev).myMembers = [] := hm
  simp [Dev.detmWritten, members, hp]

theorem bit_b2n (b : Bool) (i : Nat) : bit (b2n b * 2 ^ i) i = b := by
  rw [bit, Nat.mul_div_cancel _ (Nat.two_pow_pos i)]
  cases b <;> rfl

/-- The map's entry for GLB_MODE (R71). -/
def glbModeReg : RegSpec := ⟨F.GLB_MODE_DETM_REQ.off, [⟨0, 1, .ro, 0, .any, none⟩, ⟨1, 1, .rw, 0, .any, none⟩, ⟨2, 1, .ro, 0, .any, none⟩]⟩

theorem regAt_glbMode : regAt F.GLB_MODE_DETM_REQ.off = some glbModeReg := by decide

theorem Dev.writeEffects_glbMode (before : Dev) (v : Nat) :
    Dev.writeEffects before d F.GLB_MODE_DETM_REQ.off v = d.detmWritten (bit v F.GLB_MODE_DETM_REQ.lo) := by
  simp only [Dev.writeEffects, beq_self_eq_true, if_true]

/-- GLB_MODE with its written field stored, before the write takes effect. -/
def Dev.glbModeStored (req : Bool) : Dev := (d.storeReg glbModeReg (b2n req * 2 ^ F.GLB_MODE_DETM_REQ.lo) fun _ => true).2

theorem Dev.glbModeStored_keeps (req : Bool) : d.keeps (d.glbModeStored req) [.regs] := d.storeReg_keeps _ _ _

theorem Dev.busWrite_glbMode (req : Bool) (hs : d.serving = .all) :
    d.busWrite true F.GLB_MODE_DETM_REQ.off (b2n req * 2 ^ F.GLB_MODE_DETM_REQ.lo) = (d.glbModeStored req).detmWritten req := by
  rw [d.busWrite_free true _ _ glbModeReg hs (by decide) (by decide) regAt_glbMode (by decide), Dev.writeEffects_glbMode, bit_b2n, Dev.glbModeStored]

end

/-! ## O14: the cadence state machine (R49 to R51, R62), one lemma for each of its events -/

theorem exec_cadLoadArm (v : Nat) (s : State) : exec (.cadLoadArm v) s = execCadLoadArm v s := rfl
theorem exec_detmReqWrite (req : Bool) (s : State) : exec (.detmReqWrite req) s = execDetmReqWrite req s := rfl
theorem exec_evgSyncPulse (s : State) : exec .evgSyncPulse s = execEvgSyncPulse s := rfl
theorem exec_syncPulseAbsent (s : State) : exec .syncPulseAbsent s = execSyncPulseAbsent s := rfl
theorem exec_evgRefLost (s : State) : exec .evgRefLost s = execEvgRefLost s := rfl
theorem exec_beatClockLocked (s : State) : exec .beatClockLocked s = execBeatClockLocked s := rfl
theorem exec_followTimeout (s : State) : exec .followTimeout s = execFollowTimeout s := rfl
theorem exec_slewCorrection (s : State) : exec .slewCorrection s = execSlewCorrection s := rfl

section
variable {s : State} (alive : s.dev.alive = true)
include alive

theorem does_cadLoadArm (v : Nat) (served : s.dev.serving = .all) (armed : bit v 0 = true) : s.does (.cadLoadArm v) fun d =>
    d.cad = (if s.dev.cad.state = .unset ∨ s.dev.cad.state = .acquire then { s.dev.cad with arm := true } else s.dev.cad) ∧
    d.fld F.CAD_LOAD_HI = v / 2 ^ 20 % 2 ^ 44 ∧ d.fld F.CAD_LOAD_ARM = 0 ∧ s.dev.keeps d [.regs, .cad] := by
  refine State.does_of_onDev _ (exec_cadLoadArm v s) alive ?_
  simp only [if_pos armed, s.dev.busWrite_cadLoad v served, Dev.tidy_cad, Dev.tidy_fld, Dev.keeps_tidy_iff]
  have stored := s.dev.cadLoadStored_keeps v
  refine ⟨?_, ?_, ?_, ?_⟩
  · rw [Dev.cadLoadWritten_cad _ (s.dev.cadLoadStored_arm armed), Dev.keeps_cad stored rfl]
  · rw [Dev.cadLoadWritten_fld, Dev.fld_setFld_apart _ F.CAD_LOAD_ARM F.CAD_LOAD_HI 0 rfl rfl rfl (by decide), Dev.cadLoadStored_hi _ armed]
  · rw [Dev.cadLoadWritten_fld, Dev.fld_setFld_self _ _ rfl]; rfl
  · exact Dev.keeps_then stored (Dev.cadLoadWritten_keeps _) (by simp) (by simp)

theorem does_evgSyncPulse_acquire (state : s.dev.cad.state = .acquire) (armed : s.dev.cad.arm = true) :
    s.does .evgSyncPulse fun d =>
      d.cad.state = .locked ∧ d.cad.count = s.dev.fld F.CAD_LOAD_HI * 2 ^ 20 ∧ d.cad.arm = false ∧ d.cad.stratum = 0 ∧
      s.dev.keeps d [.cad] := by
  refine State.does_of_onDev _ (exec_evgSyncPulse s) alive ?_
  simp only [state, armed, if_true, Dev.tidy_cad, Dev.keeps_tidy_iff]
  exact ⟨rfl, rfl, rfl, rfl, s.dev.setCad_keeps _⟩

theorem does_evgSyncPulse_near (state : s.dev.cad.state = .locked ∨ s.dev.cad.state = .refonly)
    (near : s.dev.cad.count % 2 ^ 20 ≤ 2 ∨ 2 ^ 20 - 2 ≤ s.dev.cad.count % 2 ^ 20) : s.does .evgSyncPulse fun d =>
    d.cad.state = .locked ∧ d.cad.stratum = 0 ∧ d.cad.absent = 0 ∧ d.cad.count = s.dev.cad.count ∧
    d.cad.slew = pulseOffset s.dev.cad.count ∧ d.cad.offset16 = 16 * pulseOffset s.dev.cad.count ∧ s.dev.keeps d [.cad] := by
  have within := (pulseOffset_near_iff _).2 near
  have unsaturated := satOffset_of_near within
  refine State.does_of_onDev _ (exec_evgSyncPulse s) alive ?_
  rcases state with state | state <;> simp only [state, if_pos within, Dev.tidy_cad, Dev.keeps_tidy_iff]
  all_goals
    obtain ⟨n, slewed⟩ := Dev.correct_of_le _ within.2
    rw [slewed]
    exact ⟨rfl, rfl, rfl, rfl, rfl, unsaturated, s.dev.setCad_keeps _⟩

theorem does_evgSyncPulse_glitch (state : s.dev.cad.state = .refonly) (first : s.dev.cad.glitch = none)
    (far : ¬(s.dev.cad.count % 2 ^ 20 ≤ 2 ∨ 2 ^ 20 - 2 ≤ s.dev.cad.count % 2 ^ 20)) : s.does .evgSyncPulse fun d =>
    d.cad.state = .refonly ∧ d.cad.count = s.dev.cad.count ∧ d.cad.glitch = some (pulseOffset s.dev.cad.count) ∧
    d.fld E.CAD_GLITCH.bit = 1 ∧ s.dev.keeps d [.regs, .out, .cad, .hif, .hlt] := by
  refine State.does_of_onDev _ (exec_evgSyncPulse s) alive ?_
  simp only [state, if_neg (mt (pulseOffset_near_iff _).1 far), Dev.tidy_cad, Dev.tidy_fld, Dev.keeps_tidy_iff]
  rw [Dev.farPulse_of_first (d := s.dev.measured (16 * pulseOffset s.dev.cad.count)) _ state first, Dev.raise_cad]
  exact ⟨state, rfl, rfl, Dev.raise_bit _ _ _ _ _ _ (by decide) (by decide), s.dev.setCad_raise_keeps _ _⟩

theorem does_syncPulseAbsent_first (state : s.dev.cad.state = .locked) (first : s.dev.cad.absent = 0) :
    s.does .syncPulseAbsent fun d => d.cad = { s.dev.cad with absent := 1, glitch := none } ∧ s.dev.keeps d [.cad] := by
  refine State.does_of_onDev _ (exec_syncPulseAbsent s) alive ?_
  simp only [state, first, Dev.tidy_cad, Dev.keeps_tidy_iff]
  exact ⟨rfl, s.dev.setCad_keeps _⟩

theorem does_syncPulseAbsent_second (state : s.dev.cad.state = .locked) (second : 1 ≤ s.dev.cad.absent) :
    s.does .syncPulseAbsent fun d =>
      d.cad = { s.dev.cad with state := .refonly, stratum := 1, absent := 0, glitch := none } ∧
      d.fld E.CAD_SYNC_LOSS.bit = 1 ∧ s.dev.keeps d [.regs, .out, .cad, .hif, .hlt] := by
  refine State.does_of_onDev _ (exec_syncPulseAbsent s) alive ?_
  simp only [state, if_pos second, Dev.tidy_cad, Dev.tidy_fld, Dev.keeps_tidy_iff, Dev.raise_cad, true_and]
  exact ⟨Dev.raise_bit _ _ _ _ _ _ (by decide) (by decide), s.dev.setCad_raise_keeps _ _⟩

theorem does_evgRefLost_acquire (state : s.dev.cad.state = .acquire) : s.does .evgRefLost fun d =>
    d.cad = { s.dev.cad with state := .unset, ref := false } ∧ d.fld E.CAD_REF_LOSS.bit = 1 ∧
    s.dev.keeps d [.regs, .out, .cad, .hif, .hlt] := by
  refine State.does_of_onDev _ (exec_evgRefLost s) alive ?_
  simp only [state, Dev.tidy_cad, Dev.tidy_fld, Dev.keeps_tidy_iff, Dev.raise_cad, true_and]
  exact ⟨Dev.raise_bit _ _ _ _ _ _ (by decide) (by decide), s.dev.setCad_raise_keeps _ _⟩

theorem does_evgRefLost_sourceless
    (state : s.dev.cad.state = .locked ∨ s.dev.cad.state = .refonly ∨ s.dev.cad.state = .slew) (alone : s.dev.cad.nbrs = []) :
    s.does .evgRefLost fun d =>
      d.cad.state = .holdover ∧ d.cad.stratum = 15 ∧ d.cad.srcPort = 0 ∧ d.cad.ref = false ∧ d.cad.count = s.dev.cad.count ∧
      d.fld E.CAD_HOLDOVER.bit = 1 ∧ s.dev.keeps d [.regs, .out, .cad, .hif, .hlt] := by
  refine State.does_of_onDev _ (exec_evgRefLost s) alive ?_
  rcases state with state | state | state <;>
    simp only [state, Dev.source_of_nbrs_nil, alone, Dev.tidy_cad, Dev.tidy_fld, Dev.keeps_tidy_iff, Dev.raise_cad,
      true_and]
  all_goals exact ⟨Dev.raise_bit _ _ _ _ _ _ (by decide) (by decide),
    Dev.keeps_then (s.dev.setCad_raise_keeps _ _) (Dev.raise_keeps _ _ _ _ _ _) (by simp) (by simp)⟩

theorem does_beatClockLocked : s.does .beatClockLocked fun d =>
    d.cad.ref = true ∧ d.cad.count = s.dev.cad.count ∧
    d.cad.state = (if s.dev.cad.state = .unset then .acquire
      else if s.dev.cad.state = .follow ∨ s.dev.cad.state = .holdover then .refonly else s.dev.cad.state) ∧
    s.dev.keeps d [.cad] := by
  refine State.does_of_onDev _ (exec_beatClockLocked s) alive ?_
  simp only [Dev.tidy_cad, Dev.keeps_tidy_iff]
  cases state : s.dev.cad.state
  all_goals exact ⟨rfl, rfl, by simp, s.dev.setCad_keeps _⟩

theorem does_followTimeout {b : Nat} (state : s.dev.cad.state = .follow) (since : s.dev.cad.noSrc = some b)
    (alone : s.dev.cad.nbrs = []) (elapsed : b + 2 ^ 12 ≤ s.dev.now) : s.does .followTimeout fun d =>
    d.cad = { s.dev.cad with state := .holdover, stratum := 15, srcPort := 0, noSrc := none } ∧ d.fld E.CAD_HOLDOVER.bit = 1 ∧
    s.dev.keeps d [.regs, .out, .cad, .hif, .hlt] := by
  refine State.does_of_onDev _ (exec_followTimeout s) alive ?_
  simp only [state, since, s.dev.source_of_nbrs_nil alone, if_pos elapsed, Dev.tidy_cad, Dev.tidy_fld, Dev.keeps_tidy_iff, Dev.raise_cad,
    true_and]
  exact ⟨Dev.raise_bit _ _ _ _ _ _ (by decide) (by decide), s.dev.setCad_raise_keeps _ _⟩

theorem does_slewCorrection_doubled (due : s.dev.cad.nextSlew ≤ s.dev.cad.count) (behind : 0 < s.dev.cad.slew) :
    s.does .slewCorrection fun d =>
      d.cad.count = (s.dev.cad.count + 1) % 2 ^ 64 ∧ d.cad.slew = s.dev.cad.slew - 1 ∧ d.cad.skip = s.dev.cad.skip ∧
      s.dev.keeps d [.cad] := by
  have pending : s.dev.cad.slew ≠ 0 := by omega
  refine State.does_of_onDev _ (exec_slewCorrection s) alive ?_
  simp only [pending, Nat.not_lt.2 due, if_pos behind, decide_false, Bool.or_false, Bool.false_eq_true, if_false, Dev.tidy_cad,
    Dev.keeps_tidy_iff, true_and]
  exact ⟨rfl, s.dev.setCad_keeps _⟩

theorem does_slewCorrection_omitted (due : s.dev.cad.nextSlew ≤ s.dev.cad.count) (ahead : s.dev.cad.slew < 0) :
    s.does .slewCorrection fun d =>
      d.cad.count = s.dev.cad.count ∧ d.cad.slew = s.dev.cad.slew + 1 ∧ d.cad.skip = true ∧ s.dev.keeps d [.cad] := by
  have pending : s.dev.cad.slew ≠ 0 := by omega
  have negative : ¬ 0 < s.dev.cad.slew := by omega
  refine State.does_of_onDev _ (exec_slewCorrection s) alive ?_
  simp only [pending, Nat.not_lt.2 due, if_neg negative, decide_false, Bool.or_false, Bool.false_eq_true, if_false, Dev.tidy_cad,
    Dev.keeps_tidy_iff, true_and]
  exact ⟨rfl, s.dev.setCad_keeps _⟩

theorem does_detmReqWrite (req : Bool) (served : s.dev.serving = .all) (idle : s.dev.myMembers = [])
    (unstaged : s.dev.comp.pending = none) : s.does (.detmReqWrite req) fun d =>
    d.cad = { s.dev.cad with detmReq := req, detm := req } ∧ s.dev.keeps d [.regs, .cad] := by
  refine State.does_of_onDev _ (exec_detmReqWrite req s) alive ?_
  simp only [s.dev.busWrite_glbMode req served, Dev.tidy_cad, Dev.keeps_tidy_iff]
  have stored := s.dev.glbModeStored_keeps req
  rw [Dev.detmWritten_at_once (s.dev.glbModeStored req) req idle unstaged]
  exact ⟨rfl, Dev.keeps_then stored (Dev.setCad_keeps _ _) (by simp) (by simp)⟩

end

/-- Settles O14, event by event. -/
theorem cadenceFollowsItsStates : Obligations.CadenceFollowsItsStates := by
  refine ⟨?_, ?_, ?_, ?_, ?_, ?_, ?_, ?_, ?_, ?_⟩
  · exact fun s v alive served armed => does_cadLoadArm alive v served armed
  · exact fun s alive state armed => does_evgSyncPulse_acquire alive state armed
  · exact fun s alive state near => does_evgSyncPulse_near alive state near
  · exact fun s alive state first above below => does_evgSyncPulse_glitch alive state first (by omega)
  · exact fun s alive state => ⟨does_syncPulseAbsent_first alive state, does_syncPulseAbsent_second alive state⟩
  · exact fun s alive => ⟨does_evgRefLost_acquire alive, does_evgRefLost_sourceless alive⟩
  · exact fun s alive => does_beatClockLocked alive
  · exact fun s b alive state since alone elapsed => does_followTimeout alive state since alone elapsed
  · exact fun s alive due => ⟨does_slewCorrection_doubled alive due, does_slewCorrection_omitted alive due⟩
  · exact fun s req alive served idle unstaged => does_detmReqWrite alive req served idle unstaged

end Sys2Proof.Machine
end

section
/-!
PROOFS of the statement on cores (spec/03_engines_and_formats.md): saves, faults and spares (O22). First the rules of the tables of
cores and invocations, of memory, and of errors counted on a device that is no spare; then what each command does.
-/

namespace Sys2Proof.Machine

/-! ## Cores, invocations and entries in their tables -/

section
variable (d : Dev)

@[simp] theorem Dev.core_setCore_self (k : Nat) (c : Core) : (d.setCore k c).core k = c := Tbl.rd_wr_self _ _ _ _

theorem Dev.core_setCore_ne {k j : Nat} (c : Core) (h : j ≠ k) : (d.setCore k c).core j = d.core j := Tbl.rd_wr_ne _ _ _ h

@[simp] theorem Dev.core_putInv (k n : Nat) (i : Inv) : (d.putInv k i).core n = d.core n := rfl

@[simp] theorem Dev.inv?_putInv_self (k : Nat) (i : Inv) : (d.putInv k i).inv? k = some i := Tbl.at?_put_self _ _ _

@[simp] theorem Dev.inv?_setCore (k n : Nat) (c : Core) : (d.setCore k c).inv? n = d.inv? n := rfl

@[simp] theorem Inv.ent_setEnt_self (i : Inv) (k : Nat) (x : EntState) : (i.setEnt k x).ent k = x := Tbl.rd_wr_self _ _ _ _

theorem Inv.ent_setEnt_ne (i : Inv) {k q : Nat} (x : EntState) (h : q ≠ k) : (i.setEnt k x).ent q = i.ent q := Tbl.rd_wr_ne _ _ _ h

/-- Cores depend on the block of programs and cores alone. -/
theorem Dev.core_of_sep {x y : Dev} (h : x.sep = y.sep) (k : Nat) : x.core k = y.core k := by rw [Dev.core, Dev.core, h]

theorem Dev.inv?_of_sep {x y : Dev} (h : x.sep = y.sep) (k : Nat) : x.inv? k = y.inv? k := by rw [Dev.inv?, Dev.inv?, h]

@[simp] theorem Dev.tidy_core (k : Nat) : d.tidy.core k = d.core k := Dev.core_of_sep d.tidy_sep k

@[simp] theorem Dev.tidy_inv? (k : Nat) : d.tidy.inv? k = d.inv? k := Dev.inv?_of_sep d.tidy_sep k

@[simp] theorem Dev.tidy_load (a n : Nat) : d.tidy.load a n = d.load a n := Dev.load_congr d.tidy_byte a n

/-! ## Frames of changes in one block -/

theorem Dev.setSep_keeps (p : Sep) : d.keeps { d with sep := p } [.sep] := by
  intro b hb; cases b <;> first | rfl | (intro a; rfl) | simp at hb

theorem Dev.setFab_keeps (p : Fab) : d.keeps { d with fab := p } [.fab] := by
  intro b hb; cases b <;> first | rfl | (intro a; rfl) | simp at hb

theorem Dev.setCore_keeps (k : Nat) (c : Core) : d.keeps (d.setCore k c) [.sep] := d.setSep_keeps _

theorem Dev.putInv_keeps (k : Nat) (i : Inv) : d.keeps (d.putInv k i) [.sep] := d.setSep_keeps _

theorem Dev.poisonLines_keeps (a : Nat) (l : List Nat) : d.keeps (d.poisonLines a l) [.poison] := by
  induction l generalizing d with
  | nil => exact Dev.keeps_refl d _
  | cons x t ih => exact Dev.keeps_trans (d.setPoison_keeps _ _ _) (ih _)

/-! ## Stores with poison -/

/-- The bytes stored load back, whatever poison they carry. -/
theorem Dev.load_storeP_self (a : Nat) (l : Bytes) (p : Bool) : (d.storeP a l p).load a l.length = l :=
  Dev.load_eq_of_bytes _ _ _ (d.byte_storeP_in a l p)

theorem Dev.byte_storeP_out {a x : Nat} (l : Bytes) (p : Bool) (h : x < a ∨ a + l.length ≤ x) : (d.storeP a l p).byte x = d.byte x := by
  rw [Dev.keeps_mem (d.store_keeps_storeP a l p) rfl, d.byte_store_out l a x h]

theorem Dev.load_length (a n : Nat) : (d.load a n).length = n := by
  induction n generalizing a with
  | zero => rfl
  | succ n ih => rw [Dev.load, List.length_cons, ih]

/-- Only the unified range has tiers; HBM has none. -/
theorem Dev.touchKey_of_hbm {k : Nat} (n : Nat) (w : Bool) (h : k / 2 ^ 64 = 1) : d.touchKey k n w = d := by
  rw [Dev.touchKey, h, if_neg (by decide)]

end

theorem bit_bitSet (x i : Nat) : bit (bitSet x i) i = true := by
  rw [bitSet]
  split
  · assumption
  · rename_i h
    simp only [bit, Nat.add_div_right _ (Nat.two_pow_pos i), beq_iff_eq] at h ⊢
    omega

/-- A command completes with what it is shown to answer. -/
theorem State.does_of_next {s : State} {c : Instr} {P : Dev → Prop} (e : Dev) (run : exec c s = .next { s with dev := e.tidy })
    (h : P e.tidy) : s.does c P := ⟨_, run, rfl, h⟩

/-- A command that acts on a part in service, by what it makes of the part. -/
theorem State.onDev_eq {s : State} {f : Dev → Dev} {e : Dev} (alive : s.dev.alive = true) (h : f s.dev = e) :
    s.onDev f = .next { s with dev := e.tidy } := by rw [s.onDev_alive f alive, h]

/-- A command without effect keeps every piece of the part. -/
theorem State.does_nothing {s : State} {c : Instr} (run : exec c s = .next { s with dev := s.dev.tidy }) :
    s.does c fun d => s.dev.keeps d [] := State.does_of_next _ run s.dev.tidy_keeps

/-! ## Errors counted on a device that is no spare (R442, R459) -/

section
variable (d : Dev)

theorem Dev.drainEvents_hltSpare (l : List Cpl) : (d.drainEvents l).hlt.spare = d.hlt.spare := by
  induction l generalizing d with
  | nil => rfl
  | cons e t ih =>
    rw [Dev.drainEvents]
    dsimp only
    split
    · rw [ih, Dev.landCpl_hlt]
    · rfl

/-- A fault event leaves the state of a spare. -/
theorem Dev.raise_hltSpare (e : Evt) (k i x : Nat) (j : Option Nat) : (d.raise e k i x j).hlt.spare = d.hlt.spare := by
  unfold Dev.raise Dev.event
  extract_lets +onlyGivenNames marked traced
  have mark : marked.hlt = d.hlt := by
    unfold marked
    split
    · rfl
    · exact Dev.setFld_hlt _ _ _
  clear_value marked
  have trace : traced.hlt = marked.hlt := by
    unfold traced
    split
    · rw [Dev.setFld_hlt, Dev.setFld_hlt, Dev.setFld_hlt]
    · rfl
  have kept : traced.hlt.spare = d.hlt.spare := by rw [trace, mark]
  clear_value traced
  dsimp only
  split
  · exact (congrArg HltMon.spare (Dev.setFld_hlt _ _ _)).trans kept
  · exact (Dev.drainEvents_hltSpare _ _).trans kept

theorem Dev.raiseIf_hltSpare (c : Bool) (e : Evt) (k i : Nat) : (if c then d.raise e k i else d).hlt.spare = d.hlt.spare := by
  cases c
  · rfl
  · exact d.raise_hltSpare e k i 0 none

theorem Dev.askPin_hltSpare (c : Bool) :
    (if c then ({ d with hlt.askReplace := true }).put (.pin .askReplace true) else d).hlt.spare = d.hlt.spare := by
  cases c
  · rfl
  · rw [if_pos rfl, Dev.put_hlt]

/-- So do the crossings of a part's score. -/
theorem Dev.crossings_hltSpare (k i : Nat) : (d.crossings k i).hlt.spare = d.hlt.spare :=
  (Dev.askPin_hltSpare _ _).trans ((Dev.raiseIf_hltSpare _ _ _ _ _).trans (Dev.raiseIf_hltSpare _ _ _ _ _))

theorem Dev.foldl_crossings_spare (l : List (Nat × Nat)) :
    (l.foldl (fun (d : Dev) k => d.crossings k.1 k.2) d).hlt.spare = d.hlt.spare ∧
      (l.foldl (fun (d : Dev) k => d.crossings k.1 k.2) d).comp = d.comp := by
  induction l generalizing d with
  | nil => exact ⟨rfl, rfl⟩
  | cons a t ih =>
    obtain ⟨spare, comp⟩ := ih (d.crossings a.1 a.2)
    exact ⟨spare.trans (d.crossings_hltSpare _ _), comp.trans (d.crossings_comp _ _)⟩

theorem Dev.spareCheck_of_none (h : d.hlt.spare = .none) : d.spareCheck = d := by
  unfold Dev.spareCheck; rw [h]

/-- An error counted on a device that is no spare leaves it none, and the composition as it was. -/
theorem Dev.charge_of_noSpare (c : HltClass) (k i : Nat) (h : d.hlt.spare = .none) :
    (d.charge c k i).hlt.spare = .none ∧ (d.charge c k i).comp = d.comp := by
  unfold Dev.charge
  dsimp only
  generalize hx : ({ d.setPart k i _ with hlt.errs := _ } : Dev) = x
  obtain ⟨spare, comp⟩ := x.foldl_crossings_spare (containers k i)
  have unspared : x.hlt.spare = .none := by rw [← hx]; exact h
  rw [Dev.spareCheck_of_none _ (spare.trans unspared), comp, ← hx]
  exact ⟨by rw [hx]; exact spare.trans unspared, rfl⟩

theorem Dev.charge_keeps_of_noSpare (c : HltClass) (k i : Nat) (h : d.hlt.spare = .none) :
    d.keeps (d.charge c k i) [.regs, .out, .hif, .hlt] := by
  intro b hb
  by_cases hc : b = .comp
  · rw [hc]; exact (d.charge_of_noSpare c k i h).2.symm
  · exact d.charge_keeps c k i b (by simp_all)

end

/-! ## Saves (R148 to R150) -/

section
variable (d : Dev)

/-- The save a core begins at cheap point k of work that does not yield: into the slot that is not current. -/
def Dev.saveOf (core k : Nat) (ctx img : Bytes) (j : Job) : Save :=
  { slot := match (d.core core).current with | some w => 1 - w.slot % 2 | none => 0
    yields := false, job := j, cheap := k, body := d.saveBytes core img ctx k, bad := d.saveBad core img k
    ords := (d.core core).ords, dig := d.digOf core j }

/-- A core of work that never yields may begin a save at cheap point k: it runs job j, saves nothing, and has nothing of its own
outstanding (R148, R150). -/
structure Dev.SavesAt (core pc k : Nat) (j : Job) (i : Inv) (img : Bytes) : Prop where
  job : (d.core core).job = some j
  idle : (d.core core).saving = none
  held : d.inv? j.inv = some i
  goes : i.stopping = false
  kept : i.setAside = false
  never : neverYields i.level = true
  image : d.invImg i = some img
  cheap : cheapAt img pc = some k
  copies : (d.sep.copies.any fun r => r.inv == j.inv && r.cores == [core]) = false
  ops : d.fab.ops = []

/-- A save written at its place, with the poison its lines carry. -/
def Dev.putSave (a : Nat) (v : Save) : Dev := (d.storeP a v.body false).poisonLines a v.bad

theorem Dev.putSave_keeps (a : Nat) (v : Save) : d.keeps (d.putSave a v) [.mem, .poison] :=
  Dev.keeps_then (d.storeP_keeps a v.body false) (Dev.poisonLines_keeps _ a v.bad) (by simp) (by simp)

theorem Dev.putSave_byte (a : Nat) (v : Save) (m : Nat) : (d.putSave a v).byte m = (d.storeP a v.body false).byte m :=
  Dev.keeps_mem (Dev.poisonLines_keeps _ a v.bad) rfl m

/-- The core's part of a complete save. -/
def Core.saved (c : Core) (v : Save) : Core :=
  { c with saving := none, current := some v, issued := [], replay := [], ordsCheap := v.ords }

end

section
variable {s : State} {core : Nat} (alive : s.dev.alive = true)
include alive

theorem exec_cheapPoint_saves {pc k : Nat} {j : Job} {i : Inv} {img : Bytes} (ctx : Bytes) (h : s.dev.SavesAt core pc k j i img) :
    exec (.cheapPoint core pc ctx) s = .next { s with dev :=
      (s.dev.setCore core { s.dev.core core with saving := some (s.dev.saveOf core k ctx img j) }).tidy } := by
  obtain ⟨job, idle, held, goes, kept, never, image, cheap, copies, ops⟩ := h
  change execCheapPoint core pc ctx s = _
  refine State.onDev_eq alive ?_
  simp only [job, held, goes, image, cheap, copies, ops, idle, kept, never, List.any_nil, Bool.or_false, Bool.not_true, Bool.false_and,
    Bool.false_eq_true, Option.isSome_none, if_false]
  rfl

theorem exec_saveComplete_current {a : Nat} {v : Save} {i : Inv} (saving : (s.dev.core core).saving = some v) (stays : v.yields = false)
    (held : s.dev.inv? v.job.inv = some i) (never : neverYields i.level = true) (place : s.dev.saveKey core v.slot = some a) :
    exec (.saveComplete core) s = .next { s with dev := ((s.dev.putSave a v).setCore core ((s.dev.core core).saved v)).tidy } := by
  change execSaveComplete core s = _
  refine State.onDev_eq alive ?_
  have held' : ((s.dev.storeP a v.body false).poisonLines a v.bad).inv? v.job.inv = some i :=
    (Dev.inv?_of_sep (Dev.keeps_sep (s.dev.putSave_keeps a v) rfl) _).trans held
  simp only [saving, place, held', stays, never, Bool.not_true, Bool.false_and, Bool.false_or]
  split <;> rfl

/-- At a cheap point of work that never yields, a core with nothing of its own outstanding begins its save. -/
theorem does_cheapPoint_saves {pc k : Nat} {j : Job} {i : Inv} {img : Bytes} (ctx : Bytes) (h : s.dev.SavesAt core pc k j i img) :
    s.does (.cheapPoint core pc ctx) fun d =>
      (∃ v, (d.core core).saving = some v ∧ v.yields = false ∧ v.job = j ∧ v.cheap = k ∧ v.body = s.dev.saveBytes core img ctx k ∧
        v.slot = (match (s.dev.core core).current with | some w => 1 - w.slot % 2 | none => 0)) ∧
      (d.core core).job = some j ∧ (∀ c, c ≠ core → d.core c = s.dev.core c) ∧ s.dev.keeps d [.sep] := by
  refine State.does_of_next _ (exec_cheapPoint_saves alive ctx h) ?_
  simp only [Dev.tidy_core, Dev.keeps_tidy_iff, Dev.core_setCore_self]
  exact ⟨⟨_, rfl, rfl, rfl, rfl, rfl, rfl⟩, h.job, fun c hc => s.dev.core_setCore_ne _ hc, s.dev.setCore_keeps _ _⟩

/-- A save of work that never yields lies at its place and is current once its last byte is written. -/
theorem does_saveComplete_current {a : Nat} {v : Save} {i : Inv} (saving : (s.dev.core core).saving = some v) (stays : v.yields = false)
    (held : s.dev.inv? v.job.inv = some i) (never : neverYields i.level = true) (place : s.dev.saveKey core v.slot = some a) :
    s.does (.saveComplete core) fun d =>
      (d.core core).saving = none ∧ (d.core core).current = some v ∧ (d.core core).job = (s.dev.core core).job ∧
      d.load a v.body.length = v.body ∧ (∀ b, b < a ∨ a + v.body.length ≤ b → d.byte b = s.dev.byte b) ∧
      (∀ c, c ≠ core → d.core c = s.dev.core c) ∧ s.dev.keeps d [.mem, .poison, .sep] := by
  refine State.does_of_next _ (exec_saveComplete_current alive saving stays held never place) ?_
  have puts := s.dev.putSave_keeps a v
  have sets := (s.dev.putSave a v).setCore_keeps core ((s.dev.core core).saved v)
  have bytes (m : Nat) : _ = (s.dev.storeP a v.body false).byte m := (Dev.keeps_mem sets rfl m).trans (s.dev.putSave_byte a v m)
  simp only [Dev.tidy_core, Dev.tidy_load, Dev.tidy_byte, Dev.keeps_tidy_iff, Dev.core_setCore_self]
  refine ⟨rfl, rfl, rfl, ?_, fun b hb => ?_, fun c hc => ?_, Dev.keeps_then puts sets (by simp) (by simp)⟩
  · rw [Dev.load_congr bytes, Dev.load_storeP_self]
  · rw [bytes, s.dev.byte_storeP_out _ _ hb]
  · rw [Dev.core_setCore_ne _ _ hc, Dev.core_of_sep (Dev.keeps_sep puts rfl)]

end

/-! ## Faults of cores (R105, R106) -/

section
variable (d : Dev) (core : Nat)

/-- A core taken out of work, its failure counted. -/
def Dev.fenceOff : Dev :=
  ((d.setCore core { d.core core with state := .failed, job := none, saving := none }).charge .ue 2 core).charge .fail 2 core

/-- A spare as it loads in the place of a core, with the work it takes over. -/
def Core.takingOver (sp c : Core) (home : Nat) : Core :=
  { sp with state := .loading, subst := some home, job := c.job, current := c.current, ctrs := c.ctrs, ctrInv := c.ctrInv
            replay := c.issued, yield := none, ords := c.ordsCheap, ordsCheap := c.ordsCheap }

theorem Dev.fenceOff_core_self :
    (d.fenceOff core).core core = { d.core core with state := .failed, job := none, saving := none } := by
  rw [Dev.fenceOff, Dev.core_of_sep ((Dev.charge_sep _ _ _ _).trans (Dev.charge_sep _ _ _ _)), Dev.core_setCore_self]

theorem Dev.fenceOff_core_ne {k : Nat} (h : k ≠ core) : (d.fenceOff core).core k = d.core k := by
  rw [Dev.fenceOff, Dev.core_of_sep ((Dev.charge_sep _ _ _ _).trans (Dev.charge_sep _ _ _ _)), d.core_setCore_ne _ h]

theorem Dev.fenceOff_keeps (h : d.hlt.spare = .none) : d.keeps (d.fenceOff core) [.regs, .out, .hif, .hlt, .sep] := by
  have set := d.setCore_keeps core { d.core core with state := .failed, job := none, saving := none }
  have one := Dev.charge_keeps_of_noSpare _ .ue 2 core ((congrArg HltMon.spare (Dev.keeps_hlt set rfl)).trans h)
  have unspared := (Dev.charge_of_noSpare _ .ue 2 core ((congrArg HltMon.spare (Dev.keeps_hlt set rfl)).trans h)).1
  have two := Dev.charge_keeps_of_noSpare _ .fail 2 core unspared
  exact Dev.keeps_then set (Dev.keeps_trans one two) (by simp) (by simp)

/-- Which clusters lie in a paddock is a matter of the composition and of the device's slot. -/
theorem Dev.fenceOff_inAnyPaddock (h : d.hlt.spare = .none) (mask : Nat) :
    (d.fenceOff core).inAnyPaddock mask = d.inAnyPaddock mask := by
  have kept := d.fenceOff_keeps core h
  rw [Dev.inAnyPaddock, Dev.inAnyPaddock, Dev.me, Dev.me, Dev.keeps_comp kept rfl, Dev.keeps_pwr kept rfl]

/-- A core that was active is no spare, and is none once it has failed. -/
theorem Dev.fenceOff_pairSpare (active : (d.core core).state = .active) (pair : Nat) :
    (d.fenceOff core).pairSpare pair = d.pairSpare pair := by
  unfold Dev.pairSpare
  congr 1
  funext k
  by_cases h : k = core
  · rw [h, d.fenceOff_core_self, active]; rfl
  · rw [d.fenceOff_core_ne core h]

/-- A fault of a core that lies in no paddock. -/
theorem Dev.faultCore_unplaced (active : (d.core core).state = .active) (noSpare : d.hlt.spare = .none)
    (out : d.inAnyPaddock (clusterBit ((d.core core).subst.getD core)) = false) :
    d.faultCore core = (d.fenceOff core).raise E.ENG_CORE_FAULT 2 core := by
  have out' := (d.fenceOff_inAnyPaddock core noSpare _).trans out
  unfold Dev.faultCore
  dsimp only
  rw [active]
  exact if_pos (by rw [← Dev.fenceOff, out']; rfl)

/-- A fault of a core with a spare in its pair: what is on the fabric for it is the spare's from now on. -/
theorem Dev.faultCore_replaced {sp : Nat} (active : (d.core core).state = .active) (noSpare : d.hlt.spare = .none)
    (placed : d.inAnyPaddock (clusterBit ((d.core core).subst.getD core)) = true) (spare : d.pairSpare (pairOf core) = some sp)
    (other : sp ≠ core) : ∃ f : Fab, d.faultCore core =
      ({ (d.fenceOff core).raise E.ENG_CORE_FAULT 2 core with fab := f } : Dev).setCore sp
        ((d.core sp).takingOver (d.core core) ((d.core core).subst.getD core)) := by
  unfold Dev.faultCore
  extract_lets +onlyGivenNames c home place fence
  have state : c.state = .active := active
  have fenced : fence d = d.fenceOff core := rfl
  have placed' : (d.fenceOff core).inAnyPaddock (clusterBit home) = true := (d.fenceOff_inAnyPaddock core noSpare _).trans placed
  have spare' : (d.fenceOff core).pairSpare (pairOf core) = some sp := (d.fenceOff_pairSpare core active _).trans spare
  simp only [state, fenced, placed', spare', d.fenceOff_core_ne core other, Bool.not_true, Bool.false_eq_true, if_false]
  exact ⟨_, rfl⟩

/-- A core already failed, and a spare that stands by, are not failed by a fault. -/
theorem Dev.faultCore_of_idle (h : (d.core core).state = .failed ∨ (d.core core).state = .spare) : d.faultCore core = d := by
  unfold Dev.faultCore
  dsimp only
  rcases h with h | h <;> rw [h]

end

section
variable {s : State} {core : Nat} {c : Instr} (alive : s.dev.alive = true) (range : core < 544)
  (command : c = .coreFault core ∨ c = .coreWatchdog core ∧ (s.dev.core core).job.isSome = true)
include alive range command

/-- A fault command, of the core itself or of the watchdog of one that has work. -/
theorem exec_fault : exec c s = .next { s with dev := (s.dev.faultCore core).tidy } := by
  rcases command with rfl | ⟨rfl, job⟩
  · change execCoreFault core s = _
    exact State.onDev_eq alive (if_pos range)
  · change execCoreWatchdog core s = _
    exact State.onDev_eq alive (if_pos (by simp [range, job]))

variable (active : (s.dev.core core).state = .active) (noSpare : s.dev.hlt.spare = .none)
include active noSpare

/-- A core in no paddock fails; nothing is brought in for it. -/
theorem does_fault_unplaced
    (out : s.dev.inAnyPaddock (clusterBit ((s.dev.core core).subst.getD core)) = false) : s.does c fun d =>
      (d.core core).state = .failed ∧ (d.core core).job = none ∧ d.fld E.ENG_CORE_FAULT.bit = 1 ∧
      (∀ k, k ≠ core → d.core k = s.dev.core k) ∧ s.dev.keeps d [.regs, .out, .hif, .hlt, .sep] := by
  refine State.does_of_next _ (exec_fault alive range command) ?_
  have raised (k : Nat) := Dev.core_of_sep ((s.dev.fenceOff core).raise_sep E.ENG_CORE_FAULT 2 core 0 none) k
  simp only [s.dev.faultCore_unplaced core active noSpare out, Dev.tidy_core, Dev.tidy_fld, Dev.keeps_tidy_iff, raised,
    Dev.fenceOff_core_self, true_and]
  exact ⟨Dev.raise_bit _ _ _ _ _ _ (by decide) (by decide), fun k hk => s.dev.fenceOff_core_ne core hk,
    Dev.keeps_then (s.dev.fenceOff_keeps core noSpare) (Dev.raise_keeps _ _ _ _ _ _) (by simp) (by simp)⟩

/-- A core of a paddock fails and a spare of its pair loads in its place. -/
theorem does_fault_replaced {sp : Nat}
    (placed : s.dev.inAnyPaddock (clusterBit ((s.dev.core core).subst.getD core)) = true)
    (spare : s.dev.pairSpare (pairOf core) = some sp) (other : sp ≠ core) : s.does c fun d =>
      (d.core core).state = .failed ∧ (d.core sp).state = .loading ∧ (d.core sp).subst = some ((s.dev.core core).subst.getD core) ∧
      (d.core sp).job = (s.dev.core core).job ∧ (d.core sp).current = (s.dev.core core).current ∧
      (∀ k, k ≠ core → k ≠ sp → d.core k = s.dev.core k) ∧ s.dev.keeps d [.regs, .out, .hif, .hlt, .fab, .sep] := by
  refine State.does_of_next _ (exec_fault alive range command) ?_
  obtain ⟨f, replaced⟩ := s.dev.faultCore_replaced core active noSpare placed spare other
  have raises := (s.dev.fenceOff core).raise_keeps E.ENG_CORE_FAULT 2 core 0 none
  have raised := (s.dev.fenceOff core).raise_sep E.ENG_CORE_FAULT 2 core 0 none
  rw [replaced]
  generalize (s.dev.fenceOff core).raise E.ENG_CORE_FAULT 2 core = e at raises raised ⊢
  have cores (k : Nat) : ({ e with fab := f } : Dev).core k = (s.dev.fenceOff core).core k := Dev.core_of_sep raised k
  simp only [Dev.tidy_core, Dev.keeps_tidy_iff, Dev.core_setCore_self, Dev.core_setCore_ne _ _ other.symm, cores, Dev.fenceOff_core_self]
  refine ⟨trivial, rfl, rfl, rfl, rfl, fun k hk hs => ?_, ?_⟩
  · rw [Dev.core_setCore_ne _ _ hs, cores, s.dev.fenceOff_core_ne core hk]
  · have failed := Dev.keeps_then (l := [.regs, .out, .hif, .hlt, .sep]) (s.dev.fenceOff_keeps core noSpare) raises (by simp) (by simp)
    exact Dev.keeps_then failed (Dev.keeps_then (l := [.fab, .sep]) (e.setFab_keeps f) (Dev.setCore_keeps _ sp _) (by simp) (by simp))
      (by simp) (by simp)

end

section
variable {s : State} {core : Nat} (alive : s.dev.alive = true)
include alive

theorem does_coreFault_nothing (idle : (s.dev.core core).state = .failed ∨ (s.dev.core core).state = .spare) :
    s.does (.coreFault core) fun d => s.dev.keeps d [] := by
  refine State.does_nothing ?_
  change execCoreFault core s = _
  exact State.onDev_eq alive (by rw [s.dev.faultCore_of_idle core idle, ite_self])

theorem does_coreWatchdog_nothing (idle : (s.dev.core core).job = none) : s.does (.coreWatchdog core) fun d => s.dev.keeps d [] := by
  refine State.does_nothing ?_
  change execCoreWatchdog core s = _
  exact State.onDev_eq alive (if_neg (by simp [idle]))

/-! ## Spares (R106, R107) -/

/-- A core whose restore completes, before anything of its work (R106). -/
def Dev.activated (d : Dev) (core : Nat) : Dev := d.setCore core { d.core core with state := .active }

theorem exec_spareRestoreComplete_idle (loading : (s.dev.core core).state = .loading) (idle : (s.dev.core core).job = none)
    (unasked : s.dev.sep.invs = []) :
    exec (.spareRestoreComplete core) s = .next { s with dev := (s.dev.activated core).tidy } := by
  change execSpareRestoreComplete core s = _
  refine State.onDev_eq alive ?_
  have unplaced : (s.dev.activated core).placeAll = s.dev.activated core := by
    have same : (s.dev.activated core).sep.invs = [] := unasked
    rw [Dev.placeAll, same]; rfl
  dsimp only
  rw [if_neg (by simp [loading]), ← Dev.activated, idle]
  exact unplaced

/-- A spare that holds no job is active once its restore completes. -/
theorem does_spareRestoreComplete_idle (loading : (s.dev.core core).state = .loading) (idle : (s.dev.core core).job = none)
    (unasked : s.dev.sep.invs = []) : s.does (.spareRestoreComplete core) fun d =>
      d.core core = { s.dev.core core with state := .active } ∧ (∀ k, k ≠ core → d.core k = s.dev.core k) ∧ s.dev.keeps d [.sep] := by
  refine State.does_of_next _ (exec_spareRestoreComplete_idle alive loading idle unasked) ?_
  simp only [Dev.tidy_core, Dev.keeps_tidy_iff, Dev.activated, Dev.core_setCore_self, true_and]
  exact ⟨fun k hk => s.dev.core_setCore_ne _ hk, s.dev.setCore_keeps _ _⟩

/-- A spare with a job but no current save: its entry's record carries SPARE, and the entry's digest on it starts again (R107, R469). -/
theorem exec_spareRestoreComplete_unsaved {j : Job} {i : Inv} (loading : (s.dev.core core).state = .loading)
    (job : (s.dev.core core).job = some j) (held : s.dev.inv? j.inv = some i) (unsaved : (s.dev.core core).current = none) :
    exec (.spareRestoreComplete core) s = .next { s with dev := (((s.dev.activated core).putInv j.inv
      (i.setEnt j.entry { i.ent j.entry with eflags := bitSet (i.ent j.entry).eflags 2 })).setDig core j 0).tidy } := by
  change execSpareRestoreComplete core s = _
  refine State.onDev_eq alive ?_
  have held' : (s.dev.activated core).inv? j.inv = some i := held
  dsimp only
  rw [if_neg (by simp [loading]), ← Dev.activated, job]
  simp only [held', unsaved]
  split
  · rename_i current; cases current
  · rfl

theorem does_spareRestoreComplete_unsaved {j : Job} {i : Inv} (loading : (s.dev.core core).state = .loading)
    (job : (s.dev.core core).job = some j) (held : s.dev.inv? j.inv = some i) (unsaved : (s.dev.core core).current = none) :
    s.does (.spareRestoreComplete core) fun d =>
      (d.core core).state = .active ∧ (∃ i', d.inv? j.inv = some i' ∧ bit (i'.ent j.entry).eflags 2 = true) ∧
      (∀ k, k ≠ core → d.core k = s.dev.core k) ∧ s.dev.keeps d [.sep] := by
  refine State.does_of_next _ (exec_spareRestoreComplete_unsaved alive loading job held unsaved) ?_
  simp only [Dev.setDig, Dev.inv?_putInv_self, Dev.tidy_core, Dev.tidy_inv?, Dev.keeps_tidy_iff, Dev.core_putInv, Dev.activated,
    Dev.core_setCore_self, true_and]
  refine ⟨⟨_, rfl, ?_⟩, fun k hk => s.dev.core_setCore_ne _ hk, ?_⟩
  · change bit ((i.setEnt j.entry _).ent j.entry).eflags 2 = true
    rw [Inv.ent_setEnt_self]
    exact bit_bitSet _ _
  · exact Dev.keeps_trans (s.dev.setCore_keeps _ _) (Dev.keeps_trans (Dev.putInv_keeps _ _ _) (Dev.putInv_keeps _ _ _))

theorem exec_spareSelfTest_failed (range : core < 544) (spare : (s.dev.core core).state = .spare) :
    exec (.spareSelfTest core false) s = .next { s with dev :=
      (((s.dev.setCore core { s.dev.core core with state := .failed }).charge .fail 2 core).raise E.ENG_SPARE_FAULT 2 core).tidy } := by
  change execSpareSelfTest core false s = _
  refine State.onDev_eq alive ?_
  rw [if_pos (by simp [range]), Dev.spareFailed, spare]
  rfl

/-- A spare that fails its self-test is failed, and the event is raised. -/
theorem does_spareSelfTest_failed (range : core < 544) (spare : (s.dev.core core).state = .spare) (noSpare : s.dev.hlt.spare = .none) :
    s.does (.spareSelfTest core false) fun d =>
      (d.core core).state = .failed ∧ d.fld E.ENG_SPARE_FAULT.bit = 1 ∧ (∀ k, k ≠ core → d.core k = s.dev.core k) ∧
      s.dev.keeps d [.regs, .out, .hif, .hlt, .sep] := by
  refine State.does_of_next _ (exec_spareSelfTest_failed alive range spare) ?_
  have sets := s.dev.setCore_keeps core { s.dev.core core with state := .failed }
  have cores (k : Nat) : _ = (s.dev.setCore core { s.dev.core core with state := .failed }).core k :=
    Dev.core_of_sep ((Dev.raise_sep _ E.ENG_SPARE_FAULT 2 core 0 none).trans (Dev.charge_sep _ .fail 2 core)) k
  have charges := Dev.charge_keeps_of_noSpare _ .fail 2 core ((congrArg HltMon.spare (Dev.keeps_hlt sets rfl)).trans noSpare)
  simp only [Dev.tidy_core, Dev.tidy_fld, Dev.keeps_tidy_iff, cores, Dev.core_setCore_self, true_and]
  exact ⟨Dev.raise_bit _ _ _ _ _ _ (by decide) (by decide), fun k hk => s.dev.core_setCore_ne _ hk,
    Dev.keeps_then sets (Dev.keeps_trans charges (Dev.raise_keeps _ _ _ _ _ _)) (by simp) (by simp)⟩

theorem does_spareSelfTest_passed : s.does (.spareSelfTest core true) fun d => s.dev.keeps d [] := by
  refine State.does_nothing ?_
  change execSpareSelfTest core true s = _
  exact State.onDev_eq alive (if_neg (by simp))

end

/-- Settles O22, command by command: a save begins and is complete, a fault fails a core and brings its spare in, a spare is restored and
tested. -/
theorem coresSaveFailAndAreReplaced : Obligations.CoresSaveFailAndAreReplaced := by
  refine ⟨?_, ?_, ?_, ?_, ?_, ?_⟩
  · intro s core pc k ctx j i img alive job idle held goes kept never image cheap copies ops
    exact does_cheapPoint_saves alive ctx ⟨job, idle, held, goes, kept, never, image, cheap, copies, ops⟩
  · intro s core a v i alive saving stays held never place
    exact does_saveComplete_current alive saving stays held never place
  · intro s core c alive range command active noSpare
    exact ⟨does_fault_unplaced alive range command active noSpare,
      fun sp placed spare other => does_fault_replaced alive range command active noSpare placed spare other⟩
  · exact fun s core alive => ⟨does_coreFault_nothing alive, does_coreWatchdog_nothing alive⟩
  · intro s core alive loading
    exact ⟨does_spareRestoreComplete_idle alive loading,
      fun j i job held unsaved => does_spareRestoreComplete_unsaved alive loading job held unsaved⟩
  · intro s core alive range spare noSpare
    exact ⟨does_spareSelfTest_passed alive, does_spareSelfTest_failed alive range spare noSpare⟩

end Sys2Proof.Machine
end

section
/-!
PROOFS of the statement on what cores ask of the copy engine, the top-k units and the fabric: copies (R103, R142), selections and merges
(R246 to R254), fences and awaits (R394) (O23).
-/

namespace Sys2Proof.Machine

/-! ## Copies (R103, R142) -/

section
variable (d : Dev)

/-- A contiguous copy is one piece. -/
theorem copyPieces_contiguous {c : Bytes} (idx : List Nat) (contiguous : field c 24 1 = 0) (filled : 0 < field c 16 8) :
    copyPieces c idx = [(0, 0, field c 16 8)] := by
  simp only [copyPieces, contiguous, if_neg (Nat.ne_of_gt filled)]

/-- A contiguous copy of at least one byte, neither coded nor on a wire, between addresses in HBM. -/
structure Dev.HbmCopy (i : Inv) (c : Bytes) (a b : Nat) : Prop where
  contiguous : field c 24 1 = 0
  plain : field c 25 1 = 0
  filled : 0 < field c 16 8
  src : d.localKey i (field c 0 8) = some a
  dst : d.localKey i (field c 8 8) = some b
  srcHbm : a / 2 ^ 64 = 1
  dstHbm : b / 2 ^ 64 = 1

/-- It moves its bytes, and their poison, as one piece. -/
theorem Dev.HbmCopy.copyMove {d : Dev} {i : Inv} {c : Bytes} {a b : Nat} (h : d.HbmCopy i c a b) (rem : Tbl Bytes) :
    d.copyMove i c rem = d.storeP b (d.load a (field c 16 8)) (d.poisoned a (field c 16 8)) := by
  obtain ⟨contiguous, plain, filled, src, dst, srcHbm, dstHbm⟩ := h
  have uncoded : bit 0 0 = false := by decide
  simp only [Dev.copyMove, copyPieces_contiguous _ contiguous filled, plain, uncoded, src, dst, Dev.copyRead, Dev.copyWrite,
    List.foldl_cons, List.foldl_nil, Nat.add_zero, Dev.touchKey_of_hbm _ _ _ srcHbm, Dev.touchKey_of_hbm _ _ _ dstHbm,
    Bool.false_eq_true, if_false]

/-- Raising a counter of a core (R103). -/
theorem Dev.bumpCtr_ctrs (core q : Nat) : Tbl.rd (fun _ => 0) ((d.bumpCtr core q).core core).ctrs q =
    (Tbl.rd (fun _ => 0) (d.core core).ctrs q + 1) % 2 ^ 32 := by
  rw [Dev.bumpCtr, Dev.core_setCore_self, Tbl.rd_wr_self]

/-- The part without a copy that has completed. -/
def Dev.dropCopy (r : CopyRun) : Dev := { d with sep.copies := d.sep.copies.erase r }

theorem Dev.dropCopy_pageWalk (r : CopyRun) (pad : Nat) (l : List Region) (o : Nat) :
    (d.dropCopy r).pageWalk pad l o = d.pageWalk pad l o := by
  induction l generalizing o with
  | nil => rfl
  | cons x t ih => rw [Dev.pageWalk, Dev.pageWalk, ih]; rfl

/-- Addresses do not depend on the copies under way. -/
theorem Dev.dropCopy_localKey (r : CopyRun) (i : Inv) (a : Nat) : (d.dropCopy r).localKey i a = d.localKey i a := by
  simp only [Dev.localKey, Dev.pageKey, Dev.dropCopy_pageWalk]
  rfl

theorem Dev.HbmCopy.dropCopy {d : Dev} {i : Inv} {c : Bytes} {a b : Nat} (h : d.HbmCopy i c a b) (r : CopyRun) :
    (d.dropCopy r).HbmCopy i c a b :=
  { h with src := (d.dropCopy_localKey r i _).trans h.src, dst := (d.dropCopy_localKey r i _).trans h.dst }

/-- The part once a contiguous copy of n bytes from a to b, issued for one core, has completed. -/
def Dev.copied (r : CopyRun) (a b n core q : Nat) : Dev :=
  ((d.dropCopy r).storeP b ((d.dropCopy r).load a n) ((d.dropCopy r).poisoned a n)).bumpCtr core q

end

section
variable {s : State} {inv desc core a b : Nat} {i : Inv} {img : Bytes} {r : CopyRun} (rem : Tbl Bytes) (alive : s.dev.alive = true)
  (run : (s.dev.sep.copies.find? fun x => x.inv == inv && x.desc == desc) = some r) (held : s.dev.inv? inv = some i)
  (image : s.dev.invImg i = some img) (cores : r.cores = [core]) (prime : r.prime = false)
  (copy : s.dev.HbmCopy i (imgCopy img desc) a b)
include alive run held image cores prime copy

theorem exec_copyComplete_contiguous : exec (.copyComplete inv desc rem) s = .next { s with dev :=
    (s.dev.copied r a b (field (imgCopy img desc) 16 8) core (field (imgCopy img desc) 28 1 % 16)).tidy } := by
  change execCopyComplete inv desc rem s = _
  refine State.onDev_eq alive ?_
  have moved := (copy.dropCopy r).copyMove rem
  rw [Dev.dropCopy] at moved
  simp only [run, held, image, cores, prime, moved, List.foldl_cons, List.foldl_nil, Bool.false_eq_true, if_false]
  rfl

/-- A contiguous copy's bytes land, the counter of the core it was issued for rises by one, and it is no longer outstanding. -/
theorem does_copyComplete_contiguous : s.does (.copyComplete inv desc rem) fun d =>
    d.load b (field (imgCopy img desc) 16 8) = s.dev.load a (field (imgCopy img desc) 16 8) ∧
    (∀ m, m < b ∨ b + field (imgCopy img desc) 16 8 ≤ m → d.byte m = s.dev.byte m) ∧
    Tbl.rd (fun _ => 0) (d.core core).ctrs (field (imgCopy img desc) 28 1 % 16) =
      (Tbl.rd (fun _ => 0) (s.dev.core core).ctrs (field (imgCopy img desc) 28 1 % 16) + 1) % 2 ^ 32 ∧
    (∀ k, k ≠ core → d.core k = s.dev.core k) ∧ d.sep.copies = s.dev.sep.copies.erase r ∧ s.dev.keeps d [.mem, .poison, .sep] := by
  refine State.does_of_next _ (exec_copyComplete_contiguous rem alive run held image cores prime copy) ?_
  generalize field (imgCopy img desc) 16 8 = n
  generalize field (imgCopy img desc) 28 1 % 16 = q
  have drops : s.dev.keeps (s.dev.dropCopy r) [.sep] := s.dev.setSep_keeps _
  have source : (s.dev.dropCopy r).load a n = s.dev.load a n := Dev.load_congr (Dev.keeps_mem drops rfl) a n
  simp only [Dev.tidy_load, Dev.tidy_byte, Dev.tidy_core, Dev.tidy_sep, Dev.keeps_tidy_iff, Dev.copied, source]
  generalize (s.dev.dropCopy r).poisoned a n = p
  have stores := (s.dev.dropCopy r).storeP_keeps b (s.dev.load a n) p
  have loads := (s.dev.dropCopy r).load_storeP_self b (s.dev.load a n) p
  have others (m : Nat) := (s.dev.dropCopy r).byte_storeP_out (a := b) (x := m) (s.dev.load a n) p
  rw [s.dev.load_length a n] at loads others
  generalize (s.dev.dropCopy r).storeP b (s.dev.load a n) p = e at stores loads others ⊢
  have bumps : e.keeps (e.bumpCtr core q) [.sep] := e.setCore_keeps _ _
  have same (k : Nat) : e.core k = s.dev.core k := Dev.core_of_sep (x := e) (y := s.dev.dropCopy r) (Dev.keeps_sep stores rfl) k
  refine ⟨?_, fun m hm => ?_, ?_, fun k hk => ?_, ?_, ?_⟩
  · exact (Dev.load_congr (Dev.keeps_mem bumps rfl) b n).trans loads
  · exact (Dev.keeps_mem bumps rfl m).trans ((others m hm).trans (Dev.keeps_mem drops rfl m))
  · rw [Dev.bumpCtr_ctrs, same]
  · exact (e.core_setCore_ne _ hk).trans (same k)
  · exact congrArg Sep.copies (Dev.keeps_sep stores rfl)
  · exact Dev.keeps_then drops (Dev.keeps_then (l := [.mem, .poison, .sep]) stores bumps (by simp) (by simp)) (by simp) (by simp)

end

/-! ## Selections and merges (R246 to R254) -/

section
variable {d : Dev} {inv : Nat} {i : Inv} (held : d.inv? inv = some i)
include held

/-- A refused descriptor writes nothing; the entry takes the code (R250). -/
theorem Dev.endSelect_refused {k code : Nat} (desc : Bytes) (fresh : (i.ent k).status = 0) :
    d.endSelect inv k desc code none = d.putInv inv (i.setEnt k { i.ent k with status := code }) := by
  simp [Dev.endSelect, held, fresh]

/-- A result for an address in HBM is stored there, and the entry takes its status. -/
theorem Dev.endSelect_written {a : Nat} {desc : Bytes} (k st : Nat) (b : Bytes) (p : Bool)
    (dst : d.localKey i (field desc 16 8) = some a) (hbm : a / 2 ^ 64 = 1) :
    ∃ x, d.endSelect inv k desc st (some (b, p)) = (d.storeP a b p).putInv inv x := by
  simp only [Dev.endSelect, held, dst, Dev.touchKey_of_hbm _ _ _ hbm]
  exact ⟨_, rfl⟩

end

/-- Bytes stored beside a change of an invocation lie at their address, and every other byte stands. -/
theorem Dev.storeP_putInv_lands (d : Dev) (a : Nat) (b : Bytes) (p : Bool) (inv : Nat) (x : Inv) :
    ((d.storeP a b p).putInv inv x).load a b.length = b ∧
      (∀ m, m < a ∨ a + b.length ≤ m → ((d.storeP a b p).putInv inv x).byte m = d.byte m) ∧
      d.keeps ((d.storeP a b p).putInv inv x) [.mem, .poison, .sep] :=
  have puts := (d.storeP a b p).putInv_keeps inv x
  ⟨(Dev.load_congr (Dev.keeps_mem puts rfl) a b.length).trans (d.load_storeP_self a b p),
    fun m hm => (Dev.keeps_mem puts rfl m).trans (d.byte_storeP_out b p hm),
    Dev.keeps_then (d.storeP_keeps a b p) puts (by simp) (by simp)⟩

section
variable {s : State} {inv k desc : Nat} {i : Inv} {r : Bytes} {p0 : Bool} {rem : Tbl Bytes} (alive : s.dev.alive = true)
  (held : s.dev.inv? inv = some i) (read : s.dev.readAddr i desc 64 rem = (r, p0))
include held

/-- A command that ends its selection with a refusal records the code as the entry's status and changes nothing else. -/
theorem does_endSelect_refused {c : Instr} {code : Nat} (fresh : (i.ent k).status = 0)
    (run : exec c s = .next { s with dev := (s.dev.endSelect inv k r code none).tidy }) : s.does c fun d =>
      (∃ j, d.inv? inv = some j ∧ (j.ent k).status = code ∧ ∀ q, q ≠ k → j.ent q = i.ent q) ∧ s.dev.keeps d [.sep] := by
  refine State.does_of_next _ run ?_
  simp only [Dev.endSelect_refused held r fresh, Dev.tidy_inv?, Dev.keeps_tidy_iff, Dev.inv?_putInv_self]
  exact ⟨⟨_, rfl, by rw [Inv.ent_setEnt_self], fun q hq => i.ent_setEnt_ne _ hq⟩, s.dev.putInv_keeps _ _⟩

/-- A command that ends its selection with a result for an address in HBM writes it there and no other byte. -/
theorem does_endSelect_written {c : Instr} {a : Nat} {b : Bytes} (dst : s.dev.localKey i (field r 16 8) = some a) (hbm : a / 2 ^ 64 = 1)
    (run : ∃ st p, exec c s = .next { s with dev := (s.dev.endSelect inv k r st (some (b, p))).tidy }) : s.does c fun d =>
      d.load a b.length = b ∧ (∀ m, m < a ∨ a + b.length ≤ m → d.byte m = s.dev.byte m) ∧ s.dev.keeps d [.mem, .poison, .sep] := by
  obtain ⟨st, p, run⟩ := run
  obtain ⟨x, written⟩ := Dev.endSelect_written held k st b p dst hbm
  refine State.does_of_next _ run ?_
  simp only [written, Dev.tidy_load, Dev.tidy_byte, Dev.keeps_tidy_iff]
  exact s.dev.storeP_putInv_lands a b p inv x

include alive read

theorem exec_select_refused {code : Nat} (refused : selDescCheck false r = some code) :
    exec (.select inv k desc rem) s = .next { s with dev := (s.dev.endSelect inv k r code none).tidy } := by
  change execSelect inv k desc rem s = _
  exact State.onDev_eq alive (by simp only [held, read, refused])

theorem exec_merge_refused {code : Nat} (refused : selDescCheck true r = some code) :
    exec (.merge inv k desc rem) s = .next { s with dev := (s.dev.endSelect inv k r code none).tidy } := by
  change execMerge inv k desc rem s = _
  exact State.onDev_eq alive (by simp only [held, read, refused])

/-- A descriptor without a filter that passes its checks: one pass over the row it names (R246). -/
theorem exec_select_passed {row : Bytes} {p1 : Bool} (passed : selDescCheck false r = none) (unfiltered : field r 8 8 = 0)
    (scores : s.dev.readAddr i (field r 0 8) ((if field r 37 1 = 2 then 2 else 4) * field r 32 4) rem = (row, p1)) :
    ∃ st p, exec (.select inv k desc rem) s = .next { s with dev := (s.dev.endSelect inv k r st
      (some ((selectPass (selModeOf r) (bits (field r 38 1) 2 1) (field r 40 4) (field r 24 6) (field r 36 1)
        (rowScores (field r 37 1) (field r 32 4) row none)).bytes (selModeOf r) (field r 36 1), p))).tidy } := by
  change ∃ st p, execSelect inv k desc rem s = _
  rw [execSelect, State.onDev_alive _ _ alive]
  simp only [held, read, passed, unfiltered, scores, if_true]
  exact ⟨_, _, rfl⟩

/-- A merge descriptor that passes its checks and whose inputs agree with it: the merge of the partial results (R254). -/
theorem exec_merge_passed {addrs : Bytes} {p1 : Bool} {ins : List (Bytes × Bool)} (passed : selDescCheck true r = none)
    (list : s.dev.readAddr i (field r 0 8) (8 * field r 32 4) rem = (addrs, p1))
    (inputs : (List.range (field r 32 4)).map (fun j => s.dev.readAddr i (field addrs (8 * j) 8) (32 + 16 * field r 36 1) rem) = ins)
    (agree : ins.all (fun x => selInputOk r x.1) = true) :
    ∃ st p, exec (.merge inv k desc rem) s = .next { s with dev := (s.dev.endSelect inv k r st
      (some ((selMerge (selModeOf r) (bits (field r 38 1) 2 1) (field r 36 1) (ins.map fun x => SelRes.read x.1)).bytes
        (selModeOf r) (field r 36 1), p))).tidy } := by
  change ∃ st p, execMerge inv k desc rem s = _
  rw [execMerge, State.onDev_alive _ _ alive]
  simp only [held, read, passed, list, inputs, agree, Bool.not_true, Bool.false_eq_true, if_false]
  exact ⟨_, _, rfl⟩

end

/-! ## Fences and awaits (R394) -/

section
variable {s : State} {core : Nat} (alive : s.dev.alive = true)
include alive

/-- A fence of a core that has work joins the fences that wait, and those with nothing left to wait for are met. -/
theorem exec_fence (dst : Option Nat) (range : core < 544) (job : (s.dev.core core).job.isSome = true) {ops : List Nat}
    (waits : (s.dev.fab.ops.filter fun (x : OutOp) => x.ref.core == core && !x.acked &&
      (match dst with | some t => x.p.dst == s.dev.resolve t | none => true)).map (fun (x : OutOp) => x.ref.id) = ops) :
    exec (.fence core dst) s = .next { s with dev :=
      ({ s.dev with fab.fences := s.dev.fab.fences ++ [{ core := core, ops := ops, code := 0 }] } : Dev).pumpFences.tidy } := by
  change execFence core dst s = _
  refine State.onDev_eq alive ?_
  rw [if_pos (by simp [range, job])]
  subst waits
  rfl

theorem does_fence_met (range : core < 544) (job : (s.dev.core core).job.isSome = true) (free : s.dev.fab.fences = [])
    (dst : Option Nat) (idle : s.dev.fab.ops = []) : s.does (.fence core dst) fun d =>
      d.fab.fences = [] ∧ Tbl.rd (fun _ => 0) d.fab.fenceCode core = 0 ∧ s.dev.keeps d [.fab] := by
  refine State.does_of_next _ (exec_fence alive dst range job (ops := []) (by rw [idle]; rfl)) ?_
  simp only [Dev.pumpFences, free, Dev.tidy_fab, Dev.keeps_tidy_iff]
  exact ⟨rfl, Tbl.rd_wr_self (fun _ => 0) s.dev.fab.fenceCode core 0, s.dev.setFab_keeps _⟩

theorem does_fence_waits (range : core < 544) (job : (s.dev.core core).job.isSome = true) (free : s.dev.fab.fences = [])
    {o : OutOp} (one : s.dev.fab.ops = [o]) (own : o.ref.core = core) (unacked : o.acked = false) : s.does (.fence core none) fun d =>
      d.fab = { s.dev.fab with fences := [{ core := core, ops := [o.ref.id], code := 0 }] } ∧ s.dev.keeps d [.fab] := by
  refine State.does_of_next _ (exec_fence alive none range job (ops := [o.ref.id]) (by simp [one, own, unacked])) ?_
  simp only [Dev.pumpFences, free, Dev.tidy_fab, Dev.keeps_tidy_iff]
  exact ⟨rfl, s.dev.setFab_keeps _⟩

/-- An await of a core with nothing outstanding ends at once (R381). -/
theorem does_await_nothing (ctr : Nat) (idle : s.dev.fab.ops = []) :
    s.does (.coreRemoteIssue core (.await ctr)) fun d => s.dev.keeps d [] := by
  refine State.does_nothing ?_
  change execCoreRemoteIssue core (.await ctr) s = _
  refine State.onDev_eq alive ?_
  dsimp only
  split
  · split
    · rfl
    · split
      · rename_i request; cases request
      · exact if_neg (by simp [idle])
      · rfl
  · rfl

end

/-- Settles O23, command by command: a copy lands, selections and merges record a refusal or write their result, fences and awaits wait
for what is outstanding. -/
theorem copiesAndSelectionsLand : Obligations.CopiesAndSelectionsLand := by
  refine ⟨?_, ?_, ?_, ?_, ?_, ?_⟩
  · rintro s inv desc core a b i img _ r rem alive run held image rfl cores prime contiguous plain filled src dst srcHbm dstHbm
    exact does_copyComplete_contiguous rem alive run held image cores prime ⟨contiguous, plain, filled, src, dst, srcHbm, dstHbm⟩
  · rintro s inv k desc i _ rem alive held rfl fresh
    exact ⟨fun code refused => does_endSelect_refused held fresh (exec_select_refused alive held rfl refused),
      fun code refused => does_endSelect_refused held fresh (exec_merge_refused alive held rfl refused)⟩
  · rintro s inv k desc a i _ _ _ rem alive held rfl passed unfiltered dst hbm rfl rfl
    exact does_endSelect_written held dst hbm (exec_select_passed alive held rfl passed unfiltered rfl)
  · rintro s inv k desc a i _ _ _ _ rem alive held rfl passed rfl rfl agree dst hbm rfl
    exact does_endSelect_written held dst hbm (exec_merge_passed alive held rfl passed rfl rfl agree)
  · intro s core alive range job free
    exact ⟨fun t idle => does_fence_met alive range job free t idle,
      fun o one own unacked => does_fence_waits alive range job free one own unacked⟩
  · exact fun s core ctr alive idle => does_await_nothing alive ctr idle

end Sys2Proof.Machine
end

section
/-!
PROOFS of the statement on the form memory is kept in: every step leaves it canonical and takes one command, and canonical memories
that read the same are the same (O4). First that the canonical form of a table is determined by what the table reads as, then what a
command does to the block whichever command it is, then a step.
-/

namespace Sys2Proof

/-! ## A canonical table is determined by what it reads as -/

section
variable {α : Type}

/-- With rising keys a key is listed once, so looking it up finds the entry that lists it. -/
theorem Tbl.at?_eq_some_iff {t : Tbl α} (rising : t.Pairwise fun p q => p.1 < q.1) (k : Nat) (v : α) :
    Tbl.at? t k = some v ↔ (k, v) ∈ t := by
  induction t with
  | nil => simp [Tbl.at?]
  | cons p t ih =>
    obtain ⟨j, u⟩ := p
    obtain ⟨first, rest⟩ := List.pairwise_cons.1 rising
    by_cases same : j = k
    · subst same
      have once : (j, v) ∉ t := fun listed => Nat.lt_irrefl j (first _ listed)
      simp [Tbl.at?, once, eq_comm]
    · simp [Tbl.at?, same, Ne.symm same, ih rest]

variable [DecidableEq α] {d : Nat → α} {t u : Tbl α}

theorem Tbl.wf_iff : Tbl.wf d t = true ↔ (t.Pairwise fun p q => p.1 < q.1) ∧ ∀ p ∈ t, p.2 ≠ d p.1 := by
  simp [Tbl.wf, Tbl.rising_iff]

/-- The entries of a canonical table are the keys that do not read as their default, with what they read as. -/
theorem Tbl.mem_iff_rd (canonical : Tbl.wf d t = true) (k : Nat) (v : α) : (k, v) ∈ t ↔ Tbl.rd d t k = v ∧ v ≠ d k := by
  obtain ⟨rising, proper⟩ := Tbl.wf_iff.1 canonical
  constructor
  · intro listed
    refine ⟨?_, proper _ listed⟩
    rw [Tbl.rd, (Tbl.at?_eq_some_iff rising k v).2 listed, Option.getD_some]
  · rintro ⟨reads, ne⟩
    rw [← Tbl.at?_eq_some_iff rising]
    unfold Tbl.rd at reads
    cases found : Tbl.at? t k with
    | none => exact absurd (by rw [← reads, found, Option.getD_none]) ne
    | some w => rw [← reads, found, Option.getD_some]

/-- Both lists are in strictly rising order of their keys and, by `Tbl.mem_iff_rd`, have the same entries. -/
theorem Tbl.eq_of_rd_eq (ht : Tbl.wf d t = true) (hu : Tbl.wf d u = true) (reads : ∀ k, Tbl.rd d t k = Tbl.rd d u k) : t = u := by
  obtain ⟨tRising, -⟩ := Tbl.wf_iff.1 ht
  obtain ⟨uRising, -⟩ := Tbl.wf_iff.1 hu
  have distinct {p q : Nat × α} (lt : p.1 < q.1) : p ≠ q := ne_of_apply_ne Prod.fst (Nat.ne_of_lt lt)
  have entries : t.Perm u := (List.perm_ext_iff_of_nodup (tRising.imp distinct) (uRising.imp distinct)).2 fun ⟨k, v⟩ => by
    rw [Tbl.mem_iff_rd ht, Tbl.mem_iff_rd hu, reads]
  exact entries.eq_of_pairwise (fun _ _ _ _ lt gt => absurd gt (Nat.lt_asymm lt)) tRising uRising

end
end Sys2Proof

namespace Sys2Proof.Machine

/-! ## What a command does to the block, whichever it is -/

/-- SCAN loads one of two codes, as TEST_EN says (R531). -/
theorem execScan_eq_next (s : State) : ∃ d : Dev, execScan s = .next { s with dev := d.tidy } := by
  unfold execScan
  split
  · exact ⟨_, rfl⟩
  · exact ⟨_, rfl⟩

/-- Every command is an effect on the part: none faults, is refused or touches the queue (log entry 4), and each leaves memory in its
canonical form. All but SCAN are such an effect as they are written. -/
theorem exec_eq_next (c : Instr) (s : State) : ∃ d : Dev, exec c s = .next { s with dev := d.tidy } := by
  cases c with
  | scan => exact execScan_eq_next s
  | _ => exact ⟨_, rfl⟩

/-! ## A step -/

/-- A beat changes the cadence alone. -/
@[simp] theorem beat_mem (d : Dev) : (beat d).mem = d.mem := by
  unfold beat
  split
  · rfl
  · split <;> rfl

/-- A step has a next state, takes the front command, and keeps memory canonical: a beat because it does not touch memory, a command
because what it leaves is tidied (`exec_eq_next`). -/
theorem step_next (s : State) : ∃ t, step s = .next t ∧ t.pending = s.pending.tail ∧ (s.Canonical → t.Canonical) := by
  cases waiting : s.pending with
  | nil =>
    refine ⟨_, step_of_nil waiting, waiting, fun canonical => ?_⟩
    simpa [State.Canonical] using canonical
  | cons c rest =>
    obtain ⟨d, run⟩ := exec_eq_next c { s with pending := rest }
    exact ⟨_, (step_of_cons waiting).trans run, rfl, fun _ => d.tidy_wf⟩

/-- Settles O4, from `step_next` for the step and `Tbl.eq_of_rd_eq` for memories that read the same. -/
theorem everyStepKeepsTheCanonicalForm : Obligations.EveryStepKeepsTheCanonicalForm := by
  refine ⟨fun s t canonical run => ?_, fun s => ?_, fun s t hs ht reads => Tbl.eq_of_rd_eq hs ht reads⟩
  · obtain ⟨u, next, taken, keeps⟩ := step_next s
    obtain rfl : u = t := Host.Outcome.next.inj (next.symm.trans run)
    exact ⟨keeps canonical, taken⟩
  · obtain ⟨t, next, -⟩ := step_next s
    exact ⟨t, next⟩

end Sys2Proof.Machine
end

section
/-!
PROOFS of the statement on model and paddock records and pelotons (O20), which fails: R210 holds the launch of a step while the step of the
same peloton before it still runs, and the clause on a step's launch does not ask that none runs. First what a held launch does, then a part
on which a launch due now is held.
-/

namespace Sys2Proof.Machine

/-! ## A step held behind the one that runs (R210) -/

section
variable (d : Dev)

@[simp] theorem Dev.peloton_setPeloton_self (pad k : Nat) (q : Peloton) : (d.setPeloton pad k q).peloton pad k = q :=
  Tbl.rd_wr_self _ _ _ _

@[simp] theorem Dev.tidy_peloton (pad k : Nat) : d.tidy.peloton pad k = d.peloton pad k := by rw [Dev.peloton, Dev.peloton, d.tidy_kv]

/-- With no record waiting for the paddock, no entry takes effect (R207). -/
theorem Dev.takeEntry_of_none_pending {d : Dev} {pad : Nat} (k : Nat) (unpended : Tbl.at? d.kv.pendingPad pad = none) :
    d.takeEntry pad k = d := by
  simp only [Dev.takeEntry, unpended]

/-- Holding a step counts it; the peloton's next step stays due at its beat. -/
theorem Dev.holdStep_next (pad k : Nat) : ((d.holdStep pad k).peloton pad k).next = (d.peloton pad k).next := by
  unfold Dev.holdStep
  dsimp only
  split
  · rfl
  · rw [Dev.peloton_setPeloton_self]

end

/-- A launch that is due while the peloton's step before it runs is held. -/
theorem exec_pelotonStepLaunch_held {s : State} {pad k : Nat} {p : KvPaddock} {m : KvModel} (alive : s.dev.alive = true)
    (rank : s.dev.rankIn pad = some 0) (role : s.dev.comp.role = 2) (range : k < 26)
    (unpended : Tbl.at? s.dev.kv.pendingPad pad = none) (record : Tbl.at? s.dev.kv.paddocks pad = some p)
    (model : s.dev.padModel pad = some m) (enabled : (p.pels.getD k {}).en = true) (due : (s.dev.peloton pad k).next ≤ s.dev.now)
    (runs : s.dev.stepRuns pad k = true) :
    exec (.pelotonStepLaunch pad k) s = .next { s with dev := (s.dev.holdStep pad k).tidy } := by
  change execPelotonStepLaunch pad k s = _
  refine State.onDev_eq alive ?_
  have mine : (s.dev.rankIn pad != some 0 || s.dev.comp.role != 2 || decide (26 ≤ k)) = false := by simp [rank, role, range]
  have launches : (!(p.pels.getD k {}).en || decide (s.dev.now < (s.dev.peloton pad k).next)) = false := by
    rw [enabled, decide_eq_false (Nat.not_lt.2 due)]
    rfl
  simp only [mine, Dev.takeEntry_of_none_pending k unpended, ite_self, record, model, launches, runs, Bool.false_eq_true, if_false, if_true]

/-! ## A part on which a launch due now is held -/

/-- The map of one generation device, 0, that serves model 1 alone in paddock 1 with one cluster and one channel group. -/
def lateStepMap : CompMap :=
  { devices := [{ device := 0, role := 2, spare := false, roleEpoch := 0, shadow := 0xFFFF }]
    members := [{ paddock := 1, device := 0, rank := 0, model := 1, clusters := 1, chgrps := 1, ports := 1 }] }

/-- A decode program as the checks of R145 read it: roles, the 8 cores of the paddock, its model; every other field is zero. -/
def lateStepSlot : SepSlot := { img := leBytes 8 (4 * 2 ^ 48) ++ leBytes 4 8 ++ leBytes 2 1, base := 5 * 2 ^ 60 }

/-- The paddock's record: peloton 0 has a step every 500,000 beats. -/
def lateStepRecord : KvPaddock := { pels := [{ period := 500000, maxSeq := 16, en := true, phase := 0 }] }

/-- The record of model 1 that the device holds. -/
def lateStepModel : KvModel := { model := 1 }

/-- A started stall that waits for the next step. -/
def lateStepWaiting : ExecStall := { paddock := 1, started := true, record := { lenLimit := 512 } }

/-- The stall that the running step binds. -/
def lateStepBound : ExecStall := { lateStepWaiting with member := true, bound := true }

/-- The step launched at beat 0, which has not ended. -/
def lateStepRunning : Inv :=
  { paddock := 1, slot := 0, bound := true, binds := [stepBind 1 lateStepBound 0 0 lateStepModel], tag := .step 0 }

/-- The next step is due now, at beat 500,000, while that step runs. -/
def lateStepPart : Dev :=
  { Dev.reset with
    pwr := { Dev.reset.pwr with state := .run, readyFw := true }
    cad := { Dev.reset.cad with count := 500000 }
    comp := { Dev.reset.comp with cur := lateStepMap, role := 2 }
    sep := { Dev.reset.sep with pads := [(1, { slots := [(0, lateStepSlot)] })], nextInv := 1, invs := [(0, lateStepRunning)] }
    kv := { Dev.reset.kv with
      models := [(1, lateStepModel)], paddocks := [(1, lateStepRecord)], execs := [(0, lateStepWaiting), (1, lateStepBound)]
      pelotons := [(32, { next := 500000, steps := 1, members := 1 })]
      regions := [(1, [{ base := 0, size := 65536, key := 0, use := .page, page := 0, shard := 0 }])] } }

/-- The block around that part, with no command waiting. -/
def lateStepState : State := { dev := lateStepPart, pending := [] }

/-- There the launch leaves the next step due at the same beat (R210). -/
theorem exec_pelotonStepLaunch_lateStep :
    exec (.pelotonStepLaunch 1 0) lateStepState = .next { lateStepState with dev := (lateStepPart.holdStep 1 0).tidy } :=
  exec_pelotonStepLaunch_held (p := lateStepRecord) (m := lateStepModel) (by decide) (by decide) (by decide) (by decide) (by decide)
    (by decide) (by decide) (by decide) (by decide) (by decide)

/-- Refutes O20: `lateStepState` meets every hypothesis of the clause on a step's launch, but a step of the peloton runs, so the launch is
held (R210), and the next step is not one period later. -/
theorem not_modelsPaddocksAndPelotons : ¬ Obligations.ModelsPaddocksAndPelotons := by
  rintro ⟨-, -, -, launch, -⟩
  obtain ⟨-, atBeat⟩ := launch lateStepState 1 0 0 lateStepRecord lateStepModel lateStepWaiting lateStepSlot (by decide) (by decide)
    (by decide) (by decide) (by decide) (by decide) (by decide) (by decide)
  obtain ⟨t, run, -, -, later, -⟩ := atBeat (by decide) (by decide) (by decide) (by decide) (by decide) (by decide) (by decide)
    (by decide) (by decide) (by decide)
  obtain rfl := Host.Outcome.next.inj (exec_pelotonStepLaunch_lateStep.symm.trans run)
  have held : ((lateStepPart.holdStep 1 0).tidy.peloton 1 0).next = 500000 := by
    rw [Dev.tidy_peloton, Dev.holdStep_next]
    decide
  have due : (lateStepState.dev.peloton 1 0).next = 500000 := by decide
  rw [held, due] at later
  exact absurd later (by decide)

end Sys2Proof.Machine
end

section
/-!
PROOFS of the statement on panniers (spec/08_panniers.md): parks stored, refused and acknowledged, pulls served, landed, refused and timed
out (O43). First what the shared operations of panniers change, then each command.
-/

namespace Sys2Proof.Machine

/-! ## Frames of changes in one block -/

section
variable (d : Dev)

theorem Dev.setOut_keeps (l : List Put) : d.keeps { d with out := l } [.out] := by
  intro b hb; cases b <;> simp_all [Blk.same, Dev.byte]

theorem Dev.setComp_keeps (c : Comp) : d.keeps { d with comp := c } [.comp] := by
  intro b hb; cases b <;> simp_all [Blk.same, Dev.byte]

theorem Dev.setKv_keeps (k : Kv) : d.keeps { d with kv := k } [.kv] := by
  intro b hb; cases b <;> simp_all [Blk.same, Dev.byte]

theorem Dev.setPan_keeps (p : Pan) : d.keeps { d with pan := p } [.pan] := by
  intro b hb; cases b <;> simp_all [Blk.same, Dev.byte]

theorem Dev.setMemt_keeps (m : MemT) : d.keeps { d with memt := m } [.memt] := by
  intro b hb; cases b <;> simp_all [Blk.same, Dev.byte]

theorem Dev.setHay_keeps (h : Hay) : d.keeps { d with hay := h } [.hay] := by
  intro b hb; cases b <;> simp_all [Blk.same, Dev.byte]

theorem Dev.setStl_keeps (x : Stl) : d.keeps { d with stl := x } [.stl] := by
  intro b hb; cases b <;> simp_all [Blk.same, Dev.byte]

theorem Dev.setHeap_keeps (pad : Nat) (l : List Region) : d.keeps (d.setHeap pad l) [.kv] := d.setKv_keeps _

theorem Dev.setPull_keeps (key : Nat) (p : Pull) : d.keeps (d.setPull key p) [.pan] := d.setPan_keeps _

/-! ## Counters that saturate -/

theorem Dev.fld_count_self {f : Fld} (ok : f.ok = true) : (d.count f).fld f = min (d.fld f + 1) (2 ^ f.width - 1) := by
  rw [Dev.count, Dev.fld_setFld_self d f ok]
  have positive := Nat.two_pow_pos f.width
  exact Nat.mod_eq_of_lt (by omega)

/-! ## Messages of role work (R31, R234) -/

theorem Dev.sendRole_eq (k : MsgKind) (dst pad : Nat) (args : List Nat) (data : Bytes) : d.sendRole k dst pad args data =
    { d with out := d.out ++ [.msg k (d.resolve dst) (d.hdrFor dst pad ++ args) data] } := by
  simp [Dev.sendRole, Dev.send, Dev.put, Put.toHost]

theorem Dev.sendRole_keeps (k : MsgKind) (dst pad : Nat) (args : List Nat) (data : Bytes) :
    d.keeps (d.sendRole k dst pad args data) [.out] := by
  rw [Dev.sendRole_eq]; exact d.setOut_keeps _

/-- How a message is addressed rests on this device's own number, its composition and the devices that stand in for others. -/
theorem Dev.address_of_keeps {d e : Dev} {l : List Blk} (h : d.keeps e l) (pwr : l.contains .pwr = false)
    (comp : l.contains .comp = false) (hlt : l.contains .hlt = false) (dst pad : Nat) :
    e.resolve dst = d.resolve dst ∧ e.hdrFor dst pad = d.hdrFor dst pad := by
  have me : e.me = d.me := by rw [Dev.me, Dev.me, Dev.keeps_pwr h pwr]
  rw [Dev.resolve, Dev.resolve, Dev.hdrFor, Dev.hdrFor, Dev.roleEpochOf, Dev.roleEpochOf, me, Dev.keeps_comp h comp, Dev.keeps_hlt h hlt]
  exact ⟨rfl, rfl⟩

/-- A message that R31 lets through is processed, and one it holds is kept for the switch. The definition is unfolded by its name alone and
not where it is applied: checking the applied form would compute in the verdict's arithmetic on open terms. -/
theorem Dev.receive_cases (h : RoleHdr) (state : Bool) (kind : Nat) (hold : RoleMsg) (f : Dev → Dev) :
    (d.verdict h state = .process → d.receive h state kind hold f = f d) ∧
    (d.verdict h state = .hold → d.receive h state kind hold f = { d with comp.held := d.comp.held ++ [hold] }) := by
  suffices unfolded : ∀ receive, receive = Dev.receive →
      (d.verdict h state = .process → receive d h state kind hold f = f d) ∧
      (d.verdict h state = .hold → receive d h state kind hold f = { d with comp.held := d.comp.held ++ [hold] }) from unfolded _ rfl
  intro receive written
  delta Dev.receive at written
  subst written
  constructor <;> (intro verdict; simp only [verdict])

theorem Dev.receive_process {d : Dev} {h : RoleHdr} {state : Bool} (verdict : d.verdict h state = .process) (kind : Nat) (hold : RoleMsg)
    (f : Dev → Dev) : d.receive h state kind hold f = f d := (d.receive_cases h state kind hold f).1 verdict

theorem Dev.receive_hold {d : Dev} {h : RoleHdr} {state : Bool} (verdict : d.verdict h state = .hold) (kind : Nat) (hold : RoleMsg)
    (f : Dev → Dev) : d.receive h state kind hold f = { d with comp.held := d.comp.held ++ [hold] } :=
  (d.receive_cases h state kind hold f).2 verdict

/-! ## Park acknowledgements (R223) -/

/-- Where the other device is the home, one acknowledgement is sent. -/
theorem Dev.sendAck_self (home : Nat) (b : Bytes) :
    d.sendAck home home b = { d with out := d.out ++ [.msg .parkAck (d.resolve home) (d.hdrFor home 0) b] } := by
  simp [Dev.sendAck, Dev.sendRole_eq]

theorem Dev.sendAck_keeps (home other : Nat) (b : Bytes) : d.keeps (d.sendAck home other b) [.out] := by
  have toHome := d.sendRole_keeps .parkAck home 0 [] b
  unfold Dev.sendAck
  dsimp only
  split
  · exact toHome
  · exact Dev.keeps_trans toHome (Dev.sendRole_keeps _ _ _ _ _ _)

/-- The home is sent the acknowledgement, whoever else is. -/
theorem Dev.mem_sendAck_out (home other : Nat) (b : Bytes) :
    .msg .parkAck (d.resolve home) (d.hdrFor home 0) b ∈ (d.sendAck home other b).out := by
  unfold Dev.sendAck
  dsimp only
  split <;> simp [Dev.sendRole_eq]

/-! ## Space for parked regions (R223, R312) -/

theorem Dev.alloc_keeps {d e : Dev} {pad size key page shard : Nat} {use : RegionUse} {r : Region}
    (found : d.alloc pad size key use page shard = some (r, e)) : d.keeps e [.kv] := by
  unfold Dev.alloc at found
  split at found
  · cases found
  · split at found
    · cases found
    · cases found; exact d.setHeap_keeps _ _

theorem Dev.takeFrames_keeps {d e : Dev} {n order : Nat} {l : List Nat} (found : d.takeFrames n order = some (l, e)) :
    d.keeps e [.memt] := by
  unfold Dev.takeFrames at found
  extract_lets +onlyGivenNames groups floor at found
  clear_value floor
  split at found
  · cases found
  · dsimp only at found
    split at found
    · cases found
    · cases found; exact d.setMemt_keeps _

theorem Dev.takeParked_keeps {d e : Dev} {model home stall page shard size addr : Nat} {pad : Option Nat} {frames : List Nat}
    (found : d.takeParked model home stall page shard size = some (pad, frames, addr, e)) : d.keeps e [.kv, .memt] := by
  unfold Dev.takeParked at found
  extract_lets pads at found
  generalize alloc : pads.findSome? (fun p =>
    (d.alloc p size (stallKey home stall) .parked page shard).map fun r => (p, r)) = heap at found
  generalize taken : d.takeFrames (ceilDiv size 65536) 3 = pool at found
  match heap, pool with
  | some (q, r, e'), _ =>
    cases found
    obtain ⟨q', -, some⟩ := List.exists_of_findSome?_eq_some alloc
    obtain ⟨⟨r', e''⟩, allocated, same⟩ := Option.map_eq_some_iff.1 some
    cases same
    exact Dev.keeps_mono (Dev.alloc_keeps allocated) (by simp)
  | none, some (l, e') =>
    cases found
    exact Dev.keeps_mono (Dev.takeFrames_keeps taken) (by simp)
  | none, none => cases found

/-- Releasing a held region takes it, and every equal one, off the list, and gives back its space. -/
theorem Dev.dropHeld_touches (h : HeldRegion) : ∃ m y k, d.dropHeld h =
    { d with pan := { d.pan with held := d.pan.held.filter fun r => r != h }, memt := m, hay := y, kv := k } := by
  unfold Dev.dropHeld Dev.giveFrames
  dsimp only
  split <;> split <;> exact ⟨_, _, _, rfl⟩

theorem Dev.dropHeld_keeps (h : HeldRegion) : d.keeps (d.dropHeld h) [.pan, .memt, .hay, .kv] := by
  obtain ⟨m, y, k, e⟩ := d.dropHeld_touches h
  rw [e]
  intro b hb
  cases b <;> simp_all [Blk.same, Dev.byte]

end

/-! ## Lists whose first match is replaced -/

section
variable {α : Type} {p : α → Bool} {f : α → α}

theorem updateFirst_ne_nil {l : List α} (h : l ≠ []) : updateFirst p f l ≠ [] := by
  cases l with
  | nil => exact absurd rfl h
  | cons a t => rw [updateFirst]; split <;> simp

/-- Where the replacement matches too, it is the first that does. -/
theorem find?_updateFirst (still : ∀ a, p a = true → p (f a) = true) (l : List α) :
    (updateFirst p f l).find? p = (l.find? p).map f := by
  induction l with
  | nil => rfl
  | cons a t ih =>
    by_cases h : p a = true
    · simp [updateFirst, h, still a h]
    · simp [updateFirst, h, ih]

end

/-! ## Headers that fail their checks (R221) -/

/-- A command that only raises an event. -/
theorem does_raise {s : State} {c : Instr} {e : Evt} (ok : e.bit.ok = true) (own : e.bit.off ∉ eventRegs)
    (run : exec c s = .next { s with dev := (s.dev.raise e).tidy }) :
    s.does c fun d => d.fld e.bit = 1 ∧ s.dev.keeps d [.regs, .out, .hif, .hlt] := by
  refine State.does_of_next _ run ?_
  rw [Dev.tidy_fld, Dev.keeps_tidy_iff]
  exact ⟨s.dev.raise_bit e 0 0 0 none ok own, s.dev.raise_keeps e 0 0 0 none⟩

section
variable {s : State} {p : Pannier} (alive : s.dev.alive = true)
include alive

theorem does_parkPannier_bad (bad : panHeaderOk p = false) :
    s.does (.parkPannier p) fun d => d.fld E.PAN_HEADER.bit = 1 ∧ s.dev.keeps d [.regs, .out, .hif, .hlt] := by
  refine does_raise (by decide) (by decide) ?_
  change execParkPannier p s = _
  exact State.onDev_eq alive (if_pos (by simp [bad]))

theorem does_pullReply_bad (bad : panHeaderOk p = false) :
    s.does (.pullReply p) fun d => d.fld E.PAN_HEADER.bit = 1 ∧ s.dev.keeps d [.regs, .out, .hif, .hlt] := by
  refine does_raise (by decide) (by decide) ?_
  change execPullReply p s = _
  exact State.onDev_eq alive (if_pos (by simp [bad]))

end

/-! ## Park panniers (R221, R223) -/

section
variable {s : State} {p : Pannier} (alive : s.dev.alive = true) (ok : panHeaderOk p = true) (kind : field p.hdr 4 1 = 2)
include alive ok kind

theorem exec_parkPannier : exec (.parkPannier p) s =
    .next { s with dev := (s.dev.receive (panHdr p) false 1 (.park p) fun d => d.parkArrived p).tidy } := by
  change execParkPannier p s = _
  exact State.onDev_eq alive (if_neg (by simp [ok, kind]))

theorem does_parkPannier_kept (held : s.dev.verdict (panHdr p) false = .hold) : s.does (.parkPannier p) fun d =>
    d.comp = { s.dev.comp with held := s.dev.comp.held ++ [.park p] } ∧ s.dev.keeps d [.comp] := by
  refine State.does_of_next _ (exec_parkPannier alive ok kind) ?_
  rw [Dev.receive_hold held, Dev.tidy_comp, Dev.keeps_tidy_iff]
  exact ⟨rfl, s.dev.setComp_keeps _⟩

end

/-- What a park pannier's region becomes on the holder. -/
def Dev.parkRegion (d : Dev) (p : Pannier) (r : PanRegion) : Dev :=
  d.storeParked (panHome p) (panStall p) (field p.hdr 28 2) (2 ^ field p.hdr 7 1) (field p.hdr 14 2) r

/-- The region as it is held where check 5 and check 6 pass (R223). -/
def regionAsParked (p : Pannier) (r : PanRegion) (desc : Desc) (pad : Option Nat) (frames : List Nat) : HeldRegion :=
  { home := panHome p, stall := panStall p, page := r.page, shard := r.shard, desc := desc, size := r.size, paddock := pad
    frames := frames, poison := false, body := r.body }

section
variable {d : Dev} {p : Pannier} {r : PanRegion}

theorem Dev.parkRegion_held {h : HeldRegion} (held : d.heldAt (panHome p) (panStall p) r.page r.shard = some h) :
    d.parkRegion p r = (d.count F.PAN_PULL_CNT_DUP).sendAck (panHome p) (field p.hdr 14 2)
      (ackBytes (panStall p) (panHome p) d.me r.page r.shard C.OK h.desc) := by
  rw [Dev.parkRegion, Dev.storeParked, held]

theorem Dev.parkRegion_disabled (fresh : d.heldAt (panHome p) (panStall p) r.page r.shard = none)
    (disabled : d.flag F.PAN_CTRL_EN = false) :
    d.parkRegion p r = (d.count F.PAN_PARK_CNT_REFUSED).sendAck (panHome p) (field p.hdr 14 2)
      (ackBytes (panStall p) (panHome p) d.me r.page r.shard C.PAN_PARK_FULL {}) := by
  rw [Dev.parkRegion, Dev.storeParked, fresh]
  exact if_pos (by rw [disabled]; rfl)

theorem Dev.parkRegion_found {e : Dev} {pad : Option Nat} {frames : List Nat} {addr : Nat} {desc : Desc}
    (fresh : d.heldAt (panHome p) (panStall p) r.page r.shard = none) (enabled : d.flag F.PAN_CTRL_EN = true)
    (space : d.takeParked (field p.hdr 28 2) (panHome p) (panStall p) r.page r.shard r.size = some (pad, frames, addr, e))
    (good : regionBad r (2 ^ field p.hdr 7 1) = (false, false))
    (described : desc = { addr := addr, holder := e.me, tier := 1, cmp := r.cmp, fill := r.fill, crc := r.crc }) :
    d.parkRegion p r =
      ({ e with pan.held := e.pan.held ++ [regionAsParked p r desc pad frames] } : Dev).sendAck (panHome p) (field p.hdr 14 2)
        (ackBytes (panStall p) (panHome p) e.me r.page r.shard C.OK desc) := by
  subst described
  rw [Dev.parkRegion, Dev.storeParked, fresh]
  simp only [enabled, space, good]
  rfl

end

/-- A region that is not stored is counted, and the home is answered. -/
theorem does_counted_ack {s : State} {c : Instr} {f : Fld} {home other : Nat} {b : Bytes} (ok : f.ok = true)
    (run : exec c s = .next { s with dev := ((s.dev.count f).sendAck home other b).tidy }) : s.does c fun d =>
      d.fld f = min (s.dev.fld f + 1) (2 ^ f.width - 1) ∧
      .msg .parkAck (s.dev.resolve home) (s.dev.hdrFor home 0) b ∈ d.out ∧ s.dev.keeps d [.regs, .out] := by
  have counts := s.dev.count_keeps f 1
  have acks := (s.dev.count f).sendAck_keeps home other b
  obtain ⟨resolve, hdr⟩ := Dev.address_of_keeps counts rfl rfl rfl home 0
  refine State.does_of_next _ run ⟨?_, ?_, ?_⟩
  · rw [Dev.tidy_fld, Dev.fld_of_regs (Dev.keeps_regs acks rfl), s.dev.fld_count_self ok]
  · rw [Dev.tidy_out, ← resolve, ← hdr]
    exact Dev.mem_sendAck_out _ home other b
  · rw [Dev.keeps_tidy_iff]
    exact Dev.keeps_then counts acks (by simp) (by simp)

section
variable {s : State} {p : Pannier} {r : PanRegion} (alive : s.dev.alive = true) (ok : panHeaderOk p = true)
  (kind : field p.hdr 4 1 = 2) (passed : s.dev.verdict (panHdr p) false = .process) (one : p.regions = [r])
include alive ok kind passed one

theorem exec_parkPannier_one : exec (.parkPannier p) s = .next { s with dev := (s.dev.parkRegion p r).tidy } := by
  rw [exec_parkPannier alive ok kind, Dev.receive_process passed, Dev.parkArrived, one]
  rfl

theorem does_parkPannier_again {h : HeldRegion} (held : s.dev.heldAt (panHome p) (panStall p) r.page r.shard = some h) :
    s.does (.parkPannier p) fun d =>
      d.fld F.PAN_PULL_CNT_DUP = min (s.dev.fld F.PAN_PULL_CNT_DUP + 1) (2 ^ F.PAN_PULL_CNT_DUP.width - 1) ∧
      .msg .parkAck (s.dev.resolve (panHome p)) (s.dev.hdrFor (panHome p) 0)
        (ackBytes (panStall p) (panHome p) s.dev.me r.page r.shard C.OK h.desc) ∈ d.out ∧ s.dev.keeps d [.regs, .out] := by
  refine does_counted_ack (other := field p.hdr 14 2) (by decide) ?_
  rw [exec_parkPannier_one alive ok kind passed one, Dev.parkRegion_held held]

theorem does_parkPannier_disabled (fresh : s.dev.heldAt (panHome p) (panStall p) r.page r.shard = none)
    (disabled : s.dev.flag F.PAN_CTRL_EN = false) : s.does (.parkPannier p) fun d =>
      d.fld F.PAN_PARK_CNT_REFUSED = min (s.dev.fld F.PAN_PARK_CNT_REFUSED + 1) (2 ^ F.PAN_PARK_CNT_REFUSED.width - 1) ∧
      .msg .parkAck (s.dev.resolve (panHome p)) (s.dev.hdrFor (panHome p) 0)
        (ackBytes (panStall p) (panHome p) s.dev.me r.page r.shard C.PAN_PARK_FULL {}) ∈ d.out ∧ s.dev.keeps d [.regs, .out] := by
  refine does_counted_ack (other := field p.hdr 14 2) (by decide) ?_
  rw [exec_parkPannier_one alive ok kind passed one, Dev.parkRegion_disabled fresh disabled]

theorem does_parkPannier_found {e : Dev} {pad : Option Nat} {frames : List Nat} {addr : Nat} {desc : Desc}
    (fresh : s.dev.heldAt (panHome p) (panStall p) r.page r.shard = none) (enabled : s.dev.flag F.PAN_CTRL_EN = true)
    (space : s.dev.takeParked (field p.hdr 28 2) (panHome p) (panStall p) r.page r.shard r.size = some (pad, frames, addr, e))
    (good : regionBad r (2 ^ field p.hdr 7 1) = (false, false))
    (described : desc = { addr := addr, holder := s.dev.me, tier := 1, cmp := r.cmp, fill := r.fill, crc := r.crc }) :
    s.does (.parkPannier p) fun d => d.pan.held = s.dev.pan.held ++ [regionAsParked p r desc pad frames] ∧
      .msg .parkAck (s.dev.resolve (panHome p)) (s.dev.hdrFor (panHome p) 0)
        (ackBytes (panStall p) (panHome p) s.dev.me r.page r.shard C.OK desc) ∈ d.out ∧ s.dev.keeps d [.out, .kv, .memt, .pan] := by
  have takes := Dev.takeParked_keeps space
  have me : e.me = s.dev.me := by rw [Dev.me, Dev.me, Dev.keeps_pwr takes rfl]
  have run := Dev.parkRegion_found (desc := desc) fresh enabled space good (by rw [me, described])
  rw [me] at run
  generalize holding : ({ e with pan.held := e.pan.held ++ [regionAsParked p r desc pad frames] } : Dev) = holder at run
  have holds : s.dev.keeps holder [.kv, .memt, .pan] := by
    rw [← holding]
    exact Dev.keeps_then takes (e.setPan_keeps _) (by simp) (by simp)
  have acks := holder.sendAck_keeps (panHome p) (field p.hdr 14 2) (ackBytes (panStall p) (panHome p) s.dev.me r.page r.shard C.OK desc)
  obtain ⟨resolve, hdr⟩ := Dev.address_of_keeps holds rfl rfl rfl (panHome p) 0
  refine State.does_of_next _ (exec_parkPannier_one alive ok kind passed one) ?_
  rw [run, Dev.tidy_pan, Dev.tidy_out, Dev.keeps_tidy_iff, Dev.keeps_pan acks rfl, ← resolve, ← hdr]
  refine ⟨?_, Dev.mem_sendAck_out _ _ _ _, Dev.keeps_then holds acks (by simp) (by simp)⟩
  rw [← holding, Dev.keeps_pan takes rfl]

end

/-! ## Park acknowledgements as they arrive (R199, R223, R238) -/

section
variable {s : State} {a : ParkAck} (alive : s.dev.alive = true) (passed : s.dev.verdict a.h true = .process)
  (stored : field a.body 14 2 = C.OK)

include alive passed in
theorem exec_parkAck : exec (.parkAck a) s = .next { s with dev := (s.dev.ackSeen a.body).tidy } := by
  change execParkAck a s = _
  exact State.onDev_eq alive (Dev.receive_process passed _ _ _)

section
variable (away : field a.body 4 2 ≠ s.dev.me) (other : field a.body 6 2 ≠ s.dev.me)
include alive passed stored away other

theorem does_parkAck_unheld
    (unheld : s.dev.heldAt (field a.body 4 2) (field a.body 0 4 % 2 ^ 17) (field a.body 8 4) (field a.body 12 2) = none) :
    s.does (.parkAck a) fun d => s.dev.keeps d [] := by
  have idle : s.dev.ackSeen a.body = s.dev := by simp [-Nat.reducePow, Dev.ackSeen, away, other, stored, unheld]
  refine State.does_nothing ?_
  rw [exec_parkAck alive passed, idle]

/-- A departing holder releases its copy once a new holder has the region (R238). -/
theorem does_parkAck_departing {h : HeldRegion}
    (held : s.dev.heldAt (field a.body 4 2) (field a.body 0 4 % 2 ^ 17) (field a.body 8 4) (field a.body 12 2) = some h) :
    s.does (.parkAck a) fun d => h ∉ d.pan.held ∧ (∀ x ∈ s.dev.pan.held, x ≠ h → x ∈ d.pan.held) ∧
      s.dev.keeps d [.pan, .memt, .hay, .kv] := by
  have drops : s.dev.ackSeen a.body = s.dev.dropHeld h := by simp [-Nat.reducePow, Dev.ackSeen, away, other, stored, held]
  obtain ⟨m, y, k, dropped⟩ := s.dev.dropHeld_touches h
  refine State.does_of_next _ (exec_parkAck alive passed) ?_
  rw [drops, Dev.tidy_pan, Dev.keeps_tidy_iff]
  refine ⟨?_, ?_, s.dev.dropHeld_keeps h⟩
  · simp [dropped]
  · intro x listed differs
    simp [dropped, listed, differs]

end

/-- Where LEN_PARKED stands, nothing follows from a park (R200, R225). -/
theorem Dev.parkedMoved_of_same {d : Dev} {id : Nat} {x : Stall} (present : d.stall? id = some x) :
    d.parkedMoved id x.r.lenParked = d := by
  rw [Dev.parkedMoved, present]
  exact if_pos rfl

theorem Dev.prePullNow_of_none {d : Dev} {id : Nat} {x : Stall} (present : d.stall? id = some x) (unplanned : x.prePull = none) :
    d.prePullNow id = d := by
  simp only [Dev.prePullNow, present, unplanned]

/-- Between the end of grace and the next staging there is one map, and nothing is asked to be parked again (R238). -/
theorem Dev.reparkNext_of_one_map {d : Dev} (unstaged : d.comp.pending = none) (settled : d.comp.old = none) : d.reparkNext = d := by
  simp only [Dev.reparkNext, Dev.twoMaps, unstaged, settled]

/-- A stall without a shadow is written without a message (R169). -/
theorem Dev.setStall_of_unshadowed (d : Dev) (id : Nat) (old : Stall) {new : Stall} (unshadowed : new.r.shadowOk = false) :
    d.setStall id old new = d.putStall id new := by
  simp [Dev.setStall, unshadowed]

theorem Dev.stall?_putStall_self (d : Dev) (id : Nat) (x : Stall) : (d.putStall id x).stall? id = some x := Tbl.at?_put_self _ _ _

theorem Dev.stall?_putStall_ne (d : Dev) {id k : Nat} (x : Stall) (h : k ≠ id) : (d.putStall id x).stall? k = d.stall? k :=
  Tbl.at?_put_ne _ _ h

theorem Dev.stall?_of_stl {d e : Dev} (h : e.stl = d.stl) (k : Nat) : e.stall? k = d.stall? k := by rw [Dev.stall?, Dev.stall?, h]

/-- The home applies the park to its entry (R199); the copies it held itself of a region another device now holds go. -/
theorem Dev.parkAcked_full {d : Dev} {b : Bytes} {x : Stall} (stored : field b 14 2 = C.OK)
    (present : d.stall? (field b 0 4 % 2 ^ 17) = some x) (full : (x.pages.ent (field b 8 4) (field b 12 2)).state = .full)
    (stands : (x.applyPark (field b 8 4) (field b 12 2) (Desc.read (slice b 16 16))).r.lenParked = x.r.lenParked)
    (unshadowed : x.r.shadowOk = false) (unplanned : x.prePull = none) :
    ∃ l, d.parkAcked b = ({ d with pan.held := l } : Dev).putStall (field b 0 4 % 2 ^ 17)
      (x.applyPark (field b 8 4) (field b 12 2) (Desc.read (slice b 16 16))) := by
  unfold Dev.parkAcked
  simp only [present, stored, full, beq_self_eq_true, if_true]
  generalize hy : x.applyPark (field b 8 4) (field b 12 2) (Desc.read (slice b 16 16)) = y at *
  have shadow : y.r.shadowOk = false := by rw [← hy]; exact unshadowed
  have plan : y.prePull = none := by rw [← hy]; exact unplanned
  have follows (e : Dev) : ((e.setStall (field b 0 4 % 2 ^ 17) x y).parkedMoved (field b 0 4 % 2 ^ 17) x.r.lenParked).prePullNow
      (field b 0 4 % 2 ^ 17) = e.putStall (field b 0 4 % 2 ^ 17) y := by
    have written := e.stall?_putStall_self (field b 0 4 % 2 ^ 17) y
    rw [e.setStall_of_unshadowed _ _ shadow, ← stands, Dev.parkedMoved_of_same written, Dev.prePullNow_of_none written plan]
  rw [follows]
  split
  · exact ⟨d.pan.held, rfl⟩
  · exact ⟨_, rfl⟩

include alive passed stored in
theorem does_parkAck_home {x : Stall} {desc : Desc} (home : field a.body 4 2 = s.dev.me)
    (present : s.dev.stall? (field a.body 0 4 % 2 ^ 17) = some x)
    (full : (x.pages.ent (field a.body 8 4) (field a.body 12 2)).state = .full) (read : desc = Desc.read (slice a.body 16 16))
    (stands : (x.applyPark (field a.body 8 4) (field a.body 12 2) desc).r.lenParked = x.r.lenParked) (unshadowed : x.r.shadowOk = false)
    (unplanned : x.prePull = none) (unstaged : s.dev.comp.pending = none) (settled : s.dev.comp.old = none) :
    s.does (.parkAck a) fun d =>
      d.stall? (field a.body 0 4 % 2 ^ 17) = some (x.applyPark (field a.body 8 4) (field a.body 12 2) desc) ∧
      (∀ k, k ≠ field a.body 0 4 % 2 ^ 17 → d.stall? k = s.dev.stall? k) ∧ s.dev.keeps d [.stl, .pan] := by
  subst read
  obtain ⟨l, applied⟩ := Dev.parkAcked_full stored present full stands unshadowed unplanned
  have seen : s.dev.ackSeen a.body = (s.dev.parkAcked a.body).reparkNext := if_pos (by simp [home])
  rw [Dev.reparkNext_of_one_map (by rw [applied]; exact unstaged) (by rw [applied]; exact settled), applied] at seen
  refine State.does_of_next _ (exec_parkAck alive passed) ?_
  rw [seen, Dev.keeps_tidy_iff]
  refine ⟨?_, fun k ne => ?_, ?_⟩
  · rw [Dev.stall?_of_stl (Dev.tidy_stl _), Dev.stall?_putStall_self]
  · rw [Dev.stall?_of_stl (Dev.tidy_stl _), Dev.stall?_putStall_ne _ _ ne]
    rfl
  · exact Dev.keeps_then (s.dev.setPan_keeps _) (Dev.setStl_keeps _ _) (by simp) (by simp)

end

/-! ## Pull requests served (R229) -/

section
variable {s : State} {q : PullRequest} (alive : s.dev.alive = true) (passed : s.dev.verdict q.h true = .process)

include alive passed in
theorem exec_pullRequest : exec (.pullRequest q) s = .next { s with dev := (s.dev.servePull q).tidy } := by
  change execPullRequest q s = _
  exact State.onDev_eq alive (Dev.receive_process passed _ _ _)

/-- What a request of one region names. -/
theorem pullNames_one (onePage : q.pageN = 1) (oneShard : q.shardN = 1) : pullNames q = [(q.pageFirst, q.shardFirst)] := by
  simp [pullNames, onePage, oneShard]

theorem Dev.servePull_refused {d : Dev} (onePage : q.pageN = 1) (oneShard : q.shardN = 1)
    (refused : d.flag F.PAN_CTRL_EN = false ∨ d.regionFor q q.pageFirst q.shardFirst = none) :
    d.servePull q = d.refusePull q (q.pageFirst, q.shardFirst) := by
  rcases refused with disabled | unheld
  · simp [Dev.servePull, pullNames_one onePage oneShard, disabled]
  · cases enabled : d.flag F.PAN_CTRL_EN <;> simp [Dev.servePull, pullNames_one onePage oneShard, enabled, unheld]

/-- One region takes one pannier: its entry and its bytes stand behind the header. -/
theorem Dev.sendReplies_one (d : Dev) (late : q.eager = false) (entry body opens : Bytes) (kvEnd pageLog2 model shards : Nat) :
    d.sendReplies q [(entry, body)] opens kvEnd pageLog2 model shards = d.sendRole .pullReply q.h.src 0 []
      (panHeader 1 2 1 pageLog2 q.stall q.home d.me d.comp.cur.epoch 0 q.pullId model shards 0 kvEnd (entry ++ body).length
        ++ (entry ++ body)) := by
  simp [Dev.sendReplies, cut, late, b2n]

theorem Dev.servePull_held {d : Dev} {region : Bytes × Bytes} (onePage : q.pageN = 1) (oneShard : q.shardN = 1) (late : q.eager = false)
    (enabled : d.flag F.PAN_CTRL_EN = true) (held : d.regionFor q q.pageFirst q.shardFirst = some region) :
    ∃ kvEnd pageLog2 model shards, d.servePull q = d.sendReplies q [region] [] kvEnd pageLog2 model shards := by
  simp only [Dev.servePull, enabled, Bool.not_true, Bool.false_eq_true, if_false, pullNames_one onePage oneShard, held, Option.isNone_some,
    not_false_eq_true, List.find?_cons_of_neg, List.find?_nil, late, List.filterMap_cons, List.filterMap_nil]
  exact ⟨_, _, _, _, rfl⟩

include alive passed

theorem does_pullRequest_refused (onePage : q.pageN = 1) (oneShard : q.shardN = 1)
    (refused : s.dev.flag F.PAN_CTRL_EN = false ∨ s.dev.regionFor q q.pageFirst q.shardFirst = none) :
    s.does (.pullRequest q) fun d =>
      d.out = s.dev.out ++ [.msg .pullRefusal (s.dev.resolve q.h.src) (s.dev.hdrFor q.h.src 0 ++
        [q.home, q.stall, q.pullId, C.PAN_NOT_HELD, q.pageFirst, q.shardFirst]) []] ∧ s.dev.keeps d [.out] := by
  refine State.does_of_next _ (exec_pullRequest alive passed) ?_
  rw [Dev.servePull_refused onePage oneShard refused, Dev.refusePull, Dev.sendRole_eq, Dev.tidy_out, Dev.keeps_tidy_iff]
  exact ⟨rfl, s.dev.setOut_keeps _⟩

theorem does_pullRequest_answered {h : HeldRegion} (onePage : q.pageN = 1) (oneShard : q.shardN = 1) (late : q.eager = false)
    (enabled : s.dev.flag F.PAN_CTRL_EN = true) (parked : q.fromWork = false)
    (held : s.dev.heldAt q.home q.stall q.pageFirst q.shardFirst = some h) : s.does (.pullRequest q) fun d =>
      (∃ hdr, d.out = s.dev.out ++ [.msg .pullReply (s.dev.resolve q.h.src) (s.dev.hdrFor q.h.src 0)
        (hdr ++ (pageEntry q.pageFirst q.shardFirst h.desc.fill h.desc.cmp h.desc.crc ++ h.body))]) ∧ s.dev.keeps d [.out] := by
  have region : s.dev.regionFor q q.pageFirst q.shardFirst =
      some (pageEntry q.pageFirst q.shardFirst h.desc.fill h.desc.cmp h.desc.crc, h.body) := by
    simp [Dev.regionFor, parked, held]
  obtain ⟨kvEnd, pageLog2, model, shards, serves⟩ := Dev.servePull_held onePage oneShard late enabled region
  refine State.does_of_next _ (exec_pullRequest alive passed) ?_
  rw [serves, s.dev.sendReplies_one late, Dev.sendRole_eq, List.append_nil, Dev.tidy_out, Dev.keeps_tidy_iff]
  exact ⟨⟨_, rfl⟩, s.dev.setOut_keeps _⟩

end

/-! ## Pulls in their table -/

section
variable (d : Dev)

@[simp] theorem Dev.pull?_setPull_self (key : Nat) (p : Pull) : (d.setPull key p).pull? key = some p := Tbl.at?_put_self _ _ _

theorem Dev.pull?_of_pan {x y : Dev} (h : y.pan = x.pan) (key : Nat) : y.pull? key = x.pull? key := by rw [Dev.pull?, Dev.pull?, h]

@[simp] theorem Dev.tidy_pull? (key : Nat) : d.tidy.pull? key = d.pull? key := Dev.pull?_of_pan d.tidy_pan key

/-- The pull an id is of has a request with that id open. -/
theorem Dev.req_of_pullOf {d : Dev} {id key : Nat} {p : Pull} {q : PullReq} (found : d.pullOf id = some (key, p, q)) :
    p.req id = some q := by
  obtain ⟨entry, -, named⟩ := List.exists_of_findSome?_eq_some found
  obtain ⟨q', req, same⟩ := Option.map_eq_some_iff.1 named
  cases same
  exact req

theorem Pull.reqs_ne_nil {p : Pull} {id : Nat} {q : PullReq} (found : p.req id = some q) : p.reqs ≠ [] :=
  List.ne_nil_of_mem (List.mem_of_find?_eq_some found)

/-- A pull in `main` that has a request open and none to send goes on waiting (R232). -/
theorem Dev.pullNext_of_open {d : Dev} {key : Nat} {p : Pull} {n : ShipNotice} (listed : d.pull? key = some p) (notice : p.notice = some n)
    (main : p.state = .main) (heaped : p.waitHeap = false) (sent : p.todo = []) (waits : p.reqs ≠ []) :
    d.pullNext key = d.setPull key { p with state := .main } := by
  have nonempty : p.reqs.isEmpty = false := by simpa using waits
  simp [Dev.pullNext, listed, notice, main, heaped, sent, nonempty, Dev.pump]

/-! ## Landing (R221, R231) -/

/-- A region whose checks pass lands in its place: its bytes are stored there, its lines are clean, and the heap's entry takes its form. -/
theorem Dev.landRegion_good {d e : Dev} {pad key np a : Nat} {r : PanRegion} {x : Region} (good : regionBad r np = (false, false))
    (place : ((d.heap pad).find? fun x => x.key == key && x.use == .page && x.page == r.page && x.shard == r.shard) = some x)
    (base : d.hbmKey pad x.base = a) (lands : d.landRegion pad key np r = e) :
    (∀ i (h : i < r.body.length), e.byte (a + i) = r.body[i]) ∧
    (∀ k, (k < a ∨ a + r.body.length ≤ k) → e.byte k = d.byte k) ∧ d.keeps e [.mem, .poison, .kv] := by
  simp only [Dev.landRegion, good, Bool.false_eq_true, if_false, place, base] at lands
  have stores := d.store_keeps a r.body
  have cleans := (d.store a r.body).setPoison_keeps a (max 1 r.body.length) false
  have later : (d.store a r.body).keeps e [.poison, .kv] :=
    Dev.keeps_then cleans (lands ▸ Dev.setHeap_keeps _ _ _) (by simp) (by simp)
  refine ⟨fun i h => ?_, fun k h => ?_, Dev.keeps_then stores later (by simp) (by simp)⟩
  · rw [Dev.keeps_mem later rfl, d.byte_store_in r.body a i h]
  · rw [Dev.keeps_mem later rfl, d.byte_store_out r.body a k h]

/-- What the arrival of a reply counts. -/
def Dev.replyCounted (p : Pannier) : Dev := (d.count F.PAN_PULL_CNT_LANDED).total F.PAN_PULL_BYTES_BYTES (64 + field p.hdr 40 8)

theorem Dev.replyCounted_keeps (p : Pannier) : d.keeps (d.replyCounted p) [.regs] :=
  Dev.keeps_trans (d.count_keeps _ 1) (Dev.setFld_keeps _ _ _)

theorem Dev.replyCounted_fld (p : Pannier) : (d.replyCounted p).fld F.PAN_PULL_CNT_LANDED =
    min (d.fld F.PAN_PULL_CNT_LANDED + 1) (2 ^ F.PAN_PULL_CNT_LANDED.width - 1) := by
  rw [Dev.replyCounted, Dev.total, Dev.fld_setFld_ne _ _ _ _ (by decide), d.fld_count_self (by decide)]

theorem Dev.replyCounted_heap (p : Pannier) (pad : Nat) : (d.replyCounted p).heap pad = d.heap pad := rfl

theorem Dev.replyCounted_hbmKey (p : Pannier) (pad off : Nat) : (d.replyCounted p).hbmKey pad off = d.hbmKey pad off := rfl

/-- A request one reply further, which was not its last (R232). -/
def PullReq.replied (q : PullReq) (p : Pannier) (now : Nat) : PullReq :=
  { q with seqs := q.seqs ++ [field p.hdr 32 4], lastSeen := false, progress := now }

/-- A pull in which a request has got a reply of one good region. -/
def Pull.landedOne (pl : Pull) (q : PullReq) (r : PanRegion) : Pull :=
  { pl with reqs := updateFirst (·.pullId == q.pullId) (fun _ => q) pl.reqs
            landed := pl.landed ++ [{ page := r.page, shard := r.shard, desc := [] }] }

/-- A reply of one good region that is not its request's last: the region lands, and the pull, which notes it, waits on. -/
theorem Dev.replyLanded_good {d e : Dev} {p : Pannier} {q : PullReq} {n : ShipNotice} {r : PanRegion} (key : Nat) (pl : Pull)
    (unseen : q.lastSeen = false) (notLast : bit (field p.hdr 5 1) 1 = false) (one : p.regions = [r]) (opens : p.opens = [])
    (good : regionBad r (2 ^ field p.hdr 7 1) = (false, false))
    (lands : (d.replyCounted p).landRegion n.paddock key (2 ^ field p.hdr 7 1) r = e) :
    d.replyLanded p key pl q n = (e.setPull key (pl.landedOne (q.replied p e.now) r)).pullNext key := by
  subst lands
  simp [Dev.replyLanded, one, opens, unseen, notLast, good, Pull.landedOne, PullReq.replied, Dev.replyCounted]

end

/-! ## Pull replies (R221, R231, R232) -/

section
variable {d : Dev} {p : Pannier} (unasked : (d.pan.reparks.find? fun x => x.pullId == field p.hdr 24 4) = none)
include unasked

theorem Dev.replyArrived_unknown (unknown : d.pullOf (field p.hdr 24 4) = none) : d.replyArrived p = d.count F.PAN_PULL_CNT_DUP := by
  simp only [Dev.replyArrived, unasked, unknown]

theorem Dev.replyArrived_known {key : Nat} {pl : Pull} {q : PullReq} {n : ShipNotice}
    (known : d.pullOf (field p.hdr 24 4) = some (key, pl, q)) (new : q.seqs.contains (field p.hdr 32 4) = false)
    (notice : pl.notice = some n) : d.replyArrived p = d.replyLanded p key pl q n := by
  simp only [Dev.replyArrived, unasked, known, new, notice, Bool.false_eq_true, if_false]

end

section
variable {s : State} {p : Pannier} (alive : s.dev.alive = true) (ok : panHeaderOk p = true) (kind : field p.hdr 4 1 = 1)
  (passed : s.dev.verdict (panHdr p) true = .process)
  (unasked : (s.dev.pan.reparks.find? fun x => x.pullId == field p.hdr 24 4) = none)

include alive ok kind passed in
theorem exec_pullReply : exec (.pullReply p) s = .next { s with dev := (s.dev.replyArrived p).tidy } := by
  change execPullReply p s = _
  refine State.onDev_eq alive ?_
  rw [if_neg (by simp [ok, kind]), Dev.receive_process passed]

include alive ok kind passed unasked

theorem does_pullReply_unknown (unknown : s.dev.pullOf (field p.hdr 24 4) = none) : s.does (.pullReply p) fun d =>
    d.fld F.PAN_PULL_CNT_DUP = min (s.dev.fld F.PAN_PULL_CNT_DUP + 1) (2 ^ F.PAN_PULL_CNT_DUP.width - 1) ∧ s.dev.keeps d [.regs] := by
  refine State.does_of_next _ (exec_pullReply alive ok kind passed) ?_
  rw [Dev.replyArrived_unknown unasked unknown, Dev.tidy_fld, Dev.keeps_tidy_iff]
  exact ⟨s.dev.fld_count_self (by decide), s.dev.count_keeps _ 1⟩

theorem does_pullReply_lands {key : Nat} {pl : Pull} {q : PullReq} {n : ShipNotice} {r : PanRegion} {x : Region}
    (known : s.dev.pullOf (field p.hdr 24 4) = some (key, pl, q)) (new : q.seqs.contains (field p.hdr 32 4) = false)
    (notice : pl.notice = some n) (main : pl.state = .main) (heaped : pl.waitHeap = false) (sent : pl.todo = [])
    (unseen : q.lastSeen = false) (notLast : bit (field p.hdr 5 1) 1 = false) (one : p.regions = [r]) (opens : p.opens = [])
    (good : regionBad r (2 ^ field p.hdr 7 1) = (false, false))
    (place : ((s.dev.heap n.paddock).find? fun x => x.key == key && x.use == .page && x.page == r.page && x.shard == r.shard) = some x) :
    s.does (.pullReply p) fun d =>
      (∀ i (h : i < r.body.length), d.byte (s.dev.hbmKey n.paddock x.base + i) = r.body[i]) ∧
      (∀ a, (a < s.dev.hbmKey n.paddock x.base ∨ s.dev.hbmKey n.paddock x.base + r.body.length ≤ a) → d.byte a = s.dev.byte a) ∧
      (∃ pl', d.pull? key = some pl' ∧ pl'.state = .main ∧ pl'.landed = pl.landed ++ [{ page := r.page, shard := r.shard, desc := [] }]) ∧
      d.fld F.PAN_PULL_CNT_LANDED = min (s.dev.fld F.PAN_PULL_CNT_LANDED + 1) (2 ^ F.PAN_PULL_CNT_LANDED.width - 1) ∧
      s.dev.keeps d [.regs, .mem, .poison, .kv, .pan] := by
  have counts := s.dev.replyCounted_keeps p
  obtain ⟨e, landed⟩ : ∃ e, (s.dev.replyCounted p).landRegion n.paddock key (2 ^ field p.hdr 7 1) r = e := ⟨_, rfl⟩
  rw [← s.dev.replyCounted_heap p] at place
  obtain ⟨within, without, stores⟩ := Dev.landRegion_good good place (s.dev.replyCounted_hbmKey p n.paddock x.base) landed
  have reply := Dev.replyLanded_good (q := q) key pl unseen notLast one opens good landed
  have waits : (pl.landedOne (q.replied p e.now) r).reqs ≠ [] := updateFirst_ne_nil (Pull.reqs_ne_nil (Dev.req_of_pullOf known))
  rw [Dev.pullNext_of_open (p := pl.landedOne (q.replied p e.now) r) (e.pull?_setPull_self _ _) notice main heaped sent waits] at reply
  have notes := Dev.keeps_trans (e.setPull_keeps key (pl.landedOne (q.replied p e.now) r))
    (Dev.setPull_keeps _ key { pl.landedOne (q.replied p e.now) r with state := .main })
  refine State.does_of_next _ (exec_pullReply alive ok kind passed) ?_
  rw [Dev.replyArrived_known unasked known new notice, reply]
  simp only [Dev.tidy_byte, Dev.tidy_pull?, Dev.pull?_setPull_self, Dev.tidy_fld, Dev.keeps_tidy_iff, Dev.keeps_mem notes rfl,
    Dev.fld_of_regs (Dev.keeps_regs notes rfl), Dev.fld_of_regs (Dev.keeps_regs stores rfl)]
  refine ⟨within, fun a h => ?_, ⟨_, rfl, rfl, rfl⟩, s.dev.replyCounted_fld p, ?_⟩
  · rw [without a h, Dev.keeps_mem counts rfl]
  · exact Dev.keeps_then (Dev.keeps_then (l := [.regs, .mem, .poison, .kv]) counts stores (by simp) (by simp)) notes (by simp) (by simp)

end

/-! ## Pull refusals (R229, R232, R238) -/

section
variable {s : State} {r : PullNo} (alive : s.dev.alive = true) (passed : s.dev.verdict r.h true = .process)
include alive passed

theorem exec_pullRefusal : exec (.pullRefusal r) s = .next { s with dev := (s.dev.refusalArrived r).tidy } := by
  change execPullRefusal r s = _
  exact State.onDev_eq alive (Dev.receive_process passed _ _ _)

theorem does_pullRefusal_unknown (unasked : (s.dev.pan.reparks.find? fun x => x.pullId == r.pullId) = none)
    (unknown : s.dev.pullOf r.pullId = none) : s.does (.pullRefusal r) fun d => s.dev.keeps d [] := by
  have idle : s.dev.refusalArrived r = s.dev := by simp only [Dev.refusalArrived, unasked, unknown]
  refine State.does_nothing ?_
  rw [exec_pullRefusal alive passed, idle]

/-- A refused re-park ends, and its home is told that the region is not held (R238). -/
theorem does_pullRefusal_repark {x : Repark} (asked : (s.dev.pan.reparks.find? fun x => x.pullId == r.pullId) = some x) :
    s.does (.pullRefusal r) fun d =>
      d.pan.reparks = (s.dev.pan.reparks.filter fun y => y.pullId != x.pullId) ∧
      d.out = s.dev.out ++ [.msg .parkAck (s.dev.resolve x.msg.home) (s.dev.hdrFor x.msg.home 0)
        (ackBytes x.msg.stall x.msg.home s.dev.me x.msg.page x.msg.shard C.PAN_NOT_HELD {})] ∧ s.dev.keeps d [.out, .pan] := by
  have arrived : s.dev.refusalArrived r =
      ({ s.dev with pan.reparks := s.dev.pan.reparks.filter fun y => y.pullId != x.pullId } : Dev).sendAck x.msg.home x.msg.home
        (ackBytes x.msg.stall x.msg.home s.dev.me x.msg.page x.msg.shard C.PAN_NOT_HELD {}) := by
    simp only [Dev.refusalArrived, asked]
  have frame : s.dev.keeps (s.dev.refusalArrived r) [.out, .pan] := by
    rw [arrived]
    exact Dev.keeps_then (s.dev.setPan_keeps _) (Dev.sendAck_keeps _ _ _ _) (by simp) (by simp)
  refine State.does_of_next _ (exec_pullRefusal alive passed) ⟨?_, ?_, Dev.keeps_tidy frame⟩
  · rw [Dev.tidy_pan, arrived, Dev.sendAck_self]
  · rw [Dev.tidy_out, arrived, Dev.sendAck_self]
    rfl

end

/-! ## Pull timeouts (R232) -/

section
variable (d : Dev)

/-- Sending what waits changes no register. -/
theorem Dev.pump_regs (key n : Nat) : (d.pump key n).regs = d.regs := by
  induction n generalizing d with
  | zero => rfl
  | succ n ih =>
    unfold Dev.pump
    split
    · rfl
    · split
      · dsimp only
        split
        · rfl
        · rw [ih, Dev.sendPull, Dev.sendRole_eq]
          rfl
      · rfl

theorem Dev.enterExec_regs (n : ShipNotice) : (d.enterExec n).regs = d.regs := by
  unfold Dev.enterExec
  split <;> rfl

theorem Dev.reportPull_regs (n : ShipNotice) (status : Nat) (lost : List (Nat × Nat)) : (d.reportPull n status lost).regs = d.regs := by
  rw [Dev.reportPull, Dev.sendRole_eq]

/-- What follows when a pull has nothing open counts a rebuild, and changes no other register. -/
theorem Dev.pullNext_fld (key : Nat) {f : Fld} (apart : f.off ≠ F.PAN_RECOVER_CNT_REBUILD.off) : (d.pullNext key).fld f = d.fld f := by
  unfold Dev.pullNext
  split
  · rfl
  · split
    · rfl
    · dsimp only
      split
      · exact Dev.fld_of_regs (d.pump_regs _ _) f
      · split
        · split
          · exact Dev.fld_of_regs (Dev.pump_regs _ _ _) f
          · split
            · rfl
            · split
              · exact Dev.fld_of_regs (Dev.reportPull_regs _ _ _ _) f
              · split
                · rw [Dev.sendRole_eq]
                  exact Dev.fld_setFld_ne _ _ _ _ apart
                · exact Dev.fld_of_regs ((Dev.reportPull_regs _ _ _ _).trans (Dev.enterExec_regs _ _)) f
        · rfl

theorem Dev.notHeld_fld (key : Nat) (q : PullReq) {f : Fld} (apart : f.off ≠ F.PAN_RECOVER_CNT_REBUILD.off) :
    (d.notHeld key q).fld f = d.fld f := by
  unfold Dev.notHeld
  split
  · rfl
  · split
    · rfl
    · dsimp only
      split <;> exact Dev.pullNext_fld _ key apart

end

/-- A pull whose request with an id is sent once more at a beat. -/
def Pull.resent (p : Pull) (pullId now : Nat) : Pull :=
  { p with reqs := updateFirst (·.pullId == pullId) (fun x => { x with resent := true, progress := now }) p.reqs }

theorem Pull.req_resent {p : Pull} {pullId : Nat} {q : PullReq} (req : p.req pullId = some q) (now : Nat) :
    (p.resent pullId now).req pullId = some { q with resent := true, progress := now } := by
  rw [Pull.req] at req
  simp [Pull.req, Pull.resent, find?_updateFirst, req]

section
variable {s : State} {home stall pullId : Nat} {p : Pull} {q : PullReq} (alive : s.dev.alive = true)
  (listed : s.dev.pull? (stallKey home stall) = some p) (req : p.req pullId = some q)
include alive listed req

theorem exec_pullTimeout {e : Dev} (h : (if s.dev.now < q.progress + 2 ^ s.dev.fld F.PAN_RETRY_TIMEOUT_LOG2 then s.dev
    else if !q.resent then (s.dev.setPull (stallKey home stall) (p.resent pullId s.dev.now)).sendPull home stall q
    else (s.dev.raise E.PAN_PULL_TIMEOUT).notHeld (stallKey home stall) q) = e) :
    exec (.pullTimeout home stall pullId) s = .next { s with dev := e.tidy } := by
  change execPullTimeout home stall pullId s = _
  refine State.onDev_eq alive (Eq.trans ?_ h)
  simp only [listed, Option.bind_some, req, Option.map_some]
  rfl

theorem does_pullTimeout_early (early : s.dev.now < q.progress + 2 ^ s.dev.fld F.PAN_RETRY_TIMEOUT_LOG2) :
    s.does (.pullTimeout home stall pullId) fun d => s.dev.keeps d [] :=
  State.does_nothing (exec_pullTimeout alive listed req (if_pos early))

theorem does_pullTimeout_first (late : q.progress + 2 ^ s.dev.fld F.PAN_RETRY_TIMEOUT_LOG2 ≤ s.dev.now) (first : q.resent = false) :
    s.does (.pullTimeout home stall pullId) fun d =>
      (∃ p' q', d.pull? (stallKey home stall) = some p' ∧ p'.req pullId = some q' ∧ q'.resent = true ∧ q'.progress = s.dev.now) ∧
      (∃ args, d.out = s.dev.out ++ [.msg .pullRequest (s.dev.resolve q.src) args []]) ∧ s.dev.keeps d [.out, .pan] := by
  refine State.does_of_next _ (exec_pullTimeout alive listed req ((if_neg (Nat.not_lt.2 late)).trans (if_pos (by simp [first])))) ?_
  have resends := s.dev.setPull_keeps (stallKey home stall) (p.resent pullId s.dev.now)
  rw [Dev.sendPull, Dev.keeps_tidy_iff, Dev.tidy_pull?, Dev.tidy_out]
  refine ⟨⟨p.resent pullId s.dev.now, _, ?_, Pull.req_resent req s.dev.now, rfl, rfl⟩, ?_,
    Dev.keeps_then resends (Dev.sendRole_keeps _ _ _ _ _ _) (by simp) (by simp)⟩
  · rw [Dev.sendRole_eq]
    exact Dev.pull?_setPull_self _ _ _
  · rw [Dev.sendRole_eq]
    exact ⟨_, rfl⟩

theorem does_pullTimeout_second (late : q.progress + 2 ^ s.dev.fld F.PAN_RETRY_TIMEOUT_LOG2 ≤ s.dev.now) (second : q.resent = true) :
    s.does (.pullTimeout home stall pullId) fun d => d.fld E.PAN_PULL_TIMEOUT.bit = 1 := by
  refine State.does_of_next _ (exec_pullTimeout alive listed req ((if_neg (Nat.not_lt.2 late)).trans (if_neg (by simp [second])))) ?_
  rw [Dev.tidy_fld, Dev.notHeld_fld _ _ _ (by decide)]
  exact s.dev.raise_bit _ _ _ _ _ (by decide) (by decide)

end

/-- Settles O43, command by command: panniers with a bad header, park panniers, their acknowledgements, pull requests, replies, refusals
and timeouts. -/
theorem panniersAreParkedServedAndLanded : Obligations.PanniersAreParkedServedAndLanded := by
  refine ⟨?_, ?_, ?_, ?_, ?_, ?_⟩
  · intro s p alive
    refine ⟨fun bad => ⟨does_parkPannier_bad alive bad, does_pullReply_bad alive bad⟩, does_parkPannier_kept alive, ?_⟩
    intro r ok kind passed one
    refine ⟨fun h held => does_parkPannier_again alive ok kind passed one held, does_parkPannier_disabled alive ok kind passed one, ?_⟩
    exact fun pad frames addr d1 desc fresh enabled space good described =>
      does_parkPannier_found alive ok kind passed one fresh enabled space good described
  · intro s a alive passed stored
    refine ⟨fun away other => ⟨does_parkAck_unheld alive passed stored away other,
      fun h held => does_parkAck_departing alive passed stored away other held⟩, ?_⟩
    exact fun x desc home present full read stands unshadowed unplanned unstaged settled =>
      does_parkAck_home alive passed stored home present full read stands unshadowed unplanned unstaged settled
  · intro s q alive passed onePage oneShard late
    exact ⟨does_pullRequest_refused alive passed onePage oneShard, fun h enabled parked held =>
      does_pullRequest_answered alive passed onePage oneShard late enabled parked held⟩
  · intro s p alive ok kind passed unasked
    refine ⟨does_pullReply_unknown alive ok kind passed unasked, ?_⟩
    intro key pl q n r x known new notice main heaped sent unseen notLast one opens good place
    exact does_pullReply_lands alive ok kind passed unasked known new notice main heaped sent unseen notLast one opens good place
  · exact fun s r alive passed => ⟨does_pullRefusal_unknown alive passed, fun x asked => does_pullRefusal_repark alive passed asked⟩
  · exact fun s home stall pullId p q alive listed req => ⟨does_pullTimeout_early alive listed req,
      does_pullTimeout_first alive listed req, does_pullTimeout_second alive listed req⟩

end Sys2Proof.Machine
end

section
/-!
PROOFS of the statement on queries and mutations at their issuer (spec/10_retrieval.md R273, R288 to R296) (O24). First what the shared
operations change, then each command.
-/

namespace Sys2Proof.Machine

/-! ## Host commands by what their chapter answers (R482 to R485) -/

section
variable {s : State} {i : Instr} {k : CmdSpec} {c : HostCmd} {body : Dev → Dev × CmdRes} {e : Dev} {st : Nat} {x : Bytes} {P : Dev → Prop}
  (run : exec i s = s.onDev fun d => d.hostCmd k c body) (alive : s.dev.alive = true) (takes : s.dev.takes k c)
include run alive takes

theorem State.completes_of_done (answer : body (s.dev.taken c) = (e, .done st x)) (h : P e) : s.completes i c st x P :=
  ⟨e, run.trans (State.onDev_eq alive (Dev.hostCmd_done _ k c body e st x takes answer)), h⟩

/-- A chapter may write the completion itself and leave the command, once retired, as one that waits. -/
theorem State.completes_of_wait (answer : body (s.dev.taken c) = (e.completeCmd (cmdRef c) st x, .wait)) (h : P e) :
    s.completes i c st x P :=
  ⟨e, run.trans (State.onDev_eq alive (Dev.hostCmd_wait _ k c body _ takes answer)), h⟩

theorem State.does_of_wait (answer : body (s.dev.taken c) = (e, .wait)) (h : P e.tidy) : s.does i P :=
  State.does_of_next e (run.trans (State.onDev_eq alive (Dev.hostCmd_wait _ k c body e takes answer))) h

end

/-! ## A part that has taken a command -/

section
variable (d : Dev) (c : HostCmd)

@[simp] theorem Dev.taken_srch : (d.taken c).srch = d.srch := d.consume_srch _ _
@[simp] theorem Dev.taken_comp : (d.taken c).comp = d.comp := d.consume_comp _ _
@[simp] theorem Dev.taken_hlt : (d.taken c).hlt = d.hlt := d.consume_hlt _ _
@[simp] theorem Dev.taken_memt : (d.taken c).memt = d.memt := d.consume_memt _ _
@[simp] theorem Dev.taken_cad : (d.taken c).cad = d.cad := d.consume_cad _ _
@[simp] theorem Dev.taken_byte (a : Nat) : (d.taken c).byte a = d.byte a := d.consume_byte _ _ _

@[simp] theorem Dev.put_dmaFail (p : Put) : (d.put p).hif.dmaFail = d.hif.dmaFail := by
  unfold Dev.put; split <;> rfl

@[simp] theorem Dev.taken_dmaFail : (d.taken c).hif.dmaFail = d.hif.dmaFail := by
  simp only [Dev.taken, Dev.consume, Dev.count_hif, Dev.put_dmaFail]
  rfl

/-- Taking a command counts it and changes no other register (R489). -/
theorem Dev.taken_fld {f : Fld} (apart : f.off ≠ F.HIF_CMD_CNT_CONSUMED.off) : (d.taken c).fld f = d.fld f := by
  rw [Dev.taken, Dev.consume, Dev.count, Dev.fld_setFld_ne _ _ _ _ apart, Dev.fld_of_regs (Dev.put_regs _ _)]
  rfl

theorem Dev.taken_flag {f : Fld} (apart : f.off ≠ F.HIF_CMD_CNT_CONSUMED.off) : (d.taken c).flag f = d.flag f := by
  rw [Dev.flag, Dev.flag, d.taken_fld c apart]

/-- While writes to host memory succeed, what is put outside follows what was put there before. -/
theorem Dev.put_eq {d : Dev} (writes : d.hif.dmaFail = false) (p : Put) : d.put p = { d with out := d.out ++ [p] } := by
  simp [Dev.put, writes]

end

/-! ## What the operations of retrieval rest on -/

section
variable (d : Dev)

theorem Dev.setSrch_keeps (x : Srch) : d.keeps { d with srch := x } [.srch] := by
  intro b hb; cases b <;> simp_all [Blk.same, Dev.byte]

theorem Dev.shardOwner_of_srch {x y : Dev} (h : x.srch = y.srch) (index shard : Nat) :
    x.shardOwner index shard = y.shardOwner index shard := by
  rw [Dev.shardOwner, Dev.shardOwner, h]

theorem Dev.openRegion_of_memt {x y : Dev} (h : x.memt = y.memt) (u : Nat) : x.openRegion u = y.openRegion u := by
  simp only [Dev.openRegion, Dev.regionOf, h]

theorem Dev.taken_mapped (c : HostCmd) (a n : Nat) : (d.taken c).mapped a n = d.mapped a n := by
  simp only [Dev.mapped, d.taken_flag c (f := F.MEM_CTRL_EN) (by decide), Dev.openRegion_of_memt (d.taken_memt c)]

theorem Dev.taken_load (c : HostCmd) (a n : Nat) : (d.taken c).load a n = d.load a n := Dev.load_congr (d.taken_byte c) a n

end

theorem Tbl.length_del_le {α : Type} (t : Tbl α) (k : Nat) : (Tbl.del t k).length ≤ t.length := by
  induction t with
  | nil => exact Nat.le_refl _
  | cons p t ih =>
    simp only [Tbl.del, List.length_cons]
    split
    · omega
    · simpa using ih

theorem Tbl.length_put_le {α : Type} (t : Tbl α) (k : Nat) (v : α) : (Tbl.put t k v).length ≤ t.length + 1 := by
  induction t with
  | nil => exact Nat.le_refl _
  | cons p t ih =>
    simp only [Tbl.put]
    split
    · simp
    · split
      · simp
      · simpa using ih

/-! ## SRCH_DIR (R273) -/

/-- A directory with one entry applied. -/
def dirWith (t : Tbl (Nat × Nat)) (b : Bytes) : Tbl (Nat × Nat) :=
  if field b 4 2 = 0xFFFF then Tbl.del t (shardKey (field b 0 1) (field b 2 2))
  else Tbl.put t (shardKey (field b 0 1) (field b 2 2)) (field b 4 2, field b 6 2)

theorem dirWith_self (t : Tbl (Nat × Nat)) (b : Bytes) : Tbl.at? (dirWith t b) (shardKey (field b 0 1) (field b 2 2)) =
    if field b 4 2 = 0xFFFF then none else some (field b 4 2, field b 6 2) := by
  unfold dirWith
  split
  · exact Tbl.at?_del_self _ _
  · exact Tbl.at?_put_self _ _ _

theorem dirWith_ne (t : Tbl (Nat × Nat)) (b : Bytes) {k : Nat} (h : k ≠ shardKey (field b 0 1) (field b 2 2)) :
    Tbl.at? (dirWith t b) k = Tbl.at? t k := by
  unfold dirWith
  split
  · exact Tbl.at?_del_ne _ h
  · exact Tbl.at?_put_ne _ _ h

theorem dirWith_length (t : Tbl (Nat × Nat)) (b : Bytes) : (dirWith t b).length ≤ t.length + 1 := by
  unfold dirWith
  split
  · exact Nat.le_succ_of_le (Tbl.length_del_le _ _)
  · exact Tbl.length_put_le _ _ _

theorem completes_srchDir_one {s : State} {c : HostCmd} {b : Bytes} (alive : s.dev.alive = true)
    (takes : s.dev.takes { rsvOk := argMask true 0 0 0 0, lenOk := fun c => c.hlen % 8 == 0 && decide (c.hlen ≤ 8 * 16384) } c)
    (one : chunks 8 16384 c.data = [b]) (reserved : field b 1 1 = 0) (room : s.dev.srch.dir.length < 16384) :
    s.completes (.srchDir c) c C.OK [] fun e =>
      e.shardOwner (field b 0 1) (field b 2 2) = (if field b 4 2 = 0xFFFF then none else some (field b 4 2, field b 6 2)) ∧
      (∀ k, k ≠ shardKey (field b 0 1) (field b 2 2) → Tbl.at? e.srch.dir k = Tbl.at? s.dev.srch.dir k) ∧
      (s.dev.taken c).keeps e [.srch] := by
  have fits : ¬ 16384 < (dirWith s.dev.srch.dir b).length := Nat.not_lt.2 (Nat.le_trans (dirWith_length _ b) room)
  refine State.completes_of_done (e := { s.dev.taken c with srch.dir := dirWith s.dev.srch.dir b }) (i := .srchDir c) rfl alive takes ?_
    ⟨dirWith_self _ _, fun k hk => dirWith_ne _ _ hk, (s.dev.taken c).setSrch_keeps _⟩
  rw [dirWith] at fits ⊢
  simp only [one, List.foldl_cons, List.foldl_nil, Dev.taken_srch]
  exact if_neg (by simp [reserved, fits])

/-! ## The end of a query (R291, R292) -/

/-- A query's end with a status, counted. -/
def Dev.countEnd (d : Dev) (status : Nat) : Dev :=
  let d := d.count F.SRCH_Q_CNT_DONE
  let d := if status = C.OK_PARTIAL then d.count F.SRCH_Q_CNT_PARTIAL else d
  let d := if status / 256 != 0 then d.count F.SRCH_Q_CNT_FAILED else d
  if status = C.SRCH_TIMEOUT || status = C.OK_PARTIAL then d.setFld F.SRCH_EVT_TIMEOUT 1 else d

/-- The part once a query has been dropped, before its end is counted. -/
def Dev.dropQuery (d : Dev) (qid : Nat) : Dev := { d with srch.queries := Tbl.del d.srch.queries qid }

section
variable (d : Dev) (qid status : Nat)

theorem Dev.setFldIf_keeps (p : Prop) [Decidable p] (f : Fld) (v : Nat) : d.keeps (if p then d.setFld f v else d) [.regs] := by
  split
  · exact d.setFld_keeps f v
  · exact Dev.keeps_refl d _

theorem Dev.setFldIf_fld {f g : Fld} (p : Prop) [Decidable p] (v : Nat) (hf : f.ok = true) (hg : g.ok = true)
    (apart : g.off ≠ f.off ∨ g.off = f.off ∧ g.lo + g.width ≤ f.lo) : (if p then d.setFld f v else d).fld g = d.fld g := by
  split
  · rcases apart with off | ⟨off, below⟩
    · exact d.fld_setFld_ne f g v off
    · exact d.fld_setFld_apart f g v hf hg off (.inl below)
  · rfl

theorem Dev.countEnd_keeps : d.keeps (d.countEnd status) [.regs] :=
  Dev.keeps_trans (Dev.keeps_trans (Dev.keeps_trans (Dev.count_keeps _ _ _) (Dev.setFldIf_keeps _ _ _ _)) (Dev.setFldIf_keeps _ _ _ _))
    (Dev.setFldIf_keeps _ _ _ _)

theorem Dev.countEnd_fld : (d.countEnd status).fld F.SRCH_Q_CNT_DONE =
    min (d.fld F.SRCH_Q_CNT_DONE + 1) (2 ^ F.SRCH_Q_CNT_DONE.width - 1) :=
  calc (d.countEnd status).fld F.SRCH_Q_CNT_DONE
    _ = (d.count F.SRCH_Q_CNT_DONE).fld F.SRCH_Q_CNT_DONE :=
      (Dev.setFldIf_fld _ _ _ (by decide) (by decide) (by decide)).trans
        ((Dev.setFldIf_fld _ _ _ (by decide) (by decide) (by decide)).trans (Dev.setFldIf_fld _ _ _ (by decide) (by decide) (by decide)))
    _ = _ := Dev.fld_count_self _ (by decide)

theorem Dev.dropQuery_keeps : d.keeps (d.dropQuery qid) [.srch] := d.setSrch_keeps _

theorem Dev.dropQuery_self : Tbl.at? (d.dropQuery qid).srch.queries qid = none := Tbl.at?_del_self _ _

end

/-- The end of a query of host software: the result is written and its command completes. -/
theorem Dev.endQuery_host {d : Dev} {qid addr : Nat} {q : Query} {r : CmdRef} (listed : Tbl.at? d.srch.queries qid = some q)
    (src : q.src = .host r addr) (status : Nat) (res : SelRes) : d.endQuery qid status res =
      (((d.dropQuery qid).countEnd status).put (.hostWrite addr (resultRecord q status res))).completeCmd r status (slice q.desc 56 8) := by
  unfold Dev.endQuery
  simp only [listed, src]
  rfl

/-! ## SRCH_QUERY (R288 to R290) -/

/-- A query as it is issued: its beat and its timeout are those of its descriptor, or where it gives none, now and the default. -/
def Dev.newQuery (d : Dev) (src : QuerySrc) (desc : Bytes) (tenant : Nat) (vec : List Nat) (code : Bytes) (subs : List SubQuery) : Query :=
  { src := src, desc := desc, tenant := tenant, qbeat := if field desc 16 8 = 0 then d.now else field desc 16 8, issued := d.now
    timeout := if field desc 24 4 = 0 then 2 ^ d.fld F.SRCH_CTRL_TO_LOG2 else field desc 24 4, vec := vec, code := code, subs := subs }

/-- The part with a new query listed under the next number. -/
def Dev.listQuery (d : Dev) (q : Query) : Dev :=
  { d with srch.nextId := d.srch.nextId + 1, srch.queries := Tbl.put d.srch.queries d.srch.nextId q }

section
variable (d : Dev)

theorem Dev.listQuery_keeps (q : Query) : d.keeps (d.listQuery q) [.srch] := d.setSrch_keeps _

theorem Dev.listQuery_self (q : Query) : Tbl.at? (d.listQuery q).srch.queries d.srch.nextId = some q := Tbl.at?_put_self _ _ _

/-- A query of host software that fails the issuer's checks ends at once with their code. -/
theorem Dev.issueQuery_refused {desc : Bytes} {st : Nat} (bad : queryCheck desc = some st) (r : CmdRef) (addr tenant : Nat)
    (vec : List Nat) (code : Bytes) (ids : List Nat) :
    ∃ e, d.issueQuery (.host r addr) desc tenant vec code ids = e.completeCmd r st (slice desc 56 8) ∧
      Tbl.at? e.srch.queries d.srch.nextId = none ∧ d.keeps e [.regs, .out, .hif, .srch] := by
  have listed := d.listQuery_self (d.newQuery (.host r addr) desc tenant vec code [])
  have lists := d.listQuery_keeps (d.newQuery (.host r addr) desc tenant vec code [])
  have run : d.issueQuery (.host r addr) desc tenant vec code ids =
      (d.listQuery (d.newQuery (.host r addr) desc tenant vec code [])).endQuery d.srch.nextId st { entries := [] } := by
    unfold Dev.issueQuery
    simp only [bad]
    rfl
  generalize d.listQuery (d.newQuery (.host r addr) desc tenant vec code []) = x at listed lists run
  have counts := (x.dropQuery d.srch.nextId).countEnd_keeps st
  have drops := Dev.keeps_then (l := [.regs, .srch]) (x.dropQuery_keeps d.srch.nextId) counts (by simp) (by simp)
  refine ⟨_, run.trans (Dev.endQuery_host listed rfl st _), ?_, ?_⟩
  · rw [Dev.put_srch, Dev.keeps_srch counts rfl, Dev.dropQuery_self]
  · exact Dev.keeps_then (Dev.keeps_then (l := [.regs, .srch]) lists drops (by simp) (by simp)) (Dev.put_keeps _ _) (by simp) (by simp)

/-- A query of one known shard, whose owner is not lost, is listed and sent to that owner. -/
theorem Dev.issueQuery_one {desc : Bytes} {sh o alt : Nat} (ok : queryCheck desc = none) (enabled : d.flag F.SRCH_CTRL_EN = true)
    (wanted : field desc 1 1 ≠ 0) (owned : d.shardOwner (field desc 0 1) sh = some (o, alt)) (present : d.isLost o = false)
    (src : QuerySrc) (tenant : Nat) (vec : List Nat) (code : Bytes) : d.issueQuery src desc tenant vec code [sh] =
      (d.listQuery (d.newQuery src desc tenant vec code [{ shard := sh, asked := o }])).sendQuery d.srch.nextId
        (d.newQuery src desc tenant vec code [{ shard := sh, asked := o }]) sh o := by
  have sent : (d.listQuery (d.newQuery src desc tenant vec code [{ shard := sh, asked := o }])).isLost o = false := present
  unfold Dev.issueQuery
  simp only [ok, enabled, owned, List.map_cons, List.map_nil, Option.map_some, Option.getD_some, List.foldl_cons, List.foldl_nil]
  rw [if_neg (by simp), if_neg (by simp [idsRise]), if_neg (by simp [owned]), if_neg (by simp [wanted])]
  exact if_neg (by rw [← Dev.newQuery, ← Dev.listQuery, sent]; simp)

end

/-- A shard query's number, place and beats, as they are sent. -/
def Query.args (q : Query) (qid shard : Nat) : List Nat := [qid, field q.desc 0 1, shard, q.tenant, q.qbeat, q.issued + q.timeout]

/-- A shard query's descriptor, vector and code, as they are sent. -/
def Query.bytes (q : Query) : Bytes := q.desc ++ q.vec.flatMap (leBytes 4) ++ q.code

theorem Dev.sendQuery_eq (d : Dev) (qid : Nat) (q : Query) (shard dst : Nat) : d.sendQuery qid q shard dst =
    { d with out := d.out ++ [.msg .shardQuery (d.resolve dst) (d.hdrFor dst 0 ++ q.args qid shard) q.bytes] } :=
  Dev.sendRole_eq _ _ _ _ _ _

theorem Dev.sendQuery_keeps (d : Dev) (qid : Nat) (q : Query) (shard dst : Nat) : d.keeps (d.sendQuery qid q shard dst) [.out] :=
  Dev.sendRole_keeps _ _ _ _ _ _

/-- Issuing the query of a command of host software: its vector, code and shard list are read from the unified range (R288). -/
def Dev.issueHost (d : Dev) (c : HostCmd) : Dev :=
  d.issueQuery (.host (cmdRef c) c.a1) c.data (d.cmdRing c.ring).tenant
    (vecOf (field c.data 14 1) (field c.data 12 2)
      (d.load (memKey 4 (field c.data 32 8)) (field c.data 12 2 * (if field c.data 14 1 = 0 then 4 else 2))))
    (if field c.data 40 8 = 0 then [] else d.load (memKey 4 (field c.data 40 8)) 256)
    (shardIds (field c.data 2 2) (d.load (memKey 4 (field c.data 48 8)) (2 * field c.data 2 2)))

theorem Dev.issueHost_one {d : Dev} {c : HostCmd} {sh o alt : Nat} (ok : queryCheck c.data = none)
    (enabled : d.flag F.SRCH_CTRL_EN = true) (one : field c.data 2 2 = 1) (wanted : field c.data 1 1 ≠ 0)
    (named : field (d.load (memKey 4 (field c.data 48 8)) 2) 0 2 = sh) (owned : d.shardOwner (field c.data 0 1) sh = some (o, alt))
    (present : d.isLost o = false) : ∃ q : Query, d.issueHost c = (d.listQuery q).sendQuery d.srch.nextId q sh o ∧
      q.subs = [{ shard := sh, asked := o }] ∧ q.desc = c.data ∧ q.src = .host (cmdRef c) c.a1 ∧ q.issued = d.now := by
  have ids : shardIds 1 (d.load (memKey 4 (field c.data 48 8)) (2 * 1)) = [sh] := congrArg (fun i => [i]) named
  rw [Dev.issueHost, one, ids]
  exact ⟨_, d.issueQuery_one ok enabled wanted owned present _ _ _ _, rfl, rfl, rfl, rfl⟩

section
variable {s : State} {c : HostCmd} (alive : s.dev.alive = true)
  (takes : s.dev.takes { shared := true, rsvOk := argMask true 0 (2 ^ 64 - 1) 0 0, lenOk := fun c => c.hlen == 64 } c)
include alive takes

theorem completes_srchQuery_refused {st : Nat} (bad : queryCheck c.data = some st) :
    s.completes (.srchQuery c) c st (slice c.data 56 8) fun e =>
      Tbl.at? e.srch.queries s.dev.srch.nextId = none ∧ (s.dev.taken c).keeps e [.regs, .out, .hif, .srch] := by
  obtain ⟨e, issued, dropped, kept⟩ := (s.dev.taken c).issueQuery_refused bad (cmdRef c) c.a1 _ _ _ _
  rw [Dev.taken_srch] at dropped
  refine State.completes_of_wait (e := e) (i := .srchQuery c) rfl alive takes ?_ ⟨dropped, kept⟩
  rw [← issued]
  simp only [bad]
  rfl

theorem does_srchQuery_one {sh o alt : Nat} (ok : queryCheck c.data = none) (enabled : s.dev.flag F.SRCH_CTRL_EN = true)
    (one : field c.data 2 2 = 1) (wanted : field c.data 1 1 ≠ 0) (ids : s.dev.mapped (field c.data 48 8) 2 = true)
    (uncoded : field c.data 40 8 = 0)
    (vec : s.dev.mapped (field c.data 32 8) (field c.data 12 2 * (if field c.data 14 1 = 0 then 4 else 2)) = true)
    (named : field (s.dev.load (memKey 4 (field c.data 48 8)) 2) 0 2 = sh)
    (owned : s.dev.shardOwner (field c.data 0 1) sh = some (o, alt)) (present : s.dev.isLost o = false) :
    s.does (.srchQuery c) fun d =>
      (∃ q, Tbl.at? d.srch.queries s.dev.srch.nextId = some q ∧ q.subs = [{ shard := sh, asked := o }] ∧ q.desc = c.data ∧
        q.src = .host (cmdRef c) c.a1 ∧ q.issued = s.dev.now ∧
        .msg .shardQuery (s.dev.resolve o) (s.dev.hdrFor o 0 ++ [s.dev.srch.nextId, field c.data 0 1, sh, q.tenant, q.qbeat,
          q.issued + q.timeout]) (q.desc ++ q.vec.flatMap (leBytes 4) ++ q.code) ∈ d.out) ∧
      d.srch.nextId = s.dev.srch.nextId + 1 ∧ s.dev.keeps d [.regs, .out, .hif, .srch] := by
  obtain ⟨q, issued, subs, desc, src, issuedNow⟩ := Dev.issueHost_one ok ((s.dev.taken_flag c (by decide)).trans enabled) one wanted
    (by rw [Dev.taken_load, named]) ((Dev.shardOwner_of_srch (s.dev.taken_srch c) _ _).trans owned)
    (by rw [Dev.isLost, Dev.taken_hlt]; exact present)
  have lists := Dev.keeps_then (l := [.regs, .out, .hif, .srch]) (s.dev.taken_keeps c) ((s.dev.taken c).listQuery_keeps q)
    (by simp) (by simp)
  have listed := (s.dev.taken c).listQuery_self q
  have next : ((s.dev.taken c).listQuery q).srch.nextId = s.dev.srch.nextId + 1 := congrArg (·.nextId + 1) (s.dev.taken_srch c)
  rw [Dev.taken_srch] at issued listed
  generalize (s.dev.taken c).listQuery q = x at issued lists listed next
  obtain ⟨resolve, hdr⟩ := Dev.address_of_keeps lists rfl rfl rfl o 0
  refine State.does_of_wait (e := (s.dev.taken c).issueHost c) (i := .srchQuery c) rfl alive takes ?_ ?_
  · dsimp only
    split
    · rename_i unmapped
      simp only [one, uncoded, Nat.mul_one, Dev.taken_mapped, ids, vec, Bool.or_true, Bool.true_and, beq_self_eq_true, Bool.true_or,
        Bool.true_eq_false] at unmapped
    · rfl
  · rw [issued, Dev.tidy_srch, Dev.tidy_out, Dev.keeps_tidy_iff, Dev.keeps_srch (x.sendQuery_keeps _ _ _ _) rfl]
    refine ⟨⟨q, listed, subs, desc, src, issuedNow.trans (congrArg Cad.count (s.dev.taken_cad c)), ?_⟩, next,
      Dev.keeps_then lists (x.sendQuery_keeps _ _ _ _) (by simp) (by simp)⟩
    rw [Dev.sendQuery_eq, resolve, hdr, ← desc]
    exact List.mem_append_right _ (List.mem_singleton_self _)

end

/-! ## Answers and resends (R290, R291) -/

/-- The part with a query rewritten. -/
def Dev.putQuery (d : Dev) (qid : Nat) (q : Query) : Dev := { d with srch.queries := Tbl.put d.srch.queries qid q }

theorem Dev.putQuery_keeps (d : Dev) (qid : Nat) (q : Query) : d.keeps (d.putQuery qid q) [.srch] := d.setSrch_keeps _

theorem Dev.putQuery_self (d : Dev) (qid : Nat) (q : Query) : Tbl.at? (d.putQuery qid q).srch.queries qid = some q := Tbl.at?_put_self _ _ _

/-- A query with an answer missing goes on. -/
theorem Dev.tryEnd_of_missing {d : Dev} {qid : Nat} {q : Query} {y : SubQuery} (listed : Tbl.at? d.srch.queries qid = some q)
    (sub : y ∈ q.subs) (missing : y.ans = none) : d.tryEnd qid = d := by
  rw [Dev.tryEnd, listed]
  refine if_neg fun all => ?_
  have answered := List.all_eq_true.1 all y sub
  rw [missing] at answered
  exact Bool.false_ne_true answered

/-- A shard that has not answered is asked at its ALT, once. -/
theorem Dev.askAlt_one {d : Dev} {qid o alt : Nat} {q : Query} {x : SubQuery} (listed : Tbl.at? d.srch.queries qid = some q)
    (subs : q.subs = [x]) (missing : x.ans = none) (unasked : x.alt = false)
    (owned : d.shardOwner (field q.desc 0 1) x.shard = some (o, alt)) (backed : alt ≠ 0xFFFF) : d.askAlt qid x.shard =
      (d.putQuery qid { q with subs := [{ x with alt := true, asked := alt }] }).sendQuery qid
        { q with subs := [{ x with alt := true, asked := alt }] } x.shard alt := by
  have found : [x].find? (·.shard == x.shard) = some x := by simp
  rw [Dev.askAlt, listed]
  simp only [subs, found, owned]
  rw [if_neg (by simp [missing, unasked, backed])]
  simp only [List.map_cons, List.map_nil, beq_self_eq_true, if_true]
  rfl

section
variable {s : State} {qid : Nat} {q : Query} (alive : s.dev.alive = true) (listed : Tbl.at? s.dev.srch.queries qid = some q)
include alive listed

theorem does_shardAnswer_first {sh : Nat} {a : ShardAns} {x y : SubQuery} (subs : q.subs = [x, y]) (asked : x.shard = sh)
    (other : y.shard ≠ sh) (first : x.ans = none) (missing : y.ans = none) (served : a.status ≠ C.SRCH_BUSY) :
    s.does (.shardAnswer qid sh a) fun d =>
      Tbl.at? d.srch.queries qid = some { q with subs := [{ x with ans := some a }, y] } ∧ s.dev.keeps d [.srch] := by
  have answered := s.dev.putQuery_self qid { q with subs := [{ x with ans := some a }, y] }
  have run : exec (.shardAnswer qid sh a) s =
      .next { s with dev := (s.dev.putQuery qid { q with subs := [{ x with ans := some a }, y] }).tidy } := by
    change execShardAnswer qid sh a s = _
    refine State.onDev_eq alive (Eq.trans ?_ (Dev.tryEnd_of_missing answered (by simp) missing))
    have found : [x, y].find? (·.shard == sh) = some x := by simp [asked]
    simp only [listed, subs, found]
    rw [if_neg (by simp [first]), if_neg served]
    simp only [List.map_cons, List.map_nil, asked, beq_self_eq_true, if_true, beq_false_of_ne other, Bool.false_eq_true, if_false]
    rfl
  refine State.does_of_next _ run ?_
  rw [Dev.tidy_srch, Dev.keeps_tidy_iff]
  exact ⟨answered, s.dev.putQuery_keeps _ _⟩

theorem does_altResend_early (early : s.dev.now < q.issued + q.timeout / 2) : s.does (.altResend qid) fun d => s.dev.keeps d [] := by
  refine State.does_nothing ?_
  change execAltResend qid s = _
  refine State.onDev_eq alive ?_
  simp only [listed]
  exact if_pos early

theorem does_altResend_late {x : SubQuery} {o alt : Nat} (late : q.issued + q.timeout / 2 ≤ s.dev.now) (subs : q.subs = [x])
    (missing : x.ans = none) (unasked : x.alt = false) (owned : s.dev.shardOwner (field q.desc 0 1) x.shard = some (o, alt))
    (backed : alt ≠ 0xFFFF) : s.does (.altResend qid) fun d =>
      Tbl.at? d.srch.queries qid = some { q with subs := [{ x with alt := true, asked := alt }] } ∧
      (∃ m, d.out = s.dev.out ++ [.msg .shardQuery (s.dev.resolve alt) (s.dev.hdrFor alt 0 ++ m)
        (q.desc ++ q.vec.flatMap (leBytes 4) ++ q.code)]) ∧ s.dev.keeps d [.out, .srch] := by
  have run : exec (.altResend qid) s = .next { s with dev := (s.dev.askAlt qid x.shard).tidy } := by
    change execAltResend qid s = _
    refine State.onDev_eq alive ?_
    have asked : [x].filter (·.ans.isNone) = [x] := by simp [missing]
    simp only [listed, if_neg (Nat.not_lt.2 late), subs, asked]
    rfl
  refine State.does_of_next _ run ?_
  rw [Dev.tidy_srch, Dev.tidy_out, Dev.keeps_tidy_iff, Dev.askAlt_one listed subs missing unasked owned backed]
  have sends := (s.dev.putQuery qid { q with subs := [{ x with alt := true, asked := alt }] }).sendQuery_keeps qid
    { q with subs := [{ x with alt := true, asked := alt }] } x.shard alt
  rw [Dev.keeps_srch sends rfl]
  refine ⟨s.dev.putQuery_self _ _, ?_, Dev.keeps_then (s.dev.putQuery_keeps _ _) sends (by simp) (by simp)⟩
  rw [Dev.sendQuery_eq]
  exact ⟨_, rfl⟩

theorem does_queryTimeout_early (early : s.dev.now < q.issued + q.timeout) : s.does (.queryTimeout qid) fun d => s.dev.keeps d [] := by
  refine State.does_nothing ?_
  change execQueryTimeout qid s = _
  refine State.onDev_eq alive ?_
  simp only [listed]
  exact if_pos early

theorem exec_queryTimeout_late {addr : Nat} {r : CmdRef} (late : q.issued + q.timeout ≤ s.dev.now) (src : q.src = .host r addr)
    (writes : s.dev.hif.dmaFail = false) :
    ∃ e : Dev, exec (.queryTimeout qid) s = .next { s with dev := (e.completeCmd r (queryResult q).1 (slice q.desc 56 8)).tidy } ∧
      Tbl.at? e.srch.queries qid = none ∧
      e.out = s.dev.out ++ [.hostWrite addr (resultRecord q (queryResult q).1 (queryResult q).2)] ∧
      e.fld F.SRCH_Q_CNT_DONE = min (s.dev.fld F.SRCH_Q_CNT_DONE + 1) (2 ^ F.SRCH_Q_CNT_DONE.width - 1) ∧
      s.dev.keeps e [.regs, .out, .srch] := by
  have run : exec (.queryTimeout qid) s = .next { s with dev := (s.dev.endQuery qid (queryResult q).1 (queryResult q).2).tidy } := by
    change execQueryTimeout qid s = _
    refine State.onDev_eq alive ?_
    simp only [listed]
    exact if_neg (Nat.not_lt.2 late)
  rw [Dev.endQuery_host listed src] at run
  have counts := (s.dev.dropQuery qid).countEnd_keeps (queryResult q).1
  have counted := (s.dev.dropQuery qid).countEnd_fld (queryResult q).1
  have ends := Dev.keeps_then (l := [.regs, .srch]) (s.dev.dropQuery_keeps qid) counts (by simp) (by simp)
  generalize (s.dev.dropQuery qid).countEnd (queryResult q).1 = x at run counts counted ends
  rw [Dev.put_eq ((congrArg Hif.dmaFail (Dev.keeps_hif ends rfl)).trans writes)] at run
  refine ⟨_, run, ?_, ?_, counted, Dev.keeps_then ends (x.setOut_keeps _) (by simp) (by simp)⟩
  · exact (congrArg (fun y : Srch => Tbl.at? y.queries qid) (Dev.keeps_srch counts rfl)).trans (s.dev.dropQuery_self qid)
  · exact congrArg (· ++ _) (Dev.keeps_out ends rfl)

end

/-! ## Passages (R294, R295) -/

@[simp] theorem Dev.tidy_stall? (d : Dev) (k : Nat) : d.tidy.stall? k = d.stall? k := Dev.stall?_of_stl d.tidy_stl k

theorem does_passageRead_spliced {s : State} {k : Nat} {reads : List PassageRead} {x : Stall} {b : Bytes} (alive : s.dev.alive = true)
    (present : s.dev.stall? k = some x) (retrieve : x.retrieve = some b) (intake : x.r.state = .intake) (unspliced : x.spliced = false)
    (ended : x.query = none) (nonempty : x.found ≠ []) (all : reads.map (·.global) = x.found)
    (single : s.dev.flag F.HLT_TANDEM_EN = false) : s.does (.passageRead k reads) fun d =>
      d.stall? k = some { x with passages := spliceTokens (field b 8 4) (field b 12 4) 0 reads, spliced := true } ∧
      (∀ j, j ≠ k → d.stall? j = s.dev.stall? j) ∧ s.dev.keeps d [.stl] := by
  have run : exec (.passageRead k reads) s = .next { s with dev :=
      (s.dev.putStall k { x with passages := spliceTokens (field b 8 4) (field b 12 4) 0 reads, spliced := true }).tidy } := by
    change execPassageRead k reads s = _
    refine State.onDev_eq alive ?_
    simp only [present, retrieve]
    rw [if_neg (by simp [intake, unspliced, ended, nonempty, all])]
    exact if_neg (by rw [Dev.flag] at single ⊢; exact Bool.eq_false_iff.1 single)
  refine State.does_of_next _ run ?_
  simp only [Dev.tidy_stall?, Dev.keeps_tidy_iff]
  exact ⟨Dev.stall?_putStall_self _ _ _, fun j hj => Dev.stall?_putStall_ne _ _ hj, s.dev.setStl_keeps _⟩

/-! ## SRCH_MUTATE and the answers of its records (R296) -/

/-- The part with a new mutation command of one record listed under the next number. -/
def Dev.listMut (d : Dev) (c : HostCmd) : Dev :=
  { d with srch.nextId := d.srch.nextId + 1
           srch.muts := Tbl.put d.srch.muts d.srch.nextId { cmd := cmdRef c, addr := c.a1, count := 1, missing := [0] } }

theorem Dev.listMut_keeps (d : Dev) (c : HostCmd) : d.keeps (d.listMut c) [.srch] := d.setSrch_keeps _

theorem Dev.sendRecord_owned {d : Dev} {b : Bytes} {o alt : Nat} (owned : d.shardOwner (field b 1 1) (field b 2 2) = some (o, alt))
    (present : d.isLost o = false) (id pos : Nat) : d.sendRecord id pos b = d.sendRole .mutation o 0 [id, pos] b := by
  rw [Dev.sendRecord, owned]
  simp only [present, Bool.false_and, Bool.false_eq_true, if_false]

section
variable {s : State} {c : HostCmd} (alive : s.dev.alive = true)
  (takes : s.dev.takes { shared := true, rsvOk := argMask true 0 (2 ^ 64 - 1) 0 0
                         lenOk := fun c => c.hlen % 48 == 0 && decide (c.hlen ≤ 48 * 4096) } c)
include alive takes

theorem completes_srchMutate_nothing (nothing : chunks 48 4096 c.data = []) :
    s.completes (.srchMutate c) c C.OK (leBytes 4 0) fun e => (s.dev.taken c).keeps e [] := by
  refine State.completes_of_done (e := s.dev.taken c) (i := .srchMutate c) rfl alive takes ?_ (Dev.keeps_refl _ _)
  simp only [nothing]
  rfl

theorem does_srchMutate_one {b : Bytes} {o alt : Nat} (one : chunks 48 4096 c.data = [b]) (enabled : s.dev.flag F.SRCH_CTRL_EN = true)
    (ok : mutOk b = true) (owned : s.dev.shardOwner (field b 1 1) (field b 2 2) = some (o, alt)) (present : s.dev.isLost o = false) :
    s.does (.srchMutate c) fun d =>
      Tbl.at? d.srch.muts s.dev.srch.nextId = some { cmd := cmdRef c, addr := c.a1, count := 1, missing := [0] } ∧
      .msg .mutation (s.dev.resolve o) (s.dev.hdrFor o 0 ++ [s.dev.srch.nextId, 0]) b ∈ d.out ∧
      s.dev.keeps d [.regs, .out, .hif, .srch] := by
  have lists := Dev.keeps_then (l := [.regs, .out, .hif, .srch]) (s.dev.taken_keeps c) ((s.dev.taken c).listMut_keeps c) (by simp) (by simp)
  have listed : Tbl.at? ((s.dev.taken c).listMut c).srch.muts (s.dev.taken c).srch.nextId =
    some { cmd := cmdRef c, addr := c.a1, count := 1, missing := [0] } := Tbl.at?_put_self _ _ _
  have owner : ((s.dev.taken c).listMut c).shardOwner (field b 1 1) (field b 2 2) = some (o, alt) :=
    (Dev.shardOwner_of_srch (s.dev.taken_srch c) _ _).trans owned
  have stays : ((s.dev.taken c).listMut c).isLost o = false := by rw [Dev.isLost, Dev.keeps_hlt lists rfl]; exact present
  have sent := Dev.sendRecord_owned owner stays (s.dev.taken c).srch.nextId 0
  have on : ((s.dev.taken c).listMut c).flag F.SRCH_CTRL_EN = true := (s.dev.taken_flag c (by decide)).trans enabled
  refine State.does_of_wait (i := .srchMutate c) rfl alive takes
    (e := ((s.dev.taken c).listMut c).sendRecord (s.dev.taken c).srch.nextId 0 b) ?_ ?_
  · simp only [one]
    have records : [b].zipIdx = [(b, 0)] := rfl
    rw [if_neg (by simp), records]
    refine congrArg (·, CmdRes.wait) ((if_neg ?_).trans (if_neg ?_))
    · rw [Bool.not_eq_true']
      exact fun off => Bool.false_ne_true (off.symm.trans on)
    · rw [ok]
      decide
  · rw [sent, Dev.tidy_srch, Dev.tidy_out, Dev.keeps_tidy_iff]
    rw [Dev.taken_srch] at listed ⊢
    generalize (s.dev.taken c).listMut c = x at listed lists
    have sends := x.sendRole_keeps .mutation o 0 [s.dev.srch.nextId, 0] b
    obtain ⟨resolve, hdr⟩ := Dev.address_of_keeps lists rfl rfl rfl o 0
    rw [Dev.keeps_srch sends rfl]
    refine ⟨listed, ?_, Dev.keeps_then lists sends (by simp) (by simp)⟩
    rw [Dev.sendRole_eq, resolve, hdr]
    exact List.mem_append_right _ (List.mem_singleton_self _)

end

/-- The part once a mutation command has its last answer. -/
def Dev.dropMut (d : Dev) (cmd : Nat) : Dev := { d with srch.muts := Tbl.del d.srch.muts cmd }

theorem Dev.dropMut_keeps (d : Dev) (cmd : Nat) : d.keeps (d.dropMut cmd) [.srch] := d.setSrch_keeps _

theorem Dev.dropMut_self (d : Dev) (cmd : Nat) : Tbl.at? (d.dropMut cmd).srch.muts cmd = none := Tbl.at?_del_self _ _

theorem exec_mutationAnswer_last {s : State} {cmd pos : Nat} {m : MutCmd} (alive : s.dev.alive = true)
    (listed : Tbl.at? s.dev.srch.muts cmd = some m) (last : m.missing = [pos]) (writes : s.dev.hif.dmaFail = false) (body : Bytes) :
    ∃ e : Dev, exec (.mutationAnswer (.answer cmd pos body)) s =
        .next { s with dev := (e.completeCmd m.cmd C.OK (leBytes 4 m.count)).tidy } ∧
      Tbl.at? e.srch.muts cmd = none ∧ e.out = s.dev.out ++ [.hostWrite (m.addr + 32 * pos) body] ∧ s.dev.keeps e [.out, .srch] := by
  refine ⟨({ s.dev with out := s.dev.out ++ [.hostWrite (m.addr + 32 * pos) body] } : Dev).dropMut cmd, ?_, Dev.dropMut_self _ _, rfl,
    Dev.keeps_then (s.dev.setOut_keeps _) (Dev.dropMut_keeps _ _) (by simp) (by simp)⟩
  change execMutationAnswer (.answer cmd pos body) s = _
  refine State.onDev_eq alive ?_
  simp only [Dev.mutAnswered, listed]
  rw [if_neg (by simp [last]), Dev.put_eq writes]
  exact if_pos (by simp [last])

/-- Settles O24, command by command: directory entries, queries, their answers, resends and timeouts, passages, mutations and their
answers. -/
theorem queriesAndMutationsAtTheirIssuer : Obligations.QueriesAndMutationsAtTheirIssuer := by
  refine ⟨?_, ?_, ?_, ?_, ?_, ?_, ?_, ?_⟩
  · exact fun s c b alive takes one reserved room => completes_srchDir_one alive takes one reserved room
  · refine fun s c alive takes => ⟨fun st bad => completes_srchQuery_refused alive takes bad, ?_⟩
    exact fun sh o alt ok enabled _ one wanted ids uncoded vec named owned present =>
      does_srchQuery_one alive takes ok enabled one wanted ids uncoded vec named owned present
  · exact fun s qid sh a q x y alive listed subs asked other first missing served =>
      does_shardAnswer_first alive listed subs asked other first missing served
  · refine fun s qid q alive listed => ⟨does_altResend_early alive listed, ?_⟩
    exact fun x o alt late subs missing unasked owned backed _ => does_altResend_late alive listed late subs missing unasked owned backed
  · exact fun s qid addr q r alive listed => ⟨does_queryTimeout_early alive listed, exec_queryTimeout_late alive listed⟩
  · exact fun s k reads x b alive present retrieve intake unspliced ended nonempty all single =>
      does_passageRead_spliced alive present retrieve intake unspliced ended nonempty all single
  · refine fun s c alive takes => ⟨completes_srchMutate_nothing alive takes, ?_⟩
    exact fun b o alt one enabled ok _ owned present => does_srchMutate_one alive takes one enabled ok owned present
  · exact fun s cmd pos body m alive listed last writes => exec_mutationAnswer_last alive listed last writes body

end Sys2Proof.Machine
end

section
/-!
PROOFS of the statement on shards, walks and mutations at the owner (spec/10_retrieval.md R272 to R301) (O25). First the writes of a shard's
memory where every open region is pinned in HBM, then each command.
-/

namespace Sys2Proof.Machine

/-! ## Writes of a shard's memory (R275 to R277, R312) -/

section
variable {d e x y : Dev}

theorem Dev.unit_of_memt (h : x.memt = y.memt) (u : Nat) : x.unit u = y.unit u := by
  have regions : x.regionOf = y.regionOf := by funext v; rw [Dev.regionOf, Dev.regionOf, h]
  have start : x.unitDef = y.unitDef := by funext v; rw [Dev.unitDef, Dev.unitDef, regions]
  rw [Dev.unit, Dev.unit, start, h]

/-- That every open region is pinned in HBM depends on the tiers alone. -/
theorem Dev.flat_of_memt (flat : d.flat) (h : e.memt = d.memt) : e.flat := by
  intro u r opened
  rw [Dev.openRegion_of_memt h] at opened
  rw [Dev.unit_of_memt h]
  exact flat u r opened

/-- Writing back a unit as it is leaves every unit as it is. -/
theorem Dev.unit_setUnit_same (u v : Nat) : (d.setUnit u (d.unit u)).unit v = d.unit v := by
  by_cases h : v = u
  · rw [h, Dev.unit_setUnit_self]
  · exact Tbl.rd_wr_ne d.unitDef d.memt.units (d.unit u) h

theorem Dev.flat.setUnit_same (flat : d.flat) (u : Nat) : (d.setUnit u (d.unit u)).flat := by
  intro v r opened
  rw [Dev.unit_setUnit_same]
  exact flat v r opened

/-- A touch of a unit of a region that is pinned in HBM and has no backing writes the unit back as it is, or does nothing. -/
theorem Dev.flat.touchUnit (flat : d.flat) (w : Bool) (u : Nat) :
    d.touchUnit w u = d ∨ d.touchUnit w u = d.setUnit u (d.unit u) := by
  unfold Dev.touchUnit
  split
  · exact .inl rfl
  · rename_i r opened
    obtain ⟨pinned, unbacked, hbm⟩ := flat u r opened
    cases w with
    | false => simp [Dev.warmed, pinned, hbm]
    | true => simp [Dev.warmed, pinned, hbm, Dev.storedTo, unbacked]

/-- What a part may become by writes of memory where every open region is pinned in HBM. -/
structure Dev.Writes (x y : Dev) : Prop where
  keeps : x.keeps y [.mem, .poison, .memt]
  flat : y.flat

theorem Dev.Writes.refl (flat : x.flat) : x.Writes x := ⟨Dev.keeps_refl x _, flat⟩

theorem Dev.Writes.trans {z : Dev} (h : x.Writes y) (k : y.Writes z) : x.Writes z := ⟨Dev.keeps_trans h.keeps k.keeps, k.flat⟩

theorem Dev.Writes.foldl {α : Type} {f : Dev → α → Dev} (step : ∀ y a, x.Writes y → x.Writes (f y a)) (h : x.Writes y) (l : List α) :
    x.Writes (l.foldl f y) := by
  induction l generalizing y with
  | nil => exact h
  | cons a t ih => exact ih (step y a h)

theorem Dev.Writes.ite {p : Prop} [Decidable p] {z : Dev} (h : x.Writes y) (k : x.Writes z) : x.Writes (if p then y else z) := by
  split
  · exact h
  · exact k

theorem Dev.Writes.touchUnit (h : x.Writes y) (w : Bool) (u : Nat) : x.Writes (y.touchUnit w u) := by
  rcases h.flat.touchUnit w u with same | back
  · rw [same]; exact h
  · rw [back]
    exact h.trans ⟨Dev.keeps_mono (y.setUnit_keeps _ _) (by simp), h.flat.setUnit_same u⟩

theorem Dev.Writes.touchKey (h : x.Writes y) (k n : Nat) (w : Bool) : x.Writes (y.touchKey k n w) := by
  unfold Dev.touchKey Dev.touch
  exact Dev.Writes.ite (Dev.Writes.foldl (fun y u h => h.touchUnit w u) h _) h

theorem Dev.Writes.store (h : x.Writes y) (a : Nat) (l : Bytes) : x.Writes (y.store a l) :=
  have stores := y.store_keeps a l
  h.trans ⟨Dev.keeps_mono stores (by simp), Dev.flat_of_memt h.flat (Dev.keeps_memt stores rfl)⟩

theorem Dev.Writes.storeP (h : x.Writes y) (a : Nat) (l : Bytes) (p : Bool) : x.Writes (y.storeP a l p) :=
  have stores := y.storeP_keeps a l p
  h.trans ⟨Dev.keeps_mono stores (by simp), Dev.flat_of_memt h.flat (Dev.keeps_memt stores rfl)⟩

theorem Dev.Writes.setRow (h : x.Writes y) (hdr : Bytes) (i : Nat) (es : List (Nat × Nat)) : x.Writes (y.setRow hdr i es) :=
  (h.storeP _ _ _).touchKey _ _ _

theorem Dev.Writes.setAttr (h : x.Writes y) (hdr : Bytes) (i : Nat) (a : Bytes) : x.Writes (y.setAttr hdr i a) :=
  (h.store _ _).touchKey _ _ _

end

/-! ## Shards in their table -/

section
variable (d : Dev)

theorem Dev.putShard_keeps (index shard : Nat) (x : ShardRec) : d.keeps (d.putShard index shard x) [.srch] := d.setSrch_keeps _

theorem Dev.putShard_contexts (index shard : Nat) (x : ShardRec) : (d.putShard index shard x).srch.contexts = d.srch.contexts := rfl

theorem Dev.shard?_putShard_self (index shard : Nat) (x : ShardRec) : (d.putShard index shard x).shard? index shard = some x :=
  Tbl.at?_put_self _ _ _

theorem Dev.shard?_of_srch {x y : Dev} (h : x.srch = y.srch) (index shard : Nat) : x.shard? index shard = y.shard? index shard := by
  rw [Dev.shard?, Dev.shard?, h]

theorem Dev.shardBusy_of_srch_hlt {x y : Dev} (waiting : x.srch.waiting = y.srch.waiting) (contexts : x.srch.contexts = y.srch.contexts)
    (hlt : x.hlt = y.hlt) (key : Nat) : x.shardBusy key = y.shardBusy key := by
  rw [Dev.shardBusy, Dev.shardBusy, waiting, contexts, hlt]

theorem foldl_eq_self {α β : Type} {f : α → β → α} {a : α} {l : List β} (h : ∀ b ∈ l, f a b = a) : l.foldl f a = a := by
  induction l with
  | nil => rfl
  | cons b t ih => rw [List.foldl_cons, h b (by simp), ih fun c hc => h c (by simp [hc])]

/-- Where no shard is being detached, none is removed (R274). -/
theorem Dev.finishDetach_of_none {d : Dev} (none : ∀ y ∈ d.srch.shards, y.2.detaching = none) : d.finishDetach = d :=
  foldl_eq_self fun y hy => by rw [none y hy]

/-- The only shard, when it is being detached and nothing of it is in flight, is removed, and its command completes. -/
theorem Dev.finishDetach_one {d : Dev} {key : Nat} {x : ShardRec} {r : CmdRef} (one : d.srch.shards = [(key, x)])
    (detaching : x.detaching = some r) (idle : d.shardBusy key = false) :
    d.finishDetach = ({ d with srch.shards := [] } : Dev).completeCmd r C.OK [] := by
  rw [Dev.finishDetach, one, List.foldl_cons, List.foldl_nil]
  simp only [detaching, idle, Bool.false_eq_true, if_false, one, Tbl.del, if_true]

theorem Tbl.mem_of_at? {α : Type} {t : Tbl α} {k : Nat} {v : α} (h : Tbl.at? t k = some v) : (k, v) ∈ t := by
  induction t with
  | nil => cases h
  | cons p t ih =>
    obtain ⟨j, u⟩ := p
    rw [Tbl.at?] at h
    split at h
    · rename_i same
      cases h
      rw [same]
      exact List.mem_cons_self
    · exact List.mem_cons_of_mem _ (ih h)

end

/-! ## SRCH_ATTACH and SRCH_DETACH (R272 to R278) -/

section
variable (d : Dev)

theorem Dev.fillRange_keeps (a n : Nat) (cells : List (Nat × Byte)) : d.keeps (d.fillRange a n cells) [.mem] := by
  intro b hb; cases b <;> simp_all [Blk.same, Dev.fillRange]

theorem Dev.initShard_keeps (h : Bytes) : d.keeps (d.initShard h) [.mem, .poison] := by
  have fill (x : Dev) (a n : Nat) (cells : List (Nat × Byte)) :
      x.keeps ((x.fillRange (memKey 4 a) n cells).cleanLines (memKey 4 a) n) [.mem, .poison] :=
    Dev.keeps_then (x.fillRange_keeps _ _ _) (Dev.cleanLines_keeps _ _ _) (by simp) (by simp)
  exact Dev.keeps_trans (Dev.keeps_trans (fill d _ _ _) (fill _ _ _ _)) (fill _ _ _ _)

theorem Dev.taken_pinnedHbm (c : HostCmd) (a n : Nat) : (d.taken c).pinnedHbm a n = d.pinnedHbm a n := by
  simp only [Dev.pinnedHbm, Dev.openRegion_of_memt (d.taken_memt c)]

end

section
variable {s : State} {c : HostCmd} (alive : s.dev.alive = true) (takes : s.dev.takes (recSpec 128 0 0) c)
include alive takes

theorem completes_srchAttach_disabled (disabled : s.dev.flag F.SRCH_CTRL_EN = false) :
    s.completes (.srchAttach c) c C.SRCH_NO_SHARD [] fun e => (s.dev.taken c).keeps e [] := by
  refine State.completes_of_done (e := s.dev.taken c) (i := .srchAttach c) rfl alive takes (if_pos ?_) (Dev.keeps_refl _ _)
  rw [s.dev.taken_flag c (by decide), disabled]
  rfl

theorem completes_srchAttach_role (enabled : s.dev.flag F.SRCH_CTRL_EN = true) (role : s.dev.comp.role ≠ 3) :
    s.completes (.srchAttach c) c C.SRCH_ROLE [] fun e => (s.dev.taken c).keeps e [] := by
  refine State.completes_of_done (e := s.dev.taken c) (i := .srchAttach c) rfl alive takes ((if_neg ?_).trans (if_pos ?_))
    (Dev.keeps_refl _ _)
  · rw [s.dev.taken_flag c (by decide), enabled]
    decide
  · rw [Dev.taken_comp]
    exact bne_iff_ne.2 role

theorem completes_srchAttach_fresh (enabled : s.dev.flag F.SRCH_CTRL_EN = true) (role : s.dev.comp.role = 3)
    (ok : shardHdrOk c.data = true) (binary : shProduct c.data = false) (fresh : bit (field c.data 5 1) 1 = true)
    (pinned : ((shardRanges c.data).dropLast.all fun r => s.dev.pinnedHbm r.1 r.2) = true)
    (apart : rangesApart (shardRanges c.data) = true) (new : s.dev.shard? (field c.data 4 1) (field c.data 6 2) = none)
    (room : s.dev.srch.shards.length < 64) : s.completes (.srchAttach c) c C.OK [] fun e =>
      e.shard? (field c.data 4 1) (field c.data 6 2) = some { hdr := c.data, entries := [] } ∧
      (∀ k, k ≠ shardKey (field c.data 4 1) (field c.data 6 2) → Tbl.at? e.srch.shards k = Tbl.at? s.dev.srch.shards k) ∧
      (s.dev.taken c).keeps e [.mem, .poison, .srch] := by
  have inits := (s.dev.taken c).initShard_keeps c.data
  have shards : ((s.dev.taken c).initShard c.data).srch.shards = s.dev.srch.shards := by
    rw [Dev.keeps_srch inits rfl, Dev.taken_srch]
  refine State.completes_of_done (i := .srchAttach c) rfl alive takes
    (e := ((s.dev.taken c).initShard c.data).putShard (field c.data 4 1) (field c.data 6 2) { hdr := c.data, entries := [] })
    ((if_neg ?_).trans ((if_neg ?_).trans ((if_neg ?_).trans ((if_neg ?_).trans ?_)))) ?_
  · rw [s.dev.taken_flag c (by decide), enabled]
    decide
  · rw [Dev.taken_comp, role]
    decide
  · simp only [Dev.taken_pinnedHbm, ok, pinned, apart]
    decide
  · rw [Dev.shard?_of_srch (s.dev.taken_srch c), new, Dev.taken_srch, decide_eq_false (Nat.not_le.2 room)]
    decide
  · simp only [fresh, if_true, Dev.writePairs, binary]
    rfl
  · refine ⟨Dev.shard?_putShard_self _ _ _ _, fun k hk => ?_, Dev.keeps_then inits (Dev.putShard_keeps _ _ _ _) (by simp) (by simp)⟩
    rw [← shards]
    exact Tbl.at?_put_ne _ _ hk

end

section
variable {s : State} {c : HostCmd} (alive : s.dev.alive = true) (takes : s.dev.takes (argSpec 0xFFFFFF 0 0) c)
include alive takes

theorem completes_srchDetach_unknown (unknown : s.dev.shard? (bits c.a0 7 0) (bits c.a0 23 8) = none) :
    s.completes (.srchDetach c) c C.SRCH_NO_SHARD [] fun e => (s.dev.taken c).keeps e [] := by
  refine State.completes_of_done (e := s.dev.taken c) (i := .srchDetach c) rfl alive takes ?_ (Dev.keeps_refl _ _)
  simp only [Dev.shard?_of_srch (s.dev.taken_srch c), unknown]

theorem completes_srchDetach_idle {x : ShardRec} (one : s.dev.srch.shards = [(shardKey (bits c.a0 7 0) (bits c.a0 23 8), x)])
    (attached : x.detaching = none) (idle : s.dev.shardBusy (shardKey (bits c.a0 7 0) (bits c.a0 23 8)) = false) :
    s.completes (.srchDetach c) c C.OK [] fun e => e.srch.shards = [] ∧ (s.dev.taken c).keeps e [.srch] := by
  have known : (s.dev.taken c).shard? (bits c.a0 7 0) (bits c.a0 23 8) = some x := by
    rw [Dev.shard?, Dev.taken_srch, one, Tbl.at?, if_pos rfl]
  obtain ⟨y, marked⟩ : ∃ y, (s.dev.taken c).putShard (bits c.a0 7 0) (bits c.a0 23 8) { x with detaching := some (cmdRef c) } = y :=
    ⟨_, rfl⟩
  have marks : (s.dev.taken c).keeps y [.srch] := by
    rw [← marked]; exact Dev.putShard_keeps _ _ _ _
  have shards : y.srch.shards = [(shardKey (bits c.a0 7 0) (bits c.a0 23 8), { x with detaching := some (cmdRef c) })] := by
    rw [← marked, Dev.putShard, Dev.taken_srch, one, Tbl.put, if_neg (Nat.lt_irrefl _), if_pos rfl]
  have still : y.shardBusy (shardKey (bits c.a0 7 0) (bits c.a0 23 8)) = false := by
    rw [← idle, ← marked]
    exact Dev.shardBusy_of_srch_hlt (congrArg Srch.waiting (s.dev.taken_srch c)) (congrArg Srch.contexts (s.dev.taken_srch c))
      (s.dev.taken_hlt c) _
  refine State.completes_of_wait (i := .srchDetach c) (e := { y with srch.shards := [] }) rfl alive takes ?_
    ⟨rfl, Dev.keeps_trans marks (y.setSrch_keeps _)⟩
  rw [← Dev.finishDetach_one shards rfl still, ← marked]
  simp only [known, attached]
  rfl

end

/-! ## Messages of retrieval -/

section
variable (d : Dev)

theorem Dev.send_eq (k : MsgKind) (dst : Nat) (args : List Nat) (data : Bytes) :
    d.send k dst args data = { d with out := d.out ++ [.msg k dst args data] } := by
  simp [Dev.send, Dev.put, Put.toHost]

theorem Dev.send_keeps_out (k : MsgKind) (dst : Nat) (args : List Nat) (data : Bytes) : d.keeps (d.send k dst args data) [.out] := by
  rw [Dev.send_eq]; exact d.setOut_keeps _

theorem Dev.sendShardAnswer_eq (q : ShardQuery) (a : ShardAns) : d.sendShardAnswer q a =
    { d with out := d.out ++ [.msg .shardAnswer q.h.src
      ([q.qid, q.shard, a.status, a.tieOut, a.scored, a.expanded] ++ a.entries.flatMap fun e => [e.1, e.2]) []] } :=
  d.send_eq _ _ _ _

theorem Dev.sendShardAnswer_keeps (q : ShardQuery) (a : ShardAns) : d.keeps (d.sendShardAnswer q a) [.out] := d.send_keeps_out _ _ _ _

end

/-! ## Shard queries and their walks (R280 to R290) -/

section
variable {s : State} {q : ShardQuery} (alive : s.dev.alive = true) (passed : s.dev.verdict q.h false = .process)
include alive passed

theorem exec_shardQuery : exec (.shardQuery q) s = .next { s with dev := (s.dev.queryArrived q).tidy } := by
  change execShardQuery q s = _
  exact State.onDev_eq alive (Dev.receive_process passed _ _ _)

theorem does_shardQuery_disabled (disabled : s.dev.flag F.SRCH_CTRL_EN = false) : s.does (.shardQuery q) fun d =>
    d.out = s.dev.out ++ [.msg .shardAnswer q.h.src [q.qid, q.shard, C.SRCH_NO_SHARD, 0, 0, 0] []] ∧ s.dev.keeps d [.out] := by
  have refused : s.dev.shardCheck q = some C.SRCH_NO_SHARD := by
    rw [Dev.shardCheck, disabled]
    rfl
  have answered : s.dev.queryArrived q = s.dev.sendShardAnswer q { status := C.SRCH_NO_SHARD } := by
    rw [Dev.queryArrived, refused]
    exact congrArg (fun d : Dev => d.sendShardAnswer q { status := C.SRCH_NO_SHARD }) (if_neg (by decide))
  refine State.does_of_next _ (exec_shardQuery alive passed) ?_
  rw [answered, Dev.tidy_out, Dev.keeps_tidy_iff]
  exact ⟨congrArg Dev.out (s.dev.sendShardAnswer_eq q _), s.dev.sendShardAnswer_keeps _ _⟩

theorem does_shardQuery_waits (ok : s.dev.shardCheck q = none) : s.does (.shardQuery q) fun d =>
    d.srch = { s.dev.srch with nextId := s.dev.srch.nextId + 1, waiting := s.dev.srch.waiting ++ [(s.dev.srch.nextId, .query q)] } ∧
    s.dev.keeps d [.srch] := by
  refine State.does_of_next _ (exec_shardQuery alive passed) ?_
  rw [Dev.queryArrived, ok, Dev.tidy_srch, Dev.keeps_tidy_iff]
  exact ⟨rfl, s.dev.setSrch_keeps _⟩

end

theorem does_walkAdmit_one {s : State} {k : Nat} {w : WalkWork} (alive : s.dev.alive = true) (one : s.dev.srch.waiting = [(k, w)])
    (context : s.dev.srch.contexts.length < 16384) (space : s.dev.poolUsed + s.dev.walkUnits w ≤ 2 ^ 18) : s.does .walkAdmit fun d =>
      d.srch.waiting = [] ∧ Tbl.at? d.srch.contexts k = some w ∧ s.dev.keeps d [.srch] := by
  have run : exec .walkAdmit s = .next { s with dev :=
      ({ s.dev with srch.waiting := [], srch.contexts := Tbl.put s.dev.srch.contexts k w } : Dev).tidy } := by
    change execWalkAdmit s = _
    refine State.onDev_eq alive ?_
    have first : [(k, w)].find? (·.2.isQuery) = some (k, w) ∨ [(k, w)].find? (·.2.isQuery) = none := by
      cases h : w.isQuery <;> simp [h]
    have free : (decide (16384 ≤ s.dev.srch.contexts.length) || decide (2 ^ 18 < s.dev.poolUsed + s.dev.walkUnits w)) = false := by
      rw [decide_eq_false (Nat.not_le.2 context), decide_eq_false (Nat.not_lt.2 space)]
      rfl
    have left : [(k, w)].filter (fun x => x.1 != k) = [] := by simp
    rcases first with h | h <;> simp only [one, h, List.head?_cons, free, Bool.false_eq_true, if_false, left]
  refine State.does_of_next _ run ?_
  rw [Dev.tidy_srch, Dev.keeps_tidy_iff]
  exact ⟨rfl, Tbl.at?_put_self _ _ _, s.dev.setSrch_keeps _⟩

/-- The part once a walk has left its context. -/
def Dev.freeContext (d : Dev) (k : Nat) : Dev := { d with srch.contexts := Tbl.del d.srch.contexts k }

theorem Dev.freeContext_keeps (d : Dev) (k : Nat) : d.keeps (d.freeContext k) [.srch] := d.setSrch_keeps _

theorem Dev.freeContext_self (d : Dev) (k : Nat) : Tbl.at? (d.freeContext k).srch.contexts k = none := Tbl.at?_del_self _ _

theorem Dev.freeContext_fld (d : Dev) (k : Nat) (f : Fld) : (d.freeContext k).fld f = d.fld f := Dev.fld_of_regs rfl f

theorem does_walkEnd_answered {s : State} {k : Nat} {q : ShardQuery} {x : ShardRec} {a : ShardAns} (alive : s.dev.alive = true)
    (walks : Tbl.at? s.dev.srch.contexts k = some (.query q)) (attached : ∀ y ∈ s.dev.srch.shards, y.2.detaching = none)
    (known : s.dev.shard? q.index q.shard = some x) (found : (s.dev.freeContext k).shardAnswer x q = (a, 0)) :
    s.does (.walkEnd k) fun d =>
      Tbl.at? d.srch.contexts k = none ∧
      d.out = s.dev.out ++ [.msg .shardAnswer q.h.src ([q.qid, q.shard, a.status, a.tieOut, a.scored, a.expanded] ++
        a.entries.flatMap fun e => [e.1, e.2]) []] ∧ s.dev.keeps d [.out, .srch] := by
  have sends := (s.dev.freeContext k).sendShardAnswer_keeps q a
  have srch := Dev.keeps_srch sends rfl
  have finished : ((s.dev.freeContext k).sendShardAnswer q a).finishDetach = (s.dev.freeContext k).sendShardAnswer q a :=
    Dev.finishDetach_of_none (by rw [srch]; exact attached)
  have run : exec (.walkEnd k) s = .next { s with dev := ((s.dev.freeContext k).sendShardAnswer q a).tidy } := by
    change execWalkEnd k s = _
    refine State.onDev_eq alive (Eq.trans ?_ finished)
    have same : (s.dev.freeContext k).shard? q.index q.shard = some x := known
    rw [Dev.freeContext] at found same
    simp only [walks, same, found]
    rfl
  refine State.does_of_next _ run ?_
  rw [Dev.tidy_srch, Dev.tidy_out, Dev.keeps_tidy_iff, srch]
  exact ⟨s.dev.freeContext_self k, congrArg Dev.out ((s.dev.freeContext k).sendShardAnswer_eq q a),
    Dev.keeps_then (s.dev.freeContext_keeps k) sends (by simp) (by simp)⟩

section
variable {s : State} {k : Nat} {q : ShardQuery} (alive : s.dev.alive = true)
  (walks : Tbl.at? s.dev.srch.contexts k = some (.query q))
include alive walks

theorem does_ownerContextExpiry_early (early : s.dev.now ≤ q.expires) : s.does (.ownerContextExpiry k) fun d => s.dev.keeps d [] := by
  refine State.does_nothing ?_
  change execOwnerContextExpiry k s = _
  refine State.onDev_eq alive ?_
  simp only [walks]
  exact if_pos early

theorem does_ownerContextExpiry_late (late : q.expires < s.dev.now) (attached : ∀ y ∈ s.dev.srch.shards, y.2.detaching = none) :
    s.does (.ownerContextExpiry k) fun d => Tbl.at? d.srch.contexts k = none ∧ d.out = s.dev.out ∧ s.dev.keeps d [.srch] := by
  have run : exec (.ownerContextExpiry k) s = .next { s with dev :=
      ({ s.dev.freeContext k with srch.waiting := s.dev.srch.waiting.filter fun x => x.1 != k } : Dev).tidy } := by
    change execOwnerContextExpiry k s = _
    refine State.onDev_eq alive (Eq.trans ?_ (Dev.finishDetach_of_none (show ∀ y ∈ s.dev.srch.shards, _ from attached)))
    simp only [walks]
    exact if_neg (Nat.not_le.2 late)
  refine State.does_of_next _ run ?_
  rw [Dev.tidy_srch, Dev.tidy_out, Dev.keeps_tidy_iff]
  exact ⟨s.dev.freeContext_self k, rfl, Dev.keeps_trans (s.dev.freeContext_keeps k) (Dev.setSrch_keeps _ _)⟩

end

/-! ## Records at their sequencer (R296 to R299) -/

/-- The answer to a record that has been applied is kept with the shard. -/
def Dev.keepAnswer (d : Dev) (m : MutMsg) (ans : Bytes) : Dev :=
  match d.shard? (field m.record 1 1) (field m.record 2 2) with
  | some x => d.putShard (field m.record 1 1) (field m.record 2 2)
      { x with applied := x.applied.map fun (y : (Nat × Nat) × Nat × Option Bytes) =>
          if y.1 == (m.issuer, field m.record 40 8) then (y.1, d.now, some ans) else y }
  | none => d

section
variable {d : Dev}

/-- Writing back a shard that is not being detached leaves none that is. -/
theorem Dev.putShard_attached (attached : ∀ y ∈ d.srch.shards, y.2.detaching = none) {x : ShardRec} (own : x.detaching = none)
    (index shard : Nat) : ∀ y ∈ (d.putShard index shard x).srch.shards, y.2.detaching = none := by
  intro y hy
  rcases Tbl.mem_put hy with rfl | hy
  · exact own
  · exact attached y hy

theorem Dev.keepAnswer_cases (d : Dev) (m : MutMsg) (ans : Bytes) : d.keepAnswer m ans = d ∨
    ∃ x l, d.shard? (field m.record 1 1) (field m.record 2 2) = some x ∧
      d.keepAnswer m ans = d.putShard (field m.record 1 1) (field m.record 2 2) { x with applied := l } := by
  unfold Dev.keepAnswer
  split
  · rename_i x known
    exact .inr ⟨x, _, known, rfl⟩
  · exact .inl rfl

theorem Dev.keepAnswer_keeps (d : Dev) (m : MutMsg) (ans : Bytes) : d.keeps (d.keepAnswer m ans) [.srch] := by
  rcases d.keepAnswer_cases m ans with same | ⟨x, l, -, put⟩
  · rw [same]; exact Dev.keeps_refl d _
  · rw [put]; exact d.putShard_keeps _ _ _

theorem Dev.keepAnswer_contexts (d : Dev) (m : MutMsg) (ans : Bytes) : (d.keepAnswer m ans).srch.contexts = d.srch.contexts := by
  rcases d.keepAnswer_cases m ans with same | ⟨x, l, -, put⟩
  · rw [same]
  · rw [put]; rfl

theorem Dev.keepAnswer_attached (attached : ∀ y ∈ d.srch.shards, y.2.detaching = none) (m : MutMsg) (ans : Bytes) :
    ∀ y ∈ (d.keepAnswer m ans).srch.shards, y.2.detaching = none := by
  rcases d.keepAnswer_cases m ans with same | ⟨x, l, known, put⟩
  · rw [same]; exact attached
  · rw [put]
    have own : x.detaching = none := attached _ (Tbl.mem_of_at? known)
    exact Dev.putShard_attached attached (x := { x with applied := l }) own _ _

/-- A record applied at its sequencer with an error is answered at once. -/
theorem Dev.mutApplied_failed {m : MutMsg} {status : Nat} (own : m.forwarded = false) (failed : status / 256 ≠ 0) (slot beat : Nat) :
    d.mutApplied m slot beat status =
      (d.keepAnswer m (mutBytes (field m.record 40 8) (globalId (field m.record 2 2) slot) beat status)).send .mutationAnswer m.issuer
        [m.cmd, m.pos] (mutBytes (field m.record 40 8) (globalId (field m.record 2 2) slot) beat status) := by
  unfold Dev.mutApplied
  simp only [own, Bool.false_eq_true, if_false, failed]
  rfl

/-- Whatever follows the application of a record, one message is sent, after the answer is kept or not. -/
theorem Dev.mutApplied_sends (d : Dev) (m : MutMsg) (slot beat status : Nat) :
    ∃ x, (x = d ∨ ∃ ans, x = d.keepAnswer m ans) ∧ (d.mutApplied m slot beat status).srch = x.srch ∧
      x.keeps (d.mutApplied m slot beat status) [.out] := by
  unfold Dev.mutApplied
  dsimp only
  split
  · exact ⟨d, .inl rfl, Dev.send_srch _ _ _ _ _, d.send_keeps_out _ _ _ _⟩
  · refine ⟨d.keepAnswer m (mutBytes (field m.record 40 8) (globalId (field m.record 2 2) slot) beat status), .inr ⟨_, rfl⟩, ?_⟩
    rw [Dev.keepAnswer]
    split
    · exact ⟨Dev.send_srch _ _ _ _ _, Dev.sendRole_keeps _ _ _ _ _ _⟩
    · exact ⟨Dev.send_srch _ _ _ _ _, Dev.send_keeps_out _ _ _ _ _⟩

theorem Dev.mutApplied_keeps (d : Dev) (m : MutMsg) (slot beat status : Nat) : d.keeps (d.mutApplied m slot beat status) [.out, .srch] := by
  obtain ⟨x, origin, -, sends⟩ := d.mutApplied_sends m slot beat status
  have keeps : d.keeps x [.srch] := by
    rcases origin with rfl | ⟨ans, rfl⟩
    · exact Dev.keeps_refl _ _
    · exact d.keepAnswer_keeps _ _
  exact Dev.keeps_then keeps sends (by simp) (by simp)

theorem Dev.mutApplied_contexts (d : Dev) (m : MutMsg) (slot beat status : Nat) :
    (d.mutApplied m slot beat status).srch.contexts = d.srch.contexts := by
  obtain ⟨x, origin, srch, -⟩ := d.mutApplied_sends m slot beat status
  rw [srch]
  rcases origin with rfl | ⟨ans, rfl⟩
  · rfl
  · exact d.keepAnswer_contexts _ _

theorem Dev.mutApplied_attached (attached : ∀ y ∈ d.srch.shards, y.2.detaching = none) (m : MutMsg) (slot beat status : Nat) :
    ∀ y ∈ (d.mutApplied m slot beat status).srch.shards, y.2.detaching = none := by
  obtain ⟨x, origin, srch, -⟩ := d.mutApplied_sends m slot beat status
  rw [srch]
  rcases origin with rfl | ⟨ans, rfl⟩
  · exact attached
  · exact Dev.keepAnswer_attached attached _ _

/-- A record for a shard with none applied of late is entered as one that has arrived, and applied. -/
theorem Dev.recordArrived_first {m : MutMsg} {x : ShardRec} (enabled : d.flag F.SRCH_CTRL_EN = true)
    (known : d.shard? (field m.record 1 1) (field m.record 2 2) = some x) (attached : x.detaching = none)
    (ok : mutOk m.record = true) (own : m.forwarded = false) (first : x.applied = []) : d.recordArrived m =
      (d.putShard (field m.record 1 1) (field m.record 2 2)
        { x with applied := [((m.issuer, field m.record 40 8), d.now, none)] }).applyRecord (field m.record 1 1) (field m.record 2 2)
        { x with applied := [((m.issuer, field m.record 40 8), d.now, none)] } m := by
  unfold Dev.recordArrived
  simp only [enabled, known, if_true]
  rw [if_neg (by simp [attached]), if_neg (by simp [ok]), if_neg (by simp [own])]
  simp only [first, List.filter_nil, List.find?_nil, List.nil_append]

/-- A delete of a slot that is free finds nothing (R299). -/
theorem Dev.applyRecord_delete_free {m : MutMsg} {x : ShardRec} (delete : field m.record 0 1 = 2)
    (free : d.slotState x.hdr (field m.record 4 4) = 0) (index shard : Nat) :
    d.applyRecord index shard x m = d.mutApplied m (field m.record 4 4) 0 C.SRCH_NOT_FOUND := by
  unfold Dev.applyRecord
  simp only [delete, free, ite_self, if_true]

end

section
variable {s : State} {m : MutMsg} (alive : s.dev.alive = true) (passed : s.dev.verdict m.h false = .process)
include alive passed

theorem exec_mutationRecord : exec (.mutationRecord m) s = .next { s with dev := (s.dev.recordArrived m).tidy } := by
  change execMutationRecord m s = _
  exact State.onDev_eq alive (Dev.receive_process passed _ _ _)

theorem does_mutationRecord_disabled (disabled : s.dev.flag F.SRCH_CTRL_EN = false) : s.does (.mutationRecord m) fun d =>
    d.out = s.dev.out ++ [.msg .mutationAnswer m.issuer [m.cmd, m.pos] (mutBytes (field m.record 40 8) 0 0 C.SRCH_NO_SHARD)] ∧
    s.dev.keeps d [.out] := by
  have refused : s.dev.recordArrived m =
      s.dev.send .mutationAnswer m.issuer [m.cmd, m.pos] (mutBytes (field m.record 40 8) 0 0 C.SRCH_NO_SHARD) := by
    unfold Dev.recordArrived
    simp only [disabled, Bool.false_eq_true, if_false]
  refine State.does_of_next _ (exec_mutationRecord alive passed) ?_
  rw [refused, Dev.tidy_out, Dev.keeps_tidy_iff]
  exact ⟨congrArg Dev.out (s.dev.send_eq _ _ _ _), s.dev.send_keeps_out _ _ _ _⟩

theorem does_mutationRecord_delete_free {x : ShardRec} (enabled : s.dev.flag F.SRCH_CTRL_EN = true)
    (known : s.dev.shard? (field m.record 1 1) (field m.record 2 2) = some x) (attached : x.detaching = none)
    (ok : mutOk m.record = true) (own : m.forwarded = false) (first : x.applied = []) (delete : field m.record 0 1 = 2)
    (free : s.dev.slotState x.hdr (field m.record 4 4) = 0) : s.does (.mutationRecord m) fun d =>
      d.out = s.dev.out ++ [.msg .mutationAnswer m.issuer [m.cmd, m.pos] (mutBytes (field m.record 40 8)
        (globalId (field m.record 2 2) (field m.record 4 4)) 0 C.SRCH_NOT_FOUND)] ∧ s.dev.keeps d [.out, .srch] := by
  have arrived := (Dev.recordArrived_first enabled known attached ok own first).trans
    (Dev.applyRecord_delete_free (d := s.dev.putShard _ _ _) (x := { x with applied := _ }) delete free _ _)
  refine State.does_of_next _ (exec_mutationRecord alive passed) ?_
  have enters := s.dev.putShard_keeps (field m.record 1 1) (field m.record 2 2)
    { x with applied := [((m.issuer, field m.record 40 8), s.dev.now, none)] }
  generalize s.dev.putShard _ _ _ = e at enters arrived
  rw [arrived, Dev.mutApplied_failed own (by decide), Dev.tidy_out, Dev.keeps_tidy_iff]
  have records := Dev.keeps_trans enters (e.keepAnswer_keeps m (mutBytes (field m.record 40 8)
    (globalId (field m.record 2 2) (field m.record 4 4)) 0 C.SRCH_NOT_FOUND))
  refine ⟨?_, Dev.keeps_then records (Dev.send_keeps_out _ _ _ _ _) (by simp) (by simp)⟩
  rw [Dev.send_eq]
  exact congrArg (· ++ _) (Dev.keeps_out records rfl)

end

/-! ## The end of an insert's walk (R297 to R299) -/

theorem Dev.srchPoison_keeps (d : Dev) (n shard : Nat) : d.keeps (d.srchPoison n shard) [.regs, .out, .hif, .hlt] := by
  unfold Dev.srchPoison
  generalize List.range n = l
  induction l generalizing d with
  | nil => exact Dev.keeps_refl d _
  | cons a t ih => exact Dev.keeps_trans (d.raise_keeps _ _ _ _ _) (ih _)

theorem Dev.srchPoison_fld (d : Dev) (n shard : Nat) {f : Fld} (own : f.off ∉ eventRegs) (apart : f.off ≠ E.SRCH_POISON.bit.off) :
    (d.srchPoison n shard).fld f = d.fld f := by
  unfold Dev.srchPoison
  generalize List.range n = l
  induction l generalizing d with
  | nil => rfl
  | cons a t ih => exact (ih _).trans (d.raise_fld _ _ _ _ _ _ own apart)

section
variable {s : State} {k index shard i : Nat} {m : MutMsg} {x : ShardRec} (alive : s.dev.alive = true) (flat : s.dev.flat)
  (walks : Tbl.at? s.dev.srch.contexts k = some (.insert index shard i m)) (known : s.dev.shard? index shard = some x)
  (settled : x.delWait = [])
include alive flat walks known settled

/-- Rows are linked and attributes written, the shard is written back, and the insert is counted and answered: each value that R297's steps
compute is named, and the writes are followed from name to name. -/
theorem exec_insertWalkEnd : ∃ (n : Nat) (a : Dev) (y : ShardRec), ((s.dev.freeContext k).srchPoison n (shardKey index shard)).Writes a ∧
    y.detaching = x.detaching ∧ exec (.insertWalkEnd k) s = .next { s with dev :=
      ((((a.putShard index shard y).count F.SRCH_M_CNT_INSERTS).mutApplied m i a.now C.OK).finishDetach).tidy } := by
  have run : execInsertWalkEnd k s = _ := s.onDev_alive _ alive
  simp -zeta only [walks] at run
  extract_lets source freed at run
  have same : freed.shard? index shard = some x := known
  simp -zeta only [same] at run
  extract_lets h wq w poisoned row filled linked a isEntry deadAt entered entryNow moved fl live dels written put answered ended at run
  have pinned : poisoned.flat :=
    Dev.flat_of_memt (d := freed) flat (Dev.keeps_memt (freed.srchPoison_keeps w.poison (shardKey index shard)) rfl)
  have fills : poisoned.Writes filled := (Dev.Writes.refl pinned).setRow _ _ _
  have links : poisoned.Writes linked := Dev.Writes.foldl (fun y e writes => Dev.Writes.ite (writes.setRow _ _ _) writes) fills _
  have moves : poisoned.Writes moved := Dev.Writes.ite (Dev.Writes.foldl (fun y e writes => writes.setAttr _ _ _) links _) links
  have entry : entered.delWait = [] ∧ entered.detaching = x.detaching := by
    unfold entered
    generalize deadAt = dead
    split
    · exact ⟨settled, rfl⟩
    · cases dead with
      | none => exact ⟨settled, rfl⟩
      | some j => dsimp only; split <;> exact ⟨settled, rfl⟩
  obtain ⟨noneWait, detaching⟩ := entry
  have undeleted : ended = answered := by
    have nothing : dels = [] := by
      unfold dels
      rw [noneWait]
      rfl
    unfold ended
    rw [nothing]
    rfl
  rw [undeleted] at run
  exact ⟨w.poison, live, written, moves.setAttr _ _ _, detaching, run⟩

theorem does_insertWalkEnd (attached : ∀ y ∈ s.dev.srch.shards, y.2.detaching = none) : s.does (.insertWalkEnd k) fun d =>
    Tbl.at? d.srch.contexts k = none ∧
    d.fld F.SRCH_M_CNT_INSERTS = min (s.dev.fld F.SRCH_M_CNT_INSERTS + 1) (2 ^ F.SRCH_M_CNT_INSERTS.width - 1) ∧
    s.dev.keeps d [.regs, .mem, .poison, .memt, .out, .hif, .hlt, .srch] := by
  obtain ⟨n, a, y, writes, detaching, run⟩ := exec_insertWalkEnd alive flat walks known settled
  have poisons := (s.dev.freeContext k).srchPoison_keeps n (shardKey index shard)
  have counted := (s.dev.freeContext k).srchPoison_fld n (shardKey index shard) (f := F.SRCH_M_CNT_INSERTS) (by decide) (by decide)
  generalize (s.dev.freeContext k).srchPoison n (shardKey index shard) = p at writes poisons counted
  have links : s.dev.keeps a [.regs, .mem, .poison, .memt, .out, .hif, .hlt, .srch] :=
    Dev.keeps_then (Dev.keeps_then (l := [.regs, .out, .hif, .hlt, .srch]) (s.dev.freeContext_keeps k) poisons (by simp) (by simp))
      writes.keeps (by simp) (by simp)
  have inserts : a.fld F.SRCH_M_CNT_INSERTS = s.dev.fld F.SRCH_M_CNT_INSERTS :=
    (Dev.fld_of_regs (Dev.keeps_regs writes.keeps rfl) _).trans (counted.trans (s.dev.freeContext_fld k _))
  have srch : a.srch = (s.dev.freeContext k).srch := (Dev.keeps_srch writes.keeps rfl).trans (Dev.keeps_srch poisons rfl)
  have own : y.detaching = none := detaching.trans (attached _ (Tbl.mem_of_at? known))
  have enters := a.putShard_keeps index shard y
  have entered := Dev.putShard_attached (d := a) (by rw [srch]; exact attached) own index shard
  have left : Tbl.at? (a.putShard index shard y).srch.contexts k = none :=
    by rw [Dev.putShard_contexts, srch, Dev.freeContext_self]
  generalize a.putShard index shard y = b at run enters entered left
  have counts := b.count_keeps F.SRCH_M_CNT_INSERTS 1
  have count := (b.fld_count_self (f := F.SRCH_M_CNT_INSERTS) (by decide)).trans
    (congrArg (fun v => min (v + 1) (2 ^ F.SRCH_M_CNT_INSERTS.width - 1))
      ((Dev.fld_of_regs (Dev.keeps_regs enters rfl) F.SRCH_M_CNT_INSERTS).trans inserts))
  have answers := (b.count F.SRCH_M_CNT_INSERTS).mutApplied_keeps m i a.now C.OK
  have unmarked : ∀ y ∈ (b.count F.SRCH_M_CNT_INSERTS).srch.shards, y.2.detaching = none := by
    rw [Dev.count_srch]; exact entered
  rw [Dev.finishDetach_of_none (Dev.mutApplied_attached unmarked m i a.now C.OK)] at run
  refine State.does_of_next _ run ?_
  rw [Dev.tidy_srch, Dev.tidy_fld, Dev.keeps_tidy_iff, Dev.mutApplied_contexts, Dev.count_srch,
    Dev.fld_of_regs (Dev.keeps_regs answers rfl)]
  exact ⟨left, count, Dev.keeps_trans links (Dev.keeps_then (Dev.keeps_then (l := [.regs, .srch]) enters counts (by simp) (by simp))
    answers (by simp) (by simp))⟩

end

/-! ## The groom's sweep (R299 to R302) -/

section
variable {d : Dev}

/-- Sweeping a row's edges writes rows and counts the edges rewired. -/
theorem Dev.sweepEdges_writes (flat : d.flat) (h : Bytes) (i : Nat) :
    d.keeps (d.sweepEdges h i) [.regs, .mem, .poison, .memt] ∧ (d.sweepEdges h i).flat := by
  unfold Dev.sweepEdges
  extract_lets es gone kept offers row
  split
  · exact ⟨Dev.keeps_refl _ _, flat⟩
  · obtain ⟨keeps, pinned⟩ := (Dev.Writes.refl flat).setRow h i row
    exact ⟨Dev.keeps_then keeps (Dev.count_keeps _ _ _) (by simp) (by simp),
      Dev.flat_of_memt pinned (Dev.count_memt _ _ _)⟩

/-- Sweeping a shard's entry point leaves the shard's place in its sweep and its header. -/
theorem Dev.sweepEntry_shard (flat : d.flat) {index shard : Nat} {x : ShardRec} (known : d.shard? index shard = some x) (i : Nat) :
    d.keeps (d.sweepEntry index shard i) [.mem, .poison, .memt, .srch] ∧
      ∃ y, (d.sweepEntry index shard i).shard? index shard = some y ∧ y.row = x.row ∧ y.epoch = x.epoch ∧ y.hdr = x.hdr := by
  unfold Dev.sweepEntry
  simp -zeta only [known]
  extract_lets h cap live inRow above cleared
  have stays : ∃ y, d.shard? index shard = some y ∧ y.row = x.row ∧ y.epoch = x.epoch ∧ y.hdr = x.hdr := ⟨x, known, rfl, rfl, rfl⟩
  split
  · exact ⟨Dev.keeps_refl _ _, stays⟩
  · split
    · exact ⟨Dev.keeps_refl _ _, stays⟩
    · rename_i y _
      extract_lets moved
      have writes := ((Dev.Writes.refl flat).setAttr h i (attrFlags (d.attr h i) (bitClear (field (d.attr h i) 1 1) 0))).setAttr h y
        (attrFlags (cleared.attr h y) (bitSet (field (cleared.attr h y) 1 1) 0))
      exact ⟨Dev.keeps_then writes.keeps (Dev.putShard_keeps _ _ _ _) (by simp) (by simp),
        _, Dev.shard?_putShard_self _ _ _ _, rfl, rfl, rfl⟩

theorem Dev.sweepRow_shard (flat : d.flat) {index shard : Nat} {x : ShardRec} (known : d.shard? index shard = some x) (i : Nat) :
    d.keeps (d.sweepRow index shard i) [.regs, .mem, .poison, .memt, .srch] ∧
      ∃ y, (d.sweepRow index shard i).shard? index shard = some y ∧ y.row = x.row ∧ y.epoch = x.epoch ∧ y.hdr = x.hdr := by
  unfold Dev.sweepRow
  simp only [known]
  have edges : d.keeps (if reachState (d.slotState x.hdr i) = true then d.sweepEdges x.hdr i else d) [.regs, .mem, .poison, .memt] ∧
      (if reachState (d.slotState x.hdr i) = true then d.sweepEdges x.hdr i else d).flat := by
    split
    · exact Dev.sweepEdges_writes flat _ _
    · exact ⟨Dev.keeps_refl _ _, flat⟩
  obtain ⟨keeps, pinned⟩ := edges
  generalize (if reachState (d.slotState x.hdr i) = true then d.sweepEdges x.hdr i else d) = e at keeps pinned ⊢
  have still : e.shard? index shard = some x := (Dev.shard?_of_srch (Dev.keeps_srch keeps rfl) _ _).trans known
  obtain ⟨entry, sweeps⟩ := Dev.sweepEntry_shard pinned still i
  exact ⟨Dev.keeps_then keeps entry (by simp) (by simp), sweeps⟩

/-- One row swept before the shard's last: the sweep stands at the next. -/
theorem Dev.sweepRows_one (flat : d.flat) {index shard : Nat} {x : ShardRec} (known : d.shard? index shard = some x)
    (before : x.row + 1 < shCap x.hdr) : d.keeps (d.sweepRows index shard 1) [.regs, .mem, .poison, .memt, .srch] ∧
      ∃ y, (d.sweepRows index shard 1).shard? index shard = some y ∧ y.row = x.row + 1 ∧ y.epoch = x.epoch ∧ y.hdr = x.hdr := by
  obtain ⟨keeps, y, found, row, epoch, hdr⟩ := Dev.sweepRow_shard flat known x.row
  have run : d.sweepRows index shard 1 = (d.sweepRow index shard x.row).putShard index shard { y with row := y.row + 1 } := by
    rw [Dev.sweepRows]
    simp only [known, found, if_neg (Nat.not_le.2 before), Dev.sweepRows]
  rw [run]
  exact ⟨Dev.keeps_then keeps (Dev.putShard_keeps _ _ _ _) (by simp) (by simp), _, Dev.shard?_putShard_self _ _ _ _,
    congrArg (· + 1) row, epoch, hdr⟩

end

theorem shardKey_index {shard : Nat} (h : shard < 2 ^ 16) (index : Nat) : shardKey index shard / 2 ^ 16 = index := by
  rw [shardKey]; omega

theorem shardKey_shard {shard : Nat} (h : shard < 2 ^ 16) (index : Nat) : shardKey index shard % 2 ^ 16 = shard := by
  rw [shardKey]; omega

section
variable {s : State} (alive : s.dev.alive = true)
include alive

theorem does_groomSweepRows_disabled (disabled : s.dev.flag F.SRCH_CTRL_GROOM_EN = false) :
    s.does .groomSweepRows fun d => s.dev.keeps d [] := by
  refine State.does_nothing ?_
  change execGroomSweepRows s = _
  refine State.onDev_eq alive (if_pos ?_)
  rw [disabled]
  rfl

theorem does_groomSweepRows_one {index shard : Nat} {x : ShardRec} (enabled : s.dev.flag F.SRCH_CTRL_GROOM_EN = true)
    (rows : s.dev.fld F.SRCH_GROOM_ROWS = 1) (flat : s.dev.flat) (range : shard < 2 ^ 16)
    (one : s.dev.srch.shards = [(shardKey index shard, x)]) (before : x.row + 1 < shCap x.hdr) : s.does .groomSweepRows fun d =>
      (∃ y, d.shard? index shard = some y ∧ y.row = x.row + 1 ∧ y.epoch = x.epoch ∧ y.hdr = x.hdr) ∧
      s.dev.keeps d [.regs, .mem, .poison, .memt, .srch] := by
  have known : s.dev.shard? index shard = some x := by rw [Dev.shard?, one, Tbl.at?, if_pos rfl]
  have run : exec .groomSweepRows s = .next { s with dev := (s.dev.sweepRows index shard 1).tidy } := by
    change execGroomSweepRows s = _
    refine State.onDev_eq alive ((if_neg ?_).trans ?_)
    · rw [enabled]
      decide
    · rw [one, List.foldl_cons, List.foldl_nil, shardKey_index range, shardKey_shard range, rows]
  obtain ⟨keeps, sweeps⟩ := Dev.sweepRows_one flat known before
  refine State.does_of_next _ run ?_
  rw [Dev.keeps_tidy_iff]
  exact ⟨by simpa only [Dev.shard?_of_srch (Dev.tidy_srch _)] using sweeps, keeps⟩

end

/-- Settles O25, command by command: shards attached and detached, shard queries and their walks, records of mutations, the end of an
insert's walk, and the groom. -/
theorem shardsWalksAndMutationsAtTheOwner : Obligations.ShardsWalksAndMutationsAtTheOwner := by
  refine ⟨?_, ?_, ?_, ?_, ?_, ?_, ?_, ?_, ?_⟩
  · exact fun s c alive takes => ⟨completes_srchAttach_disabled alive takes, completes_srchAttach_role alive takes,
      completes_srchAttach_fresh alive takes⟩
  · exact fun s c alive takes => ⟨completes_srchDetach_unknown alive takes, fun x => completes_srchDetach_idle alive takes⟩
  · exact fun s q alive passed => ⟨fun disabled _ => does_shardQuery_disabled alive passed disabled, does_shardQuery_waits alive passed⟩
  · exact fun s k w alive one context space => does_walkAdmit_one alive one context space
  · exact fun s k q x a alive walks attached _ known found => does_walkEnd_answered alive walks attached known found
  · exact fun s k q alive walks => ⟨does_ownerContextExpiry_early alive walks, does_ownerContextExpiry_late alive walks⟩
  · exact fun s m alive passed _ => ⟨does_mutationRecord_disabled alive passed, fun x => does_mutationRecord_delete_free alive passed⟩
  · exact fun s k index shard i m x alive flat walks known settled attached =>
      does_insertWalkEnd alive flat walks known settled attached
  · exact fun s alive => ⟨does_groomSweepRows_disabled alive, fun index shard x => does_groomSweepRows_one alive⟩

end Sys2Proof.Machine
end

section
/-!
PROOFS of what the operations of the hayloft change (spec/12_hayloft.md): its tables and journal, the bytes of the flash, register fields
beside events and errors, and which pieces of the part each operation leaves alone.
-/

namespace Sys2Proof.Machine

/-! ## A command by what it makes of the part -/

section
variable {s : State} {c : Instr} {f : Dev → Dev}

theorem State.does_of_effect {P : Dev → Prop} {e : Dev} (run : exec c s = s.onDev f) (alive : s.dev.alive = true) (effect : f s.dev = e)
    (h : P e.tidy) : s.does c P :=
  State.does_of_next e (run.trans (State.onDev_eq alive effect)) h

theorem State.does_of_same (run : exec c s = s.onDev f) (alive : s.dev.alive = true) (same : f s.dev = s.dev) :
    s.does c fun d => s.dev.keeps d [] :=
  State.does_nothing (run.trans (State.onDev_eq alive same))

end

/-! ## Register fields beside events, errors and completions -/

section
variable (d : Dev)

theorem Dev.fld_count_ne {f g : Fld} (n : Nat) (apart : g.off ≠ f.off) : (d.count f n).fld g = d.fld g := d.fld_setFld_ne _ _ _ apart

/-- The registers that errors and the events they cause write (R445 to R447). -/
def errorRegs : List Nat := E.HLT_WARN.bit.off :: E.HLT_REPLACE.bit.off :: eventRegs

theorem Dev.raiseIf_fld (c : Bool) {e : Evt} (k i : Nat) {f : Fld} (own : f.off ∉ eventRegs) (apart : f.off ≠ e.bit.off) :
    (if c then d.raise e k i else d).fld f = d.fld f := by
  cases c
  · rfl
  · exact d.raise_fld e k i 0 none f own apart

theorem Dev.crossings_fld (k i : Nat) {f : Fld} (own : f.off ∉ errorRegs) : (d.crossings k i).fld f = d.fld f := by
  simp only [errorRegs, List.mem_cons, not_or] at own
  obtain ⟨warn, repl, own⟩ := own
  have pin (c : Bool) (x : Dev) : (if c then ({ x with hlt.askReplace := true }).put (.pin .askReplace true) else x).fld f = x.fld f := by
    cases c
    · rfl
    · exact Dev.fld_of_regs (Dev.put_regs _ _) f
  exact (pin _ _).trans ((Dev.raiseIf_fld _ _ _ _ own repl).trans (Dev.raiseIf_fld _ _ _ _ own warn))

theorem Dev.charge_fld (c : HltClass) (k i : Nat) {f : Fld} (own : f.off ∉ errorRegs) : (d.charge c k i).fld f = d.fld f := by
  have fold (l : List (Nat × Nat)) (x : Dev) : (l.foldl (fun (d : Dev) k => d.crossings k.1 k.2) x).fld f = x.fld f := by
    induction l generalizing x with
    | nil => rfl
    | cons a t ih => exact (ih _).trans (x.crossings_fld a.1 a.2 own)
  exact (Dev.fld_of_regs (Dev.spareCheck_regs _) f).trans (fold _ _)

end

/-! ## What is put outside -/

/-- What is not written to host memory follows what was put outside before (R492). -/
theorem Dev.put_media (d : Dev) (k : Nat) (l : List Nat) (b : Bytes) : d.put (.media k l b) = { d with out := d.out ++ [.media k l b] } := by
  simp [Dev.put, Put.toHost]

theorem Dev.put_media_keeps (d : Dev) (k : Nat) (l : List Nat) (b : Bytes) : d.keeps (d.put (.media k l b)) [.out] := by
  rw [Dev.put_media]; exact d.setOut_keeps _

/-! ## Blocks, write points and the map in their tables (R335 to R343) -/

section
variable (h : Hay)

@[simp] theorem Hay.blk_setBlk_self (b : Nat) (x : HBlk) : (h.setBlk b x).blk b = x := Tbl.rd_wr_self _ _ _ _

theorem Hay.blk_setBlk_ne {b y : Nat} (x : HBlk) (apart : y ≠ b) : (h.setBlk b x).blk y = h.blk y := Tbl.rd_wr_ne _ _ _ apart

@[simp] theorem Hay.point_setPoint_self (w : Nat) (p : WPoint) : (h.setPoint w p).point w = p := Tbl.rd_wr_self _ _ _ _

@[simp] theorem Hay.setPoint_copyQ (w : Nat) (p : WPoint) : (h.setPoint w p).copyQ = h.copyQ := rfl
@[simp] theorem Hay.setPoint_copies (w : Nat) (p : WPoint) : (h.setPoint w p).copies = h.copies := rfl

theorem Hay.blk_of_blocks {h k : Hay} (same : h.blocks = k.blocks) (b : Nat) : h.blk b = k.blk b := by rw [Hay.blk, Hay.blk, same]

theorem Hay.point_of_points {h k : Hay} (same : h.points = k.points) (w : Nat) : h.point w = k.point w := by
  rw [Hay.point, Hay.point, same]

/-- At 32 MiB in the buffer a flush is forced. -/
theorem Hay.journal_eq (e : JEntry) : h.journal e =
    { h with jrn := h.jrn ++ [e], force := h.force || decide (2 ^ 21 ≤ (h.jrn ++ [e]).length) } := by
  unfold Hay.journal
  dsimp only
  split
  · rename_i full
    rw [decide_eq_true full, Bool.or_true]
  · rename_i room
    rw [decide_eq_false room, Bool.or_false]

theorem Hay.reserveNext_eq : ∃ p, h.reserveNext = { h with points := p } := by
  unfold Hay.reserveNext
  generalize List.range 32 = l
  induction l generalizing h with
  | nil => exact ⟨_, rfl⟩
  | cons w t ih =>
    rw [List.foldl_cons]
    dsimp only
    split
    · exact ih h
    · split
      · obtain ⟨p, reserved⟩ := ih (h.setPoint w _)
        exact ⟨p, reserved⟩
      · exact ih h

/-- A flush written and durable at once (R345). -/
theorem Hay.firstFlush_eq (beat : Nat) : ∃ p f, h.firstFlush beat =
    { h with points := p, media.flushes := h.media.flushes ++ [f], durable := f.scan, flushSeq := f.seq, lastFlush := beat, jrn := [] } := by
  obtain ⟨p, reserved⟩ := h.reserveNext_eq
  unfold Hay.firstFlush
  rw [reserved]
  exact ⟨p, _, rfl⟩

/-- A block that is full closes, and nothing being programmed changes. -/
theorem Hay.closeFull_eq (w : Nat) : ∃ b p j f, h.closeFull w = { h with blocks := b, points := p, jrn := j, force := f } ∧
    ((h.closeFull w).point w).progs = (h.point w).progs := by
  unfold Hay.closeFull
  dsimp only
  split
  · exact ⟨_, _, _, _, rfl, rfl⟩
  · split
    · rw [Hay.logBlk, Hay.journal_eq, Hay.point_setPoint_self]
      exact ⟨_, _, _, _, rfl, rfl⟩
    · exact ⟨_, _, _, _, rfl, rfl⟩

end

/-! ## Changes of the blocks alone (R346, R359) -/

/-- Only the blocks change: their table, the journal of it, and the spare plane blocks used. -/
def Hay.BlocksChange (h k : Hay) : Prop := ∃ b j f s, k = { h with blocks := b, jrn := j, force := f, spare := s }

section
variable {h k : Hay}

theorem Hay.BlocksChange.refl (h : Hay) : h.BlocksChange h := ⟨_, _, _, _, rfl⟩

theorem Hay.BlocksChange.trans {l : Hay} (first : h.BlocksChange k) (second : k.BlocksChange l) : h.BlocksChange l := by
  obtain ⟨_, _, _, _, rfl⟩ := first
  obtain ⟨_, _, _, _, rfl⟩ := second
  exact ⟨_, _, _, _, rfl⟩

theorem Hay.BlocksChange.foldl {α : Type} {f : Hay → α → Hay} (step : ∀ h a, Hay.BlocksChange h (f h a)) (l : List α) (h : Hay) :
    h.BlocksChange (l.foldl f h) := by
  induction l generalizing h with
  | nil => exact .refl h
  | cons a t ih => exact (step h a).trans (ih _)

theorem Hay.setBlk_blocksChange (h : Hay) (b : Nat) (x : HBlk) : h.BlocksChange (h.setBlk b x) := ⟨_, _, _, _, rfl⟩

theorem Hay.logBlk_blocksChange (h : Hay) (b : Nat) (x : HBlk) : h.BlocksChange (h.logBlk b x) := by
  rw [Hay.logBlk, Hay.journal_eq]
  exact ⟨_, _, _, _, rfl⟩

theorem Hay.substitute_blocksChange {b plane : Nat} (found : h.substitute b plane = some k) : h.BlocksChange k := by
  unfold Hay.substitute at found
  dsimp only at found
  split at found
  · cases found
  · cases found
    exact ⟨_, _, _, _, rfl⟩

theorem Hay.substituteAll_blocksChange (h : Hay) (b : Nat) : h.BlocksChange (h.substituteAll b) := by
  refine .foldl (fun h p => ?_) _ h
  split
  · exact Hay.substitute_blocksChange ‹_›
  · exact h.logBlk_blocksChange _ _

theorem Hay.reserve_blocksChange (h : Hay) (n : Nat) : h.BlocksChange (h.reserve n) :=
  .foldl (fun h b => h.setBlk_blocksChange b _) _ h

/-- The hayloft as a format finds its blocks: their erase counts stay, each with the erase that the format makes (log entry 51), and
everything the yard die held of the old contents is gone. -/
def Hay.wiped (h : Hay) : Hay :=
  { h with
    blocks := h.blocks.filterMap fun x => if x.2.erases = 0 then none else some (x.1, { erases := x.2.erases + 1 })
    map := [], dir := [], dirty := [], queue := [], points := [], copyQ := [], copies := [], jrn := [], flushing := none, durable := []
    force := false, jrnSince := 0, jrnFull := false, spare := [], nextSeq := 1, lastSeq := 0, erasable := [], collecting := false }

/-- The lowest free block of a target reserved for the anchor (R346). -/
def Hay.reserveAnchor (h : Hay) (t : Nat) : Hay :=
  match h.freeBlocks.find? fun b => blockTarget b == t with
  | some b => h.setBlk b { h.blk b with reserved := true, slc := true, state := .open }
  | none => h

theorem Hay.reserveAnchor_blocksChange (h : Hay) (t : Nat) : h.BlocksChange (h.reserveAnchor t) := by
  unfold Hay.reserveAnchor
  split
  · exact h.setBlk_blocksChange _ _
  · exact .refl h

theorem Hay.erased_blocksChange (h : Hay) (marks : List Nat) (ring : Nat) : h.wiped.BlocksChange (h.erased marks ring) := by
  have marked (x : Hay) := Hay.BlocksChange.foldl (fun (x : Hay) (m : Nat) => x.setBlk_blocksChange (m / 64)
    { x.blk (m / 64) with marks := addOnce (x.blk (m / 64)).marks (m % 64) }) marks x
  have replaced (x : Hay) := Hay.BlocksChange.foldl (fun (x : Hay) b => x.substituteAll_blocksChange b) (x.blocks.map (·.1)) x
  exact ((marked _).trans (replaced _)).trans
    (((Hay.reserveAnchor_blocksChange _ 0).trans (Hay.reserveAnchor_blocksChange _ 8)).trans (Hay.reserve_blocksChange _ ring))

/-- A format empties the map and the directory, and keeps the geometry (R337, R346). -/
theorem Hay.formatted_kept (h : Hay) (marks : List Nat) (ring units : Nat) :
    (h.formatted marks ring units).map = [] ∧ (h.formatted marks ring units).dir = [] ∧
      (h.formatted marks ring units).geom = h.geom := by
  obtain ⟨_, _, _, _, last⟩ :=
    (h.erased_blocksChange marks ring).trans (Hay.reserve_blocksChange _ ((h.erased marks ring).ckptRoom units))
  rw [Hay.formatted, last]
  exact ⟨rfl, rfl, rfl⟩

end

/-! ## Which pieces of the part an operation changes -/

section
variable (d : Dev)

@[simp] theorem Dev.taken_hay (c : HostCmd) : (d.taken c).hay = d.hay := d.consume_hay _ _

theorem Dev.setMem_keeps (m : List Host.Cell) : d.keeps { d with mem := m } [.mem] := by
  intro b hb; cases b <;> simp_all [Blk.same]

theorem Dev.onHay_keeps (f : Hay → Hay) : d.keeps (d.onHay f) [.hay] := d.setHay_keeps _

@[simp] theorem Dev.onHay_hay (f : Hay → Hay) : (d.onHay f).hay = f d.hay := rfl

@[simp] theorem Dev.onHay_fld (f : Hay → Hay) (g : Fld) : (d.onHay f).fld g = d.fld g := Dev.fld_of_regs (d.onHay_regs f) g

@[simp] theorem Dev.onHay_flag (f : Hay → Hay) (g : Fld) : (d.onHay f).flag g = d.flag g := by rw [Dev.flag, Dev.flag, d.onHay_fld]

/-- Frames are taken as far as they are free (R312, R339). -/
theorem Dev.hayFrames_eq (n : Nat) : ∃ l m, d.hayFrames n = { d with hay.frames := l, memt := m } := by
  unfold Dev.hayFrames
  split
  · rename_i l e taken
    unfold Dev.takeFrames at taken
    extract_lets +onlyGivenNames groups floor at taken
    clear_value floor
    split at taken
    · cases taken
    · dsimp only at taken
      split at taken
      · cases taken
      · cases taken
        exact ⟨_, _, rfl⟩
  · exact ⟨_, _, rfl⟩

theorem Dev.hayFrames_keeps (n : Nat) : d.keeps (d.hayFrames n) [.hay, .memt] := by
  obtain ⟨l, m, taken⟩ := d.hayFrames_eq n
  rw [taken]
  exact Dev.keeps_then (d.setMemt_keeps m) (Dev.setHay_keeps _ _) (by simp) (by simp)

theorem Dev.landUnit_keeps (p : HayProg) : d.keeps (d.landUnit p) [.mem, .hay] :=
  Dev.keeps_then (d.fillRange_keeps _ _ _) (Dev.onHay_keeps _ _) (by simp) (by simp)

end

/-! ## Victims, and plane blocks marked bad (R355, R356) -/

section
variable {d : Dev} {b : Nat}

theorem Hay.validIn_of_maps {h k : Hay} (map : h.map = k.map) (dir : h.dir = k.dir) (b : Nat) : h.validIn b = k.validIn b := by
  rw [Hay.validIn, Hay.validIn, map, dir]

theorem Dev.pumpCopies_of_idle (idle : d.hay.copyQ = []) : d.pumpCopies d.hay.copyQ = d := by rw [idle, Dev.pumpCopies]

/-- A victim without valid units has nothing to copy. -/
theorem Dev.makeVictim_of_empty (empty : d.hay.validIn b = []) (idle : d.hay.copyQ = []) :
    d.makeVictim b = d.onHay fun h => h.setBlk b { h.blk b with state := .victim, refresh := false } := by
  have still : (d.hay.setBlk b { d.hay.blk b with state := .victim, refresh := false }).validIn b = [] :=
    (Hay.validIn_of_maps rfl rfl b).trans empty
  have waiting : (d.hay.setBlk b { d.hay.blk b with state := .victim, refresh := false }).copyQ = [] := idle
  rw [Dev.makeVictim]
  simp only [still, List.filter_nil, List.append_nil]
  rw [waiting, Dev.pumpCopies, ← waiting]
  rfl

theorem Dev.markPlane_of_unmarked (unmarked : (d.hay.blk b).marks = []) (plane : Nat) : d.markPlane b plane =
    ((d.onHay fun h => h.setBlk b { h.blk b with marks := [plane] }).count F.HAY_ERR_CNT_RETIRED).charge .ue 6 (blockTarget b) := by
  rw [Dev.markPlane, if_neg (by simp [unmarked]), unmarked]
  rfl

/-- Marking a plane block changes of the hayloft its blocks alone. -/
theorem Dev.markPlane_hay (d : Dev) (b plane : Nat) : ∃ t, (d.markPlane b plane).hay = { d.hay with blocks := t } := by
  rw [Dev.markPlane]
  split
  · exact ⟨_, rfl⟩
  · rw [Dev.charge_hay, Dev.count_hay]
    exact ⟨_, rfl⟩

theorem Dev.markPlane_keeps (d : Dev) (b plane : Nat) : d.keeps (d.markPlane b plane) [.regs, .out, .comp, .hif, .hlt, .hay] := by
  rw [Dev.markPlane]
  split
  · exact Dev.keeps_refl d _
  · exact Dev.keeps_then (Dev.keeps_then (l := [.regs, .hay]) (d.setHay_keeps _) (Dev.count_keeps _ _ _) (by simp) (by simp))
      (Dev.charge_keeps _ _ _ _) (by simp) (by simp)

end

/-! ## Bytes of the flash -/

section
variable {α : Type}

/-- Looking up a key in two tables one after the other. -/
theorem Tbl.at?_append (t u : Tbl α) (k : Nat) : Tbl.at? (t ++ u) k = (Tbl.at? t k).or (Tbl.at? u k) := by
  induction t with
  | nil => rfl
  | cons p t ih =>
    rw [List.cons_append, Tbl.at?, Tbl.at?]
    split
    · rfl
    · exact ih

/-- A filter that looks at keys alone keeps what is listed for a key that passes, and nothing for another. -/
theorem Tbl.at?_filter_key (f : Nat → Bool) (t : Tbl α) (k : Nat) :
    Tbl.at? (t.filter fun p => f p.1) k = if f k then Tbl.at? t k else none := by
  induction t with
  | nil => simp [Tbl.at?]
  | cons p t ih =>
    obtain ⟨j, v⟩ := p
    by_cases same : j = k
    · subst same
      cases passes : f j <;> simp [Tbl.at?, passes, ih]
    · cases passes : f j <;> simp [Tbl.at?, passes, same, ih]

theorem Tbl.at?_shift (a : Nat) (t : Tbl α) (k : Nat) : Tbl.at? (t.map fun c => (a + c.1, c.2)) (a + k) = Tbl.at? t k := by
  induction t with
  | nil => rfl
  | cons p t ih => simp only [List.map_cons, Tbl.at?, ih, Nat.add_left_cancel_iff]

theorem Tbl.at?_eq_none_of_keys {t : Tbl α} {k : Nat} (unlisted : ∀ p ∈ t, p.1 ≠ k) : Tbl.at? t k = none := by
  induction t with
  | nil => rfl
  | cons p t ih =>
    rw [Tbl.at?, if_neg (unlisted p (by simp))]
    exact ih fun q listed => unlisted q (by simp [listed])

end

section
variable (d : Dev) {a n : Nat} {cells : List (Nat × Byte)}

theorem Dev.byte_fillRange_in {k : Nat} (inside : k < n) : (d.fillRange a n cells).byte (a + k) = (Tbl.at? cells k).getD 0 := by
  have below : ¬ a + k < a := by omega
  have above : ¬ a + n ≤ a + k := by omega
  simp only [Dev.byte, Dev.fillRange, Tbl.rd, Tbl.at?_append, Tbl.at?_shift, Tbl.at?_filter_key (fun j => decide (j < a)),
    Tbl.at?_filter_key (fun j => decide (a + n ≤ j)), below, above, memDefault]
  simp

theorem Dev.byte_fillRange_out {x : Nat} (fits : ∀ c ∈ cells, c.1 < n) (outside : x < a ∨ a + n ≤ x) :
    (d.fillRange a n cells).byte x = d.byte x := by
  have unlisted : Tbl.at? (cells.map fun c => (a + c.1, c.2)) x = none := by
    refine Tbl.at?_eq_none_of_keys fun p listed => ?_
    obtain ⟨c, hc, rfl⟩ := List.mem_map.1 listed
    have := fits c hc
    show a + c.1 ≠ x
    omega
  simp only [Dev.byte, Dev.fillRange, Tbl.rd, Tbl.at?_append, unlisted, Tbl.at?_filter_key (fun j => decide (j < a)),
    Tbl.at?_filter_key (fun j => decide (a + n ≤ j))]
  rcases outside with below | above
  · have : ¬ a + n ≤ x := by omega
    simp [below, this]
  · have : ¬ x < a := by omega
    simp [above, this]

theorem Dev.byte_of_mem {x y : Dev} (same : x.mem = y.mem) (a : Nat) : x.byte a = y.byte a := by rw [Dev.byte, Dev.byte, same]

/-- Forgetting the bytes of some addresses. -/
theorem Dev.byte_of_filtered {x y : Dev} {f : Nat → Bool} (filtered : y.mem = x.mem.filter fun c => f c.1) (a : Nat) :
    y.byte a = if f a then x.byte a else 0 := by
  simp only [Dev.byte, Tbl.rd, filtered, Tbl.at?_filter_key f]
  split <;> rfl

end

end Sys2Proof.Machine
end

section
/-!
PROOFS of the statement on the states of the hayloft (spec/12_hayloft.md R334 to R348): enabled, probed, formatted, rebuilt and disabled
(O31).
-/

namespace Sys2Proof.Machine

/-! ## Writes of HAY_CTRL (R348) -/

/-- The map's entry for HAY_CTRL (R363). -/
def hayCtrlReg : RegSpec :=
  ⟨F.HAY_CTRL_EN.off, [⟨0, 1, .rw, 0, .any, none⟩, ⟨1, 1, .rw, 1, .any, none⟩, ⟨2, 1, .rw, 1, .any, none⟩]⟩

theorem regAt_hayCtrl : regAt F.HAY_CTRL_EN.off = some hayCtrlReg := by decide

section
variable (d : Dev) (v : Nat)

/-- HAY_CTRL with its written fields stored, before the write takes effect. -/
def Dev.hayCtrlStored : Dev := (d.storeReg hayCtrlReg v fun _ => true).2

theorem Dev.hayCtrlStored_keeps : d.keeps (d.hayCtrlStored v) [.regs] := d.storeReg_keeps _ _ _

theorem Dev.hayCtrlStored_fld : (d.hayCtrlStored v).fld F.HAY_CTRL_EN = v % 2 := by
  have stored : (d.hayCtrlStored v).reg F.HAY_CTRL_EN.off = BitVec.ofNat 64 (v % 2 + v / 2 % 2 * 2 + v / 4 % 2 * 4) := by
    simp [Dev.hayCtrlStored, hayCtrlReg, Dev.storeReg, FieldSpec.written, FieldSpec.norm1, Dev.locked, bits]
  rw [Dev.fld, stored, BitVec.toNat_ofNat]
  simp only [F.HAY_CTRL_EN, bits]
  omega

theorem Dev.writeEffects_hayCtrl (before : Dev) : Dev.writeEffects before d F.HAY_CTRL_EN.off v = d.hayCtrlWritten := rfl

theorem Dev.busWrite_hayCtrl (served : d.serving = .all) :
    d.busWrite true F.HAY_CTRL_EN.off v = (d.hayCtrlStored v).hayCtrlWritten := by
  rw [d.busWrite_free true _ v hayCtrlReg served (by decide) (by decide) regAt_hayCtrl (by decide), Dev.writeEffects_hayCtrl,
    Dev.hayCtrlStored]

end

section
variable {d : Dev}

theorem Dev.hayCtrlWritten_enabled (enabled : d.fld F.HAY_CTRL_EN = 1) (off : d.hay.state = .off) : d.hayCtrlWritten =
    ((d.onHay fun h => { h with state := .probe, since := d.now }).hayFrames (d.fld F.HAY_MAPC_GIB * 2 ^ 14)).put (.media 6 [] []) := by
  rw [Dev.hayCtrlWritten, if_pos (by rw [Dev.flag, enabled]; rfl), if_pos (by rw [off]; rfl)]

theorem Dev.hayCtrlWritten_disabled (disabled : d.fld F.HAY_CTRL_EN = 0) (on : d.hay.state ≠ .off) : d.hayCtrlWritten = d.hayOff := by
  rw [Dev.hayCtrlWritten, if_neg (by rw [Dev.flag, disabled]; decide), if_neg (by simpa using on)]

/-- With no checkpoint to end and no shard being detached, the end of checkpoints does nothing (R463). -/
theorem Dev.ckptsEnd_of_nil (idle : d.hlt.ckpts = []) (attached : ∀ y ∈ d.srch.shards, y.2.detaching = none) (f : Nat → Bool)
    (code : Nat) : d.ckptsEnd f code = d := by
  have same : ({ d with hlt.ckpts := [] } : Dev) = d := by rw [← idle]
  rw [Dev.ckptsEnd, idle]
  exact (congrArg Dev.finishDetach same).trans (Dev.finishDetach_of_none attached)

/-- The hayloft once it is off: the flash stays, and the writes that waited have failed (R348). -/
def Hay.stopped (h : Hay) : Hay := { media := h.media, failedOwners := h.queue.map fun w => w.owner }

theorem Dev.hayOff_of_idle (still : d.hay.points = []) (idle : d.hlt.ckpts = [])
    (attached : ∀ y ∈ d.srch.shards, y.2.detaching = none) :
    d.hayOff = { d.giveFrames d.hay.frames with hay := d.hay.stopped } := by
  rw [Dev.hayOff, still]
  exact Dev.ckptsEnd_of_nil (d := { d.giveFrames d.hay.frames with hay := d.hay.stopped }) idle attached _ _

end

/-- A target that passes and fits is accepted. -/
theorem acceptTargets_one {t : TargetReport} (passes : targetOk t = true) (fits : (targetGeom t).raw ≤ 2 ^ 48) :
    acceptTargets [t] none [] = (some (targetGeom t), [t.target]) := by
  have fitsAlone : decide ((([] : List Nat).length + 1) * (targetGeom t).raw ≤ 2 ^ 48) = true := by simpa using fits
  rw [acceptTargets, passes, fitsAlone]
  rfl

/-- Whether the anchor on the flash is of one target, with its geometry (R347). -/
def Hay.anchoredTo (h : Hay) (t : TargetReport) : Bool :=
  match h.media.anchor with
  | some a => a.geom == targetGeom t && a.targets == [t.target]
  | none => false

/-- The hayloft once its one target is accepted: to be rebuilt where the anchor is of that target, blank otherwise (R347). -/
def Hay.probed (h : Hay) (t : TargetReport) (ok : Bool) : Hay :=
  { h with
    state := if ok && h.anchoredTo t then .rebuild else .blank
    geom := targetGeom t, accepted := [t.target] }

theorem Hay.probed_rebuild_iff (h : Hay) (t : TargetReport) (ok : Bool) : (h.probed t ok).state = .rebuild ↔
    ok = true ∧ ∃ a, h.media.anchor = some a ∧ a.geom = targetGeom t ∧ a.targets = [t.target] := by
  rw [Hay.probed, Hay.anchoredTo]
  cases h.media.anchor <;> simp

theorem Hay.probed_state (h : Hay) (t : TargetReport) (ok : Bool) : (h.probed t ok).state = .rebuild ∨ (h.probed t ok).state = .blank := by
  rw [Hay.probed]
  cases ok && h.anchoredTo t
  · exact .inr rfl
  · exact .inl rfl

section
variable {s : State} (alive : s.dev.alive = true)
include alive

theorem does_hayEnSet_off {v : Nat} (served : s.dev.serving = .all) (set : bit v 0 = true) (off : s.dev.hay.state = .off) :
    s.does (.hayEnSet v) fun d =>
      d.fld F.HAY_CTRL_EN = 1 ∧ d.hay.state = .probe ∧ d.hay.since = s.dev.now ∧ d.hay.media = s.dev.hay.media ∧
      d.out = s.dev.out ++ [.media 6 [] []] ∧ s.dev.keeps d [.regs, .out, .hay, .memt] := by
  have stored := s.dev.hayCtrlStored_keeps v
  have enabled : (s.dev.hayCtrlStored v).fld F.HAY_CTRL_EN = 1 := by
    rw [Dev.hayCtrlStored_fld]; simpa [bit] using set
  have begun := Dev.keeps_then (l := [.regs, .hay]) stored
    (Dev.onHay_keeps _ fun h => { h with state := .probe, since := s.dev.now }) (by simp) (by simp)
  obtain ⟨l, m, frames⟩ := Dev.hayFrames_eq ((s.dev.hayCtrlStored v).onHay fun h => { h with state := .probe, since := s.dev.now })
    ((s.dev.hayCtrlStored v).fld F.HAY_MAPC_GIB * 2 ^ 14)
  have framed := Dev.keeps_then (l := [.regs, .hay, .memt]) begun (Dev.hayFrames_keeps _
    ((s.dev.hayCtrlStored v).fld F.HAY_MAPC_GIB * 2 ^ 14)) (by simp) (by simp)
  refine State.does_of_effect (rfl : execHayEnSet v s = _) alive (Eq.trans ?_ ((s.dev.busWrite_hayCtrl v served).trans
    (Dev.hayCtrlWritten_enabled enabled off))) ?_
  · exact if_pos set
  rw [Dev.tidy_fld, Dev.tidy_hay, Dev.tidy_out, Dev.keeps_tidy_iff]
  refine ⟨?_, ?_, ?_, ?_, ?_, Dev.keeps_then framed (Dev.put_media_keeps _ _ _ _) (by simp) (by simp)⟩
  · rw [Dev.fld_of_regs (Dev.put_regs _ _), Dev.fld_of_regs (Dev.keeps_regs (Dev.hayFrames_keeps _ _) rfl)]
    exact enabled
  · rw [Dev.put_hay]
    exact congrArg (·.hay.state) frames
  · rw [Dev.put_hay]
    exact congrArg (·.hay.since) frames
  · rw [Dev.put_hay]
    exact congrArg (·.hay.media) frames
  · rw [Dev.put_media]
    exact congrArg (·.out ++ [Put.media 6 [] []]) frames

theorem does_hayEnClear_idle {v : Nat} (served : s.dev.serving = .all) (clear : bit v 0 = false) (on : s.dev.hay.state ≠ .off)
    (still : s.dev.hay.points = []) (idle : s.dev.hlt.ckpts = []) (attached : ∀ y ∈ s.dev.srch.shards, y.2.detaching = none) :
    s.does (.hayEnClear v) fun d => d.fld F.HAY_CTRL_EN = 0 ∧
      d.hay = { media := s.dev.hay.media, failedOwners := s.dev.hay.queue.map fun w => w.owner } ∧
      s.dev.keeps d [.regs, .hay, .memt] := by
  have disabled : (s.dev.hayCtrlStored v).fld F.HAY_CTRL_EN = 0 := by
    rw [Dev.hayCtrlStored_fld]; simpa [bit] using clear
  have given := Dev.keeps_then (l := [.regs, .memt]) (s.dev.hayCtrlStored_keeps v) (Dev.setMemt_keeps _
    ((s.dev.hayCtrlStored v).giveFrames s.dev.hay.frames).memt) (by simp) (by simp)
  have off := (s.dev.busWrite_hayCtrl v served).trans
    ((Dev.hayCtrlWritten_disabled disabled on).trans (Dev.hayOff_of_idle still idle attached))
  refine State.does_of_effect (rfl : execHayEnClear v s = _) alive (Eq.trans ?_ off) ?_
  · exact if_neg (by rw [clear]; decide)
  rw [Dev.tidy_fld, Dev.tidy_hay, Dev.keeps_tidy_iff]
  exact ⟨disabled, rfl, Dev.keeps_then given (Dev.setHay_keeps _ _) (by simp) (by simp)⟩

/-! ## MEDIA_PROBE_COMPLETE (R334, R347) -/

theorem does_mediaProbeComplete_late (ts : List TargetReport) (ok : Bool) (late : s.dev.hay.state ≠ .probe) :
    s.does (.mediaProbeComplete ts ok) fun d => s.dev.keeps d [] := by
  refine State.does_of_same (rfl : execMediaProbeComplete ts ok s = _) alive ?_
  exact if_pos (bne_iff_ne.2 late)

theorem does_mediaProbeComplete_one {t : TargetReport} {ok : Bool} (probe : s.dev.hay.state = .probe) (passes : targetOk t = true)
    (fits : (targetGeom t).raw ≤ 2 ^ 48) : s.does (.mediaProbeComplete [t] ok) fun d =>
      d.hay.geom = targetGeom t ∧ d.hay.accepted = [t.target] ∧
      (d.hay.state = .rebuild ↔ ok = true ∧ ∃ a, s.dev.hay.media.anchor = some a ∧ a.geom = targetGeom t ∧ a.targets = [t.target]) ∧
      (d.hay.state = .rebuild ∨ d.hay.state = .blank) ∧ d.hay.media = s.dev.hay.media ∧ s.dev.keeps d [.hay] := by
  have sorted : sortBy (fun (a b : TargetReport) => decide (a.target < b.target)) [t] = [t] := rfl
  have noneOut : ([t].filter fun x => ! [t.target].contains x.target) = [] := by simp
  refine State.does_of_effect (rfl : execMediaProbeComplete [t] ok s = _) alive
    (e := s.dev.onHay fun h => h.probed t ok) ?_ ?_
  · refine (if_neg (by simp [probe])).trans ?_
    simp only [sorted, acceptTargets_one passes fits, noneOut, List.foldl_nil]
    rfl
  · rw [Dev.tidy_hay, Dev.keeps_tidy_iff]
    exact ⟨rfl, rfl, s.dev.hay.probed_rebuild_iff t ok, s.dev.hay.probed_state t ok, rfl, Dev.onHay_keeps _ _⟩

theorem does_mediaProbeComplete_none {ok : Bool} (probe : s.dev.hay.state = .probe) : s.does (.mediaProbeComplete [] ok) fun d =>
    d.hay.state = .failed ∧ d.hay.noTarget = true ∧ d.fld E.HAY_MEDIA.bit = 1 ∧ s.dev.keeps d [.regs, .out, .hif, .hlt, .hay] := by
  refine State.does_of_effect (rfl : execMediaProbeComplete [] ok s = _) alive
    (e := (s.dev.raise E.HAY_MEDIA).onHay fun h => { h with state := .failed, noTarget := true }) ?_ ?_
  · exact if_neg (by simp [probe])
  rw [Dev.tidy_hay, Dev.tidy_fld, Dev.keeps_tidy_iff]
  exact ⟨rfl, rfl, s.dev.raise_bit _ _ _ _ _ (by decide) (by decide),
    Dev.keeps_then (s.dev.raise_keeps _ _ _ _ _) (Dev.onHay_keeps _ _) (by simp) (by simp)⟩

end

/-! ## The tables of a hayloft that begins to serve (R312, R339, R350) -/

/-- Frames are taken for the directory, and SLC_TARGET is computed. -/
def Dev.tabled (d : Dev) (units : Nat) : Dev :=
  (d.hayFrames (dirFrames units)).onHay fun h => { h with target := (d.hayFrames (dirFrames units)).slcTarget }

theorem Dev.tabled_eq (d : Dev) (units : Nat) : ∃ l t m, d.tabled units = { d with hay.frames := l, hay.target := t, memt := m } := by
  obtain ⟨l, m, frames⟩ := d.hayFrames_eq (dirFrames units)
  rw [Dev.tabled, frames]
  exact ⟨l, _, m, rfl⟩

theorem Dev.tabled_keeps (d : Dev) (units : Nat) : d.keeps (d.tabled units) [.hay, .memt] :=
  Dev.keeps_then (d.hayFrames_keeps _) (Dev.onHay_keeps _ _) (by simp) (by simp)

/-- What the tables leave of the hayloft as it was. -/
theorem Dev.tabled_hay (d : Dev) (units : Nat) : (d.tabled units).hay.state = d.hay.state ∧ (d.tabled units).hay.map = d.hay.map ∧
    (d.tabled units).hay.dir = d.hay.dir ∧ (d.tabled units).hay.media = d.hay.media := by
  obtain ⟨l, t, m, tables⟩ := d.tabled_eq units
  rw [tables]
  exact ⟨rfl, rfl, rfl, rfl⟩

/-! ## HAY_FORMAT (R337, R348) -/

section
variable {d : Dev} {marks : List Nat}

theorem Dev.hayFormat_notReady (early : d.hay.state = .off ∨ d.hay.state = .probe) :
    d.hayFormat marks = (d, .done C.HAY_NOT_READY []) :=
  if_pos (by simpa using early)

theorem Dev.hayFormat_rebuild (rebuild : d.hay.state = .rebuild) : d.hayFormat marks = (d, .done C.HAY_FORMAT_BAD []) :=
  (if_neg (by simp [rebuild])).trans (if_pos (by simp [rebuild]))

/-- The hayloft as a format leaves it, before its first flush: nothing is on the flash but the new anchor (R346). -/
def Dev.formattedHay (d : Dev) (marks : List Nat) : Hay :=
  let h := { d.hay.formatted marks (d.fld F.HAY_JRN_BLOCKS) (d.fld F.HAY_CAP_UNITS) with
    media := { anchor := d.hay.media.anchor }, flushSeq := 0, state := .ready, roundAt := d.now }
  { h with media.anchor := some (h.anchorNow (d.fld F.HAY_CAP_UNITS) (d.fld F.HAY_JRN_BLOCKS)) }

/-- The part once the flash is erased and the first flush is on it. -/
def Dev.flashFormatted (d : Dev) (marks : List Nat) : Dev :=
  { d with hay := (d.formattedHay marks).firstFlush d.now, mem := d.mem.filter fun c => c.1 / 2 ^ 64 != 3 }

theorem Dev.flashFormatted_keeps : d.keeps (d.flashFormatted marks) [.mem, .hay] :=
  Dev.keeps_then (d.setHay_keeps ((d.formattedHay marks).firstFlush d.now)) (Dev.setMem_keeps _ _) (by simp) (by simp)

/-- The addresses that are not of the flash. -/
def offFlash (a : Nat) : Bool := a / 2 ^ 64 != 3

theorem Dev.flashFormatted_byte (a : Nat) : (d.flashFormatted marks).byte a = if offFlash a then d.byte a else 0 :=
  Dev.byte_of_filtered rfl a

/-- What the first flush of a format leaves: a hayloft ready and unmapped, and on the flash that flush and the new anchor. -/
theorem Dev.flashFormatted_hay : (d.flashFormatted marks).hay.state = .ready ∧ (d.flashFormatted marks).hay.map = [] ∧
    (d.flashFormatted marks).hay.dir = [] ∧ (d.flashFormatted marks).hay.media.flushes.length = 1 ∧
    (d.flashFormatted marks).hay.media.tags = [] ∧ ∃ a, (d.flashFormatted marks).hay.media.anchor = some a ∧
      a.units = d.fld F.HAY_CAP_UNITS ∧ a.seq = ((d.hay.media.anchor.map (·.seq)).getD 0) + 1 := by
  obtain ⟨map, dir, -⟩ := d.hay.formatted_kept marks (d.fld F.HAY_JRN_BLOCKS) (d.fld F.HAY_CAP_UNITS)
  obtain ⟨p, f, flushed⟩ := (d.formattedHay marks).firstFlush_eq d.now
  have hay : (d.flashFormatted marks).hay = _ := flushed
  rw [hay]
  exact ⟨rfl, map, dir, rfl, rfl, _, rfl, rfl, rfl⟩

theorem Dev.hayFormat_good (held : d.hay.state = .blank ∨ d.hay.state = .ready) (units : d.fld F.HAY_CAP_UNITS ≠ 0)
    (free : d.memt.regions = []) (fits : d.fld F.HAY_CAP_UNITS ≤
      (d.hay.formatted marks (d.fld F.HAY_JRN_BLOCKS) (d.fld F.HAY_CAP_UNITS)).good * d.hay.geom.native * 119 / 128) :
    d.hayFormat marks = ((d.flashFormatted marks).tabled (d.fld F.HAY_CAP_UNITS), .ok) := by
  obtain ⟨-, -, geom⟩ := d.hay.formatted_kept marks (d.fld F.HAY_JRN_BLOCKS) (d.fld F.HAY_CAP_UNITS)
  exact (if_neg (by rcases held with held | held <;> simp [held])).trans
    ((if_neg (by rcases held with held | held <;> simp [held, units, free])).trans (if_neg (by rw [geom]; omega)))

end

section
variable {s : State} {c : HostCmd} {marks : List Nat} (alive : s.dev.alive = true) (takes : s.dev.takes (argSpec 0 0 0) c)
include alive takes

theorem completes_hayFormat_notReady (early : s.dev.hay.state = .off ∨ s.dev.hay.state = .probe) :
    s.completes (.hayFormat c marks) c C.HAY_NOT_READY [] fun e => (s.dev.taken c).keeps e [] :=
  State.completes_of_done (i := .hayFormat c marks) rfl alive takes
    (Dev.hayFormat_notReady (by rw [Dev.taken_hay]; exact early)) (Dev.keeps_refl _ _)

theorem completes_hayFormat_rebuild (rebuild : s.dev.hay.state = .rebuild) :
    s.completes (.hayFormat c marks) c C.HAY_FORMAT_BAD [] fun e => (s.dev.taken c).keeps e [] :=
  State.completes_of_done (i := .hayFormat c marks) rfl alive takes
    (Dev.hayFormat_rebuild (by rw [Dev.taken_hay]; exact rebuild)) (Dev.keeps_refl _ _)

theorem completes_hayFormat_good (held : s.dev.hay.state = .blank ∨ s.dev.hay.state = .ready) (units : s.dev.fld F.HAY_CAP_UNITS ≠ 0)
    (free : s.dev.memt.regions = []) (fits : s.dev.fld F.HAY_CAP_UNITS ≤
      (s.dev.hay.formatted marks (s.dev.fld F.HAY_JRN_BLOCKS) (s.dev.fld F.HAY_CAP_UNITS)).good * s.dev.hay.geom.native * 119 / 128) :
    s.completes (.hayFormat c marks) c C.OK [] fun e =>
      e.hay.state = .ready ∧ e.hay.map = [] ∧ e.hay.dir = [] ∧ e.hay.media.flushes.length = 1 ∧ e.hay.media.tags = [] ∧
      (∃ a, e.hay.media.anchor = some a ∧ a.units = s.dev.fld F.HAY_CAP_UNITS ∧
        a.seq = ((s.dev.hay.media.anchor.map (·.seq)).getD 0) + 1) ∧
      (∀ a, a / 2 ^ 64 = 3 → e.byte a = 0) ∧ (∀ a, a / 2 ^ 64 ≠ 3 → e.byte a = s.dev.byte a) ∧
      (s.dev.taken c).keeps e [.mem, .hay, .memt] := by
  have hay := s.dev.taken_hay c
  have cap := s.dev.taken_fld c (f := F.HAY_CAP_UNITS) (by decide)
  have ring := s.dev.taken_fld c (f := F.HAY_JRN_BLOCKS) (by decide)
  have answer := Dev.hayFormat_good (d := s.dev.taken c) (marks := marks) (by rw [hay]; exact held)
    (by rw [cap]; exact units) (by rw [Dev.taken_memt]; exact free) (by rw [hay, cap, ring]; exact fits)
  have blank := (s.dev.taken c).flashFormatted_keeps (marks := marks)
  have bytes := (s.dev.taken c).flashFormatted_byte (marks := marks)
  have format := (s.dev.taken c).flashFormatted_hay (marks := marks)
  generalize (s.dev.taken c).flashFormatted marks = x at answer blank bytes format
  have tables := x.tabled_keeps ((s.dev.taken c).fld F.HAY_CAP_UNITS)
  obtain ⟨state, map, dir, media⟩ := x.tabled_hay ((s.dev.taken c).fld F.HAY_CAP_UNITS)
  rw [← state, ← map, ← dir, ← media, hay, cap] at format
  obtain ⟨ready, unmapped, noDir, flushes, tags, anchor⟩ := format
  have byte (a : Nat) := (Dev.keeps_mem tables rfl a).trans (bytes a)
  rw [cap] at *
  exact State.completes_of_done (i := .hayFormat c marks) rfl alive takes answer
    ⟨ready, unmapped, noDir, flushes, tags, anchor, fun a flash => (byte a).trans (if_neg (by rw [offFlash, flash]; decide)),
      fun a other => (byte a).trans ((if_pos (bne_iff_ne.2 other)).trans (s.dev.taken_byte c a)),
      Dev.keeps_then blank tables (by simp) (by simp)⟩

end

/-! ## REBUILD_COMPLETE (R347, R348) -/

/-- The part with a hayloft rebuilt: its first flush is on the flash, and the registers tell of the rebuild. -/
def Dev.flashRebuilt (d : Dev) (h : Hay) (units beats tags : Nat) : Dev :=
  ((({ d with hay := h.firstFlush d.now } : Dev).setFld F.HAY_CAP_UNITS units).setFld F.HAY_REBUILD_BEATS beats).setFld
    F.HAY_REBUILD_TAGS tags

theorem Dev.flashRebuilt_keeps (d : Dev) (h : Hay) (units beats tags : Nat) :
    d.keeps (d.flashRebuilt h units beats tags) [.regs, .hay] :=
  Dev.keeps_then (d.setHay_keeps (h.firstFlush d.now)) (Dev.keeps_trans (Dev.setFld_keeps _ _ _)
    (Dev.keeps_trans (Dev.setFld_keeps _ _ _) (Dev.setFld_keeps _ _ _))) (by simp) (by simp)

theorem Dev.flashRebuilt_units (d : Dev) (h : Hay) (units beats tags : Nat) :
    (d.flashRebuilt h units beats tags).fld F.HAY_CAP_UNITS = units % 2 ^ F.HAY_CAP_UNITS.width := by
  rw [Dev.flashRebuilt, Dev.fld_setFld_ne _ _ _ _ (by decide), Dev.fld_setFld_ne _ _ _ _ (by decide),
    Dev.fld_setFld_self _ _ (by decide)]

theorem Dev.flashRebuilt_hay (d : Dev) (h : Hay) (units beats tags : Nat) : (d.flashRebuilt h units beats tags).hay.state = h.state ∧
    (d.flashRebuilt h units beats tags).hay.map = h.map ∧ (d.flashRebuilt h units beats tags).hay.dir = h.dir ∧
    (d.flashRebuilt h units beats tags).hay.media.tags = h.media.tags := by
  obtain ⟨p, f, flushed⟩ := h.firstFlush_eq d.now
  have hay : (d.flashRebuilt h units beats tags).hay = _ := flushed
  rw [hay]
  exact ⟨rfl, rfl, rfl, rfl⟩

section
variable {s : State} (alive : s.dev.alive = true)
include alive

theorem does_rebuildComplete_late (ok : Bool) (late : s.dev.hay.state ≠ .rebuild) :
    s.does (.rebuildComplete ok) fun d => s.dev.keeps d [] := by
  refine State.does_of_same (rfl : execRebuildComplete ok s = _) alive ?_
  have other : (s.dev.hay.state == .rebuild) = false := by simpa using late
  simp only [other]

variable {a : HAnchor} (rebuild : s.dev.hay.state = .rebuild) (anchor : s.dev.hay.media.anchor = some a)
include rebuild anchor

theorem does_rebuildComplete_unreadable : s.does (.rebuildComplete false) fun d =>
    d.hay.state = .failed ∧ d.hay.media = s.dev.hay.media ∧ d.fld E.HAY_REBUILD_FAIL.bit = 1 ∧
    s.dev.keeps d [.regs, .out, .hif, .hlt, .hay] := by
  refine State.does_of_effect (rfl : execRebuildComplete false s = _) alive
    (e := (s.dev.onHay fun h => { h with state := .failed, noTarget := false }).raise E.HAY_REBUILD_FAIL) ?_ ?_
  · simp only [rebuild, anchor, beq_self_eq_true, Bool.not_false, if_true]
  rw [Dev.tidy_hay, Dev.tidy_fld, Dev.keeps_tidy_iff, Dev.raise_hay]
  exact ⟨rfl, rfl, Dev.raise_bit _ _ _ _ _ _ (by decide) (by decide),
    Dev.keeps_then (Dev.onHay_keeps _ _) (Dev.raise_keeps _ _ _ _ _ _) (by simp) (by simp)⟩

/-- A rebuild that could read its directory makes the hayloft that the flash spells (R347). -/
theorem exec_rebuildComplete_readable : ∃ (h : Hay) (beats tags : Nat),
    exec (.rebuildComplete true) s = .next { s with dev := ((s.dev.flashRebuilt h a.units beats tags).tabled a.units).tidy } ∧
    h.state = .ready ∧ h.map = (s.dev.hay.media.rebuild a).map ∧ h.dir = (s.dev.hay.media.rebuild a).dir ∧
    h.media = s.dev.hay.media := by
  refine ⟨?h, ?beats, ?tags, (rfl : execRebuildComplete true s = _).trans (State.onDev_eq alive ?effect), ?_, ?_, ?_, ?_⟩
  case effect =>
    simp only [rebuild, anchor, beq_self_eq_true, Bool.not_true, Bool.false_eq_true, if_false]
    rfl
  all_goals rfl

theorem does_rebuildComplete_readable : s.does (.rebuildComplete true) fun d =>
    d.hay.state = .ready ∧ d.hay.map = (s.dev.hay.media.rebuild a).map ∧ d.hay.dir = (s.dev.hay.media.rebuild a).dir ∧
    d.hay.media.tags = s.dev.hay.media.tags ∧ d.fld F.HAY_CAP_UNITS = a.units % 2 ^ F.HAY_CAP_UNITS.width ∧
    s.dev.keeps d [.regs, .hay, .memt] := by
  obtain ⟨h, beats, tags, run, state, map, dir, media⟩ := exec_rebuildComplete_readable alive rebuild anchor
  have keeps := s.dev.flashRebuilt_keeps h a.units beats tags
  have units := s.dev.flashRebuilt_units h a.units beats tags
  have rebuilt := s.dev.flashRebuilt_hay h a.units beats tags
  generalize s.dev.flashRebuilt h a.units beats tags = x at run keeps units rebuilt
  have tables := x.tabled_keeps a.units
  obtain ⟨tState, tMap, tDir, tMedia⟩ := x.tabled_hay a.units
  rw [state, map, dir, media, ← tState, ← tMap, ← tDir, ← tMedia] at rebuilt
  obtain ⟨ready, mapped, listed, tags⟩ := rebuilt
  refine State.does_of_next _ run ?_
  rw [Dev.tidy_hay, Dev.tidy_fld, Dev.keeps_tidy_iff]
  exact ⟨ready, mapped, listed, tags, (Dev.fld_of_regs (Dev.keeps_regs tables rfl) _).trans units,
    Dev.keeps_then keeps tables (by simp) (by simp)⟩

end

/-- Settles O31, command by command: HAY_CTRL.EN set and cleared, the end of the probe, HAY_FORMAT, and the end of the rebuild. -/
theorem theHayloftStartsFormatsAndRebuilds : Obligations.TheHayloftStartsFormatsAndRebuilds := by
  refine ⟨fun s v alive served => ⟨does_hayEnSet_off alive served, does_hayEnClear_idle alive served⟩, fun s ts ok alive => ?_,
    fun s c marks alive takes => ?_, fun s ok alive => ?_⟩
  · refine ⟨does_mediaProbeComplete_late alive ts ok, ?_, does_mediaProbeComplete_none alive⟩
    rintro t probe rfl passes fits
    exact does_mediaProbeComplete_one alive probe passes fits
  · exact ⟨completes_hayFormat_notReady alive takes, completes_hayFormat_rebuild alive takes, completes_hayFormat_good alive takes⟩
  · exact ⟨does_rebuildComplete_late alive ok, fun a rebuild anchor =>
      ⟨does_rebuildComplete_unreadable alive rebuild anchor, does_rebuildComplete_readable alive rebuild anchor⟩⟩

end Sys2Proof.Machine
end

section
/-!
PROOFS of the statement on accesses of the hayloft (spec/12_hayloft.md R337 to R362): reads, writes, units programmed and programs that fail
(O32).
-/

namespace Sys2Proof.Machine

/-! ## Accesses that are refused (R337, R348) -/

section
variable {d : Dev} {lba : Nat}

theorem Dev.hayRefuses_of_not_serving (closed : d.hay.serves = false) (write : Bool) :
    d.hayRefuses lba write = some C.HAY_NOT_READY :=
  if_pos (by rw [closed]; rfl)

theorem Dev.hayRefuses_of_beyond (serves : d.hay.serves = true) (beyond : d.fld F.HAY_CAP_UNITS ≤ lba) (write : Bool) :
    d.hayRefuses lba write = some C.HAY_RANGE :=
  (if_neg (by rw [serves]; decide)).trans (if_pos beyond)

end

/-! ## HAY_READ (R337, R338, R352, R361) -/

/-- A unit that no retry recovers is listed, its plane block marked and its block queued for refresh (R361). -/
def Dev.listBad (d : Dev) (lba p : Nat) : Dev :=
  (((((d.onHay fun h => { h with media.bad := h.media.bad ++ [p] }).count F.HAY_ERR_CNT_UE).charge .ue 6 (blockTarget (ppaBlock p))).markPlane
    (ppaBlock p) (ppaPlane p)).raise E.HAY_UE 6 (blockTarget (ppaBlock p)) lba).onHay
      fun h => h.setBlk (ppaBlock p) { h.blk (ppaBlock p) with refresh := true }

section
variable (d : Dev) (lba p : Nat)

theorem Dev.listBad_keeps : d.keeps (d.listBad lba p) [.regs, .out, .comp, .hif, .hlt, .hay] :=
  have counted := Dev.keeps_then (l := [.regs, .hay]) (d.onHay_keeps fun h => { h with media.bad := h.media.bad ++ [p] })
    (Dev.count_keeps _ F.HAY_ERR_CNT_UE 1) (by simp) (by simp)
  have charged := Dev.keeps_then (l := [.regs, .out, .comp, .hif, .hlt, .hay]) counted
    (Dev.charge_keeps _ .ue 6 (blockTarget (ppaBlock p))) (by simp) (by simp)
  have marked := Dev.keeps_trans charged (Dev.markPlane_keeps _ (ppaBlock p) (ppaPlane p))
  have raised := Dev.keeps_then (l := [.regs, .out, .comp, .hif, .hlt, .hay]) marked
    (Dev.raise_keeps _ E.HAY_UE 6 (blockTarget (ppaBlock p)) lba none) (by simp) (by simp)
  Dev.keeps_then raised (Dev.onHay_keeps _ _) (by simp) (by simp)

theorem Dev.listBad_hay : ∃ t, (d.listBad lba p).hay = { d.hay with blocks := t, media.bad := d.hay.media.bad ++ [p] } := by
  obtain ⟨t, marked⟩ := Dev.markPlane_hay (((d.onHay fun h => { h with media.bad := h.media.bad ++ [p] }).count
    F.HAY_ERR_CNT_UE).charge .ue 6 (blockTarget (ppaBlock p))) (ppaBlock p) (ppaPlane p)
  rw [Dev.charge_hay, Dev.count_hay] at marked
  rw [Dev.listBad, Dev.onHay, Dev.raise_hay, marked]
  exact ⟨_, rfl⟩

variable {d} (unheld : d.pan.held = []) (unmapped : d.memt.regions = [])
include unheld unmapped

/-- With no region of the unified range and no parked region, a bad unit is listed and nothing is lost with it. -/
theorem Dev.unitBad_alone : d.unitBad lba p = if d.hay.media.bad.contains p then d else d.listBad lba p := by
  have keeps := d.listBad_keeps lba p
  have held : (d.listBad lba p).pan.held = [] := by rw [Dev.keeps_pan keeps rfl, unheld]
  have regions : (d.listBad lba p).memt.regions = [] := by rw [Dev.keeps_memt keeps rfl, unmapped]
  unfold Dev.listBad at held regions ⊢
  simp only [Dev.unitBad, regions, held, List.filter_nil, List.foldl_nil]

theorem Dev.unitBad_keeps : d.keeps (d.unitBad lba p) [.regs, .out, .comp, .hif, .hlt, .hay] := by
  rw [Dev.unitBad_alone lba p unheld unmapped]
  split
  · exact Dev.keeps_refl d _
  · exact d.listBad_keeps lba p

/-- The unit is listed as bad, and the map stands. -/
theorem Dev.unitBad_listed : p ∈ (d.unitBad lba p).hay.media.bad ∧ (d.unitBad lba p).hay.map = d.hay.map := by
  rw [Dev.unitBad_alone lba p unheld unmapped]
  split
  · rename_i listed
    exact ⟨List.contains_iff_mem.1 listed, rfl⟩
  · obtain ⟨t, hay⟩ := d.listBad_hay lba p
    rw [hay]
    exact ⟨List.mem_append_right _ (List.mem_singleton_self p), rfl⟩

end

section
variable {s : State} {lba : Nat} (alive : s.dev.alive = true)
include alive

theorem does_hayRead_refused (how : FlashRead) {k : Nat} (refused : s.dev.hayRefuses lba false = some k) :
    s.does (.hayRead lba how) fun d => d.out = s.dev.out ++ [.media 0 [lba, k] []] ∧ s.dev.keeps d [.out] := by
  refine State.does_of_effect (rfl : execHayRead lba how s = _) alive (e := s.dev.put (.media 0 [lba, k] [])) ?_ ?_
  · simp only [refused]
  rw [Dev.tidy_out, Dev.keeps_tidy_iff]
  exact ⟨congrArg Dev.out (Dev.put_media _ _ _ _), Dev.put_media_keeps _ _ _ _⟩

variable (accepted : s.dev.hayRefuses lba false = none)
include accepted

theorem does_hayRead_unmapped (how : FlashRead) (unmapped : Tbl.at? s.dev.hay.map lba = none) : s.does (.hayRead lba how) fun d =>
    d.out = s.dev.out ++ [.media 0 [lba, C.OK] []] ∧
    d.fld F.HAY_IO_CNT_READS = min (s.dev.fld F.HAY_IO_CNT_READS + 1) (2 ^ F.HAY_IO_CNT_READS.width - 1) ∧ s.dev.keeps d [.regs, .out] := by
  refine State.does_of_effect (rfl : execHayRead lba how s = _) alive
    (e := (s.dev.count F.HAY_IO_CNT_READS).put (.media 0 [lba, C.OK] [])) ?_ ?_
  · simp only [accepted, Dev.count_hay, unmapped]
  rw [Dev.tidy_out, Dev.tidy_fld, Dev.keeps_tidy_iff]
  exact ⟨congrArg Dev.out (Dev.put_media _ _ _ _),
    (Dev.fld_of_regs (Dev.put_regs _ _) _).trans (s.dev.fld_count_self (by decide)),
    Dev.keeps_then (s.dev.count_keeps _ _) (Dev.put_media_keeps _ _ _ _) (by simp) (by simp)⟩

variable {p : Nat} (mapped : Tbl.at? s.dev.hay.map lba = some p)
include mapped

theorem does_hayRead_clean : s.does (.hayRead lba .clean) fun d =>
    d.out = s.dev.out ++ [.media 0 [lba, C.OK] []] ∧ (d.hay.blk (ppaBlock p)).reads = (s.dev.hay.blk (ppaBlock p)).reads + 1 ∧
    (∀ b, b ≠ ppaBlock p → d.hay.blk b = s.dev.hay.blk b) ∧ d.hay.map = s.dev.hay.map ∧ s.dev.keeps d [.regs, .out, .hay] := by
  refine State.does_of_onDev _ (rfl : execHayRead lba .clean s = _) alive ?_
  simp only [accepted, Dev.count_hay, mapped, Dev.tidy_out, Dev.tidy_hay, Dev.keeps_tidy_iff, Dev.put_hay]
  refine ⟨congrArg Dev.out (Dev.put_media _ _ _ _), ?_, fun b apart => Hay.blk_setBlk_ne _ _ apart, rfl, ?_⟩
  · exact congrArg HBlk.reads (Hay.blk_setBlk_self _ _ _)
  · exact Dev.keeps_then (Dev.keeps_then (l := [.regs, .hay]) (s.dev.count_keeps F.HAY_IO_CNT_READS 1) (Dev.onHay_keeps _ _) (by simp)
      (by simp)) (Dev.put_media_keeps _ _ _ _) (by simp) (by simp)

theorem does_hayRead_bad (unheld : s.dev.pan.held = []) (flat : s.dev.memt.regions = []) : s.does (.hayRead lba .bad) fun d =>
    .media 0 [lba, C.HAY_UE] [] ∈ d.out ∧ p ∈ d.hay.media.bad ∧ d.hay.map = s.dev.hay.map ∧
    s.dev.keeps d [.regs, .out, .comp, .hif, .hlt, .hay] := by
  obtain ⟨x, read⟩ : ∃ x : HBlk, x = { s.dev.hay.blk (ppaBlock p) with
      reads := (s.dev.hay.blk (ppaBlock p)).reads + 1
      refresh := (s.dev.hay.blk (ppaBlock p)).refresh || decide ((s.dev.count F.HAY_IO_CNT_READS).rdThreshold
        (s.dev.hay.blk (ppaBlock p)).slc ≤ (s.dev.hay.blk (ppaBlock p)).reads + 1) || FlashRead.bad != .clean } := ⟨_, rfl⟩
  have counted := Dev.keeps_then (l := [.regs, .hay]) (s.dev.count_keeps F.HAY_IO_CNT_READS 1)
    (Dev.keeps_then (l := [.regs, .hay]) (Dev.onHay_keeps _ fun h => h.setBlk (ppaBlock p) x) (Dev.count_keeps _ F.HAY_ERR_CNT_RETRY 1)
      (by simp) (by simp)) (by simp) (by simp)
  obtain ⟨listed, map⟩ := Dev.unitBad_listed (d := ((s.dev.count F.HAY_IO_CNT_READS).onHay
    fun h => h.setBlk (ppaBlock p) x).count F.HAY_ERR_CNT_RETRY) lba p unheld flat
  have keeps := Dev.keeps_then (l := [.regs, .out, .comp, .hif, .hlt, .hay]) counted (Dev.unitBad_keeps lba p unheld flat)
    (by simp) (by simp)
  refine State.does_of_effect (rfl : execHayRead lba .bad s = _) alive (e := ((((s.dev.count F.HAY_IO_CNT_READS).onHay
    fun h => h.setBlk (ppaBlock p) x).count F.HAY_ERR_CNT_RETRY).unitBad lba p).put (.media 0 [lba, C.HAY_UE] [])) ?_ ?_
  · simp only [accepted, Dev.count_hay, mapped, read]
    rfl
  rw [Dev.tidy_out, Dev.tidy_hay, Dev.keeps_tidy_iff, Dev.put_hay]
  refine ⟨?_, listed, map, Dev.keeps_then keeps (Dev.put_media_keeps _ _ _ _) (by simp) (by simp)⟩
  rw [Dev.put_media]
  exact List.mem_append_right _ (List.mem_singleton_self _)

end

/-! ## HAY_WRITE (R341, R342, R346, R362) -/

theorem mem_addOnce_self {α : Type} [DecidableEq α] (l : List α) (a : α) : a ∈ addOnce l a := by
  rw [addOnce]
  split
  · assumption
  · exact List.mem_append_right _ (List.mem_singleton_self a)

section
variable {d : Dev} {w b : Nat}

theorem Dev.openPoint_of_open (opened : (d.hay.point w).block = some b) : d.openPoint w = d :=
  if_pos (by rw [opened]; rfl)

/-- The next unit of a write point's open block, with what it carries (R342). -/
def Dev.nextProg (d : Dev) (b kind key src : Nat) (cells : List (Nat × Byte)) (owner : Option HayOwner) : HayProg :=
  { ppa := d.hay.geom.ppa b (d.hay.blk b).written, tag := { kind := kind, key := key, seq := d.hay.nextSeq, src := src }
    cells := cells, owner := owner }

/-- The hayloft once a unit is being programmed through a write point whose open block is b. -/
def Hay.issue (h : Hay) (w b : Nat) (x : HayProg) : Hay :=
  { (h.setBlk b { h.blk b with written := (h.blk b).written + 1 }).setPoint w { h.point w with progs := (h.point w).progs ++ [x] } with
    nextSeq := h.nextSeq + 1 }

theorem Dev.program_open (opened : (d.hay.point w).block = some b)
    (room : (d.hay.blk b).written < d.hay.geom.cap (d.hay.blk b).slc) (kind key src : Nat) (cells : List (Nat × Byte))
    (owner : Option HayOwner) : d.program w kind key src cells owner =
      some (({ d with hay := d.hay.issue w b (d.nextProg b kind key src cells owner) } : Dev).put
        (.media 2 [w, d.hay.geom.ppa b (d.hay.blk b).written, kind, key, d.hay.nextSeq] [])) := by
  simp only [Dev.program, Dev.openPoint_of_open opened, opened, if_neg (Nat.not_le.2 room), Hay.issue, Dev.nextProg]
  rfl

end

section
variable {s : State} {w : Nat} {x : HayWrite} {t : List HayWrite} (alive : s.dev.alive = true)
include alive

theorem does_hayWrite_empty (empty : s.dev.hay.queue = []) : s.does (.hayWrite w) fun d => s.dev.keeps d [] := by
  refine State.does_of_same (rfl : execHayWrite w s = _) alive ?_
  simp only [empty]

variable (queued : s.dev.hay.queue = x :: t)
include queued

theorem does_hayWrite_refused {k u : Nat} (owner : x.owner = .unit u) (refused : s.dev.hayRefuses x.lba true = some k) :
    s.does (.hayWrite w) fun d =>
      d.hay.queue = t ∧ x.owner ∈ d.hay.failedOwners ∧ d.out = s.dev.out ++ [.media 0 [x.lba, k] []] ∧ s.dev.keeps d [.out, .hay] := by
  refine State.does_of_effect (rfl : execHayWrite w s = _) alive (e := (s.dev.onHay fun h =>
    { h with queue := t, failedOwners := addOnce h.failedOwners x.owner }).put (.media 0 [x.lba, k] [])) ?_ ?_
  · simp only [queued, refused, owner]
  rw [Dev.tidy_hay, Dev.tidy_out, Dev.keeps_tidy_iff, Dev.put_hay]
  refine ⟨rfl, ?_, congrArg Dev.out (Dev.put_media _ _ _ _),
    Dev.keeps_then (Dev.onHay_keeps _ _) (Dev.put_media_keeps _ _ _ _) (by simp) (by simp)⟩
  exact mem_addOnce_self _ _

theorem does_hayWrite_issued {b : Nat} (accepted : s.dev.hayRefuses x.lba true = none) (unfilled : s.dev.hay.jrnFull = false)
    (host : w < 30) (opened : (s.dev.hay.point w).block = some b)
    (room : (s.dev.hay.blk b).written < s.dev.hay.geom.cap (s.dev.hay.blk b).slc) : s.does (.hayWrite w) fun d =>
      d.hay.queue = t ∧ d.hay.nextSeq = s.dev.hay.nextSeq + 1 ∧ (d.hay.blk b).written = (s.dev.hay.blk b).written + 1 ∧
      (d.hay.point w).progs = (s.dev.hay.point w).progs ++ [{
        ppa := s.dev.hay.geom.ppa b (s.dev.hay.blk b).written
        tag := { kind := 0, key := x.lba, seq := s.dev.hay.nextSeq, src := 0 }, cells := x.cells, owner := some x.owner }] ∧
      d.out = s.dev.out ++ [.media 2 [w, s.dev.hay.geom.ppa b (s.dev.hay.blk b).written, 0, x.lba, s.dev.hay.nextSeq] []] ∧
      s.dev.keeps d [.out, .hay] := by
  obtain ⟨y, issued⟩ : ∃ y, s.dev.hay.issue w b (s.dev.nextProg b 0 x.lba 0 x.cells (some x.owner)) = y := ⟨_, rfl⟩
  refine State.does_of_effect (rfl : execHayWrite w s = _) alive (e := (({ s.dev with hay := y } : Dev).put (.media 2
    [w, s.dev.hay.geom.ppa b (s.dev.hay.blk b).written, 0, x.lba, s.dev.hay.nextSeq] [])).onHay fun h => { h with queue := t }) ?_ ?_
  · have waits : ¬ 30 ≤ w := Nat.not_le.2 host
    simp only [queued, accepted, unfilled, waits, decide_false, Bool.or_false, Bool.false_eq_true, if_false,
      Dev.program_open opened room, issued]
  rw [Dev.tidy_hay, Dev.tidy_out, Dev.keeps_tidy_iff, Dev.put_media, ← issued]
  refine ⟨rfl, rfl, ?_, ?_, rfl, ?_⟩
  · exact congrArg HBlk.written (Hay.blk_setBlk_self _ _ _)
  · exact congrArg WPoint.progs (Hay.point_setPoint_self _ _ _)
  · exact Dev.keeps_then (Dev.keeps_then (l := [.out, .hay]) (s.dev.setHay_keeps _) (Dev.setOut_keeps _ _) (by simp) (by simp))
      (Dev.onHay_keeps _ _) (by simp) (by simp)

end

/-! ## PROGRAM_COMPLETE (R341) -/

section
variable {d : Dev} {p : HayProg}

theorem Dev.landUnit_byte (a : Nat) : (d.landUnit p).byte a = (d.fillRange (flashKey p.ppa) 4096 p.cells).byte a :=
  Dev.byte_of_mem (Dev.onHay_mem _ _) a

/-- A unit of host data that is durable lies on the flash, is mapped, and is counted. -/
theorem Dev.unitDone_host (kind : p.tag.kind = 0) :
    ((d.unitDone p).hay.map = Tbl.put d.hay.map p.tag.key p.ppa ∧ (d.unitDone p).hay.media.tags = Tbl.put d.hay.media.tags p.ppa p.tag ∧
      (d.unitDone p).hay.points = d.hay.points ∧ (d.unitDone p).hay.copyQ = d.hay.copyQ) ∧
    (∀ a, (d.unitDone p).byte a = (d.fillRange (flashKey p.ppa) 4096 p.cells).byte a) ∧
    (d.unitDone p).fld F.HAY_IO_CNT_WRITES = min (d.fld F.HAY_IO_CNT_WRITES + 1) (2 ^ F.HAY_IO_CNT_WRITES.width - 1) ∧
    d.keeps (d.unitDone p) [.regs, .mem, .hay] := by
  rw [Dev.unitDone, if_pos kind]
  refine ⟨?_, fun a => ?_, ?_, ?_⟩
  · simp only [Dev.count_hay, Dev.onHay, Hay.setMap, Hay.journal_eq]
    exact ⟨rfl, rfl, rfl, rfl⟩
  · rw [← Dev.landUnit_byte]
    exact Dev.byte_of_mem (by rw [Dev.count_mem, Dev.onHay_mem, Dev.onHay_mem]) a
  · rw [Dev.fld_count_self _ (by decide), Dev.onHay_fld, Dev.onHay_fld, Dev.fld_of_regs (Dev.keeps_regs (d.landUnit_keeps p) rfl)]
  · exact Dev.keeps_then (Dev.keeps_then (l := [.mem, .hay]) (d.landUnit_keeps p) (Dev.keeps_trans (Dev.onHay_keeps _ _)
      (Dev.onHay_keeps _ _)) (by simp) (by simp)) (Dev.count_keeps _ _ _) (by simp) (by simp)

theorem Dev.ckptsDurable_of_nil (idle : d.hlt.ckpts = []) : d.ckptsDurable = d := if_pos (by rw [idle]; rfl)

/-- A host unit ends: it is durable, and its block closes if it is full. -/
theorem exec_programComplete_host {s : State} {w : Nat} (alive : s.dev.alive = true) (one : (s.dev.hay.point w).progs = [p])
    (kind : p.tag.kind = 0) (idle : s.dev.hay.copyQ = []) (unsaved : s.dev.hlt.ckpts = []) :
    exec (.programComplete w 1) s = .next { s with dev :=
      (((s.dev.onHay fun h => h.setPoint w { h.point w with progs := [] }).unitDone p).onHay fun h => h.closeFull w).tidy } := by
  obtain ⟨x, emptied⟩ : ∃ x, (s.dev.onHay fun h => h.setPoint w { h.point w with progs := [] }) = x := ⟨_, rfl⟩
  obtain ⟨⟨-, -, -, copyQ⟩, -, -, done⟩ := Dev.unitDone_host (d := x) kind
  obtain ⟨b, q, j, f, closed, -⟩ := (x.unitDone p).hay.closeFull_eq w
  have still : ((x.unitDone p).onHay fun h => h.closeFull w).hay.copyQ = [] := by
    rw [Dev.onHay, closed, ← idle]
    exact copyQ.trans (by rw [← emptied]; rfl)
  have ckpts : ((x.unitDone p).onHay fun h => h.closeFull w).hlt.ckpts = [] := by
    rw [Dev.onHay_hlt, Dev.keeps_hlt done rfl, ← unsaved, ← emptied, Dev.onHay_hlt]
  refine (rfl : execProgramComplete w 1 s = _).trans (State.onDev_eq alive ?_)
  simp only [one, List.drop_succ_cons, List.drop_nil, List.take_succ_cons, List.take_zero, List.foldl_cons, List.foldl_nil]
  subst emptied
  exact (congrArg Dev.ckptsDurable (Dev.pumpCopies_of_idle still)).trans (Dev.ckptsDurable_of_nil ckpts)

end

theorem does_programComplete_host {s : State} {w : Nat} {p : HayProg} (alive : s.dev.alive = true)
    (one : (s.dev.hay.point w).progs = [p]) (kind : p.tag.kind = 0) (fits : ∀ c ∈ p.cells, c.1 < 4096) (idle : s.dev.hay.copyQ = [])
    (unsaved : s.dev.hlt.ckpts = []) : s.does (.programComplete w 1) fun d =>
      Tbl.at? d.hay.map p.tag.key = some p.ppa ∧ (∀ l, l ≠ p.tag.key → Tbl.at? d.hay.map l = Tbl.at? s.dev.hay.map l) ∧
      Tbl.at? d.hay.media.tags p.ppa = some p.tag ∧ (d.hay.point w).progs = [] ∧
      (∀ k, k < 4096 → d.byte (flashKey p.ppa + k) = (Tbl.at? p.cells k).getD 0) ∧
      (∀ a, (a < flashKey p.ppa ∨ flashKey p.ppa + 4096 ≤ a) → d.byte a = s.dev.byte a) ∧
      d.fld F.HAY_IO_CNT_WRITES = min (s.dev.fld F.HAY_IO_CNT_WRITES + 1) (2 ^ F.HAY_IO_CNT_WRITES.width - 1) ∧
      s.dev.keeps d [.regs, .mem, .hay] := by
  have begun := s.dev.onHay_keeps fun h => h.setPoint w { h.point w with progs := [] }
  have emptied := congrArg WPoint.progs (s.dev.hay.point_setPoint_self w { s.dev.hay.point w with progs := [] })
  refine State.does_of_next _ (exec_programComplete_host alive one kind idle unsaved) ?_
  obtain ⟨⟨map, tags, points, -⟩, bytes, writes, done⟩ :=
    Dev.unitDone_host (d := s.dev.onHay fun h => h.setPoint w { h.point w with progs := [] }) kind
  generalize (s.dev.onHay fun h => h.setPoint w { h.point w with progs := [] }).unitDone p = y at map tags points bytes writes done ⊢
  obtain ⟨b, q, j, f, closed, progs⟩ := y.hay.closeFull_eq w
  have hay : (y.onHay fun h => h.closeFull w).tidy.hay = y.hay.closeFull w := Dev.tidy_hay _
  have byte (a : Nat) : (y.onHay fun h => h.closeFull w).tidy.byte a = y.byte a :=
    (Dev.tidy_byte _ a).trans (Dev.byte_of_mem (Dev.onHay_mem _ _) a)
  rw [hay, Dev.tidy_fld, Dev.keeps_tidy_iff, progs, closed]
  refine ⟨?_, fun l apart => ?_, ?_, ?_, fun k inside => ?_, fun a outside => ?_, ?_,
    Dev.keeps_then begun (Dev.keeps_trans done (Dev.keeps_mono (Dev.onHay_keeps _ _) (by simp))) (by simp) (by simp)⟩
  · exact (congrArg (Tbl.at? · _) map).trans (Tbl.at?_put_self _ _ _)
  · exact (congrArg (Tbl.at? · _) map).trans (Tbl.at?_put_ne _ _ apart)
  · exact (congrArg (Tbl.at? · _) tags).trans (Tbl.at?_put_self _ _ _)
  · exact (congrArg WPoint.progs (Hay.point_of_points points w)).trans emptied
  · rw [byte, bytes, Dev.byte_fillRange_in _ inside]
  · rw [byte, bytes, Dev.byte_fillRange_out _ fits outside]
    exact Dev.byte_of_mem (Dev.onHay_mem _ _) a
  · rw [Dev.onHay_fld, writes, Dev.onHay_fld]

/-! ## PROGRAM_FAIL (R356, R357) -/

theorem Dev.onHay_congr {d : Dev} {f g : Hay → Hay} (agree : f d.hay = g d.hay) : d.onHay f = d.onHay g := by
  rw [Dev.onHay, Dev.onHay, agree]

/-- A write goes back to the front of the queue, and its write point has neither block nor units. -/
def Hay.requeue (h : Hay) (w : Nat) (x : HayWrite) : Hay :=
  { h.setPoint w { h.point w with block := none, progs := [] } with queue := x :: h.queue }

section
variable {s : State} {w plane : Nat} (alive : s.dev.alive = true)
include alive

theorem does_programFail_closed (closed : (s.dev.hay.point w).block = none) :
    s.does (.programFail w plane) fun d => s.dev.keeps d [] := by
  refine State.does_of_same (rfl : execProgramFail w plane s = _) alive ?_
  simp only [Dev.retireOpen, closed]

variable {b : Nat} {p : HayProg} {o : HayOwner} (opened : (s.dev.hay.point w).block = some b)
  (one : (s.dev.hay.point w).progs = [p]) (kind : p.tag.kind = 0) (owner : p.owner = some o) (idle : s.dev.hay.copyQ = [])
  (uncopied : s.dev.hay.copies = []) (empty : s.dev.hay.validIn b = [])
include opened one kind owner idle uncopied empty

/-- A block without valid units that fails while it takes one unit of host data: the write waits again, and the block is a victim. -/
theorem exec_programFail_host : exec (.programFail w plane) s = .next { s with dev :=
    ((((s.dev.onHay fun h => h.requeue w { lba := p.tag.key, cells := p.cells, owner := o }).markPlane b plane).raise E.HAY_BLOCK_RETIRED 6
      (blockTarget b) b).onHay fun h => h.setBlk b { h.blk b with state := .victim, refresh := false }).tidy } := by
  obtain ⟨t, marked⟩ :=
    (s.dev.onHay fun h => h.requeue w { lba := p.tag.key, cells := p.cells, owner := o }).markPlane_hay b plane
  refine (rfl : execProgramFail w plane s = _).trans (State.onDev_eq alive (Eq.trans ?_ (Dev.makeVictim_of_empty ?_ ?_)))
  · simp only [Dev.retireOpen, opened]
    refine congrArg (fun x : Dev => ((x.markPlane b plane).raise E.HAY_BLOCK_RETIRED 6 (blockTarget b) b).makeVictim b)
      (Dev.onHay_congr ?_)
    simp [one, kind, owner, idle, uncopied, Hay.requeue]
  · rw [Dev.raise_hay, marked]
    exact (Hay.validIn_of_maps rfl rfl b).trans empty
  · rw [Dev.raise_hay, marked]
    exact idle

theorem does_programFail_host (unmarked : (s.dev.hay.blk b).marks = []) : s.does (.programFail w plane) fun d =>
    (d.hay.blk b).state = .victim ∧ (d.hay.blk b).marks = [plane] ∧ (d.hay.point w).block = none ∧ (d.hay.point w).progs = [] ∧
    d.hay.queue = { lba := p.tag.key, cells := p.cells, owner := o } :: s.dev.hay.queue ∧ d.fld E.HAY_BLOCK_RETIRED.bit = 1 ∧
    d.fld F.HAY_ERR_CNT_RETIRED = min (s.dev.fld F.HAY_ERR_CNT_RETIRED + 1) (2 ^ F.HAY_ERR_CNT_RETIRED.width - 1) ∧
    s.dev.keeps d [.regs, .out, .comp, .hif, .hlt, .hay] := by
  have point := s.dev.hay.point_setPoint_self w { s.dev.hay.point w with block := none, progs := [] }
  have begun := s.dev.onHay_keeps fun h => h.requeue w { lba := p.tag.key, cells := p.cells, owner := o }
  refine State.does_of_next _ (exec_programFail_host alive opened one kind owner idle uncopied empty) ?_
  have marks := (s.dev.onHay fun h => h.requeue w { lba := p.tag.key, cells := p.cells, owner := o }).markPlane_keeps b plane
  have fresh : ((s.dev.onHay fun h => h.requeue w { lba := p.tag.key, cells := p.cells, owner := o }).hay.blk b).marks = [] := unmarked
  rw [Dev.markPlane_of_unmarked fresh] at marks ⊢
  have retired := Dev.keeps_then (l := [.regs, .out, .comp, .hif, .hlt, .hay]) (Dev.keeps_then (l := [.regs, .out, .comp, .hif, .hlt, .hay])
    begun marks (by simp) (by simp)) (Dev.raise_keeps _ E.HAY_BLOCK_RETIRED 6 (blockTarget b) b none) (by simp) (by simp)
  simp only [Dev.tidy_hay, Dev.tidy_fld, Dev.keeps_tidy_iff, Dev.onHay_hay, Dev.onHay_fld, Hay.blk_setBlk_self, Dev.raise_hay,
    Dev.charge_hay, Dev.count_hay]
  refine ⟨trivial, trivial, ?_, ?_, rfl, Dev.raise_bit _ _ _ _ _ _ (by decide) (by decide), ?_,
    Dev.keeps_then retired (Dev.onHay_keeps _ _) (by simp) (by simp)⟩
  · exact congrArg WPoint.block point
  · exact congrArg WPoint.progs point
  · rw [Dev.raise_fld _ _ _ _ _ _ _ (by decide) (by decide), Dev.charge_fld _ _ _ _ (by decide), Dev.fld_count_self _ (by decide),
      Dev.onHay_fld, Dev.onHay_fld]

end

/-- Settles O32, command by command: reads, writes, units programmed, and programs that fail. -/
theorem hayloftReadsWritesAndPrograms : Obligations.HayloftReadsWritesAndPrograms := by
  refine ⟨fun s lba how alive => ?_, fun s w x t alive => ?_, fun s w p alive one kind fits idle unsaved =>
    does_programComplete_host alive one kind fits idle unsaved, fun s w plane alive => ?_⟩
  · exact ⟨fun k refused => does_hayRead_refused alive how refused, fun closed => Dev.hayRefuses_of_not_serving closed false,
      fun serves beyond => Dev.hayRefuses_of_beyond serves beyond false, fun accepted unmapped =>
      does_hayRead_unmapped alive accepted how unmapped, fun p accepted mapped => ⟨does_hayRead_clean alive accepted mapped,
      does_hayRead_bad alive accepted mapped⟩⟩
  · exact ⟨does_hayWrite_empty alive, fun k u queued owner refused => does_hayWrite_refused alive queued owner refused,
      fun b queued accepted unfilled host opened room => does_hayWrite_issued alive queued accepted unfilled host opened room⟩
  · exact ⟨does_programFail_closed alive, fun b p o opened one kind owner idle uncopied empty unmarked =>
      does_programFail_host alive opened one kind owner idle uncopied empty unmarked⟩

end Sys2Proof.Machine
end

section
/-!
PROOFS of the statement on the journal, collection and media care of the hayloft (spec/12_hayloft.md R343 to R360): flushes, checkpoint
rounds, verified copies, erases, victims, folding and wear levelling (O33).
-/

namespace Sys2Proof.Machine

/-! ## JOURNAL_FLUSH and JOURNAL_FLUSH_DURABLE (R343 to R345) -/

/-- The record of a flush that takes the whole journal buffer (R344). -/
def Hay.nextFlush (h : Hay) (beat : Nat) : HFlush :=
  { seq := h.flushSeq + 1, lastSeq := h.lastSeq, beat := beat, entries := h.jrn, scan := h.scanSet.take 64 }

/-- The part once the journal buffer of a hayloft h is on its way to the flash (R343). -/
def Dev.flushBuffer (d : Dev) (h : Hay) : Dev :=
  ({ d with hay := { h with
      flushing := some (h.nextFlush d.now), jrn := []
      erasable := (h.blocks.filter fun (x : Nat × HBlk) => x.2.state == .victim && (h.validIn x.1).isEmpty).map (·.1) } } : Dev).put
    (.media 4 [h.flushSeq + 1, h.lastSeq, h.jrn.length] [])

section
variable {s : State} (alive : s.dev.alive = true)
include alive

theorem does_journalFlush_early (early : s.dev.hay.serves = false ∨ s.dev.hay.flushing.isSome = true ∨
    (s.dev.hay.force = false ∧ s.dev.now < s.dev.hay.lastFlush + s.dev.fld F.HAY_JRN_INTERVAL)) :
    s.does .journalFlush fun d => s.dev.keeps d [] := by
  refine State.does_of_same (rfl : execJournalFlush s = _) alive ?_
  refine if_pos ?_
  rcases early with closed | flushing | ⟨unforced, early⟩
  · simp [closed]
  · simp [flushing]
  · simp [unforced, early]

theorem does_journalFlush_due (serves : s.dev.hay.serves = true) (idle : s.dev.hay.flushing = none)
    (due : s.dev.hay.force = true ∨ s.dev.hay.lastFlush + s.dev.fld F.HAY_JRN_INTERVAL ≤ s.dev.now)
    (fits : s.dev.hay.jrnSince + (16 * s.dev.hay.jrn.length + 320) ≤ s.dev.hay.ringBytes) : s.does .journalFlush fun d =>
      (∃ f, d.hay.flushing = some f ∧ f.seq = s.dev.hay.flushSeq + 1 ∧ f.entries = s.dev.hay.jrn ∧ f.beat = s.dev.now ∧
        f.lastSeq = s.dev.hay.lastSeq) ∧ d.hay.jrn = [] ∧ d.hay.map = s.dev.hay.map ∧
      d.out = s.dev.out ++ [.media 4 [s.dev.hay.flushSeq + 1, s.dev.hay.lastSeq, s.dev.hay.jrn.length] []] ∧
      s.dev.keeps d [.out, .hay] := by
  obtain ⟨p, reserved⟩ := Hay.reserveNext_eq { s.dev.hay with target := s.dev.slcTarget }
  refine State.does_of_effect (rfl : execJournalFlush s = _) alive
    (e := s.dev.flushBuffer ({ s.dev.hay with target := s.dev.slcTarget } : Hay).reserveNext) ?_ ?_
  · refine (if_neg ?_).trans ?_
    · rcases due with forced | late
      · simp [serves, idle, forced]
      · simp [serves, idle, late]
    · rw [reserved]
      exact if_neg (Nat.not_lt.2 fits)
  rw [Dev.tidy_hay, Dev.tidy_out, Dev.keeps_tidy_iff, Dev.flushBuffer, reserved, Dev.put_media]
  exact ⟨⟨_, rfl, rfl, rfl, rfl, rfl⟩, rfl, rfl, rfl,
    Dev.keeps_then (s.dev.setHay_keeps _) (Dev.setOut_keeps _ _) (by simp) (by simp)⟩

theorem does_journalFlushDurable_none (none : s.dev.hay.flushing = none) : s.does .journalFlushDurable fun d => s.dev.keeps d [] := by
  refine State.does_of_same (rfl : execJournalFlushDurable s = _) alive ?_
  simp only [none]

theorem does_journalFlushDurable_some {f : HFlush} (flushing : s.dev.hay.flushing = some f) (unerased : s.dev.hay.erasable = [])
    (idle : s.dev.hay.copyQ = []) : s.does .journalFlushDurable fun d =>
      d.hay.flushing = none ∧ d.hay.flushSeq = f.seq ∧ d.hay.durable = f.scan ∧ d.hay.media.flushes.getLast? = some f ∧
      d.hay.force = false ∧ s.dev.keeps d [.hay] := by
  refine State.does_of_effect (rfl : execJournalFlushDurable s = _) alive (e := s.dev.onHay fun h => { h with
    media.flushes := (h.media.flushes.filter fun x => decide ((s.dev.hay.media.anchor.map (·.replay)).getD 0 ≤ x.seq + 1)) ++ [f]
    durable := f.scan, flushSeq := f.seq, lastFlush := f.beat, jrnSince := h.jrnSince + f.bytes, flushing := none, force := false
    erasable := [] }) ?_ ?_
  · simp only [flushing, unerased, List.filter_nil, List.foldl_nil]
    exact Dev.pumpCopies_of_idle idle
  rw [Dev.tidy_hay, Dev.keeps_tidy_iff, Dev.onHay_hay]
  exact ⟨rfl, rfl, rfl, List.getLast?_concat .., rfl, s.dev.onHay_keeps _⟩

/-! ## CHECKPOINT_ROUND (R346) -/

theorem does_checkpointRound_early (early : s.dev.hay.serves = false ∨ (s.dev.hay.jrnFull = false ∧
    s.dev.now < s.dev.hay.roundAt + 2 ^ s.dev.fld F.HAY_CKPT_ROUND_LOG2 ∧
    s.dev.hay.jrnSince ≤ s.dev.fld F.HAY_CKPT_JRN_MAX_GIB * 2 ^ 30)) : s.does .checkpointRound fun d => s.dev.keeps d [] := by
  refine State.does_of_same (rfl : execCheckpointRound s = _) alive ?_
  have undue : (s.dev.hay.serves && (decide (s.dev.hay.roundAt + 2 ^ s.dev.fld F.HAY_CKPT_ROUND_LOG2 ≤ s.dev.now) ||
      decide (s.dev.fld F.HAY_CKPT_JRN_MAX_GIB * 2 ^ 30 < s.dev.hay.jrnSince) || s.dev.hay.jrnFull)) = false := by
    rcases early with closed | ⟨room, early, short⟩
    · rw [closed, Bool.false_and]
    · rw [room, decide_eq_false (Nat.not_le.2 early), decide_eq_false (Nat.not_lt.2 short), Bool.or_false, Bool.or_false, Bool.and_false]
  simp only [undue]

theorem does_checkpointRound_clean {a : HAnchor} (serves : s.dev.hay.serves = true)
    (due : s.dev.hay.roundAt + 2 ^ s.dev.fld F.HAY_CKPT_ROUND_LOG2 ≤ s.dev.now) (anchor : s.dev.hay.media.anchor = some a)
    (clean : s.dev.hay.dirty = []) : s.does .checkpointRound fun d =>
      (∃ b, d.hay.media.anchor = some b ∧ b.seq = a.seq + 1 ∧ b.dir = s.dev.hay.dir ∧ b.units = a.units ∧
        b.replay = s.dev.hay.flushSeq + 1) ∧
      d.hay.jrnSince = 0 ∧ d.hay.roundAt = s.dev.now ∧ d.out = s.dev.out ++ [.media 5 [a.seq + 1] []] ∧ s.dev.keeps d [.out, .hay] := by
  refine State.does_of_effect (rfl : execCheckpointRound s = _) alive (e := (s.dev.onHay fun h => { h with
    media.anchor := some (h.anchorNow a.units a.ring), jrnSince := 0, jrnFull := false, roundAt := s.dev.now }).put
      (.media 5 [a.seq + 1] [])) ?_ ?_
  · have now : (s.dev.hay.serves && (decide (s.dev.hay.roundAt + 2 ^ s.dev.fld F.HAY_CKPT_ROUND_LOG2 ≤ s.dev.now) ||
        decide (s.dev.fld F.HAY_CKPT_JRN_MAX_GIB * 2 ^ 30 < s.dev.hay.jrnSince) || s.dev.hay.jrnFull)) = true := by
      rw [serves, decide_eq_true due, Bool.true_or, Bool.true_or, Bool.true_and]
    have sorted : sortBy (fun a b : Nat => decide (a < b)) [] = [] := rfl
    simp only [now, anchor, clean, sorted, List.foldl_nil]
  rw [Dev.tidy_hay, Dev.tidy_out, Dev.keeps_tidy_iff, Dev.put_hay, Dev.onHay_hay, Dev.put_media]
  refine ⟨⟨_, rfl, ?_, rfl, rfl, rfl⟩, rfl, rfl, rfl, Dev.keeps_then (s.dev.onHay_keeps _) (Dev.setOut_keeps _ _) (by simp) (by simp)⟩
  rw [Hay.anchorNow, anchor]
  rfl

end

/-! ## COPY_VERIFY (R355) -/

/-- The hayloft once its oldest copy is no longer in flight. -/
def Hay.dropCopy (h : Hay) : Hay := { h with copies := h.copies.drop 1 }

/-- The part once a verified copy of host data is mapped, where its source still is, or discarded (R355). -/
def Dev.verifyData (d : Dev) (c : HayProg) : Dev :=
  if Tbl.at? d.hay.map c.tag.key == some c.tag.src then
    ((d.onHay Hay.dropCopy).onHay fun h => { h.setMap c.tag.key c.ppa with lastSeq := max h.lastSeq c.tag.seq }).count F.HAY_GC_CNT_MOVED
  else (d.onHay Hay.dropCopy).count F.HAY_GC_CNT_DISCARD

section
variable {s : State} {c : HayProg} (alive : s.dev.alive = true) (one : s.dev.hay.copies = [c]) (kind : c.tag.kind = 1)
include alive one kind

theorem exec_copyVerify_data : exec (.copyVerify 1 none) s = .next { s with dev := (s.dev.verifyData c).tidy } := by
  have data : ¬ c.tag.kind = 2 := by rw [kind]; decide
  refine (rfl : execCopyVerify 1 none s = _).trans (State.onDev_eq alive ?_)
  simp only [one, List.take_succ_cons, List.take_zero, List.foldl_cons, List.foldl_nil]
  exact if_neg data

theorem does_copyVerify_mapped (valid : Tbl.at? s.dev.hay.map c.tag.key = some c.tag.src) : s.does (.copyVerify 1 none) fun d =>
    Tbl.at? d.hay.map c.tag.key = some c.ppa ∧ d.hay.copies = [] ∧
    (∀ l, l ≠ c.tag.key → Tbl.at? d.hay.map l = Tbl.at? s.dev.hay.map l) ∧
    d.fld F.HAY_GC_CNT_MOVED = min (s.dev.fld F.HAY_GC_CNT_MOVED + 1) (2 ^ F.HAY_GC_CNT_MOVED.width - 1) ∧ s.dev.keeps d [.regs, .hay] := by
  have run := exec_copyVerify_data alive one kind
  rw [Dev.verifyData, if_pos (beq_iff_eq.2 valid)] at run
  have copies : s.dev.hay.dropCopy.copies = [] := congrArg (List.drop 1) one
  refine State.does_of_next _ run ?_
  rw [Dev.tidy_hay, Dev.tidy_fld, Dev.keeps_tidy_iff, Dev.count_hay, Dev.onHay_hay, Hay.setMap, Hay.journal_eq]
  refine ⟨Tbl.at?_put_self _ _ _, copies, fun l apart => Tbl.at?_put_ne _ _ apart, ?_, Dev.keeps_then (Dev.keeps_trans
    (s.dev.onHay_keeps _) (Dev.onHay_keeps _ _)) (Dev.count_keeps _ _ _) (by simp) (by simp)⟩
  rw [Dev.fld_count_self _ (by decide), Dev.onHay_fld, Dev.onHay_fld]

theorem does_copyVerify_stale (stale : Tbl.at? s.dev.hay.map c.tag.key ≠ some c.tag.src) : s.does (.copyVerify 1 none) fun d =>
    d.hay.map = s.dev.hay.map ∧ d.hay.copies = [] ∧
    d.fld F.HAY_GC_CNT_DISCARD = min (s.dev.fld F.HAY_GC_CNT_DISCARD + 1) (2 ^ F.HAY_GC_CNT_DISCARD.width - 1) ∧
    s.dev.keeps d [.regs, .hay] := by
  have run := exec_copyVerify_data alive one kind
  rw [Dev.verifyData, if_neg fun same => stale (beq_iff_eq.1 same)] at run
  refine State.does_of_next _ run ?_
  rw [Dev.tidy_hay, Dev.tidy_fld, Dev.keeps_tidy_iff, Dev.count_hay, Dev.onHay_hay, Dev.fld_count_self _ (by decide), Dev.onHay_fld]
  exact ⟨rfl, congrArg (List.drop 1) one, rfl, Dev.keeps_then (s.dev.onHay_keeps _) (Dev.count_keeps _ _ _) (by simp) (by simp)⟩

end

/-! ## ERASE_COMPLETE (R356, R359) -/

/-- The addresses that are not of a block's units. -/
def offBlock (b a : Nat) : Bool := !(decide (flashKey (b * 2 ^ 19) ≤ a) && decide (a < flashKey ((b + 1) * 2 ^ 19)))

/-- The part once a block is free again, its bytes gone. -/
def Dev.eraseBlock (d : Dev) (b : Nat) : Dev :=
  let x := d.hay.blk b
  { d.onHay fun h =>
      { h.logBlk b { x with state := .free, written := 0, reads := 0, erases := x.erases + 1, refresh := false } with
        media.tags := h.media.tags.filter (fun t => ppaBlock t.1 != b), media.pages := h.media.pages.filter (fun t => ppaBlock t.1 != b)
        media.bad := h.media.bad.filter (fun p => ppaBlock p != b) } with
    mem := d.mem.filter fun c => offBlock b c.1 }

section
variable (d : Dev) (b : Nat)

theorem Dev.eraseBlock_keeps : d.keeps (d.eraseBlock b) [.mem, .hay] :=
  Dev.keeps_then (d.setHay_keeps (d.eraseBlock b).hay) (Dev.setMem_keeps _ (d.eraseBlock b).mem) (by simp) (by simp)

theorem Dev.eraseBlock_byte (a : Nat) : (d.eraseBlock b).byte a = if offBlock b a then d.byte a else 0 := Dev.byte_of_filtered rfl a

theorem Dev.eraseBlock_state : (d.eraseBlock b).hay.state = d.hay.state := by
  simp only [Dev.eraseBlock, Dev.onHay_hay, Hay.logBlk, Hay.journal_eq]
  rfl

theorem Dev.eraseBlock_blk (y : Nat) : (d.eraseBlock b).hay.blk y = if y = b then { d.hay.blk b with
    state := .free, written := 0, reads := 0, erases := (d.hay.blk b).erases + 1, refresh := false } else d.hay.blk y := by
  have blocks : (d.eraseBlock b).hay.blocks = (d.hay.setBlk b { d.hay.blk b with
      state := .free, written := 0, reads := 0, erases := (d.hay.blk b).erases + 1, refresh := false }).blocks := by
    simp only [Dev.eraseBlock, Dev.onHay_hay, Hay.logBlk, Hay.journal_eq]
  rw [Hay.blk_of_blocks blocks]
  split
  · rename_i same
    rw [same, Hay.blk_setBlk_self]
  · exact Hay.blk_setBlk_ne _ _ ‹_›

end

section
variable {s : State} {b : Nat} (alive : s.dev.alive = true)
include alive

theorem does_eraseComplete_other (other : (s.dev.hay.blk b).state ≠ .erasing) :
    s.does (.eraseComplete b none) fun d => s.dev.keeps d [] := by
  refine State.does_of_same (rfl : execEraseComplete b none s = _) alive ?_
  exact if_pos (bne_iff_ne.2 other)

theorem exec_eraseComplete_free (erasing : (s.dev.hay.blk b).state = .erasing) (unmarked : (s.dev.hay.blk b).marks = [])
    (unworn : (s.dev.hay.blk b).erases < s.dev.fld F.HAY_WEAR_PE_LIMIT) (ready : s.dev.hay.state = .ready) :
    exec (.eraseComplete b none) s = .next { s with dev := ((s.dev.eraseBlock b).count F.HAY_GC_CNT_ERASED).tidy } := by
  refine (rfl : execEraseComplete b none s = _).trans (State.onDev_eq alive ((if_neg (by simp [erasing])).trans
    ((if_pos (by rw [unmarked]; rfl)).trans ?_)))
  show Dev.freedBlock (
    if ((s.dev.eraseBlock b).count F.HAY_GC_CNT_ERASED).fld F.HAY_WEAR_PE_LIMIT < (s.dev.hay.blk b).erases + 1 then
      ((s.dev.eraseBlock b).count F.HAY_GC_CNT_ERASED).charge .ce 6 (blockTarget b)
    else (s.dev.eraseBlock b).count F.HAY_GC_CNT_ERASED) = _
  have limit : ((s.dev.eraseBlock b).count F.HAY_GC_CNT_ERASED).fld F.HAY_WEAR_PE_LIMIT = s.dev.fld F.HAY_WEAR_PE_LIMIT := by
    rw [Dev.fld_count_ne _ _ (by decide), Dev.fld_of_regs (Dev.keeps_regs (s.dev.eraseBlock_keeps b) rfl)]
  have unlimited : ¬ ((s.dev.eraseBlock b).count F.HAY_GC_CNT_ERASED).fld F.HAY_WEAR_PE_LIMIT < (s.dev.hay.blk b).erases + 1 := by
    rw [limit]; omega
  refine Eq.trans (congrArg Dev.freedBlock (if_neg unlimited)) (if_neg ?_)
  rw [Dev.count_hay, Dev.eraseBlock_state, ready]
  exact Bool.false_ne_true

theorem does_eraseComplete_free (erasing : (s.dev.hay.blk b).state = .erasing) (unmarked : (s.dev.hay.blk b).marks = [])
    (unworn : (s.dev.hay.blk b).erases < s.dev.fld F.HAY_WEAR_PE_LIMIT) (ready : s.dev.hay.state = .ready) :
    s.does (.eraseComplete b none) fun d =>
      d.hay.blk b = { s.dev.hay.blk b with
        state := .free, written := 0, reads := 0, erases := (s.dev.hay.blk b).erases + 1, refresh := false } ∧
      (∀ x, x ≠ b → d.hay.blk x = s.dev.hay.blk x) ∧
      (∀ a, flashKey (b * 2 ^ 19) ≤ a → a < flashKey ((b + 1) * 2 ^ 19) → d.byte a = 0) ∧
      (∀ a, (a < flashKey (b * 2 ^ 19) ∨ flashKey ((b + 1) * 2 ^ 19) ≤ a) → d.byte a = s.dev.byte a) ∧
      d.fld F.HAY_GC_CNT_ERASED = min (s.dev.fld F.HAY_GC_CNT_ERASED + 1) (2 ^ F.HAY_GC_CNT_ERASED.width - 1) ∧
      s.dev.keeps d [.regs, .mem, .hay] := by
  have erased := s.dev.eraseBlock_keeps b
  have counted := Dev.count_keeps (s.dev.eraseBlock b) F.HAY_GC_CNT_ERASED 1
  have byte (a : Nat) : ((s.dev.eraseBlock b).count F.HAY_GC_CNT_ERASED).tidy.byte a = if offBlock b a then s.dev.byte a else 0 := by
    rw [Dev.tidy_byte, Dev.keeps_mem counted rfl, Dev.eraseBlock_byte]
  refine State.does_of_next _ (exec_eraseComplete_free alive erasing unmarked unworn ready) ?_
  rw [Dev.tidy_hay, Dev.tidy_fld, Dev.keeps_tidy_iff, Dev.count_hay, Dev.fld_count_self _ (by decide),
    Dev.fld_of_regs (Dev.keeps_regs erased rfl)]
  refine ⟨(s.dev.eraseBlock_blk b b).trans (if_pos rfl), fun x apart => (s.dev.eraseBlock_blk b x).trans (if_neg apart),
    fun a low high => ?_, fun a outside => ?_, rfl, Dev.keeps_then erased counted (by simp) (by simp)⟩
  · rw [byte, offBlock, decide_eq_true low, decide_eq_true high]
    rfl
  · rw [byte, if_pos]
    rcases outside with below | above
    · rw [offBlock, decide_eq_false (Nat.not_le.2 below)]
      rfl
    · rw [offBlock, decide_eq_false (Nat.not_lt.2 above), Bool.and_false]
      rfl

end

/-! ## Victims chosen (R351 to R354, R360) -/

/-- A block without valid units becomes a victim, after a change of the hayloft that leaves the blocks and what is valid in them. -/
def Dev.victim (d : Dev) (f : Hay → Hay) (b : Nat) : Dev :=
  (d.onHay f).onHay fun h => h.setBlk b { h.blk b with state := .victim, refresh := false }

section
variable (d : Dev) (f : Hay → Hay) (b : Nat)

theorem Dev.victim_keeps : d.keeps (d.victim f b) [.hay] := Dev.keeps_trans (d.onHay_keeps _) (Dev.onHay_keeps _ _)

theorem Dev.victim_state : ((d.victim f b).hay.blk b).state = .victim := congrArg HBlk.state (Hay.blk_setBlk_self _ _ _)

theorem Dev.victim_blk_ne {y : Nat} (apart : y ≠ b) : (d.victim f b).hay.blk y = (f d.hay).blk y := Hay.blk_setBlk_ne _ _ apart

end

section
variable {s : State} (alive : s.dev.alive = true)
include alive

theorem does_gcStart_closed (closed : s.dev.hay.serves = false) : s.does .gcStart fun d => s.dev.keeps d [] := by
  refine State.does_of_same (rfl : execGcStart s = _) alive ?_
  exact if_pos (by rw [closed]; rfl)

theorem does_gcStart_refresh {b : Nat} {x : HBlk} (serves : s.dev.hay.serves = true)
    (first : (s.dev.hay.blocks.find? fun x => x.2.state == .closed && x.2.refresh) = some (b, x)) (empty : s.dev.hay.validIn b = [])
    (idle : s.dev.hay.copyQ = []) : s.does .gcStart fun d =>
      (d.hay.blk b).state = .victim ∧ (∀ y, y ≠ b → d.hay.blk y = s.dev.hay.blk y) ∧ s.dev.keeps d [.hay] := by
  refine State.does_of_effect (rfl : execGcStart s = _) alive (e := s.dev.victim (fun h => { h with
    collecting := decide (s.dev.hay.freeCount < s.dev.fld F.HAY_GC_LOW) ||
      (s.dev.hay.collecting && decide (s.dev.hay.freeCount < s.dev.fld F.HAY_GC_HIGH)) }) b) ?_ ?_
  · refine (if_neg (by rw [serves]; decide)).trans ?_
    simp only [Dev.onHay_hay, first]
    exact Dev.makeVictim_of_empty empty idle
  · rw [Dev.tidy_hay, Dev.keeps_tidy_iff]
    exact ⟨s.dev.victim_state _ b, fun y apart => s.dev.victim_blk_ne _ b apart, s.dev.victim_keeps _ b⟩

theorem does_fold_none (nothing : s.dev.hay.serves = false ∨ s.dev.flag F.HAY_CTRL_GROOM_EN = false ∨
    s.dev.hay.slcUsed ≤ s.dev.hay.target) : s.does .fold fun d => s.dev.keeps d [] := by
  refine State.does_of_same (rfl : execFold s = _) alive ?_
  refine if_pos ?_
  rcases nothing with closed | ungroomed | within
  · simp [closed]
  · simp [ungroomed]
  · simp [within]

theorem does_fold_victim {b n : Nat} (serves : s.dev.hay.serves = true) (grooms : s.dev.flag F.HAY_CTRL_GROOM_EN = true)
    (excess : s.dev.hay.target < s.dev.hay.slcUsed) (best : (s.dev.bestVictim fun _ x => x.slc && !x.reserved) = some (b, n))
    (empty : s.dev.hay.validIn b = []) (idle : s.dev.hay.copyQ = []) : s.does .fold fun d =>
      (d.hay.blk b).state = .victim ∧ (∀ y, y ≠ b → d.hay.blk y = s.dev.hay.blk y) ∧ s.dev.keeps d [.hay] := by
  refine State.does_of_effect (rfl : execFold s = _) alive (e := s.dev.victim id b) ?_ ?_
  · refine (if_neg (by simp [serves, grooms, excess])).trans ?_
    simp only [best]
    exact Dev.makeVictim_of_empty empty idle
  · rw [Dev.tidy_hay, Dev.keeps_tidy_iff]
    exact ⟨s.dev.victim_state _ b, fun y apart => s.dev.victim_blk_ne _ b apart, s.dev.victim_keeps _ b⟩

/-! ## Wear levelling (R360) -/

theorem does_wearLevel_none (nothing : s.dev.hay.serves = false ∨ s.dev.flag F.HAY_CTRL_WL_EN = false) :
    s.does .wearLevel fun d => s.dev.keeps d [] := by
  refine State.does_of_same (rfl : execWearLevel s = _) alive ?_
  refine if_pos ?_
  rcases nothing with closed | unlevelled
  · simp [closed]
  · simp [unlevelled]

/-- The most-worn free block is the next of the collection copies' write point, and a flush is forced. -/
def Hay.levelTo (h : Hay) (m : Nat) : Hay := { h.setPoint 30 { h.point 30 with next := some m } with force := true }

theorem does_wearLevel_moves {l m : Nat} (serves : s.dev.hay.serves = true) (levels : s.dev.flag F.HAY_CTRL_WL_EN = true)
    (two : s.dev.hay.allBlocks = [l, m]) (closed : (s.dev.hay.blk l).state = .closed)
    (unreserved : (s.dev.hay.blk l).reserved = false) (free : (s.dev.hay.blk m).state = .free)
    (takable : (s.dev.hay.blk m).reserved = false) (unclaimed : m ∉ s.dev.hay.claimed) (empty : s.dev.hay.validIn l = [])
    (idle : s.dev.hay.copyQ = [])
    (gap : (s.dev.hay.blk l).erases + s.dev.fld F.HAY_WEAR_WEAR_GAP < (s.dev.hay.blk m).erases) : s.does .wearLevel fun d =>
      (d.hay.blk l).state = .victim ∧ (d.hay.point 30).next = some m ∧ d.hay.force = true ∧ s.dev.keeps d [.hay] := by
  have live : ([l, m].filter fun b => (s.dev.hay.blk b).state != .bad) = [l, m] := by simp [closed, free]
  have full : ([l, m].filter fun b => (s.dev.hay.blk b).state == .closed && !(s.dev.hay.blk b).reserved) = [l] := by
    simp [closed, free, unreserved]
  have takes : (s.dev.hay.freeBlocks.filter fun b => !s.dev.hay.claimed.contains b) = [m] := by
    simp [Hay.freeBlocks, Hay.isFree, two, closed, free, takable, unclaimed]
  refine State.does_of_effect (rfl : execWearLevel s = _) alive (e := s.dev.victim (Hay.levelTo · m) l) ?_ ?_
  · simp only [two, live, full, takes, List.foldl_cons, List.foldl_nil]
    refine (if_neg ?_).trans (Dev.makeVictim_of_empty empty idle)
    have wide : ¬ maxOf [(s.dev.hay.blk l).erases, (s.dev.hay.blk m).erases] - min (min (maxOf [(s.dev.hay.blk l).erases,
        (s.dev.hay.blk m).erases]) (s.dev.hay.blk l).erases) (s.dev.hay.blk m).erases ≤ s.dev.fld F.HAY_WEAR_WEAR_GAP := by
      simp only [maxOf, List.foldl_cons, List.foldl_nil]
      omega
    rw [serves, levels, List.map_cons, List.map_singleton, List.foldl_cons, List.foldl_cons, List.foldl_nil, decide_eq_false wide]
    decide
  · rw [Dev.tidy_hay, Dev.keeps_tidy_iff]
    exact ⟨s.dev.victim_state _ l, congrArg WPoint.next (Hay.point_setPoint_self _ _ _), rfl, s.dev.victim_keeps _ l⟩

end

/-- Settles O33, command by command: the journal, checkpoint rounds, copies, erases, victims and wear levelling. -/
theorem theJournalCollectionAndMediaCare : Obligations.TheJournalCollectionAndMediaCare := by
  exact ⟨fun s alive => ⟨does_journalFlush_early alive, does_journalFlush_due alive⟩,
    fun s alive => ⟨does_journalFlushDurable_none alive, fun f => does_journalFlushDurable_some alive⟩,
    fun s alive => ⟨does_checkpointRound_early alive, fun a => does_checkpointRound_clean alive⟩,
    fun s c alive one kind => ⟨does_copyVerify_mapped alive one kind, does_copyVerify_stale alive one kind⟩,
    fun s b alive => ⟨does_eraseComplete_other alive, does_eraseComplete_free alive⟩,
    fun s alive => ⟨does_gcStart_closed alive, fun b x => does_gcStart_refresh alive⟩,
    fun s alive => ⟨does_fold_none alive, fun b n => does_fold_victim alive⟩,
    fun s l m alive => ⟨does_wearLevel_none alive, does_wearLevel_moves alive⟩⟩

end Sys2Proof.Machine
end
